-- ==== Sys2Proof/Word.lean ====
section
/-! DEFINITION. The word types of the module: bytes, 32-byte memory words (R8), the numbers of its
blocks (R9, R11), and the type of a sparse memory. -/

namespace Sys2Proof

abbrev Byte := BitVec 8

/-- The 32-byte memory word of R8, byte 0 in bits [7:0] (R6). -/
abbrev MWord := BitVec 256

/-- Physical core number (R9): row × 12 + column. -/
abbrev CoreId := Fin 96
/-- Partition number (R9). -/
abbrev PartId := Fin 12
/-- Fabric link number (R11). -/
abbrev LinkId := Fin 24
/-- Host port: 0 is A, 1 is B (R11). -/
abbrev PortId := Fin 2
/-- Queue of a core (R251): 0–7 engines of R133 and R214, 8 array, 9 vector. -/
abbrev QueueId := Fin 10

/-- A sparse memory of `w`-bit cells: (address, value) pairs. Its canonical form (addresses strictly
rising, no value zero) is `SMap.wf` of Machine/Sparse.lean; an unlisted address reads as zero. -/
abbrev SMap (w : Nat) := List (Nat × BitVec w)

end Sys2Proof
end

