-- ==== Sys2Proof/Syntax.lean ====
section
/-! DEFINITION. The commands of the block: one constructor of `Instr` per row of
spec/opcode_table.json, with the operand structures its fields form. -/

namespace Sys2Proof

/-- Bits [63:8] of every instruction of every queue (R256). -/
structure Header where
  slack : BitVec 6 := 63
  i1ctr : BitVec 5 := 0
  i1en  : Bool := false
  i0ctr : BitVec 5 := 0
  i0en  : Bool := false
  w1tgt : BitVec 12 := 0
  w1ctr : BitVec 5 := 0
  w1en  : Bool := false
  w0tgt : BitVec 12 := 0
  w0ctr : BitVec 5 := 0
  w0en  : Bool := false
  bar   : Bool := false
  kend  : Bool := false
  deriving DecidableEq, Repr

/-- The presentation of one instruction at the head of its queue: the core, the queue position, the
common header, and how long (in cc) its counter waits, its operand and unit waits, and the array's
gap since its last row or ramp-down step have lasted. The last three are the run's, not the manual's. -/
structure Issue where
  core    : CoreId
  qpos    : BitVec 16 := 0
  hdr     : Header := {}
  waited  : Nat := 0
  stalled : Nat := 0
  gap     : Nat := 0
  deriving DecidableEq, Repr

/-- One hold of a feeder or a drain during a pass (R82): its unit, first cycle and length. -/
structure Hold where
  unit  : Fin 16
  start : Nat
  len   : Nat
  deriving DecidableEq, Repr

/-- PASS (R67). -/
structure PassOp where
  cntAddr   : BitVec 20 := 0
  lenInd    : Bool := false
  fwdStream : BitVec 6 := 0
  ascale    : BitVec 20 := 0
  fwdFmt    : BitVec 2 := 0
  fwd       : Bool := false
  swap      : Bool := false
  accMode   : BitVec 2 := 0
  accBase   : BitVec 12 := 0
  len       : BitVec 12 := 0
  sparse    : BitVec 2 := 0
  wfmt      : BitVec 4 := 0
  afmt      : BitVec 4 := 0
  asel      : BitVec 3 := 0
  aaddr     : BitVec 20 := 0
  deriving DecidableEq, Repr

/-- The holds that met a pass (R82, R84). -/
structure PassHolds where
  feed  : List Hold := []
  drain : List Hold := []
  deriving DecidableEq, Repr, Inhabited

/-- ACCOUT (R70). -/
structure AccoutOp where
  srcInt  : Bool := false
  seed    : BitVec 32 := 0
  dscale  : BitVec 20 := 0
  clear   : Bool := false
  sat     : Bool := false
  rnd     : BitVec 3 := 0
  dfmt    : BitVec 4 := 0
  dsel    : BitVec 3 := 0
  daddr   : BitVec 20 := 0
  count   : BitVec 12 := 0
  accBase : BitVec 12 := 0
  deriving DecidableEq, Repr

/-- EWISE (R71). -/
structure EwiseOp where
  bsel    : BitVec 3 := 0
  asel    : BitVec 3 := 0
  bscale  : BitVec 20 := 0
  ascale  : BitVec 20 := 0
  count   : BitVec 12 := 0
  accBase : BitVec 12 := 0
  op      : BitVec 2 := 0
  bfmt    : BitVec 4 := 0
  afmt    : BitVec 4 := 0
  baddr   : BitVec 20 := 0
  aaddr   : BitVec 20 := 0
  deriving DecidableEq, Repr

/-- Memory operations of the vector engine (R107). -/
structure VMemOp where
  seed  : BitVec 32 := 0
  eimm  : BitVec 20 := 0
  soff  : BitVec 4 := 0
  scm   : BitVec 2 := 0
  sat   : Bool := false
  rnd   : BitVec 3 := 0
  et    : BitVec 4 := 0
  mfmt  : BitVec 4 := 0
  saddr : BitVec 20 := 0
  addr  : BitVec 20 := 0
  mz    : Bool := false
  pm    : BitVec 3 := 0
  msel  : BitVec 3 := 0
  vr    : BitVec 5 := 0
  deriving DecidableEq, Repr

/-- Register operations of the vector engine (R106). -/
structure VOp where
  imm  : BitVec 32 := 0
  srct : BitVec 4 := 0
  part : BitVec 2 := 0
  sd   : BitVec 4 := 0
  sb   : BitVec 4 := 0
  bs   : Bool := false
  pd   : BitVec 3 := 0
  fn   : BitVec 4 := 0
  sat  : Bool := false
  rnd  : BitVec 3 := 0
  et   : BitVec 4 := 0
  mz   : Bool := false
  pm   : BitVec 3 := 0
  vc   : BitVec 5 := 0
  vb   : BitVec 5 := 0
  va   : BitVec 5 := 0
  vd   : BitVec 5 := 0
  deriving DecidableEq, Repr

/-- NSMAX and NNORM (R136); where a field has two names the first is used. -/
structure NormOp where
  scale    : BitVec 32 := 0
  flagAddr : BitVec 20 := 0
  maddr    : BitVec 20 := 0
  cbase    : BitVec 16 := 0
  mmode    : BitVec 2 := 0
  nmode    : BitVec 2 := 0
  rnd      : BitVec 3 := 0
  sat      : Bool := false
  ofmt     : BitVec 4 := 0
  ifmt     : BitVec 4 := 0
  rows     : BitVec 12 := 0
  len      : BitVec 16 := 0
  osel     : BitVec 3 := 0
  isel     : BitVec 3 := 0
  oaddr    : BitVec 20 := 0
  iaddr    : BitVec 20 := 0
  deriving DecidableEq, Repr

/-- TILE (R140). -/
structure TileOp where
  cmaddr : BitVec 20 := 0
  cmpct  : Bool := false
  bmaddr : BitVec 20 := 0
  bmidx  : BitVec 14 := 0
  bmen   : Bool := false
  mdaddr : BitVec 20 := 0
  saddr  : BitVec 20 := 0
  sparse : BitVec 2 := 0
  wfmt   : BitVec 4 := 0
  wsel   : BitVec 3 := 0
  waddr  : BitVec 20 := 0
  cmbase : BitVec 16 := 0
  cmlen  : BitVec 16 := 0
  deriving DecidableEq, Repr

/-- DGATHER and DSCATTER (R145). -/
structure DispOp where
  iaddr   : BitVec 20 := 0
  nrows   : BitVec 16 := 0
  count   : BitVec 12 := 0
  roww    : BitVec 12 := 0
  ssel    : BitVec 3 := 0
  saddr   : BitVec 20 := 0
  dsel    : BitVec 3 := 0
  daddr   : BitVec 20 := 0
  cntInd  : Bool := false
  cntAddr : BitVec 20 := 0
  empty   : BitVec 2 := 0
  deriving DecidableEq, Repr

/-- DSLOT (R147). -/
structure DslotOp where
  caddr  : BitVec 20 := 0
  sladdr : BitVec 20 := 0
  fladdr : BitVec 20 := 0
  cbaddr : BitVec 20 := 0
  tokens : BitVec 12 := 0
  e      : BitVec 10 := 0
  k      : BitVec 6 := 0
  alt    : BitVec 4 := 0
  cap    : BitVec 12 := 0
  ocap   : BitVec 12 := 0
  policy : BitVec 2 := 0
  deriving DecidableEq, Repr

/-- ADOWN and AUP (R150). -/
structure AdapterOp where
  diraddr : BitVec 20 := 0
  idaddr  : BitVec 20 := 0
  xaddr   : BitVec 20 := 0
  xscale  : BitVec 20 := 0
  uaddr   : BitVec 20 := 0
  xfmt    : BitVec 4 := 0
  xsel    : BitVec 3 := 0
  klen    : BitVec 16 := 0
  cols    : BitVec 12 := 0
  rows    : BitVec 12 := 0
  accBase : BitVec 12 := 0
  bcol    : BitVec 12 := 0
  deriving DecidableEq, Repr

/-- The key-value block instructions (R154). -/
structure KvOp where
  desc    : BitVec 16 := 0
  parent  : BitVec 16 := 0
  dtaddr  : BitVec 20 := 0
  ixaddr  : BitVec 20 := 0
  ixbits  : BitVec 5 := 0
  srcaddr : BitVec 20 := 0
  tokaddr : BitVec 20 := 0
  cntaddr : BitVec 20 := 0
  roww    : BitVec 12 := 0
  n       : BitVec 7 := 0
  cntInd  : Bool := false
  delta   : BitVec 16 := 0
  ssel    : BitVec 3 := 0
  direct  : Bool := false
  deriving DecidableEq, Repr

/-- The transfer instructions (R157). -/
structure XferOp where
  chip  : BitVec 14 := 0
  part  : BitVec 4 := 0
  win   : BitVec 8 := 0
  woff  : BitVec 20 := 0
  laddr : BitVec 20 := 0
  lsel  : BitVec 3 := 0
  daddr : BitVec 20 := 0
  dsel  : BitVec 3 := 0
  len   : BitVec 20 := 0
  cls   : BitVec 2 := 0
  wmode : BitVec 2 := 0
  arrv  : BitVec 20 := 0
  acnt  : BitVec 5 := 0
  acen  : Bool := false
  ack   : Bool := false
  wsrc  : Bool := false
  deriving DecidableEq, Repr

/-- MSTREAM (R161). -/
structure StreamOp where
  chip     : BitVec 14 := 0
  part     : BitVec 4 := 0
  win      : BitVec 8 := 0
  stream   : BitVec 6 := 0
  cls      : BitVec 2 := 0
  ridxaddr : BitVec 20 := 0
  rscaddr  : BitVec 20 := 0
  rscen    : Bool := false
  passes   : BitVec 12 := 0
  deriving DecidableEq, Repr

/-- MREDUCE (R163). -/
structure ReduceOp where
  win     : BitVec 8 := 0
  accBase : BitVec 12 := 0
  rows    : BitVec 12 := 0
  sources : BitVec 8 := 0
  srclist : BitVec 20 := 0
  init    : Bool := false
  deriving DecidableEq, Repr

/-- MSEND (R165). -/
structure MsendOp where
  stream  : BitVec 6 := 0
  src     : Bool := false
  accBase : BitVec 12 := 0
  count   : BitVec 12 := 0
  maddr   : BitVec 20 := 0
  msel    : BitVec 3 := 0
  fmt     : BitVec 2 := 0
  w       : BitVec 2 := 0
  deriving DecidableEq, Repr

/-- The bank operations (R214). -/
structure BankOp where
  opnd  : BitVec 32 := 0
  cmpv  : BitVec 32 := 0
  raddr : BitVec 20 := 0
  baddr : BitVec 20 := 0
  bsel  : BitVec 3 := 0
  len   : BitVec 20 := 0
  cond  : BitVec 3 := 0
  et    : Bool := false
  aop   : BitVec 4 := 0
  elem  : BitVec 3 := 0
  asel  : BitVec 3 := 0
  addr  : BitVec 20 := 0
  deriving DecidableEq, Repr

/-- A packet: the 32-byte header of R323 and its payload words. -/
structure Packet where
  hdr     : BitVec 256 := 0
  payload : List MWord := []
  deriving DecidableEq, Repr

/-- How a flit was received: its CRC field (R281), the codewords of its span that were corrected or
uncorrectable, whether its TYPE is 3 (R283), and the body bytes behind those of its message (none: zeros).
`other` makes an IDLE flit a CONTROL flit with that CTYPE in byte 0 and `rest` behind it (R288). -/
structure Rx where
  crc        : BitVec 32 := 0
  fecCorr    : Nat := 0
  fecUncorr  : Nat := 0
  type3      : Bool := false
  rest       : List Byte := []
  other      : Option Byte := none
  deriving DecidableEq, Repr

/-- The link header of a flit (R282), less TYPE: bits 63:60 and the fields below TYPE. -/
structure FlitHdr where
  rsvd   : BitVec 4 := 0
  abort  : Bool := false
  retx   : Bool := false
  eop    : Bool := false
  sop    : Bool := false
  vc     : Fin 8 := 0
  csel   : Fin 8 := 0
  credit : BitVec 16 := 0
  ackSeq : BitVec 16 := 0
  seq    : BitVec 16 := 0
  deriving DecidableEq, Repr

/-- The body of a PARAM flit (R289). -/
structure ParamMsg where
  levelMin : BitVec 8 := 1
  levelMax : BitVec 8 := 2
  peerSeen : Bool := false
  chip     : BitVec 14 := 0x3FFF
  link     : BitVec 5 := 0
  slot     : BitVec 5 := 0
  rom      : BitVec 32 := 0
  data     : List (BitVec 16) := []
  hdrs     : List (BitVec 16) := []
  ts       : BitVec 32 := 0
  tsEcho   : BitVec 32 := 0
  tsHold   : BitVec 32 := 0
  deriving DecidableEq, Repr

/-- The carrier of an SCT frame (R421): 0 directly under EtherType 0x88B5, 1 in UDP on IPv4, 2 in UDP on IPv6;
the host's MAC and IP address and UDP port, and the UDP port it names at the module. -/
structure Carrier where
  kind  : Fin 3 := 0
  mac   : BitVec 48 := 0
  ip    : BitVec 128 := 0
  sport : BitVec 16 := 0
  dport : BitVec 16 := 0xBC5A
  deriving DecidableEq, Repr

/-- A COMMAND or ACK frame of a session (R421, R422): its carrier, the header fields a host chooses, the
signature block and the tag. -/
structure Frame where
  port    : PortId
  carrier : Carrier := {}
  cls     : BitVec 2 := 1
  session : BitVec 32
  seq     : BitVec 32
  rack    : BitVec 32 := 1
  sig     : Option (List Byte) := none
  tag     : BitVec 256
  deriving DecidableEq, Repr

/-- A SETUP frame (R425). -/
structure Setup where
  port : PortId
  carrier : Carrier := {}
  ver  : Byte := 1
  cls  : BitVec 2 := 0
  seq  : BitVec 32 := 0
  sig  : List Byte := []
  deriving DecidableEq, Repr

/-- The load header of R436. -/
structure LoadHdr where
  total   : BitVec 32
  offset  : BitVec 32
  part    : Byte
  remove  : Bool := false
  adapter : BitVec 16 := 0
  tenant  : BitVec 16 := 0
  slot    : BitVec 16 := 0
  deriving DecidableEq, Repr

/-- The SUBMIT header of R439. -/
structure SubmitHdr where
  part     : Byte
  cls      : Byte := 1
  dropLate : Bool := false
  stream   : Bool := false
  draft    : Byte := 0
  tenant   : BitVec 16 := 0
  adapter  : BitVec 16 := 0xFFFF
  maxout   : BitVec 32 := 1
  ntok     : BitVec 32 := 0
  deadline : BitVec 64 := 0
  toff     : BitVec 32 := 0
  first    : BitVec 32 := 0
  deriving DecidableEq, Repr

/-- One host key of R424 and R455. -/
structure HostKey where
  admin    : Bool := false
  operator : Bool := false
  safety   : Bool := false
  nonce    : BitVec 128 := 0
  pub      : List Byte := []
  cmdKey   : BitVec 256 := 0
  deriving DecidableEq, Repr

/-- A record of a configuration function (R454, R455). -/
inductive CfgRecord where
  | owner (root : List Byte) (epoch : BitVec 64) (rootsig xfersig : List Byte) (key : HostKey)
  | hostKey (index : Byte) (key : Option HostKey)
  | chip (chipId : BitVec 14) (ip4 : BitVec 64) (ip6 : BitVec 256)
  | part (part : Byte) (flock : BitVec 12) (owner : Byte) (grant : BitVec 12) (need : BitVec 24)
      (srvCtrl srvKv : BitVec 32)
  | safety (on : Bool)
  | regs (triples : List (BitVec 32 × BitVec 32 × BitVec 32))
  | route (first : BitVec 16) (entries : List (BitVec 16))
  | autoload (part : Byte) (image : Byte) (start : Bool)
  | image (offset : BitVec 32) (bytes : List Byte)
  deriving DecidableEq, Repr

/-- One 16-byte lock-step record (R484): STREAM, SEQ and CHECK. -/
structure LsRecord where
  stream : BitVec 16
  seq    : BitVec 32
  check  : BitVec 64
  deriving DecidableEq, Repr

/-- The commands of the block. Engine instructions come first (an `Issue` and the fields of the
instruction), then the events of cores, partitions, links and the routing unit, the register writes
that have rows of their own, the host commands, and the events of the module. -/
inductive Instr where
  -- engine instructions
  | pass (i : Issue) (o : PassOp) (h : PassHolds)
  | accout (i : Issue) (o : AccoutOp)
  | ewise (i : Issue) (o : EwiseOp)
  | ffence (i : Issue)
  | vld (i : Issue) (o : VMemOp)
  | vst (i : Issue) (o : VMemOp)
  | vxld (i : Issue) (o : VMemOp)
  | vcst (i : Issue) (o : VMemOp)
  | mld (i : Issue) (o : VMemOp)
  | mst (i : Issue) (o : VMemOp)
  | vadd (i : Issue) (o : VOp)
  | vsub (i : Issue) (o : VOp)
  | vmul (i : Issue) (o : VOp)
  | vfma (i : Issue) (o : VOp)
  | vmax (i : Issue) (o : VOp)
  | vmin (i : Issue) (o : VOp)
  | vsplat (i : Issue) (o : VOp)
  | vand (i : Issue) (o : VOp)
  | vor (i : Issue) (o : VOp)
  | vxor (i : Issue) (o : VOp)
  | vshl (i : Issue) (o : VOp)
  | vshr (i : Issue) (o : VOp)
  | vsra (i : Issue) (o : VOp)
  | vcmp (i : Issue) (o : VOp)
  | vsel (i : Issue) (o : VOp)
  | vcvt (i : Issue) (o : VOp)
  | vsfu (i : Issue) (o : VOp)
  | vred (i : Issue) (o : VOp)
  | vcomp (i : Issue) (o : VOp)
  | vexpd (i : Issue) (o : VOp)
  | mop (i : Issue) (o : VOp)
  | sop (i : Issue) (o : VOp)
  | nsmax (i : Issue) (o : NormOp)
  | nnorm (i : Issue) (o : NormOp)
  | dgather (i : Issue) (o : DispOp)
  | dscatter (i : Issue) (o : DispOp)
  | dslot (i : Issue) (o : DslotOp)
  | tile (i : Issue) (o : TileOp)
  | adown (i : Issue) (o : AdapterOp)
  | aup (i : Issue) (o : AdapterOp)
  | kappend (i : Issue) (o : KvOp)
  | kcommit (i : Issue) (o : KvOp)
  | kdiscard (i : Issue) (o : KvOp)
  | khash (i : Issue) (o : KvOp)
  | kfind (i : Issue) (o : KvOp)
  | kref (i : Issue) (o : KvOp)
  | tcopy (i : Issue) (o : XferOp)
  | tsend (i : Issue) (o : XferOp)
  | tget (i : Issue) (o : XferOp)
  | twin (i : Issue) (o : XferOp)
  | tdrain (i : Issue) (o : XferOp)
  | mstream (i : Issue) (o : StreamOp)
  | mreduce (i : Issue) (o : ReduceOp)
  | msend (i : Issue) (o : MsendOp)
  | batom (i : Issue) (o : BankOp)
  | bcount (i : Issue) (o : BankOp)
  | bcmp (i : Issue) (o : BankOp)
  -- events of a core
  | instrComplete (c : CoreId) (q : QueueId) (qpos : BitVec 16)
  | arrayRampDown (c : CoreId)
  | scrubRead (c : CoreId) (bank : Fin 64)
  | correctedWriteback (c : CoreId) (addr : BitVec 20)
  | bgReqOn (c : CoreId) (g : Fin 8)
  | bgReqRetention (c : CoreId) (g : Fin 8)
  | bgReqOff (c : CoreId) (g : Fin 8)
  | bgEnterState (c : CoreId) (g : Fin 8)
  | bgWakeDone (c : CoreId) (g : Fin 8)
  -- packets at their target and the limits on waits
  | rxWrite (p : Packet)
  | rxWriteAck (p : Packet)
  | rxReadReq (p : Packet)
  | rxReadResp (p : Packet)
  | rxMuleRows (p : Packet)
  | sheepdogWrite (p : Packet)
  | rxDrain (l : LinkId) (vc : Fin 8) (p : Packet)
  | rxNotice (p : Packet)
  | remoteTimeout (c : CoreId) (tag : BitVec 8)
  | windowHoldTimeout (p : PartId) (n : Nat)
  | mreduceTimeout (c : CoreId) (win : BitVec 8)
  | barrierTimeout (c : CoreId) (q : QueueId)
  | watchdogExpiry (c : CoreId) (q : QueueId)
  -- partitions, sleep, clocks and heat
  | stepEnd (p : PartId)
  | waitingToRunning (p : PartId)
  | partitionIdleSleep (p : PartId)
  | partitionWakeDone (p : PartId) (ns : Nat)
  | dvfsPointWrite (p : PartId) (point : BitVec 2)
  | railRampDone (field : Fin 4)
  | thermalLevelChange (sensors : Vector (BitVec 8) 16) (power : BitVec 12) (powerMs : Bool)
  | throttleCapStep
  | emergencyExit
  -- fabric links
  | txFlitSlot (l : LinkId)
  | stagingBufferEnter (l : LinkId) (vc : Fin 8)
  | rxDataFlit (l : LinkId) (r : Rx) (h : FlitHdr) (body : List Byte)
  | rxIdleFlit (l : LinkId) (r : Rx) (h : FlitHdr)
  | rxNak (l : LinkId) (r : Rx) (h : FlitHdr) (seqs : List (BitVec 16))
  | rxGoback (l : LinkId) (r : Rx) (h : FlitHdr) (seq : BitVec 16)
  | rxParam (l : LinkId) (r : Rx) (h : FlitHdr) (m : ParamMsg) (rxTime : BitVec 32)
  | rxResetFlit (l : LinkId) (r : Rx) (h : FlitHdr) (width : Byte) (reason : BitVec 4)
  | rxLeave (l : LinkId) (r : Rx) (h : FlitHdr)
  | rxDown (l : LinkId) (r : Rx) (h : FlitHdr) (reason : BitVec 4)
  | rxHold (l : LinkId) (r : Rx) (h : FlitHdr) (reason : BitVec 4)
  | replayTimeout (l : LinkId)
  | nakRepeatTimer (l : LinkId)
  | lockLost (l : LinkId)
  | lockRegained (l : LinkId)
  | lockDownTimeout (l : LinkId)
  | linkDetectPeer (l : LinkId)
  | linkTrainDone (l : LinkId) (passing : BitVec 8) (peerWidth : BitVec 2)
  | linkAlignDone (l : LinkId)
  | linkStateTimeout (l : LinkId)
  | downRetrainTimer (l : LinkId)
  | planMissingTimeout (l : LinkId)
  | gracefulDrainDone (l : LinkId)
  | groupPllLocked (g : Fin 8)
  | linkEnable (l : LinkId)
  | linkDisable (l : LinkId)
  | rtePlanWrite (l : LinkId) (value mask : BitVec 32)
  | rteTableWrite (bank : Fin 2) (pair : Fin 8192) (value mask : BitVec 32)
  -- host port registers with rows of their own
  | hostModeWrite (h : PortId) (mode : BitVec 2)
  | hostPtpEnWrite (h : PortId)
  | hostEnableWrite (h : PortId) (en : Bool)
  -- host commands
  | identify (f : Setup)
  | attest (f : Setup) (nonce : BitVec 256) (mask : BitVec 16)
  | sessionOpen (f : Setup) (key : Byte) (resume : BitVec 32) (nm nh : BitVec 256)
  | regRead (f : Frame) (addr : BitVec 32) (count : BitVec 16)
  | regWrite (f : Frame) (addr value mask : BitVec 32)
  | cfgStage (f : Frame) (r : CfgRecord)
  | cfgCommit (f : Frame) (fn : BitVec 16) (discard : Bool)
  | partStop (f : Frame) (part mode : Byte)
  | partStart (f : Frame) (part : Byte)
  | progLoad (f : Frame) (h : LoadHdr) (bytes : List Byte)
  | progPatch (f : Frame) (part : Byte) (pairs : List (BitVec 32 × BitVec 32))
  | submit (f : Frame) (h : SubmitHdr) (tokens : List (BitVec 32))
  | cancel (f : Frame) (req : BitVec 32)
  | query (f : Frame) (req : BitVec 32) (kind : Byte) (tenant : BitVec 16) (part : Byte)
  | results (f : Frame) (req voff : BitVec 32) (maxv : BitVec 16) (release : Bool)
  | budgetSet (f : Frame) (part : Byte) (sel : BitVec 4) (tenant : BitVec 16)
      (balance rate cap nshare : BitVec 32)
  | adapterLoad (f : Frame) (h : LoadHdr) (bytes : List Byte)
  | routeStage (f : Frame) (first : BitVec 16) (last : Bool) (entries : List (BitVec 16))
  | routeSwitch (f : Frame)
  | linkReset (f : Frame) (link width rate : Byte) (graceful : Bool)
  | linkLeave (f : Frame) (mask : BitVec 32)
  | hotplugPrepare (f : Frame) (mode : Bool)
  | lockstepPair (f : Frame) (mask twin : BitVec 16) (role : Byte) (enable hold : Bool)
  | recordStart (f : Frame) (mask : BitVec 16) (buffer : Byte) (wrap batch : Bool)
  | recordStop (f : Frame) (stop release : Bool) (offset : BitVec 32) (max : BitVec 16)
  -- frames and timers of the host ports
  | sctAckFrame (f : Frame)
  | arpRequest (h : PortId) (ip : BitVec 32)
  | neighbourSolicit (h : PortId) (ip : BitVec 128)
  | ptpSync (h : PortId) (domain : Byte) (twoStep : Bool) (seq : BitVec 16) (t1 t2 : BitVec 64)
  | ptpFollowUp (h : PortId) (domain : Byte) (seq : BitVec 16) (t1 : BitVec 64)
  | ptpDelayResp (h : PortId) (domain : Byte) (t3 t4 : BitVec 64)
  | ptpSyncTimeout
  | sessionIdleTimeout (h : PortId) (session : BitVec 32)
  | loadObjectTimeout
  | promptPartTimeout (session seq : BitVec 32)
  | doneHoldExpiry (p : PartId) (slot : BitVec 12)
  | dropLateDeadline (p : PartId) (slot : BitVec 12)
  | budgetRefill
  | hostC0TokenRefill (p : PartId)
  -- lock-step, journal and event log
  | helloResend (p : PartId)
  | helloTimeout (p : PartId)
  | rxLsRecords (p : PartId) (recs : List LsRecord)
  | rxLsHello (p : PartId) (digest : BitVec 32) (ncores : BitVec 4) (flock : BitVec 12)
  | rxLsHalt (p : PartId) (stream : BitVec 16) (seq : BitVec 32)
  | rxLsBatch (p : PartId) (table : List MWord)
  | lsRecordFlush (p : PartId)
  | lsTimeout (p : PartId) (stream : BitVec 16) (seq : BitVec 32)
  | journalCompaction
  | eventLogEntry
  -- start, pins and test access
  | powerApplied
  | coldStart (okRom okPuf : Bool) (failedCores : List CoreId) (failedGroups : List (Fin 8))
  | powerLoss
  | resetNAssert
  | resetNRelease
  | attnNLow
  | hotplugStopTimeout
  | hotplugReady
  | i2cRead (addr : BitVec 32)
  | bypass (tdi : Bool)
  | idcode
  | samplePreload (data : BitVec 16)
  | extest
  | chiprd (addr : BitVec 32)
  | otherFrame (h : PortId) (kind : Fin 6) (opcode : BitVec 16) (session seq : BitVec 32)
  | pcsAligned (h : PortId)
  | pcsAlignmentLost (h : PortId)
  | journalEraseDone
  | inputReturnsInRange
  deriving DecidableEq, Repr

end Sys2Proof
end

