-- ==== Sys2Proof/Decode.lean ====
section
/-! DEFINITION. The opcode table gives no row any bits: the commands of this block are instructions as
their fields, events, register writes and frames, and no word spells one. -/

namespace Sys2Proof

/-- The command that a word of the opcode table spells: none, since the table gives its rows no bits. -/
def decodeTableWord (_nbits _w : Nat) : Option Instr := none

end Sys2Proof
end

