-- ==== Sys2Proof/Machine/Sparse.lean ====
section
/-! DEFINITION. The operations on sparse memories (the state of every addressed memory of the block) and
the slicing of words into bytes and fields, little-endian (R6, R8). -/

namespace Sys2Proof.Machine

/-- The value at `a`; an unlisted address reads as zero. -/
def smGet {w : Nat} : SMap w → Nat → BitVec w
  | [], _ => 0
  | (k, v) :: t, a => if k = a then v else smGet t a

/-- Writing `v` at `a`, keeping the canonical form: writing zero removes the entry. -/
def smSet {w : Nat} : SMap w → Nat → BitVec w → SMap w
  | [], a, v => if v = 0 then [] else [(a, v)]
  | (k, u) :: t, a, v =>
    if a < k then (if v = 0 then (k, u) :: t else (a, v) :: (k, u) :: t)
    else if a = k then (if v = 0 then t else (k, v) :: t)
    else (k, u) :: smSet t a v

/-- Every address above `lo`, strictly rising, and no value zero. -/
def smWfFrom {w : Nat} : Int → SMap w → Bool
  | _, [] => true
  | lo, (k, v) :: t => decide (lo < k) && v != 0 && smWfFrom k t

/-- The canonical form. -/
def smWf {w : Nat} (m : SMap w) : Bool := smWfFrom (-1) m

/-- Writing a list of values from `a` upward. -/
def smSetMany {w : Nat} : SMap w → Nat → List (BitVec w) → SMap w
  | m, _, [] => m
  | m, a, v :: t => smSetMany (smSet m a v) (a + 1) t

/-- Keeping only the cells whose address satisfies `p`. -/
def smFilter {w : Nat} (p : Nat → Bool) (m : SMap w) : SMap w := m.filter (fun c => p c.1)

/-! Bytes and fields. -/

/-- Byte `i` of a word. -/
def wordByte (w : MWord) (i : Nat) : Byte := w.extractLsb' (8 * i) 8

/-- Bits [lo + n − 1 : lo] of a word as a number. -/
def wordField (w : MWord) (lo n : Nat) : Nat := w.toNat >>> lo % 2 ^ n

/-- Replaces bits [lo + n − 1 : lo] of a word. -/
def wordSetField (w : MWord) (lo n v : Nat) : MWord :=
  (w &&& ~~~((BitVec.ofNat 256 (2 ^ n - 1)) <<< lo)) ||| (BitVec.ofNat 256 (v % 2 ^ n) <<< lo)

/-- The 32-bit element `i` of a word. -/
def wordLane (w : MWord) (i : Nat) : BitVec 32 := w.extractLsb' (32 * i) 32

/-- A word from bytes, byte 0 first. -/
def wordOfBytes (bs : List Byte) : MWord :=
  bs.foldr (fun b acc => (acc <<< 8) ||| b.setWidth 256) 0

/-- The 32 bytes of a word. -/
def bytesOfWord (w : MWord) : List Byte := (List.range 32).map (wordByte w)

/-- A number as `n` little-endian bytes. -/
def leBytes : Nat → Nat → List Byte
  | 0, _ => []
  | n + 1, x => BitVec.ofNat 8 x :: leBytes n (x / 256)

/-- The number that little-endian bytes spell. -/
def leNat : List Byte → Nat
  | [] => 0
  | b :: t => b.toNat + 256 * leNat t

/-- `n` little-endian bytes at offset `o` of a byte string, as a number. -/
def leAt (bs : List Byte) (o n : Nat) : Nat := leNat ((bs.drop o).take n)

/-- A byte string cut into words, the last one padded with zeros. -/
def wordsOfBytes (bs : List Byte) : List MWord :=
  (List.range ((bs.length + 31) / 32)).map (fun i => wordOfBytes ((bs.drop (32 * i)).take 32))

/-- Padding with zero bytes to a multiple of `n`. -/
def padTo (n : Nat) (bs : List Byte) : List Byte :=
  bs ++ List.replicate ((n - bs.length % n) % n) 0

end Sys2Proof.Machine
end

