-- ==== Sys2Proof/Machine/CoreState.lean ====
section
/-! DEFINITION. The state of one core (spec/02 to spec/09): registers, memories, buffers and the work in
flight of its ten queues. Reset values are those of the rules; the others are named in the log
(Assumptions 1 and 2). -/

namespace Sys2Proof.Machine

/-- A ready counter (R262, R263, R271). -/
structure Counter where
  kind   : BitVec 2 := 0
  decl   : Bool := false
  base   : BitVec 12 := 0
  count  : BitVec 12 := 0
  stride : BitVec 12 := 0
  deriving DecidableEq, Repr

/-- Weights of the array: format code and sparse mode of the tile, the 16-bit register of cell (k, n)
at key 128k + n, the MX or T2 scale of block g × 128w + c at that key (of physical row k in place of row
group g in a compacted tile), the N:M index of cell (k, n),
and the logical rows and layer length of a compacted tile (R62, R63, R141, R144, R176). -/
structure Tile where
  fmt    : BitVec 4 := 0
  sparse : BitVec 2 := 0
  cells  : SMap 16 := []
  scales : SMap 8 := []
  index  : SMap 2 := []
  rows   : Option (List Nat) := none
  klen   : Nat := 0
  deriving DecidableEq, Repr

/-- What waits for a PASS with SWAP = 1: a tile or a skip mark (R142, R143). -/
inductive Shadow where
  | tile (t : Tile)
  | skip
  deriving DecidableEq, Repr

/-- What decides whether a PASS may reuse the feeders' held words (R234). -/
structure HeldKey where
  asel   : BitVec 3
  aaddr  : BitVec 20
  afmt   : BitVec 4
  ascale : BitVec 20
  sparse : BitVec 2
  deriving DecidableEq, Repr

/-- The matrix array and its registers (R62, R67, R82, R86, R89 to R97, R244, R245). Accumulator value c of
row r is at key 128r + c. `state` is 7 when stopped, 5 while ramping down, 4 when every ramp-down has been
made good, 0 when idle; what the queue runs is in the work in flight. `rampStep` counts the steps ramped down
that no ramp-up has begun to make good; a ramp-up began from step `upFrom` at time `upAt`, when a PASS or an
EWISE became ready (`ready`) in cycle `upGap` of its gap. `count` is the count word that the PASS at the head
has read (R69). `passAt` and `passHolds` are the first cycle of the last pass and the holds that met it. -/
structure ArrayUnit where
  active    : Tile := {}
  shadow    : Option Shadow := none
  acc       : SMap 32 := []
  state     : BitVec 3 := 0
  rampStep  : BitVec 5 := 16
  ready     : Bool := false
  upFrom    : BitVec 5 := 0
  upAt      : BitVec 64 := 0
  upGap     : Nat := 0
  count     : Option (BitVec 32) := none
  passAt    : BitVec 64 := 0
  passHolds : PassHolds := {}
  boundsStop : Bool := false
  slipLimit : BitVec 16 := 0x0100
  passCount : BitVec 32 := 0
  rowCount  : BitVec 32 := 0
  feedStall : BitVec 32 := 0
  drainStall : BitVec 32 := 0
  frozen    : BitVec 32 := 0
  dummy     : BitVec 32 := 0
  heldKey   : Option HeldKey := none
  held      : List (Nat × MWord) := []
  reuse     : BitVec 32 := 0
  deriving DecidableEq, Repr

/-- The vector engine's registers (R98). P0 and S0 are hard-wired in the accessors. -/
structure VectorUnit where
  v : Vector (BitVec 2048) 32 := Vector.replicate 32 0
  p : Vector (BitVec 256) 8 := Vector.replicate 8 0
  r : Vector (BitVec 32) 16 := Vector.replicate 16 0
  issue : BitVec 32 := 0
  stall : BitVec 32 := 0
  deriving DecidableEq, Repr

/-- What an issued instruction must meet before it may complete (R226): nothing more, the last write of
a PASS (which is then counted, R92), the release of a transfer tag, the answers to one, or the end of a
reduce region. -/
inductive Until where
  | now
  | pass
  | release (t : Nat)
  | tag (t : Nat)
  | region (win : Nat)
  deriving DecidableEq, Repr

/-- An instruction issued and not complete (R226, R256), with its opcode. -/
structure InFlight where
  q    : QueueId
  op   : BitVec 8 := 0
  qpos : BitVec 16
  hdr  : Header
  due  : Until := .now
  deriving DecidableEq, Repr

/-- One queue of the core: the STATE and QPOS of its status register, the record of its last rejection
(R129, R132, R167, R168), the instruction that waits at its head with its opcode (R241, R265), whether the
slip of that instruction's waits has been counted (R266), its portion of the instruction store, its loop
entries, and its sequencer (R255, R257): the word it presents next, the iteration of each loop, and the time
since which that word has waited for its counters or for its engine. -/
structure Queue where
  state     : BitVec 3 := 0
  qpos      : BitVec 16 := 0
  rejValid  : Bool := false
  rejReason : BitVec 3 := 0
  rejQpos   : BitVec 16 := 0
  waiting   : Option Issue := none
  waitOp    : BitVec 8 := 0
  slipped   : Bool := false
  store     : List MWord := []
  loops     : List MWord := []
  pos       : Nat := 0
  iters     : List Nat := []
  since     : Option (BitVec 64) := none
  stallAt   : BitVec 64 := 0
  deriving DecidableEq, Repr

/-- A transfer tag in use (R159, R344): 0 TCOPY, 1 TSEND, 2 TGET; the answers the target still owes, or a
TCOPY's words; where a TGET's or a TCOPY's words go, how many they are and where a TGET's window words begin;
and the links that any of its packets left on (R345). -/
structure Tag where
  tag   : Nat
  kind  : Nat
  ack   : Bool := false
  chip  : BitVec 14 := 0
  part  : BitVec 4 := 0
  owed  : Nat := 0
  lsel  : BitVec 3 := 0
  laddr : BitVec 20 := 0
  woff  : BitVec 20 := 0
  len   : Nat := 0
  links : List (Fin 24) := []
  deriving DecidableEq, Repr

/-- An entry of the write-combine buffer (R229): the core whose memory it belongs to, word and data. -/
structure WcEntry where
  core : CoreId
  addr : Nat
  data : MWord
  deriving DecidableEq, Repr

/-- A configured Mule stream (R161, R162). -/
structure Stream where
  chip   : BitVec 14
  part   : BitVec 4
  win    : BitVec 8
  cls    : BitVec 2
  ridx   : BitVec 20
  rsc    : BitVec 20
  rscen  : Bool
  passes : BitVec 12
  rows   : Nat := 0
  done   : Nat := 0
  deriving DecidableEq, Repr

/-- A row that waits in the holding buffer (R164): source index, row index, w, and its FP32 values. -/
structure HeldRow where
  src  : Nat
  row  : Nat
  w    : Nat
  size : Nat
  vals : List (BitVec 32)
  deriving DecidableEq, Repr

/-- An open reduce region (R163, R164): which sources have ended, which (source, row) pairs have been
added, and the rows held. -/
structure Region where
  win     : BitVec 8
  accBase : BitVec 12
  rows    : BitVec 12
  sources : List Nat
  ended   : List Nat := []
  added   : List (Nat × Nat) := []
  held    : List HeldRow := []
  deriving DecidableEq, Repr

/-- An access held at a bank group that is not ON (R212, R213): a queue's instruction, a packet, or a write
of the bits `mask` of a word by a control block with the requester code `src` of R223. -/
inductive Held where
  | instr (core : CoreId) (q : QueueId) (group : Nat)
  | packet (vc : Fin 8) (p : Packet) (group : Nat)
  | write (addr : Nat) (data mask : MWord) (src : Nat) (group : Nat)
  deriving DecidableEq, Repr

/-- What has been logged in this step and is logged once per step per core. -/
structure Marks where
  t2       : Bool := false
  eccCorr  : Bool := false
  lateWake : Bool := false
  slot     : Bool := false
  muleRow  : Bool := false
  passSlip : Bool := false
  waitSlip : Bool := false
  deriving DecidableEq, Repr

/-- The memory of a core and the registers of R218 to R223. `mem` holds the data of each word, `flips`
the pattern of wrong bits of its 36 symbols (R206); neither is set by anything the manual describes but
a write, which clears the pattern. `writeback` lists the corrected words that wait to be written back
(R207). -/
structure Memory where
  mem       : SMap 256 := []
  flips     : SMap 288 := []
  writeback : List (Nat × MWord) := []
  scrubRow  : SMap 14 := []
  scrub     : BitVec 8 := 0x10
  ilv       : Bool := false
  cmode     : BitVec 2 := 0
  bgReq     : Vector (BitVec 2) 8 := Vector.replicate 8 0
  bgState   : Vector (BitVec 2) 8 := Vector.replicate 8 0
  bgFromOff : Vector Bool 8 := Vector.replicate 8 false
  zeroed    : BitVec 8 := 0
  held      : List Held := []
  eccCorr   : BitVec 32 := 0
  logSyms   : BitVec 2 := 0
  logPos    : BitVec 6 := 0
  logScrub  : Bool := false
  logAddr   : BitVec 20 := 0
  unValid   : Bool := false
  unScrub   : Bool := false
  unSrc     : BitVec 4 := 0
  unAddr    : BitVec 20 := 0
  deriving DecidableEq, Repr

/-- One core. -/
structure Core where
  array    : ArrayUnit := {}
  vec      : VectorUnit := {}
  memory   : Memory := {}
  queues   : Vector Queue 10 := Vector.replicate 10 {}
  counters : Vector Counter 32 := Vector.replicate 32 {}
  inflight : List InFlight := []
  fixedOrder : Bool := false
  flags    : BitVec 7 := 0
  t2Bad    : BitVec 32 := 0
  cursor   : BitVec 16 := 0
  tags     : List Tag := []
  xferLate : BitVec 32 := 0
  wc       : List WcEntry := []
  hashFalse : BitVec 32 := 0
  indexFull : BitVec 32 := 0
  streams  : List (Nat × Stream) := []
  regions  : List Region := []
  muleDiscard : BitVec 32 := 0
  dispOverflow : BitVec 32 := 0
  dispResid : BitVec 32 := 0
  inflSkip : BitVec 32 := 0
  waitSlipLimit : BitVec 16 := 0x0100
  slip     : BitVec 32 := 0
  marks    : Marks := {}
  deriving DecidableEq, Repr

end Sys2Proof.Machine
end

