-- ==== Sys2Proof/Machine/Loops.lean ====
section
/-! DEFINITION. Loops of the instruction store (R257): the fields of a LOOPS entry, the word that an
instruction is in given iterations, the checks of the entries, and the position of a queue's sequencer
(R255). -/

namespace Sys2Proof.Machine

/-- One stride slot in use: the instruction it names, its field, and its loop. -/
structure Stride where
  index : Nat
  lobit : Nat
  width : Nat
  step  : Int
  deriving DecidableEq, Repr

def loopFirst (w : MWord) : Nat := wordField w 0 32
def loopBody (w : MWord) : Nat := wordField w 32 16
def loopCount (w : MWord) : Nat := wordField w 48 16

/-- The slots in use of a loop entry. -/
def loopStrides (w : MWord) : List Stride :=
  (List.range 3).filterMap (fun k =>
    let b := 64 + 64 * k
    if wordField w (b + 24) 8 = 0 then none
    else some { index := loopFirst w + wordField w b 16, lobit := wordField w (b + 16) 8,
                width := wordField w (b + 24) 8, step := (BitVec.ofNat 32 (wordField w (b + 32) 32)).toInt })

/-- A loop's body holds an instruction. -/
def loopHas (w : MWord) (i : Nat) : Bool := decide (loopFirst w ≤ i ∧ i < loopFirst w + loopBody w)

/-- The loops that hold an instruction, the outermost first where their bodies are the same. -/
def loopsOf (ls : List MWord) (i : Nat) : List MWord := ls.filter (fun w => loopHas w i)

/-- What loops add to a field of an instruction, each in its iteration. -/
def strideSum (its : List (MWord × Nat)) (i lobit width : Nat) : Int :=
  its.foldl (fun a w => (loopStrides w.1).foldl (fun a x =>
    if x.index = i ∧ x.lobit = lobit ∧ x.width = width then a + x.step * (w.2 : Int) else a) a) 0

/-- The fields that any loop strides in an instruction. -/
def stridedFields (ls : List MWord) (i : Nat) : List (Nat × Nat) :=
  (ls.flatMap (fun w => (loopStrides w).filterMap (fun x =>
    if x.index = i then some (x.lobit, x.width) else none))).dedup

/-- The word of an instruction with its loops in given iterations. -/
def loopWord (its : List (MWord × Nat)) (i : Nat) (w : MWord) : MWord :=
  (stridedFields (its.map (·.1)) i).foldl (fun w x =>
    let v : Int := wordField w x.1 x.2 + strideSum its i x.1 x.2
    wordSetField w x.1 x.2 ((v % (2 ^ x.2 : Nat)).toNat)) w

/-- The corners: each loop in its first or its last iteration. -/
def loopCorners : List MWord → List (List (MWord × Nat))
  | [] => [[]]
  | a :: t => (loopCorners t).flatMap (fun c => [(a, 0) :: c, (a, loopCount a - 1) :: c])

/-- Some strided field of an instruction, other than a wait target, leaves its range (R257). -/
def strideWraps (ls : List MWord) (i : Nat) (w : MWord) : Bool :=
  let mine := loopsOf ls i
  (stridedFields mine i).any (fun x =>
    x != (16, 12) && x != (34, 12) && (loopCorners mine).any (fun its =>
      let v : Int := wordField w x.1 x.2 + strideSum its i x.1 x.2
      decide (v < 0 ∨ (2 ^ x.2 : Nat) ≤ v)))

/-- Two entries nest or do not meet. -/
def loopsMeet (a b : MWord) : Bool :=
  let x := (loopFirst a, loopFirst a + loopBody a)
  let y := (loopFirst b, loopFirst b + loopBody b)
  loopBody a == 0 || loopBody b == 0 || decide (x.2 ≤ y.1 ∨ y.2 ≤ x.1) ||
  decide (x.1 ≤ y.1 ∧ y.2 ≤ x.2) || decide (y.1 ≤ x.1 ∧ x.2 ≤ y.2)

/-- A LOOPS section that fails the load at step 7 (R257), for a queue of `n` words. -/
def loopsBad (ls : List MWord) (n : Nat) : Bool :=
  decide (64 < ls.length) ||
  ls.any (fun w => decide (loopBody w ≠ 0 ∧ n < loopFirst w + loopBody w)) ||
  ls.any (fun w => (loopStrides w).any (fun x =>
    decide (loopFirst w + loopBody w ≤ x.index ∨ 32 < x.width ∨ 256 < x.lobit + x.width))) ||
  ls.any (fun a => ls.any (fun b => !loopsMeet a b)) ||
  (List.range n).any (fun i => decide (2 < (loopsOf ls i).length))

/-! The sequencer of a queue (R255, R257). -/

/-- The iteration that each loop entry is in, from the queue's list of them; none listed is the first. -/
def Queue.iter (k : Queue) (n : Nat) : Nat := k.iters.getD n 0

/-- The loops that hold the instruction at the queue's position, each with its iteration. -/
def Queue.around (k : Queue) : List (MWord × Nat) :=
  ((k.loops.zipIdx).filter (fun x => loopHas x.1 k.pos)).map (fun x => (x.1, k.iter x.2))

/-- The word that the queue presents next; none once it has ended. -/
def Queue.word (k : Queue) : Option MWord := (k.store[k.pos]?).map (loopWord k.around k.pos)

/-- Every instruction of the queue has left it. -/
def Queue.ended (k : Queue) : Bool := decide (k.store.length ≤ k.pos)

/-- The innermost of the loops that `ok` picks, by number, whose body ends before word `n` and which has
another iteration to run. Of two equal bodies the later entry is the inner one. -/
def Queue.again (k : Queue) (n : Nat) (ok : MWord × Nat → Bool) : Option (MWord × Nat) :=
  let ends := (k.loops.zipIdx).filter (fun x =>
    decide (loopBody x.1 ≠ 0 ∧ loopFirst x.1 + loopBody x.1 = n ∧ k.iter x.2 + 1 < loopCount x.1) && ok x)
  ends.foldl (fun (b : Option (MWord × Nat)) x => match b with
    | some y => if loopBody x.1 ≤ loopBody y.1 then some x else some y
    | none => some x) none

/-- Loop `x` lies within loop `y`. -/
def loopIn (x y : MWord × Nat) : Bool :=
  decide (x.2 ≠ y.2 ∧ loopFirst y.1 ≤ loopFirst x.1 ∧
    loopFirst x.1 + loopBody x.1 ≤ loopFirst y.1 + loopBody y.1 ∧ (loopBody x.1 < loopBody y.1 ∨ y.2 < x.2))

/-- The position after the instructions before word `n` have run: back to the first instruction of the
innermost loop that goes on, with the loops inside it in their first iteration, or on to word `n`. -/
def Queue.arrive (k : Queue) (n : Nat) (ok : MWord × Nat → Bool) : Queue :=
  match k.again n ok with
  | some y =>
    { k with pos := loopFirst y.1, iters := (k.loops.zipIdx).map (fun x =>
        if x.2 = y.2 then k.iter y.2 + 1 else if loopIn x y then 0 else k.iter x.2) }
  | none => { k with pos := n }

/-- A body of COUNT 0 that holds the next instruction is passed over; only the loops round it go on. -/
def Queue.skip (k : Queue) : Option Queue :=
  ((k.loops.zipIdx).find? (fun x => loopHas x.1 k.pos && loopCount x.1 == 0)).map
    (fun y => k.arrive (loopFirst y.1 + loopBody y.1) (fun x => loopIn y x))

/-- The instruction at position `n` of the queue has left it. -/
def Queue.pass (k : Queue) (n : Nat) : Queue := if k.pos = n then k.arrive (n + 1) (fun _ => true) else k

/-- A queue at the start of a step. -/
def Queue.rewind (k : Queue) : Queue := { k with pos := 0, iters := [] }

end Sys2Proof.Machine
end

