-- ==== Sys2Proof/Machine/Hash.lean ====
section
/-! DEFINITION. The published functions that R18 names and the chapters use: SHAKE256 (R156, R250, R449),
KMAC256 (R423, R426, R456), CRC-32C (R281, R457, R489) and the CRC-64 of R484. Assumption 4. -/

namespace Sys2Proof.Machine

/-! Keccak-f[1600] on 25 lanes of 64 bits, lane (x, y) at index x + 5y. -/

abbrev Lane := BitVec 64

def lane (a : List Lane) (i : Nat) : Lane := a.getD i 0

/-- The walk over the lanes other than (0, 0), and each one's rotation: step t turns its lane by
(t + 1)(t + 2) / 2 and goes from (x, y) to (y, 2x + 3y). -/
def rotWalk : Nat → Nat → Nat → List (Nat × Nat)
  | 0, _, _ => []
  | n + 1, x, y => (x + 5 * y, (24 - n) * (25 - n) / 2) :: rotWalk n y ((2 * x + 3 * y) % 5)

/-- How far a lane is turned. -/
def turnOf (i : Nat) : Nat := ((rotWalk 24 1 0).find? (fun p => p.1 == i)).elim 0 (·.2)

/-- The rotations by lane. -/
def turns : List Nat := (List.range 25).map turnOf

/-- One step of the register that gives the round constants: x^8 + x^6 + x^5 + x^4 + 1. -/
def rcShift (r : BitVec 8) : BitVec 8 := (r <<< 1) ^^^ (if r.getLsbD 7 then 0x71 else 0)

/-- The constant of a round from the register at its start: bit 2^j - 1 is the register's output after j
steps. -/
def rcOf (r : BitVec 8) : Nat → Lane
  | 0 => 0
  | n + 1 => (if r.getLsbD 0 then 1#64 <<< (2 ^ (6 - n) - 1) else 0) ||| rcOf (rcShift r) n

/-- The constants of the rounds that are left. -/
def roundConsts (r : BitVec 8) : Nat → List Lane
  | 0 => []
  | n + 1 => rcOf r 7 :: roundConsts (Nat.repeat rcShift 7 r) n

def keccakRound (a : List Lane) (rc : Lane) : List Lane :=
  let c := (List.range 5).map (fun x =>
    lane a x ^^^ lane a (x + 5) ^^^ lane a (x + 10) ^^^ lane a (x + 15) ^^^ lane a (x + 20))
  let d := (List.range 5).map (fun x => lane c ((x + 4) % 5) ^^^ (lane c ((x + 1) % 5)).rotateLeft 1)
  let t := (List.range 25).map (fun i =>
    (lane a i ^^^ lane d (i % 5)).rotateLeft (turns.getD i 0))
  -- lane (x, y) of the permuted state comes from (x + 3y, x)
  let b := (List.range 25).map (fun i => lane t ((i % 5 + 3 * (i / 5)) % 5 + 5 * (i % 5)))
  let e := (List.range 25).map (fun i =>
    let y := 5 * (i / 5)
    lane b i ^^^ (~~~ (lane b (y + (i + 1) % 5)) &&& lane b (y + (i + 2) % 5)))
  match e with
  | h :: t => (h ^^^ rc) :: t
  | [] => []

/-- The 24 rounds. -/
def keccakF (a : List Lane) : List Lane := (roundConsts 1 24).foldl keccakRound a

/-- XORs a block of 136 bytes into the state. -/
def keccakXor (a : List Lane) (block : List Byte) : List Lane :=
  (List.range 25).map (fun i => lane a i ^^^ BitVec.ofNat 64 (leAt block (8 * i) 8))

/-- Absorbs `n` blocks of 136 bytes. -/
def absorb : Nat → List Lane → List Byte → List Lane
  | 0, a, _ => a
  | n + 1, a, bs => absorb n (keccakF (keccakXor a (bs.take 136))) (bs.drop 136)

def laneBytes (a : List Lane) : List Byte := (a.take 17).flatMap (fun l => leBytes 8 l.toNat)

/-- Squeezes `n` blocks of 136 bytes. -/
def squeeze : Nat → List Lane → List Byte
  | 0, _ => []
  | n + 1, a => laneBytes a ++ squeeze n (keccakF a)

/-- The sponge of rate 136 with domain byte `dom`, giving `out` bytes. -/
def sponge (dom : Nat) (msg : List Byte) (out : Nat) : List Byte :=
  let gap := 136 - msg.length % 136
  let pad : List Byte :=
    if gap = 1 then [BitVec.ofNat 8 (dom + 0x80)]
    else BitVec.ofNat 8 dom :: (List.replicate (gap - 2) 0 ++ [0x80])
  let padded := msg ++ pad
  (squeeze ((out + 135) / 136) (absorb (padded.length / 136) (List.replicate 25 0) padded)).take out

/-- SHAKE256 with `out` bytes of output. -/
def shake256 (msg : List Byte) (out : Nat) : List Byte := sponge 0x1F msg out

/-- A length in big-endian bytes, preceded (left) or followed (right) by its byte count. -/
def encLen (n : Nat) : List Byte :=
  if n < 256 then [BitVec.ofNat 8 n] else (leBytes ((Nat.log2 n) / 8 + 1) n).reverse

def leftEncode (n : Nat) : List Byte := BitVec.ofNat 8 (encLen n).length :: encLen n

def rightEncode (n : Nat) : List Byte := encLen n ++ [BitVec.ofNat 8 (encLen n).length]

def encodeString (s : List Byte) : List Byte := leftEncode (8 * s.length) ++ s

def bytepad (bs : List Byte) : List Byte := padTo 136 (leftEncode 136 ++ bs)

def ascii (s : String) : List Byte := s.toList.map (fun c => BitVec.ofNat 8 c.toNat)

/-- KMAC256 with 256-bit output: key, input, customisation string. -/
def kmac256 (key msg custom : List Byte) : BitVec 256 :=
  let pre := bytepad (encodeString (ascii "KMAC") ++ encodeString custom)
  wordOfBytes (sponge 0x04 (pre ++ bytepad (encodeString key) ++ msg ++ rightEncode 256) 32)

/-! CRCs. -/

/-- One byte of the reflected CRC-32C. -/
def crc32cByte (c : BitVec 32) (b : Byte) : BitVec 32 :=
  (List.range 8).foldl (fun x _ =>
    if x.getLsbD 0 then (x >>> 1) ^^^ 0x82F63B78#32 else x >>> 1) (c ^^^ b.setWidth 32)

def crc32c (bs : List Byte) : BitVec 32 := ~~~ (bs.foldl crc32cByte 0xFFFFFFFF#32)

/-- One byte of the CRC-64 of R484: polynomial 0x42F0_E1EB_A9EA_3693, no reflection. -/
def crc64Byte (c : BitVec 64) (b : Byte) : BitVec 64 :=
  (List.range 8).foldl (fun x _ =>
    if x.getLsbD 63 then (x <<< 1) ^^^ 0x42F0E1EBA9EA3693#64 else x <<< 1)
    (c ^^^ (b.setWidth 64 <<< 56))

def crc64 (bs : List Byte) : BitVec 64 := bs.foldl crc64Byte 0

end Sys2Proof.Machine
end

