-- ==== Sys2Proof/Machine/Ecc.lean ====
section
/-! DEFINITION. The two-symbol check code of a memory word (R206, R207): GF(2^8) arithmetic, syndromes,
and decoding in both modes. A stored word is its data and the pattern of flipped bits of its 36
symbols; the code is linear, so the syndromes are those of the pattern. -/

namespace Sys2Proof.Machine

/-- Multiplication by α = 0x02 modulo 0x11D. -/
def gfX (a : Nat) : Nat := if 128 ≤ a then (2 * a) ^^^ 0x11D else 2 * a

def gfMulGo : Nat → Nat → Nat → Nat
  | 0, _, _ => 0
  | n + 1, a, b => (if b % 2 = 1 then a else 0) ^^^ gfMulGo n (gfX a) (b / 2)

def gfMul (a b : Nat) : Nat := gfMulGo 8 a b

def gfPow : Nat → Nat → Nat
  | 0, _ => 1
  | n + 1, a => gfMul (gfPow n a) a

/-- α^n. -/
def alphaPow (n : Nat) : Nat := gfPow (n % 255) 2

/-- The inverse a^254. -/
def gfInv (a : Nat) : Nat := gfPow 254 a

/-- Symbol `i` of a flip pattern: positions 0–3 check bytes, 4–35 data bytes (R206). -/
def flipSym (f : BitVec 288) (i : Nat) : Nat := (f.extractLsb' (8 * i) 8).toNat

/-- S_j = c(α^j), of the pattern (R206). -/
def syndrome (f : BitVec 288) (j : Nat) : Nat :=
  (List.range 36).foldl (fun acc i => acc ^^^ gfMul (flipSym f i) (alphaPow (i * j))) 0

/-- What the decoder of R207 concludes about a pattern. `corr` lists the (position, value) pairs it
corrects. -/
inductive EccRes where
  | clean
  | corr (syms : List (Nat × Nat))
  | uncorr
  deriving DecidableEq, Repr

/-- A single bad symbol: S_j = v·α^(pj). -/
def eccOne (s0 s1 s2 s3 : Nat) : Option (Nat × Nat) :=
  ((List.range 36).find? (fun p =>
    s0 != 0 && s1 == gfMul s0 (alphaPow p) && s2 == gfMul s0 (alphaPow (2 * p)) &&
    s3 == gfMul s0 (alphaPow (3 * p)))).map (fun p => (p, s0))

/-- Values of two bad symbols at positions `p < q`, when the first two syndromes give them. -/
def eccPair (s0 s1 s2 s3 p q : Nat) : Option (List (Nat × Nat)) :=
  let a := alphaPow p
  let b := alphaPow q
  let v := gfMul (gfMul s0 b ^^^ s1) (gfInv (a ^^^ b))
  let w := s0 ^^^ v
  if v != 0 && w != 0 && s2 == (gfMul v (alphaPow (2 * p)) ^^^ gfMul w (alphaPow (2 * q))) &&
      s3 == (gfMul v (alphaPow (3 * p)) ^^^ gfMul w (alphaPow (3 * q)))
  then some [(p, v), (q, w)] else none

def eccTwo (s0 s1 s2 s3 : Nat) : Option (List (Nat × Nat)) :=
  ((List.range 36).flatMap (fun q => (List.range q).map (fun p => (p, q)))).findSome?
    (fun pq => eccPair s0 s1 s2 s3 pq.1 pq.2)

/-- The decoder of R207: CMODE 0 corrects up to two symbols, CMODE 1 one. -/
def eccDecode (cmode : Nat) (f : BitVec 288) : EccRes :=
  let s0 := syndrome f 0
  let s1 := syndrome f 1
  let s2 := syndrome f 2
  let s3 := syndrome f 3
  if s0 = 0 ∧ s1 = 0 ∧ s2 = 0 ∧ s3 = 0 then .clean
  else match eccOne s0 s1 s2 s3 with
    | some pv => .corr [pv]
    | none =>
      if cmode = 1 then .uncorr
      else match eccTwo s0 s1 s2 s3 with
        | some ps => .corr ps
        | none => .uncorr

/-- The pattern left after correcting `syms`. -/
def flipAfter (f : BitVec 288) (syms : List (Nat × Nat)) : BitVec 288 :=
  syms.foldl (fun acc pv => acc ^^^ (BitVec.ofNat 288 pv.2 <<< (8 * pv.1))) f

/-- The data part of a pattern, as it shows in the word delivered. -/
def flipData (f : BitVec 288) : MWord := f.extractLsb' 32 256

end Sys2Proof.Machine
end

