-- ==== Sys2Proof/Config.lean ====
section
/-! DEFINITION. The free values of the model: what the manual names and does not define. Each is an
opaque constant with no body, so nothing can be proved of its value. -/

namespace Sys2Proof.Config

/-- The fixed maps of VSFU (R121): function number and FP32 input bits. The manual gives only a bound
(1 ulp for RCP and RSQRT, 2 ulp for the rest). Assumption 3. -/
opaque sfuMap : Nat → BitVec 32 → BitVec 32

/-- Falcon-1024 verification (R18, R424): public key, message, signature. Assumption 5. -/
opaque falconVerify : List Byte → List Byte → List Byte → Bool

/-- Falcon-1024 signing by the device key (R426, R462): the key's seed and the message. Assumption 5. -/
opaque falconSign : BitVec 256 → List Byte → List Byte

/-- The public key that Falcon-1024 key generation draws from DEVSEED (R451). Assumption 5. -/
opaque falconPublic : BitVec 256 → List Byte

/-- Fresh 256-bit values, by number drawn: the module nonces NM of R425. Assumption 6. -/
opaque freshNonce : Nat → BitVec 256

/-- DEVSEED, what the PUF of this die rebuilds (R451). Assumption 6. -/
opaque devSeed : BitVec 256

/-- Free values of single bits, by number drawn: what the manual leaves open between two outcomes.
Assumption 7. -/
opaque freeWord : Nat → BitVec 256

/-- The holds that meet a PASS which the array's own queue presents, by number drawn (R82). Assumption 98. -/
opaque freeHolds : Nat → PassHolds

/-- The ROM image's bytes and version (R435, R446, R462), which the manual does not give.
Assumption 8. -/
opaque romDigest : BitVec 512
opaque romVersion : BitVec 32

/-- The command key unwrapped under the session key or wrapped under STORE (R456) is computed; the two
ROM vendor keys (R450) are not given. Assumption 8. -/
opaque vendorKey : Nat → List Byte

end Sys2Proof.Config
end

