-- ==== Sys2Proof/Machine/Num.lean ====
section
/-! DEFINITION. Number formats, rounding and conversion (spec/02_number_formats.md, R33–R58): exact
dyadic values, one rounding function, decoding and encoding of every element format and of MX and T2
blocks. -/

namespace Sys2Proof.Machine

/-- A decoded value: NaN, an infinity, or (−1)^neg × m × 2^e with a signed zero. -/
inductive Num where
  | nan
  | inf (neg : Bool)
  | fin (neg : Bool) (m : Nat) (e : Int)
  deriving DecidableEq, Repr

/-- Destination classes of R48. -/
inductive FCls where
  | a | b | c
  deriving DecidableEq, Repr

/-- The floating-point layouts of R35. -/
inductive FFmt where
  | fp32 | bf16 | fp16 | e5m2 | e4m3 | e3m2 | e2m3 | e2m1
  deriving DecidableEq, Repr

def FFmt.ebits : FFmt → Nat
  | .fp32 => 8 | .bf16 => 8 | .fp16 => 5 | .e5m2 => 5 | .e4m3 => 4 | .e3m2 => 3 | .e2m3 => 2 | .e2m1 => 2

def FFmt.mbits : FFmt → Nat
  | .fp32 => 23 | .bf16 => 7 | .fp16 => 10 | .e5m2 => 2 | .e4m3 => 3 | .e3m2 => 2 | .e2m3 => 3 | .e2m1 => 1

def FFmt.bias : FFmt → Int
  | .fp32 => 127 | .bf16 => 127 | .fp16 => 15 | .e5m2 => 15 | .e4m3 => 7 | .e3m2 => 3 | .e2m3 => 1 | .e2m1 => 1

def FFmt.cls : FFmt → FCls
  | .fp32 => .a | .bf16 => .a | .fp16 => .a | .e5m2 => .a | .e4m3 => .b | .e3m2 => .c | .e2m3 => .c | .e2m1 => .c

/-- The canonical NaN of R35's last column (class C has none). -/
def FFmt.nanBits : FFmt → Nat
  | .fp32 => 0x7FC00000 | .bf16 => 0x7FC0 | .fp16 => 0x7E00 | .e5m2 => 0x7F | .e4m3 => 0x7F
  | .e3m2 => 0 | .e2m3 => 0 | .e2m1 => 0

/-- Largest finite magnitude (significand, exponent) of R35. -/
def FFmt.maxFin (f : FFmt) : Nat × Int :=
  match f.cls with
  | .a => (2 ^ (f.mbits + 1) - 1, (2 ^ f.ebits - 2 : Nat) - f.bias - f.mbits)
  | .b => (2 ^ (f.mbits + 1) - 2, (2 ^ f.ebits - 1 : Nat) - f.bias - f.mbits)
  | .c => (2 ^ (f.mbits + 1) - 1, (2 ^ f.ebits - 1 : Nat) - f.bias - f.mbits)

/-- The bits of the largest finite value. -/
def FFmt.maxBits (f : FFmt) : Nat :=
  match f.cls with
  | .a => (2 ^ f.ebits - 2) * 2 ^ f.mbits + (2 ^ f.mbits - 1)
  | .b => (2 ^ f.ebits - 1) * 2 ^ f.mbits + (2 ^ f.mbits - 2)
  | .c => 2 ^ (f.ebits + f.mbits) - 1

def FFmt.signBit (f : FFmt) (neg : Bool) : Nat := if neg then 2 ^ (f.ebits + f.mbits) else 0

/-- The format codes of R33. -/
inductive Fmt where
  | fp32 | bf16 | fp16 | e4m3 | e5m2 | mxE4m3 | mxE5m2 | mxE3m2 | mxE2m3 | mxE2m1 | mxint8
  | int8 | int4 | t2 | int32
  deriving DecidableEq, Repr

def Fmt.ofCode (c : BitVec 4) : Option Fmt :=
  match c.toNat with
  | 0 => some .fp32 | 1 => some .bf16 | 2 => some .fp16 | 3 => some .e4m3 | 4 => some .e5m2
  | 5 => some .mxE4m3 | 6 => some .mxE5m2 | 7 => some .mxE3m2 | 8 => some .mxE2m3
  | 9 => some .mxE2m1 | 10 => some .mxint8 | 11 => some .int8 | 12 => some .int4
  | 13 => some .t2 | 14 => some .int32 | _ => none

/-- Storage size in bits (R33; T2 counts 2, R107). -/
def Fmt.bits : Fmt → Nat
  | .fp32 => 32 | .bf16 => 16 | .fp16 => 16 | .e4m3 => 8 | .e5m2 => 8 | .mxE4m3 => 8 | .mxE5m2 => 8
  | .mxE3m2 => 6 | .mxE2m3 => 6 | .mxE2m1 => 4 | .mxint8 => 8 | .int8 => 8 | .int4 => 4 | .t2 => 2
  | .int32 => 32

/-- Codes 0x5–0xA: elements and scales in two regions (R40). -/
def Fmt.isMX : Fmt → Bool
  | .mxE4m3 | .mxE5m2 | .mxE3m2 | .mxE2m3 | .mxE2m1 | .mxint8 => true
  | _ => false

/-- Codes 0x5–0xA and 0xD. -/
def Fmt.isBlock (f : Fmt) : Bool := f.isMX || f == .t2

/-- A bare element: a float layout, a two's complement integer with a binary point, or a digit. -/
inductive Elem where
  | flt (f : FFmt)
  | int (w : Nat) (frac : Nat)
  | dig
  deriving DecidableEq, Repr

def Fmt.elem : Fmt → Elem
  | .fp32 => .flt .fp32 | .bf16 => .flt .bf16 | .fp16 => .flt .fp16 | .e4m3 => .flt .e4m3
  | .e5m2 => .flt .e5m2 | .mxE4m3 => .flt .e4m3 | .mxE5m2 => .flt .e5m2 | .mxE3m2 => .flt .e3m2
  | .mxE2m3 => .flt .e2m3 | .mxE2m1 => .flt .e2m1 | .mxint8 => .int 8 6 | .int8 => .int 8 0
  | .int4 => .int 4 0 | .t2 => .dig | .int32 => .int 32 0

/-- Integer formats without a block scale (R63, R71). -/
def Fmt.isInt : Fmt → Bool
  | .int8 | .int4 | .int32 => true
  | _ => false

/-! Flags of CORE_FMT_FLAGS (R55), as a 7-bit set. -/

abbrev FmtFlags := BitVec 7
def flInvalid : FmtFlags := 0x01#7
def flOverflow : FmtFlags := 0x02#7
def flUnderflow : FmtFlags := 0x04#7
def flNanToZero : FmtFlags := 0x08#7
def flT2Bad : FmtFlags := 0x10#7
def flMxNan : FmtFlags := 0x20#7
def flSmax : FmtFlags := 0x40#7

/-! Decoding. -/

def decodeFlt (f : FFmt) (x : Nat) : Num :=
  let s := (x >>> (f.ebits + f.mbits)) % 2 == 1
  let ex := (x >>> f.mbits) % 2 ^ f.ebits
  let mt := x % 2 ^ f.mbits
  if f.cls = .a ∧ ex = 2 ^ f.ebits - 1 then (if mt = 0 then .inf s else .nan)
  else if f.cls = .b ∧ ex = 2 ^ f.ebits - 1 ∧ mt = 2 ^ f.mbits - 1 then .nan
  else if ex = 0 then .fin s mt (1 - f.bias - f.mbits)
  else .fin s (2 ^ f.mbits + mt) (ex - f.bias - f.mbits)

/-- The signed value of a `w`-bit two's complement number (R38). -/
def signedVal (w x : Nat) : Int :=
  let y := x % 2 ^ w
  if y < 2 ^ (w - 1) then (y : Int) else (y : Int) - 2 ^ w

def Num.ofInt (i : Int) (e : Int) : Num := .fin (decide (i < 0)) i.natAbs e

/-- The value of a bare element; digits follow R42. -/
def Elem.decode : Elem → Nat → Num
  | .flt f, x => decodeFlt f x
  | .int w fr, x => .ofInt (signedVal w x) (-(fr : Int))
  | .dig, x => if x = 1 then .fin false 1 0 else if x = 2 then .fin true 1 0 else .fin false 0 0

/-- Multiplication by 2^k, exact (R41). -/
def Num.scale (k : Int) : Num → Num
  | .fin s m e => .fin s m (e + k)
  | x => x

/-- The value of element bits `x` in a block with scale byte `sc` (R41). -/
def decodeScaled (el : Elem) (x sc : Nat) : Num :=
  if sc = 255 then .nan else (el.decode x).scale ((sc : Int) - 127)

/-! Rounding (R45, R46). -/

/-- `m / 2^k` rounded by mode `rnd` (R45's codes), where `st` says that the exact value lies strictly
above `m` and below `m + 1`. Returns the integer and whether it is inexact. `r` is the generator's
value for SR. -/
def roundShift (rnd : Nat) (neg : Bool) (r : BitVec 32) (m k : Nat) (st : Bool) : Nat × Bool :=
  let q := m >>> k
  let rem := m % 2 ^ k
  let inexact := rem != 0 || st
  let twice := 2 * rem
  let above := decide (twice > 2 ^ k) || (decide (twice = 2 ^ k) && st)
  let tie := decide (twice = 2 ^ k) && !st
  let up : Bool := match rnd with
    | 0 => above || (tie && q % 2 == 1)
    | 1 => false
    | 2 => neg && inexact
    | 3 => !neg && inexact
    | 4 => above || tie
    | _ => false
  if rnd = 5 then
    let t := if 16 ≤ k then m >>> (k - 16) else m <<< (16 - k)
    ((t + r.toNat / 65536) >>> 16, inexact)
  else (q + (if up then 1 else 0), inexact)

/-- `a × 2^ea > b × 2^eb`. -/
def magGt (a : Nat) (ea : Int) (b : Nat) (eb : Int) : Bool :=
  if eb ≤ ea then decide (a <<< (ea - eb).toNat > b) else decide (a > b <<< (eb - ea).toNat)

/-- What a float destination holds when the rounded value lies beyond its range (R48). -/
def FFmt.overflowBits (f : FFmt) (rnd : Nat) (sat neg : Bool) : Nat :=
  let mx := f.signBit neg + f.maxBits
  let inf := f.signBit neg + (2 ^ f.ebits - 1) * 2 ^ f.mbits
  match f.cls with
  | .c => mx
  | .b => if sat then mx else f.nanBits
  | .a =>
    if sat then mx else
    match rnd with
    | 1 => mx
    | 2 => if neg then inf else mx
    | 3 => if neg then mx else inf
    | _ => inf

/-- A finite magnitude `m × 2^e` (plus a sticky part) rounded once into a float layout. -/
def encodeFin (f : FFmt) (rnd : Nat) (sat : Bool) (r : BitVec 32) (neg : Bool) (m : Nat) (e : Int)
    (st : Bool) : Nat × FmtFlags :=
  if m = 0 ∧ st = false then (f.signBit neg, 0#7) else
  let qmin : Int := 1 - f.bias - f.mbits
  let q : Int := max ((Nat.log2 m : Int) + e - f.mbits) qmin
  let k := q - e
  let (n, inexact) :=
    if 0 ≤ k then roundShift rnd neg r m k.toNat st else (m <<< (-k).toNat, st)
  let (mm, me) := f.maxFin
  if magGt n q mm me then (f.overflowBits rnd sat neg, flOverflow)
  else
    let under := if inexact ∧ n < 2 ^ f.mbits then flUnderflow else 0#7
    if n < 2 ^ f.mbits then (f.signBit neg + n, under)
    else
      let (n', q') := if n = 2 ^ (f.mbits + 1) then (2 ^ f.mbits, q + 1) else (n, q)
      let ex := (q' + f.mbits + f.bias).toNat
      (f.signBit neg + ex * 2 ^ f.mbits + (n' - 2 ^ f.mbits), under)

/-- Conversion into a float layout (R48). -/
def encodeFlt (f : FFmt) (rnd : Nat) (sat : Bool) (r : BitVec 32) : Num → Nat × FmtFlags
  | .nan => if f.cls = .c then (0, flNanToZero) else (f.nanBits, 0#7)
  | .inf neg =>
    match f.cls with
    | .a => (f.signBit neg + (2 ^ f.ebits - 1) * 2 ^ f.mbits, 0#7)
    | .b => (if sat then f.signBit neg + f.maxBits else f.nanBits, flOverflow)
    | .c => (f.signBit neg + f.maxBits, flOverflow)
  | .fin neg m e => encodeFin f rnd sat r neg m e false

/-- A `w`-bit two's complement encoding of an integer. -/
def intBits (w : Nat) (i : Int) : Nat := (i % (2 : Int) ^ w).toNat

/-- Clamps to the range of a `w`-bit integer and says whether it clamped (R48, R53, R115). -/
def clampInt (w : Nat) (i : Int) : Int × Bool :=
  if i < -(2 : Int) ^ (w - 1) then (-(2 : Int) ^ (w - 1), true)
  else if (2 : Int) ^ (w - 1) - 1 < i then ((2 : Int) ^ (w - 1) - 1, true)
  else (i, false)

/-- The integer nearest a finite value by RND. -/
def roundToInt (rnd : Nat) (r : BitVec 32) (neg : Bool) (m : Nat) (e : Int) : Int :=
  let n := if 0 ≤ e then m <<< e.toNat else (roundShift rnd neg r m (-e).toNat false).1
  if neg then -(n : Int) else n

/-- Conversion into an integer of width `w` with `frac` fraction bits (R38, R48). -/
def encodeInt (w frac : Nat) (rnd : Nat) (r : BitVec 32) : Num → Nat × FmtFlags
  | .nan => (0, flNanToZero)
  | .inf neg => (intBits w (if neg then -(2 : Int) ^ (w - 1) else (2 : Int) ^ (w - 1) - 1), flOverflow)
  | .fin neg m e =>
    let (i, c) := clampInt w (roundToInt rnd r neg m (e + frac))
    (intBits w i, if c then flOverflow else 0#7)

/-- Conversion into a T2 digit (R48; R51 clamps without OVERFLOW under a chosen scale). -/
def encodeDig (rnd : Nat) (r : BitVec 32) (chosen : Bool) : Num → Nat × FmtFlags
  | .nan => (0, flNanToZero)
  | .inf neg => (if neg then 2 else 1, flOverflow)
  | .fin neg m e =>
    let i := roundToInt rnd r neg m e
    let fl := if 1 < i.natAbs ∧ chosen = false then flOverflow else 0#7
    (if i = 0 then 0 else if i < 0 then 2 else 1, fl)

/-- Conversion of one bare element (R47–R49). -/
def Elem.encode (el : Elem) (rnd : Nat) (sat : Bool) (r : BitVec 32) (x : Num) : Nat × FmtFlags :=
  match el with
  | .flt f => encodeFlt f rnd sat r x
  | .int w fr => encodeInt w fr rnd r x
  | .dig => encodeDig rnd r false x

/-! Stochastic rounding generators (R46). -/

def xs32 (x : BitVec 32) : BitVec 32 :=
  let a := x ^^^ (x <<< 13)
  let b := a ^^^ (a >>> 17)
  b ^^^ (b <<< 5)

def xsIter : Nat → BitVec 32 → BitVec 32
  | 0, x => x
  | n + 1, x => xsIter n (xs32 x)

/-- The value of generator `g` at its `n`-th element, counting from 0. -/
def genAt (seed : BitVec 32) (g n : Nat) : BitVec 32 :=
  xsIter (n + 1) (seed ^^^ (BitVec.ofNat 32 g * 0x9E3779B9#32))

/-- The generator value of element `e` of width `w` in a vector instruction. -/
def laneRand (seed : BitVec 32) (w e : Nat) : BitVec 32 := genAt seed (e * w / 32) (e % (32 / w))

/-! Exact arithmetic (R53, R113). -/

/-- A signed dyadic number. -/
structure Dy where
  m : Int
  e : Int
  deriving DecidableEq, Repr

def Dy.zero : Dy := ⟨0, 0⟩

def Dy.add (a b : Dy) : Dy :=
  if a.e ≤ b.e then ⟨a.m + b.m * 2 ^ (b.e - a.e).toNat, a.e⟩
  else ⟨a.m * 2 ^ (a.e - b.e).toNat + b.m, b.e⟩

def Dy.mul (a b : Dy) : Dy := ⟨a.m * b.m, a.e + b.e⟩

def Num.signed (neg : Bool) (m : Nat) : Int := if neg then -(m : Int) else m

def Dy.toNum (d : Dy) : Num := .ofInt d.m d.e

def Num.isNaN : Num → Bool
  | .nan => true
  | _ => false

def Num.isInf : Num → Bool
  | .inf _ => true
  | _ => false

def Num.isZero : Num → Bool
  | .fin _ 0 _ => true
  | _ => false

def Num.neg : Num → Num
  | .nan => .nan
  | .inf s => .inf (!s)
  | .fin s m e => .fin (!s) m e

/-- Exact product; ∞ × 0 is NaN and sets INVALID. -/
def Num.mul (a b : Num) : Num × FmtFlags :=
  match a, b with
  | .nan, _ => (.nan, 0#7)
  | _, .nan => (.nan, 0#7)
  | .inf s, .inf t => (.inf (s != t), 0#7)
  | .inf s, .fin t m _ => if m = 0 then (.nan, flInvalid) else (.inf (s != t), 0#7)
  | .fin s m _, .inf t => if m = 0 then (.nan, flInvalid) else (.inf (s != t), 0#7)
  | .fin s m e, .fin t n f => (.fin (s != t) (m * n) (e + f), 0#7)

/-- Exact sum; ∞ − ∞ is NaN and sets INVALID; zero results follow R113 (`rdn`: the mode is RDN). -/
def Num.add (rdn : Bool) (a b : Num) : Num × FmtFlags :=
  match a, b with
  | .nan, _ => (.nan, 0#7)
  | _, .nan => (.nan, 0#7)
  | .inf s, .inf t => if s = t then (.inf s, 0#7) else (.nan, flInvalid)
  | .inf s, .fin _ _ _ => (.inf s, 0#7)
  | .fin _ _ _, .inf t => (.inf t, 0#7)
  | .fin s m e, .fin t n f =>
    let d := Dy.add ⟨Num.signed s m, e⟩ ⟨Num.signed t n, f⟩
    if d.m = 0 then (.fin (if s = t then s else rdn) 0 0, 0#7) else (d.toNum, 0#7)

/-- Orders two non-NaN values, −0 below +0 when `zeros` (R114); `cmp < 0`, `= 0`, `> 0`. -/
def Num.cmp (zeros : Bool) (a b : Num) : Int :=
  let key : Num → Int := fun x => match x with
    | .nan => 0 | .inf s => if s then -1 else 1 | .fin _ _ _ => 0
  match a, b with
  | .fin s m e, .fin t n f =>
    let d := (Dy.add ⟨Num.signed s m, e⟩ ⟨-(Num.signed t n), f⟩).m
    if d = 0 ∧ zeros = true ∧ m = 0 then (if s then 1 else 0) * -1 + (if t then 1 else 0) else d
  | x, y => key x - key y

/-! FP32 operations rounded once by RNE (R53), on bit patterns. -/

abbrev F32 := BitVec 32

def f32 (x : F32) : Num := decodeFlt .fp32 x.toNat

/-- One rounding into FP32 by RNE. -/
def toF32 (x : Num) : F32 × FmtFlags :=
  let (b, fl) := encodeFlt .fp32 0 false 0 x
  (BitVec.ofNat 32 b, fl)

def f32NaN : F32 := 0x7FC00000#32

def f32Add (a b : F32) : F32 × FmtFlags :=
  let (x, f1) := (f32 a).add false (f32 b)
  let (y, f2) := toF32 x
  (y, f1 ||| f2)

def f32Sub (a b : F32) : F32 × FmtFlags :=
  let (x, f1) := (f32 a).add false (f32 b).neg
  let (y, f2) := toF32 x
  (y, f1 ||| f2)

def f32Mul (a b : F32) : F32 × FmtFlags :=
  let (x, f1) := (f32 a).mul (f32 b)
  let (y, f2) := toF32 x
  (y, f1 ||| f2)

/-- The quotient of two finite magnitudes to more than 64 bits, with a sticky rest. -/
def divMag (ma : Nat) (ea : Int) (mb : Nat) (eb : Int) : Nat × Int × Bool :=
  let sh := 66 + Nat.log2 mb
  let n := ma <<< sh
  (n / mb, ea - eb - sh, n % mb != 0)

/-- Quotient into a float layout, rounded once. 0/0 and ∞/∞ set INVALID (R53). -/
def divTo (f : FFmt) (rnd : Nat) (sat : Bool) (r : BitVec 32) (a b : Num) : Nat × FmtFlags :=
  match a, b with
  | .nan, _ => encodeFlt f rnd sat r .nan
  | _, .nan => encodeFlt f rnd sat r .nan
  | .inf _, .inf _ => ((encodeFlt f rnd sat r .nan).1, (encodeFlt f rnd sat r .nan).2 ||| flInvalid)
  | .inf s, .fin t _ _ => encodeFlt f rnd sat r (.inf (s != t))
  | .fin s _ _, .inf t => encodeFlt f rnd sat r (.fin (s != t) 0 0)
  | .fin s ma ea, .fin t mb eb =>
    if mb = 0 then
      (if ma = 0 then ((encodeFlt f rnd sat r .nan).1, (encodeFlt f rnd sat r .nan).2 ||| flInvalid)
       else encodeFlt f rnd sat r (.inf (s != t)))
    else
      let (m, e, st) := divMag ma ea mb eb
      encodeFin f rnd sat r (s != t) m e st

def f32Div (a b : F32) : F32 × FmtFlags :=
  let (x, fl) := divTo .fp32 0 false 0 (f32 a) (f32 b)
  (BitVec.ofNat 32 x, fl)

/-- Integer square root, bit by bit from bit `i`. -/
def isqrtGo (n : Nat) : Nat → Nat → Nat
  | 0, r => r
  | i + 1, r => isqrtGo n i (if (r + 2 ^ i) * (r + 2 ^ i) ≤ n then r + 2 ^ i else r)

def isqrt (n : Nat) : Nat := isqrtGo n (Nat.log2 n / 2 + 1) 0

/-- √(m × 2^e) to at least 64 bits, with a sticky rest. -/
def sqrtMag (m : Nat) (e : Int) : Nat × Int × Bool :=
  let par : Nat := if e % 2 = 0 then 0 else 1
  let n := m <<< (128 + par)
  let r := isqrt n
  (r, (e - 128 - par) / 2, r * r != n)

/-! Special functions (R121, R122). -/

/-- Correctly rounded SQRT of a finite positive value. -/
def sqrtF32 (m : Nat) (e : Int) : F32 × FmtFlags :=
  let (r, f, st) := sqrtMag m e
  let (b, fl) := encodeFin .fp32 0 false 0 false r f st
  (BitVec.ofNat 32 b, fl)

/-- `1/(m × 2^e)` to more than 128 bits, and whether it is exact. -/
def rcpMag (m : Nat) (e : Int) : Dy × Bool :=
  let sh := 160 + Nat.log2 m
  (⟨((1 <<< sh) / m : Nat), -e - sh⟩, (1 <<< sh) % m == 0)

/-- `1/√(m × 2^e)` to more than 128 bits, and whether it is exact. -/
def rsqrtMag (m : Nat) (e : Int) : Dy × Bool :=
  let par : Nat := if e % 2 = 0 then 0 else 1
  let s := 160 + Nat.log2 m
  let r := isqrt ((1 <<< (2 * s + par)) / m)
  (⟨r, -((e + par) / 2) - s⟩, r * r * m == 1 <<< (2 * s + par))

/-! The transcendental functions, in fixed point with 256 bits after the point: far finer than the ulp in which
R121 states its bounds. -/

def fxOne : Nat := 1 <<< 256

/-- Σ rⁿ/n! from term `t` of index `n − 1` on. -/
def expTerms (r : Nat) : Nat → Nat → Nat → Nat → Nat
  | 0, _, _, acc => acc
  | k + 1, n, t, acc => expTerms r k (n + 1) (t * r / fxOne / n) (acc + t * r / fxOne / n)

/-- e^r for 0 ≤ r < 1. -/
def expFrac (r : Nat) : Nat := expTerms r 70 1 fxOne fxOne

/-- Σ z^(2k+1)/(2k+1) from power `pw` of odd exponent `n` on, z² being `zz`. -/
def atanhTerms (zz : Nat) : Nat → Nat → Nat → Nat → Nat
  | 0, _, _, acc => acc
  | k + 1, n, pw, acc => atanhTerms zz k (n + 2) (pw * zz / fxOne) (acc + pw / n)

/-- ln(x) for 1 ≤ x ≤ 2, as 2·artanh((x − 1)/(x + 1)). -/
def lnFrac (x : Nat) : Nat :=
  let z := (x - fxOne) * fxOne / (x + fxOne)
  2 * atanhTerms (z * z / fxOne) 90 1 z 0

def fxLn2 : Nat := lnFrac (2 * fxOne)

/-- A finite value in fixed point, kept within ±2^11: beyond that every function here has left FP32's range. -/
def toFix (neg : Bool) (m : Nat) (e : Int) : Int :=
  let x : Nat := if 12 ≤ (Nat.log2 m : Int) + e then 2048 * fxOne
    else if 0 ≤ e + 256 then m <<< (e + 256).toNat else m >>> (-(e + 256)).toNat
  if neg then -(x : Int) else x

/-- e^x. -/
def expFix (x : Int) : Dy :=
  let k := x / (fxLn2 : Int)
  ⟨expFrac (x - k * fxLn2).toNat, k - 256⟩

/-- 2^x. -/
def exp2Fix (x : Int) : Dy :=
  let k := x / (fxOne : Int)
  ⟨expFrac ((x - k * fxOne).toNat * fxLn2 / fxOne), k - 256⟩

/-- The quotient of two positive values to more than 128 bits. -/
def Dy.quot (a b : Dy) : Dy :=
  let sh := 512 + Nat.log2 b.m.natAbs
  ⟨a.m * 2 ^ sh / b.m, a.e - b.e - sh⟩

def Dy.neg (a : Dy) : Dy := ⟨-a.m, a.e⟩
def Dy.one : Dy := ⟨1, 0⟩

/-- The value of function `fn` of R121 at a finite x ≠ 0 in its domain, and whether it is exact. -/
def sfuExact (fn : Nat) (neg : Bool) (m : Nat) (e : Int) : Dy × Bool :=
  let x := toFix neg m e
  let ip := (Nat.log2 m : Int) + e
  let mant := (m <<< 256) >>> Nat.log2 m
  match fn with
  | 0 => let r := rcpMag m e; (if neg then r.1.neg else r.1, r.2)
  | 2 => rsqrtMag m e
  | 3 => (expFix x, false)
  | 4 => (exp2Fix x, x % (fxOne : Int) == 0)
  | 5 => (⟨ip * fxLn2 + lnFrac mant, -256⟩, m == 1 <<< Nat.log2 m && ip == 0)
  | 6 => (⟨ip * fxOne + ((lnFrac mant) * fxOne / fxLn2 : Nat), -256⟩, m == 1 <<< Nat.log2 m)
  | 7 =>
    let t := expFix (2 * min (64 * (fxOne : Int)) x.natAbs)
    let r := Dy.quot (t.add Dy.one.neg) (t.add Dy.one)
    (if neg then r.neg else r, false)
  | _ =>
    let t := expFix x.natAbs
    (Dy.quot (if neg then Dy.one else t) (t.add Dy.one), false)

/-- The quantum exponent that the FP32 value `m × 2^e` rounds at. -/
def f32Quantum (m : Nat) (e : Int) : Int := max ((Nat.log2 m : Int) + e - 23) (-149)

/-- The value of FP32 bits other than a NaN, an infinity as 2^128. -/
def f32Dy (y : F32) : Dy :=
  match f32 y with
  | .fin s m e => ⟨Num.signed s m, e⟩
  | .inf s => ⟨Num.signed s 1, 128⟩
  | .nan => Dy.zero

/-- Within `n` ulp of FP32 of a value, and of its sign (R121). -/
def ulpsOf (n : Nat) (v : Dy) (y : F32) : Bool :=
  let d := (f32Dy y).add v.neg
  !(f32 y).isNaN && (y.getLsbD 31 == decide (v.m < 0)) &&
    !magGt d.m.natAbs d.e n (min 104 (f32Quantum v.m.natAbs v.e))

/-- A value rounded to FP32 by RNE. -/
def Dy.toF32 (v : Dy) (exact : Bool) : F32 :=
  BitVec.ofNat 32 (encodeFin .fp32 0 false 0 (decide (v.m < 0)) v.m.natAbs v.e (!exact)).1

/-- OVERFLOW of an infinite result, UNDERFLOW of a zero or an inexact subnormal for a value that is not zero
(R122). -/
def rangeFlags (v : Dy) (exact : Bool) (y : F32) : FmtFlags :=
  match f32 y with
  | .inf _ => flOverflow
  | .fin _ m _ =>
    let d := (f32Dy y).add v.neg
    if m < 2 ^ 23 ∧ v.m ≠ 0 ∧ ¬(exact = true ∧ d.m = 0) then flUnderflow else 0#7
  | .nan => 0#7

/-- A function of R121 that is not correctly rounded: the fixed map, which the manual does not give, where it
lies within the stated ulps of the value, else the value rounded (Assumption 3). An infinite result is +infinity
(R122). -/
def sfuFree (fn n : Nat) (x : F32) (v : Dy) (exact : Bool) : F32 × FmtFlags :=
  let y := if ulpsOf n v (Config.sfuMap fn x) then Config.sfuMap fn x else v.toF32 exact
  (if (f32 y).isInf then 0x7F800000#32 else y, rangeFlags v exact y)

def f32Inf (neg : Bool) : F32 := if neg then 0xFF800000#32 else 0x7F800000#32
def f32Zero (neg : Bool) : F32 := if neg then 0x80000000#32 else 0#32

/-- The special function `fn` of R121 on FP32 bits, by the table of R122. -/
def sfu (fn : Nat) (x : F32) : F32 × FmtFlags :=
  match f32 x with
  | .nan => (f32NaN, 0#7)
  | .inf neg =>
    match fn, neg with
    | 0, s => (f32Zero s, 0#7)
    | 1, false => (f32Inf false, 0#7)
    | 2, false => (f32Zero false, 0#7)
    | 3, false => (f32Inf false, 0#7)
    | 4, false => (f32Inf false, 0#7)
    | 3, true => (f32Zero false, 0#7)
    | 4, true => (f32Zero false, 0#7)
    | 5, false => (f32Inf false, 0#7)
    | 6, false => (f32Inf false, 0#7)
    | 7, s => (if s then 0xBF800000#32 else 0x3F800000#32, 0#7)
    | 8, false => (0x3F800000#32, 0#7)
    | 8, true => (f32Zero false, 0#7)
    | _, _ => (f32NaN, flInvalid)
  | .fin neg 0 _ =>
    match fn with
    | 0 => (f32Inf neg, 0#7)
    | 1 => (f32Zero neg, 0#7)
    | 2 => (f32Inf neg, 0#7)
    | 3 => (0x3F800000#32, 0#7)
    | 4 => (0x3F800000#32, 0#7)
    | 5 => (f32Inf true, 0#7)
    | 6 => (f32Inf true, 0#7)
    | 7 => (f32Zero neg, 0#7)
    | _ => (0x3F000000#32, 0#7)
  | .fin neg m e =>
    match fn, neg with
    | 1, false => sqrtF32 m e
    | 1, true | 2, true | 5, true | 6, true => (f32NaN, flInvalid)
    | _, _ => sfuFree fn (if fn = 0 ∨ fn = 2 then 1 else 2) x (sfuExact fn neg m e).1 (sfuExact fn neg m e).2

/-! Blocks (R40–R44, R50–R52). -/

/-- emax of R50's table. -/
def Fmt.emax : Fmt → Int
  | .mxE4m3 => 8 | .mxE5m2 => 15 | .mxE3m2 => 4 | .mxE2m3 => 2 | .mxE2m1 => 2 | _ => 0

/-- floor(log2 of the largest magnitude) of a block, none when every element is zero. -/
def blockLog (xs : List Num) : Option Int :=
  xs.foldl (fun acc x => match x with
    | .fin _ m e => if m = 0 then acc else
        let l := (Nat.log2 m : Int) + e
        match acc with
        | none => some l
        | some k => some (max k l)
    | _ => acc) none

def Num.isSpecial : Num → Bool
  | .fin _ _ _ => false
  | _ => true

/-- One element of a block under scale exponent `x` (R50, R51): finite elements saturate. -/
def encodeBlockElem (f : Fmt) (rnd : Nat) (sat chosen : Bool) (x : Int) (r : BitVec 32) (v : Num) :
    Nat × FmtFlags :=
  match v, f.elem with
  | .fin _ _ _, .dig => encodeDig rnd r chosen (v.scale (-x))
  | .fin _ _ _, el => el.encode rnd true r (v.scale (-x))
  | _, el => el.encode rnd sat r v

/-- How a block's scale is found (R110, R50). -/
inductive ScaleMode where
  | chosen
  | bare
  | supplied (s : Nat)
  deriving DecidableEq, Repr

/-- The sign-keeping zero of an element format (R50). -/
def zeroElem (f : Fmt) (v : Num) : Nat :=
  match f.elem, v with
  | .flt g, .fin neg _ _ => g.signBit neg
  | _, _ => 0

/-- A block of values encoded into a block format: the scale byte and the elements (R50, R51). -/
def encodeBlock (f : Fmt) (sm : ScaleMode) (rnd : Nat) (sat : Bool) (vs : List (Num × BitVec 32)) :
    Nat × List Nat × FmtFlags :=
  let enc (chosen : Bool) (x : Int) : List Nat × FmtFlags :=
    vs.foldr (fun v acc =>
      let (b, fl) := encodeBlockElem f rnd sat chosen x v.2 v.1
      (b :: acc.1, fl ||| acc.2)) ([], 0#7)
  match sm with
  | .bare => let (es, fl) := enc false 0; (127, es, fl)
  | .supplied s =>
    if s = 255 then
      (255, vs.map (fun _ => 0),
        flMxNan ||| (if vs.any (fun v => v.1.isNaN) then flNanToZero else 0#7))
    else let (es, fl) := enc false ((s : Int) - 127); (s, es, fl)
  | .chosen =>
    if vs.any (fun v => v.1.isSpecial) then (255, vs.map (fun _ => 0), flMxNan ||| flNanToZero)
    else match blockLog (vs.map (·.1)) with
      | none => (0, vs.map (fun v => zeroElem f v.1), 0#7)
      | some l =>
        let x := max (-127) (min 127 (l - f.emax))
        let (es, fl) := enc true x
        ((x + 127).toNat, es, fl)

/-- Digit `k` of a T2 byte; a code of 243 or more decodes as zeros (R42, R43). -/
def t2Digit (byte k : Nat) : Nat := if 243 ≤ byte then 0 else byte / 3 ^ k % 3

/-- The byte of five digits (R42). -/
def t2Byte (ds : List Nat) : Nat := (ds.take 5).foldr (fun d acc => d + 3 * acc) 0

/-- The seven bytes of a T2 block of 32 digits, padding digits 0 (R44). -/
def t2BlockBytes (ds : List Nat) : List Nat :=
  (List.range 7).map (fun j => t2Byte ((ds.drop (5 * j)).take 5))

end Sys2Proof.Machine
end

