-- ==== Sys2Proof/Machine/HostState.lean ====
section
/-! DEFINITION. The state of one host port (spec/14): registers, sessions, nonces, the commands that wait
and the last frame sent. -/

namespace Sys2Proof.Machine

/-- A kept response of a session (R428): SEQ, OPCODE, STATUS and body. -/
structure Resp where
  seq    : BitVec 32
  op     : BitVec 16
  status : Nat
  body   : List Byte := []
  deriving DecidableEq, Repr

/-- A session (R424 to R429): `seen` are the SEQs at or above RACK that were accepted, `running` those
whose commands have not completed, `via` the carriers of their frames (R421). -/
structure Session where
  id      : BitVec 32
  key     : Byte
  skey    : BitVec 256
  rack    : BitVec 32 := 1
  seen    : List (BitVec 32) := []
  running : List (BitVec 32) := []
  via     : List (BitVec 32 × Carrier) := []
  kept    : List Resp := []
  deriving DecidableEq, Repr

/-- An SCT frame that the port sent (R422), and the carrier and the host's addresses it goes to (R421). -/
structure Sent where
  carrier : Carrier := {}
  ftype   : Byte
  retx    : Bool := false
  session : BitVec 32 := 0
  op      : BitVec 16
  seq     : BitVec 32
  status  : Nat := 0
  rack    : BitVec 32 := 0
  body    : List Byte := []
  sig     : Option (List Byte) := none
  tag     : BitVec 256 := 0
  deriving DecidableEq, Repr

/-- A frame that the port sent: SCT, or the answer to an ARP request or a neighbour solicitation (R418),
with the port's MAC address and the address asked for. -/
inductive OutFrame where
  | sct (f : Sent)
  | arp (mac : BitVec 48) (ip : BitVec 32)
  | neighbour (mac : BitVec 48) (ip : BitVec 128)
  deriving DecidableEq, Repr

/-- A host port and its registers (R441 to R445). `nonces` are the NM given and when, `waitC0` the class-0
commands that wait for a token (R376), each with the time at which its frame came, `ingress` the frames that wait for
acceptance and their bytes (R430), `orphans` the commands still in execution of sessions that have ended (R429), by
session and SEQ, `sent` the last frame sent. -/
structure HostPort where
  mode      : BitVec 2 := 0
  enable    : Bool := true
  ptpEn     : Bool := false
  encap     : BitVec 3 := 7
  domain    : BitVec 8 := 0
  udpPort   : BitVec 16 := 0xBC5A
  linkUp    : Bool := false
  modeActive : BitVec 2 := 3
  ptpLock   : Bool := false
  dropTag   : BitVec 8 := 0
  dropSeq   : BitVec 8 := 0
  dropFormat : BitVec 8 := 0
  dropBuffer : BitVec 8 := 0
  idle      : BitVec 16 := 0x003C
  ptpOffset : BitVec 32 := 0
  sessions  : List Session := []
  nonces    : List (BitVec 256 × BitVec 64) := []
  waitC0    : List (Instr × BitVec 64) := []
  ingress   : List (Nat × Instr) := []
  orphans   : List (BitVec 32 × BitVec 32) := []
  ptpT1T2   : Option (BitVec 64 × BitVec 64) := none
  ptpSync   : Option (BitVec 16 × BitVec 64) := none
  sent      : Option OutFrame := none
  deriving DecidableEq, Repr

end Sys2Proof.Machine
end

