-- ==== Sys2Proof/Machine/Sct.lean ====
section
/-! DEFINITION. The bytes of SCT frames and their tags (R421 to R423). -/

namespace Sys2Proof.Machine

/-- The 32-byte header (R422). -/
def sctHeader (ftype flags op status : Nat) (session seq rack : BitVec 32) (len : Nat) : List Byte :=
  leBytes 1 1 ++ leBytes 1 ftype ++ leBytes 1 flags ++ leBytes 1 0 ++ leBytes 2 op ++ leBytes 2 status ++
  leBytes 4 session.toNat ++ leBytes 4 seq.toNat ++ leBytes 4 rack.toNat ++ leBytes 4 len ++ leBytes 8 0

/-- A signature block (R423): a 2-byte length, the signature, zeros to a multiple of 4. -/
def sigBlock (sig : List Byte) : List Byte := padTo 4 (leBytes 2 sig.length ++ sig)

def optBlock (sig : Option (List Byte)) : List Byte :=
  match sig with
  | some g => sigBlock g
  | none => []

/-- The tag of a frame of a session (R423). -/
def sctTag (key : BitVec 256) (bytes : List Byte) : BitVec 256 := kmac256 (bytesOfWord key) bytes (ascii "SCT")

/-- The bytes under the tag of a frame that a host sends. -/
def frameBytes (f : Frame) (ftype op : Nat) (body : List Byte) : List Byte :=
  sctHeader ftype (f.cls.toNat + 4 * f.sig.isSome.toNat) op 0 f.session f.seq f.rack body.length ++ body ++
    optBlock f.sig

/-- The frame's tag is that of its bytes under a key. -/
def frameGood (f : Frame) (key : BitVec 256) (ftype op : Nat) (body : List Byte) : Bool :=
  f.tag == sctTag key (frameBytes f ftype op body)

/-- The bytes under the tag of a frame that the module sends. -/
def Sent.bytes (f : Sent) : List Byte :=
  sctHeader f.ftype.toNat (8 * f.retx.toNat + 4 * f.sig.isSome.toNat) f.op.toNat f.status f.session f.seq f.rack
    f.body.length ++ f.body ++ optBlock f.sig

/-- The lowest SEQ that a session has not yet accepted, `n` steps from `q` at most. -/
def nextUnseen (seen : List (BitVec 32)) : Nat → BitVec 32 → BitVec 32
  | 0, q => q
  | n + 1, q => if seen.contains q then nextUnseen seen n (q + 1) else q

def Session.accepted (x : Session) : BitVec 32 := nextUnseen x.seen x.seen.length x.rack

/-- A frame of a session with its RACK and tag. -/
def Session.frame (x : Session) (f : Sent) : Sent :=
  let g := { f with session := x.id, rack := x.accepted }
  { g with tag := sctTag x.skey g.bytes }

/-- The carrier of the frame that a command of the session came in (R421). -/
def Session.carrier (x : Session) (seq : BitVec 32) : Carrier :=
  ((x.via.find? (fun v => v.1 == seq)).map (·.2)).getD {}

/-- The RESPONSE of a kept response (R428). -/
def Resp.sent (r : Resp) (retx : Bool) : Sent :=
  { ftype := 1, retx := retx, op := r.op, seq := r.seq, status := r.status, body := r.body }

end Sys2Proof.Machine
end

