-- ==== Sys2Proof/Machine/FabricState.lean ====
section
/-! DEFINITION. The state of the 24 links (spec/10) and of the routing unit (spec/11). -/

namespace Sys2Proof.Machine

/-- A CONTROL message waiting to be sent (R284, R288). -/
inductive Control where
  | nak (seqs : List (BitVec 16))
  | goback (seq : BitVec 16)
  | param (m : ParamMsg)
  | reset (width : Byte) (reason : BitVec 4)
  | leave
  | down (reason : BitVec 4)
  | hold (reason : BitVec 4)
  deriving DecidableEq, Repr

/-- A DATA flit in the replay memory (R296, R301). -/
structure TxFlit where
  seq  : BitVec 16
  vc   : Fin 8
  sop  : Bool
  eop  : Bool
  abort : Bool
  body : List Byte
  resent : Nat := 0
  deriving DecidableEq, Repr

/-- A DATA flit held out of order at the receiver (R297, R298). -/
structure RxFlit where
  seq  : BitVec 16
  vc   : Fin 8
  sop  : Bool
  eop  : Bool
  abort : Bool
  body : List Byte
  deriving DecidableEq, Repr

/-- A flit that left the transmitter: TYPE 0 IDLE, 1 DATA, 2 CONTROL, its header and message, and the 256
bytes of R281 in `wire`. -/
structure OutFlit where
  kind  : Nat
  hdr   : FlitHdr := {}
  ctl   : Option Control := none
  body  : List Byte := []
  wire  : List Byte := []
  deriving DecidableEq, Repr

/-- A hole at the receiver, and when it was found or last named (R298). -/
structure Hole where
  seq : BitVec 16
  at_ : BitVec 64
  deriving DecidableEq, Repr

/-- A packet in transit on the chip or waiting for its link: its VC, the link chosen for it (none when it is
for this chip), the link it came from (none when a partition of this chip sent it), and of a packet being
forwarded the bodies of the flits that have arrived; `fin` is 0 while flits are due, 1 after EOP. `path` is
the spine segments that a class-0 packet has still to commit (R374). -/
structure Moving where
  vc   : Fin 8
  pkt  : Packet
  link : Option LinkId := none
  inp  : Option LinkId := none
  fl   : List (List Byte) := []
  fin  : Nat := 1
  path : List (Fin 8) := []
  deriving DecidableEq, Repr

/-- The packet in a staging buffer (R331): its header, the flits of it that have not left, whether its SOP
has left, and `fin`: 0 flits are due, 1 EOP is there, 2 to be ended with ABORT. -/
structure Staged where
  vc    : Fin 8
  pkt   : Packet
  inp   : Option LinkId
  fl    : List (List Byte)
  begun : Bool := false
  fin   : Nat
  deriving DecidableEq, Repr

/-- A packet whose flits are arriving (R285, R286): where it goes is 0 to this chip, 1 onto link `out`, 2
nowhere. `n` is its length in flits, `got` how many arrived. -/
structure RxOpen where
  vc   : Fin 8
  hdr  : BitVec 256
  goes : Nat
  out  : Option LinkId := none
  n    : Nat
  got  : Nat := 0
  body : List Byte := []
  deriving DecidableEq, Repr

/-- A link and its registers (R287 to R322). Pools are numbered class × 2 + (0 header, 1 data). -/
structure Link where
  enable    : Bool := false
  autoRetrain : Bool := true
  targetWidth : BitVec 2 := 0
  groupRate : BitVec 2 := 0
  trainRetry : BitVec 4 := 8
  port      : BitVec 5 := 0
  portNow   : BitVec 5 := 0
  state     : BitVec 4 := 0
  width     : BitVec 2 := 3
  rate      : BitVec 2 := 0
  lanes     : BitVec 8 := 0
  reason    : BitVec 4 := 0
  level     : BitVec 2 := 0
  rtt       : BitVec 10 := 0
  downTime  : BitVec 17 := 0x003E8
  replayLimit : BitVec 8 := 0x08
  replayTimeout : BitVec 12 := 0x07D
  nakRepeat : BitVec 12 := 0x010
  rxData    : Vector (BitVec 8) 4 := #v[0x20, 0x80, 0x40, 0x1F]
  rxHdr     : Vector (BitVec 8) 4 := #v[0x20, 0x80, 0x40, 0x20]
  replayCount : BitVec 32 := 0
  fecCorr   : BitVec 32 := 0
  fecUncorr : BitVec 8 := 0
  badFlit   : BitVec 8 := 0
  dup       : BitVec 8 := 0
  goback    : BitVec 8 := 0
  downs     : BitVec 16 := 0
  lockLoss  : BitVec 16 := 0
  -- working state: training
  fails     : Nat := 0
  locked    : Bool := true
  asked     : BitVec 2 := 0
  afterReset : Bool := false
  -- group (kept in its first link): whether its PLL has locked, and the rate of a reset under R309
  rated     : Bool := false
  rateTo    : Option (BitVec 2) := none
  peer      : Option ParamMsg := none
  lastTs    : Option (BitVec 32 × BitVec 32) := none
  paramSent : Bool := false
  ctlTime   : Option (BitVec 64) := none
  -- resets: the width asked for, and whether the link drains or leaves
  resetTo   : Option Byte := none
  resetWhy  : BitVec 4 := 0
  graceful  : Bool := false
  leaving   : Bool := false
  -- transmitter
  nextSeq   : BitVec 16 := 0
  replay    : List TxFlit := []
  resend    : List (BitVec 16) := []
  controls  : List Control := []
  sinceIdle : Nat := 0
  csel      : Fin 8 := 0
  limit     : Vector (BitVec 16) 8 := Vector.replicate 8 0
  used      : Vector (BitVec 16) 8 := Vector.replicate 8 0
  staging   : List Staged := []
  c0Tokens  : Nat := 0
  c0Logged  : Option (BitVec 64) := none
  before    : List OutFlit := []
  sent      : Option OutFlit := none
  vtime     : Nat := 0
  -- receiver
  expect    : BitVec 16 := 0
  highest   : BitVec 16 := 0
  reorder   : List RxFlit := []
  holes     : List Hole := []
  goSeq     : Option (BitVec 16) := none
  goTime    : BitVec 64 := 0
  advert    : Vector (BitVec 16) 8 := Vector.replicate 8 0
  rxLimit   : Vector (BitVec 16) 8 := Vector.replicate 8 0
  rxPkt     : List RxOpen := []
  served    : List (Nat × Nat) := []
  deriving DecidableEq, Repr

/-- A plan entry and the record of discovery (R341, R355, R356). `swapped` names the link whose entry is taken
in place of this one after row 4 of R341. -/
structure Plan where
  valid     : Bool := false
  remap     : Bool := false
  tier      : BitVec 2 := 0
  checkSlot : Bool := false
  peerSlot  : BitVec 5 := 0
  peerLink  : BitVec 5 := 0
  peerChip  : BitVec 14 := 0
  minRom    : BitVec 32 := 0
  outcome   : BitVec 4 := 0
  swapped   : Option LinkId := none
  dLevel    : BitVec 2 := 0
  dSlot     : BitVec 5 := 0
  dLink     : BitVec 5 := 0
  dChip     : BitVec 14 := 0
  dRom      : BitVec 32 := 0
  deriving DecidableEq, Repr

/-- A logical port's settings (R353). -/
structure PortCfg where
  c3Weight : BitVec 8 := 0x04
  c0Burst  : BitVec 10 := 0x044
  c0Share  : BitVec 7 := 0x08
  deriving DecidableEq, Repr

/-- A spine segment's class-0 bucket (R374): the bytes taken and not yet regained, and when EV_C0_CAP was
last logged for it. -/
structure SpineSeg where
  used   : Nat := 0
  logged : Option (BitVec 64) := none
  deriving DecidableEq, Repr

/-- The routing unit (R326 to R329, R350 to R357, R374, R389). -/
structure Router where
  missing  : BitVec 8 := 0x32
  phaseRes : Bool := false
  rounds   : BitVec 3 := 5
  stamp    : Bool := false
  round    : BitVec 3 := 0
  bank     : Vector (BitVec 2) 2 := #v[2, 0]
  table    : Vector (SMap 8) 2 := #v[[], []]
  marks    : List (Nat × Nat × Nat) := []
  noroute  : BitVec 8 := 0
  epoch    : BitVec 8 := 0
  badhdr   : BitVec 8 := 0
  notice   : BitVec 8 := 0
  spineBurst : BitVec 8 := 0x10
  spineShare : BitVec 7 := 0x08
  spine    : Vector SpineSeg 8 := Vector.replicate 8 {}
  ports    : Vector PortCfg 24 := Vector.replicate 24 {}
  shares   : Vector (BitVec 8) 300 := Vector.replicate 300 0x10
  plans    : Vector Plan 24 := Vector.replicate 24 {}
  noticed  : List (Nat × BitVec 64) := []
  epochLog : Option (BitVec 64) := none
  deriving DecidableEq, Repr

end Sys2Proof.Machine
end

