-- ==== Sys2Proof/Machine/PartState.lean ====
section
/-! DEFINITION. The state of one partition (spec/08, 09, 12, 13, 16): its program, windows, request slots,
budgets, serving state, sleep and clock state, and lock-step pairing. -/

namespace Sys2Proof.Machine

/-- An open receive window (R158, R160). -/
structure Window where
  wmode : BitVec 2
  core  : CoreId
  laddr : BitVec 20
  len   : BitVec 20
  arrv  : BitVec 20
  acnt  : BitVec 5
  acen  : Bool
  wsrc  : Bool
  count : Nat := 0
  deriving DecidableEq, Repr

/-- A field that relocation records of KIND 1, 2 or 7 touched: target section, item, bits, value before
relocation, and whether it lies in a DATA word (R261). -/
structure Patch where
  rank   : Nat
  queue  : Option Nat
  index  : Nat
  lobit  : Nat
  width  : Nat
  before : Nat
  recs   : List (Nat × Nat × Int × Int)
  deriving DecidableEq, Repr

/-- A loaded program (R250, R252, R259, R275, R276). `regions` gives (rank, REGION, address, words). -/
structure Program where
  fixedOrder : Bool
  ilv        : Bool
  ncores     : BitVec 4
  level      : BitVec 8
  c0use      : Bool
  flock      : BitVec 12
  planIndex  : Nat
  chipmap    : List (BitVec 32)
  digest     : List Byte
  regions    : List (Nat × Nat × Nat × Nat)
  patches    : List Patch
  deriving DecidableEq, Repr

/-- The state of a request slot (R392). -/
inductive ReqState where
  | queued | active | cancelling | done
  deriving DecidableEq, Repr

/-- A request in a slot (R390 to R399): `vis` are the output values released to hosts, `ret` the ranges
that RESULTS has returned, `pend` a completion that waits for a lock-step match (R485), which discards the
output where `pendDrop` says so; `rx` is the time at which the frame of the SUBMIT came (R383). -/
structure Request where
  state    : ReqState := .queued
  gen      : BitVec 16 := 0
  session  : BitVec 32 := 0
  tenant   : BitVec 16 := 0
  cls      : BitVec 2 := 1
  deadline : BitVec 64 := 0
  dropLate : Bool := false
  stream   : Bool := false
  slot     : BitVec 16 := 0xFFFF
  draft    : Nat := 0
  outLeft  : Nat := 0
  prompt   : List (BitVec 32) := []
  ntok     : Nat := 0
  pos      : Nat := 0
  blocks   : Nat := 0
  out      : List (BitVec 32) := []
  vis      : Nat := 0
  ret      : List (Nat × Nat) := []
  pend     : Option Nat := none
  pendDrop : Bool := false
  status   : Nat := 0
  order    : Nat := 0
  arrive   : BitVec 64 := 0
  rx       : BitVec 64 := 0
  doneTime : BitVec 64 := 0
  deriving DecidableEq, Repr

/-- A budget entry (R400); `frac` is the thousandth parts carried. -/
structure Budget where
  balance : BitVec 32 := 0
  rate    : BitVec 32 := 0xFFFFFFFF
  cap     : BitVec 32 := 0x7FFFFFFF
  nshare  : BitVec 32 := 0
  frac    : Nat := 0
  deriving DecidableEq, Repr

/-- An entry of the running step's batch table (R397). -/
structure Entry where
  slot   : Nat
  gen    : BitVec 16
  tenant : BitVec 16
  row0   : Nat
  rows   : Nat
  draft  : Nat := 0
  prompt : Bool := false
  last   : Bool := false
  ended  : Bool := false
  new    : Bool := false
  adapter : BitVec 16 := 0xFFFF
  pos    : Nat := 0
  dropLate : Bool := false
  outLeft : Nat := 0
  alloc0 : Nat := 0
  nalloc : Nat := 0
  deriving DecidableEq, Repr

/-- An entry of the request ring (R406, R407): its request, whose slot may be released before a step serves
the entry, the tenant and rows that are charged for it, and whether a stopped step made it VOID. -/
structure RingEntry where
  slot   : Nat
  gen    : BitVec 16
  tenant : BitVec 16 := 0
  rows   : Nat := 0
  void   : Bool := false
  deriving DecidableEq, Repr

/-- One own or twin record, or a HELLO, of a lock-step pairing (R483, R484). -/
structure Hello where
  digest : BitVec 32
  ncores : BitVec 4
  flock  : BitVec 12
  deriving DecidableEq, Repr

/-- Lock-step pairing (R482 to R487, R504 to R506). -/
structure Lockstep where
  paired   : Bool := false
  follower : Bool := false
  hold     : Bool := false
  twinChip : BitVec 14 := 0
  twinPart : BitVec 4 := 0
  helloSent : Bool := false
  helloSeen : Bool := false
  own      : List LsRecord := []
  twin     : List LsRecord := []
  unsent   : List LsRecord := []
  seqs     : List (Nat × Nat) := []
  await    : Bool := false
  batches  : List (List MWord) := []
  helloBad : Bool := false
  reason   : BitVec 2 := 0
  stream   : BitVec 16 := 0
  step     : BitVec 16 := 0
  seq      : BitVec 16 := 0
  cycle    : BitVec 32 := 0
  deriving DecidableEq, Repr

/-- A partition. -/
structure Part where
  state    : BitVec 3 := 0
  cause    : BitVec 4 := 0
  steps    : BitVec 16 := 0
  owner    : BitVec 8 := 0
  flock    : BitVec 12 := 0xFFF
  senders  : BitVec 12 := 0
  portNeed : BitVec 24 := 0
  barTimeout : BitVec 20 := 0x02710
  barExpired : BitVec 32 := 0
  wdTimeout  : BitVec 20 := 0x01388
  wdExpired  : BitVec 32 := 0
  rmtTimeout : BitVec 20 := 0x000C8
  c0Period   : BitVec 16 := 0x000A
  c0Burst    : BitVec 3 := 1
  c0Tokens   : Nat := 1
  c0Over     : BitVec 16 := 0
  c0Max      : BitVec 16 := 0
  c0Late     : Option (BitVec 64) := none
  strideHold : Bool := false
  prog       : Option Program := none
  stepping   : Bool := false
  windows    : List (Nat × Window) := []
  heldPkts   : List (Fin 8 × Packet) := []
  -- serving
  srvMode    : BitVec 2 := 0
  runEmpty   : Bool := false
  maxRows    : BitVec 12 := 0x080
  hold       : BitVec 12 := 0x03C
  ndesc      : BitVec 17 := 0
  used       : List Nat := []
  lastRun    : BitVec 16 := 0
  lastAllot  : BitVec 16 := 0
  doneLate   : BitVec 8 := 0
  doneCancel : BitVec 8 := 0
  doneBudget : BitVec 8 := 0
  doneExpired : BitVec 8 := 0
  slots      : List (Nat × Request) := []
  gens       : SMap 16 := []
  accepted   : Nat := 0
  budgets    : List (Nat × Budget) := []
  stepNo     : BitVec 32 := 0
  kvReset    : Bool := true
  first      : Bool := false
  entries    : List Entry := []
  endedNext  : List Entry := []
  nrows      : Nat := 0
  ringCount  : Nat := 0
  ring       : List (Nat × RingEntry) := []
  -- commands that wait for the partition
  starts     : List (PortId × BitVec 32 × BitVec 32) := []
  stops      : List (PortId × BitVec 32 × BitVec 32) := []
  loads      : List (PortId × BitVec 32 × BitVec 32 × List Byte) := []
  stepWaits  : Bool := false
  -- sleep and clocks
  sleepState : BitVec 2 := 2
  waking     : Bool := false
  lateLogged : Bool := false
  sleepRet   : Bool := true
  sleepOff   : Bool := true
  idleTime   : BitVec 20 := 0x00064
  slip       : BitVec 32 := 0
  point      : BitVec 2 := 0
  active     : BitVec 2 := 0
  cap        : BitVec 2 := 0
  ls         : Lockstep := {}
  deriving DecidableEq, Repr

end Sys2Proof.Machine
end

