-- ==== Sys2Proof/Machine/SysState.lean ====
section
/-! DEFINITION. The state of the chip as a whole (spec/13 R404, spec/14 R436 and R439, spec/15 to
spec/17): start-up and pins, the flash and the configuration, power and heat, lock-step timers, the
recording, and the objects that arrive in parts. -/

namespace Sys2Proof.Machine

/-- Who waits for the completion of a command. -/
structure Waiter where
  port    : PortId
  session : BitVec 32
  seq     : BitVec 32
  deriving DecidableEq, Repr

/-- The start, the pins, the test port and hot plug (R446 to R448, R464 to R467, R515, R516, R521). The
reset values are those of a module without power. -/
structure Chip where
  powered   : Bool := false
  pwrGood   : Bool := false
  resetLow  : Bool := true
  attnLow   : Bool := true
  strap     : BitVec 5 := 0x1F
  slotId    : BitVec 5 := 0
  refValid  : Bool := false
  driven    : Bool := false
  derived   : Bool := false
  warm      : Bool := false
  unclaimed : Bool := false
  ownerSlot : BitVec 2 := 3
  vendorCopy : BitVec 2 := 3
  step      : BitVec 4 := 0
  fault     : BitVec 4 := 0
  autoFail  : BitVec 12 := 0
  hpState   : BitVec 2 := 0
  attnMode  : Bool := false
  hpTimeout : BitVec 16 := 0x000A
  hpWait    : List Waiter := []
  refExt    : Bool := false
  hostLock  : BitVec 2 := 0
  spineLock : BitVec 4 := 0
  groupLock : BitVec 8 := 0
  partLock  : BitVec 12 := 0
  failedGroups : BitVec 8 := 0
  failedParts : BitVec 12 := 0
  jtagBypass : Bool := false
  jtagBoundary : BitVec 16 := 0
  jtagOut   : List Byte := []
  i2cOut    : List Byte := []
  deriving DecidableEq, Repr

/-- A copy of the vendor region (R450): whether MAGIC, FORMAT and the region signature are good, whether
DEVKEY is that of this die, VKEY, the grade, the core map and the identity. -/
structure VendorCopy where
  good    : Bool := true
  bound   : Bool := true
  vkey    : Bool := false
  sx84    : Bool := false
  map     : BitVec 96 := ~~~0
  serial  : List Byte := List.replicate 16 0
  macA    : BitVec 48 := 0
  macB    : BitVec 48 := 0
  cert    : List Byte := []
  claimRoot : List Byte := []
  claimCmd : BitVec 256 := 0
  digest  : BitVec 512 := 0
  deriving DecidableEq, Repr

/-- The settings of one PART record (R455). -/
structure PartRec where
  flock : BitVec 12
  owner : Byte
  grant : BitVec 12
  need  : BitVec 24
  ctrl  : BitVec 32
  kv    : BitVec 32
  deriving DecidableEq, Repr

/-- An owner configuration (R452 to R455); `rootSig` is the ROOTSIG of its OWNER record. -/
structure OwnerCfg where
  root   : Option (List Byte) := none
  epoch  : BitVec 64 := 0
  rootSig : List Byte := []
  keys   : List (Nat × HostKey) := []
  chipId : BitVec 14 := 0x3FFF
  ip4    : BitVec 64 := 0
  ip6    : BitVec 256 := 0
  parts  : List (Nat × PartRec) := []
  safety : Bool := false
  regs   : List (BitVec 32 × BitVec 32 × BitVec 32) := []
  route  : SMap 16 := []
  autoload : List (Nat × Nat × Bool) := []
  deriving DecidableEq, Repr

/-- An owner base slot with a complete trailer (R452): the header's GENERATION and LAST_SEQ, the records, and
the trailer's GENERATION and SEAL. -/
structure OwnerSlot where
  gen     : BitVec 64
  tgen    : BitVec 64 := 0
  sealed  : BitVec 256 := 0
  lastSeq : BitVec 64
  cfg     : OwnerCfg
  half    : Option (Fin 2) := none
  halfLen : Nat := 0
  halfDigest : BitVec 512 := 0
  deriving DecidableEq, Repr

/-- The body of a journal record (R457). -/
inductive JBody where
  | edit (fn : BitVec 16) (r : CfgRecord)
  | commit (fn : BitVec 16) (first : BitVec 64) (count : Nat) (half : Nat) (len : Nat) (digest : BitVec 512)
  deriving DecidableEq, Repr

/-- A journal record (R457): its bytes in the journal, the SEAL of a COMMIT, and the CRC. -/
structure JRec where
  seq  : BitVec 64
  size : Nat
  body : JBody
  sealed : BitVec 256 := 0
  crc  : BitVec 32 := 0
  deriving DecidableEq, Repr

/-- An open staging of one function (R458). -/
structure Staging where
  fn    : BitVec 16
  who   : Waiter
  first : BitVec 64
  recs  : List CfgRecord := []
  half  : Nat := 0
  count : Nat := 0
  deriving DecidableEq, Repr

/-- The flash and what the firmware keeps of it (R449 to R460, R468, R469). A byte of an image half is
kept as its complement, so that an erased byte (0xFF) is an unlisted one. `cur` is the slot in use, `due` says that
a compaction waits for stagings to close. -/
structure Store where
  vendor    : Vector VendorCopy 2 := Vector.replicate 2 {}
  slots     : Vector (Option OwnerSlot) 2 := Vector.replicate 2 none
  journal   : List JRec := []
  used      : Nat := 0
  nextSeq   : BitVec 64 := 1
  halves    : Vector (SMap 8) 2 := Vector.replicate 2 []
  activeHalf : Option (Fin 2) := none
  halfLen   : Nat := 0
  halfDigest : BitVec 512 := 0
  cfg       : OwnerCfg := {}
  generation : BitVec 64 := 0
  lastCommit : BitVec 64 := 0
  cur       : Option (Fin 2) := none
  due       : Bool := false
  compacting : Bool := false
  erasePending : Bool := false
  stagings  : List Staging := []
  deriving DecidableEq, Repr

/-- Heat and power (R479, R480, R501 to R503, R522). `warn`, `thr`, `emg` and `trip` say which levels'
conditions hold, `cool` that caps are being raised; `rail` is the point whose voltage each field's rail has. -/
structure Power where
  warn     : Bool := false
  thr      : Bool := false
  emg      : Bool := false
  trip     : Bool := false
  sensors  : Vector (BitVec 8) 16 := Vector.replicate 16 0
  power    : BitVec 12 := 0
  cool     : Bool := false
  warnT    : BitVec 8 := 0x5F
  throttleT : BitVec 8 := 0x64
  emergT   : BitVec 8 := 0x68
  limit    : BitVec 12 := 0x640
  current  : BitVec 16 := 0
  voltage  : BitVec 10 := 0
  rail     : Vector (BitVec 2) 4 := Vector.replicate 4 0
  deriving DecidableEq, Repr

/-- A recording (R488 to R490, R508): the words of the oldest entry and of the next one in the buffer, and
the length in words of each entry held. -/
structure Recording where
  running : Bool := false
  held    : Bool := false
  wrap    : Bool := false
  batch   : Bool := false
  buffer  : PartId := 0
  mask    : BitVec 12 := 0
  first   : Nat := 0
  next    : Nat := 0
  lens    : List Nat := []
  number  : BitVec 32 := 0
  dropped : BitVec 32 := 0
  deriving DecidableEq, Repr

/-- The load store (R436): the bytes received, bit 8 set for each byte present. -/
structure LoadObj where
  port    : PortId
  session : BitVec 32
  op      : BitVec 16
  hdr     : LoadHdr
  bytes   : SMap 9 := []
  deriving DecidableEq, Repr

/-- A prompt that arrives in parts (R439): the tokens received, bit 32 set for each token present. -/
structure Prompt where
  port    : PortId
  session : BitVec 32
  seq     : BitVec 32
  hdr     : SubmitHdr
  tokens  : SMap 33 := []
  deriving DecidableEq, Repr

/-- The words of one item of an adapter in region 65,523 of its rank, and its directory entry (R438). -/
structure Placed where
  rank  : Nat
  dir   : Nat
  addr  : Nat
  words : Nat
  deriving DecidableEq, Repr

/-- An adapter slot in use (R404). -/
structure Adapter where
  adapter : BitVec 16
  tenant  : BitVec 16
  part    : PartId
  places  : List Placed := []
  deriving DecidableEq, Repr

/-- The chip-wide working state of the firmware and of the debug block (R404, R420, R436, R439, R482 to
R490, R507). -/
structure Work where
  load      : Option LoadObj := none
  prompts   : List Prompt := []
  adapters  : List (Nat × Adapter) := []
  lockedOnce : Bool := false
  helloLimit : BitVec 8 := 0x64
  lsTimeout : BitVec 20 := 0x000C8
  recording : Recording := {}
  slew      : Int := 0
  slewTick  : Nat := 0
  leaves    : List (Waiter × BitVec 24) := []
  resets    : List (Waiter × LinkId) := []
  deriving DecidableEq, Repr

end Sys2Proof.Machine
end

