-- ==== Sys2Proof/Machine/State.lean ====
section
/-! DEFINITION. The state of the block, the reasons a step can stop, and the state after reset. -/

namespace Sys2Proof.Machine

/-- Why the machine stops with a fault. -/
inductive Fault where
  /-- Raised by a flit operand that no flit of R281 to R289 spells (a body of the wrong length). Safe. -/
  | malformedFlit
  deriving DecidableEq, Repr

/-- Why an instruction has no meaning. -/
inductive Refusal where
  /-- Raised by an arm of Dispatch.lean that has no meaning yet. Safe. -/
  | notModelled (mnemonic : String)
  deriving DecidableEq, Repr

/-- An event waiting for its entry in the log (R491, R492). -/
structure Ev where
  code   : BitVec 16
  source : BitVec 16
  p0     : BitVec 32 := 0
  p1     : BitVec 32 := 0
  p2     : BitVec 32 := 0
  p3     : BitVec 32 := 0
  deriving DecidableEq, Repr

/-- The event log (R491, R509, R510): events waiting, entries by slot, the next sequence number. -/
structure EventLog where
  queue   : List Ev := []
  entries : SMap 256 := []
  head    : BitVec 32 := 0
  dropped : BitVec 16 := 0
  lost    : BitVec 16 := 0
  deriving DecidableEq, Repr

/-- The state of the block. -/
structure State where
  pending : List Instr
  time    : BitVec 64
  chipId  : BitVec 14
  safety  : Bool
  cores   : Vector Core 96
  parts   : Vector Part 12
  ports   : Vector HostPort 2
  transit : List Moving
  links   : Vector Link 24
  rte     : Router
  domains : Vector (BitVec 2) 148
  domOff  : Vector Bool 148
  evlog   : EventLog
  chip    : Chip
  store   : Store
  power   : Power
  work    : Work
  draws   : Nat
  deriving DecidableEq, Repr

/-- The module right after reset. -/
def State.reset : State where
  pending := []
  time := 0
  chipId := 0x3FFF
  safety := false
  cores := Vector.replicate 96 {}
  parts := Vector.replicate 12 {}
  ports := #v[{ ptpEn := true }, {}]
  transit := []
  links := Vector.ofFn (fun l => { port := BitVec.ofNat 5 l.val, portNow := BitVec.ofNat 5 l.val })
  rte := {}
  domains := Vector.replicate 148 2
  domOff := Vector.replicate 148 false
  evlog := {}
  chip := {}
  store := {}
  power := {}
  work := {}
  draws := 0

end Sys2Proof.Machine
end

