-- ==== Sys2Proof/Machine/Ops.lean ====
section
/-! DEFINITION. The operations every meaning shares: access to cores, partitions and ports, the geometry
of R9 and R19 to R23, saturating counters, the event queue (R491), responses (R428), the stop of a step
(R209, R364, R409), and reads and writes of core memory (R205 to R213, R237). -/

namespace Sys2Proof.Machine

/-- The outcome type of every meaning. -/
abbrev Out := Host.Outcome State Fault Refusal

/-! Access to the parts of the state. -/

def State.core (s : State) (c : CoreId) : Core := s.cores[c]
def State.setCore (s : State) (c : CoreId) (k : Core) : State := { s with cores := s.cores.set c k }
def State.modCore (s : State) (c : CoreId) (f : Core → Core) : State := s.setCore c (f (s.core c))
def State.part (s : State) (p : PartId) : Part := s.parts[p]
def State.setPart (s : State) (p : PartId) (k : Part) : State := { s with parts := s.parts.set p k }
def State.modPart (s : State) (p : PartId) (f : Part → Part) : State := s.setPart p (f (s.part p))
def State.port (s : State) (h : PortId) : HostPort := s.ports[h]
def State.setPort (s : State) (h : PortId) (k : HostPort) : State := { s with ports := s.ports.set h k }
def State.modPort (s : State) (h : PortId) (f : HostPort → HostPort) : State := s.setPort h (f (s.port h))
def State.modArray (s : State) (c : CoreId) (f : ArrayUnit → ArrayUnit) : State :=
  s.modCore c (fun k => { k with array := f k.array })
def State.modMem (s : State) (c : CoreId) (f : Memory → Memory) : State :=
  s.modCore c (fun k => { k with memory := f k.memory })
def State.modVec (s : State) (c : CoreId) (f : VectorUnit → VectorUnit) : State :=
  s.modCore c (fun k => { k with vec := f k.vec })
def Core.queue (k : Core) (q : QueueId) : Queue := k.queues[q]
def State.modQueue (s : State) (c : CoreId) (q : QueueId) (f : Queue → Queue) : State :=
  s.modCore c (fun k => { k with queues := k.queues.set q (f (k.queue q)) })

/-! Lists of numbered things. -/

def alGet {α : Type} (l : List (Nat × α)) (n : Nat) : Option α := (l.find? (fun x => x.1 == n)).map (·.2)
def alDel {α : Type} (l : List (Nat × α)) (n : Nat) : List (Nat × α) := l.filter (fun x => x.1 != n)
def alSet {α : Type} (l : List (Nat × α)) (n : Nat) (v : α) : List (Nat × α) := (n, v) :: alDel l n

/-! Geometry (R9, R19, R14, R23). -/

def coreOfNat (n : Nat) : CoreId := Fin.ofNat 96 n
def partOfNat (n : Nat) : PartId := Fin.ofNat 12 n

/-- The partition of a core: two columns by four rows (R19). -/
def partOf (c : CoreId) : PartId := partOfNat (c.val % 12 / 2 + 6 * (c.val / 48))

/-- The cores of a partition, in ascending number. -/
def coresOf (p : PartId) : List CoreId :=
  (List.finRange 96).filter (fun c => partOf c == p)

/-- Whether a core is enabled (R3). -/
def State.enabled (s : State) (c : CoreId) : Bool := !s.domOff[c.val]!

/-- The enabled cores of a partition in rank order (R61). -/
def State.ranks (s : State) (p : PartId) : List CoreId := (coresOf p).filter s.enabled

def State.rankOf (s : State) (c : CoreId) : Nat := (s.ranks (partOf c)).findIdx (· == c)

def State.coreOfRank (s : State) (p : PartId) (r : Nat) : Option CoreId := (s.ranks p)[r]?

/-- The grid neighbour in direction 0 N, 1 E, 2 S, 3 W, when it is an enabled core of the same partition
(R14, R23). -/
def State.neighbour (s : State) (c : CoreId) (d : Nat) : Option CoreId :=
  let r := c.val / 12
  let k := c.val % 12
  let n : Option Nat := match d with
    | 0 => if r = 0 then none else some (c.val - 12)
    | 1 => if k = 11 then none else some (c.val + 1)
    | 2 => if r = 7 then none else some (c.val + 12)
    | _ => if k = 0 then none else some (c.val - 1)
  match n with
  | none => none
  | some m =>
    let x := coreOfNat m
    if partOf x = partOf c ∧ s.enabled x = true then some x else none

/-- The core that a memory selector names (R66): 0 own memory, 4 + d the neighbour in direction d. -/
def State.sel (s : State) (c : CoreId) (sel : BitVec 3) : Option CoreId :=
  if sel = 0 then some c else if 4 ≤ sel.toNat then s.neighbour c (sel.toNat - 4) else none

/-- REASON of a bad selector: 1 to 3 are reserved values, the rest lie outside the partition. -/
def selReason (sel : BitVec 3) : Nat := if sel.toNat < 4 then 2 else 3

/-- Bytes 32–35 of the loaded image's DIGEST (R276). -/
def Program.digestLow (g : Program) : BitVec 32 := BitVec.ofNat 32 (leNat (g.digest.take 4))

/-! Counters that stop at their largest value. -/

def satAdd {w : Nat} (x : BitVec w) (n : Nat) : BitVec w := BitVec.ofNat w (min (x.toNat + n) (2 ^ w - 1))

/-- Cycles of a core at clock point 0 to 3 in a number of ns: 1.75, 1.40, 1.05 and 0.70 GHz (R4, R478). -/
def ccIn (point ns : Nat) : Nat :=
  if point = 0 then ns * 7 / 4 else if point = 1 then ns * 7 / 5 else if point = 2 then ns * 21 / 20 else ns * 7 / 10

/-- Cycles of a partition since a time. -/
def State.ccSince (s : State) (p : PartId) (t : BitVec 64) : Nat := ccIn (s.part p).active.toNat (s.time - t).toNat

/-! Free values. -/

/-- A fresh free word, and the state that has drawn it. -/
def State.draw (s : State) : BitVec 256 × State :=
  (Config.freeWord s.draws, { s with draws := s.draws + 1 })

/-! Events (R491 to R493). -/

def srcChip : BitVec 16 := 0
def srcPart (p : PartId) : BitVec 16 := BitVec.ofNat 16 (0x1000 + p.val)
def srcCore (c : CoreId) : BitVec 16 := BitVec.ofNat 16 (0x2000 + c.val)
def srcLink (l : LinkId) : BitVec 16 := BitVec.ofNat 16 (0x3000 + l.val)
def srcPort (h : PortId) : BitVec 16 := BitVec.ofNat 16 (0x4000 + h.val)

/-- Puts an event into the queue of 1,024, or counts it as lost (R491). -/
def State.log (s : State) (code : Nat) (src : BitVec 16) (p0 p1 p2 p3 : Nat) : State :=
  if s.evlog.queue.length < 1024 then
    { s with evlog := { s.evlog with queue := s.evlog.queue ++
      [{ code := BitVec.ofNat 16 code, source := src, p0 := BitVec.ofNat 32 p0,
         p1 := BitVec.ofNat 32 p1, p2 := BitVec.ofNat 32 p2, p3 := BitVec.ofNat 32 p3 }] } }
  else { s with evlog := { s.evlog with lost := satAdd s.evlog.lost 1 } }

/-- Sets sticky format flags of a core (R55). -/
def State.flag (s : State) (c : CoreId) (f : FmtFlags) : State :=
  s.modCore c (fun k => { k with flags := k.flags ||| f })

/-! Status codes of R433. -/

def stOK : Nat := 0
def stLATE : Nat := 1
def stFAULT : Nat := 2
def stDENIED : Nat := 3
def stBOUNDS : Nat := 4
def stTIMEOUT : Nat := 5
def stLINKLOST : Nat := 6
def stBROKEN : Nat := 7
def stBUSY : Nat := 8
def stBUDGET : Nat := 9
def stCANCELLED : Nat := 10
def stBADSIG : Nat := 11
def stNOSPACE : Nat := 12
def stVERSION : Nat := 13
def stSTALL : Nat := 14

/-! Responses (R428). -/

def Session.finish (x : Session) (r : Resp) : Session :=
  { x with running := x.running.filter (· != r.seq), via := x.via.filter (·.1 != r.seq), kept := x.kept ++ [r] }

/-- Completes a command of a session: the response is kept and sent; where the session has ended it is
discarded (R429). -/
def State.respond (s : State) (h : PortId) (session : BitVec 32) (r : Resp) : State :=
  s.modPort h (fun k =>
    if k.sessions.any (fun x => x.id == session) then
      { k with
        sessions := k.sessions.map (fun x => if x.id == session then x.finish r else x),
        sent := (k.sessions.find? (fun x => x.id == session)).map (fun x => .sct (x.frame { r.sent false with carrier := x.carrier r.seq })) }
    else { k with orphans := k.orphans.erase (session, r.seq) })

def State.respondAll (s : State) (op : BitVec 16) (status : Nat) (body : List Byte) :
    List (PortId × BitVec 32 × BitVec 32) → State
  | [] => s
  | (h, sess, seq) :: t =>
    (s.respond h sess { seq := seq, op := op, status := status, body := body }).respondAll op status body t

/-! The stop of a step. -/

/-- DONE with a status (R392): the prompt leaves the store, and only the output released so far is kept,
or none of it. -/
def Part.done (k : Part) (now : BitVec 64) (n : Nat) (r : Request) (st : Nat) (drop : Bool) : Part :=
  let r' := { r with state := .done, status := st, out := if drop then [] else r.out.take r.vis,
                     prompt := [], pend := none, doneTime := now }
  { k with slots := alSet k.slots n r' }

/-- A completion that did not end OK is counted in PART_SRV_DONE (R415). -/
def Part.countDone (k : Part) (st : Nat) : Part :=
  if st = stLATE then { k with doneLate := satAdd k.doneLate 1 }
  else if st = stCANCELLED then { k with doneCancel := satAdd k.doneCancel 1 }
  else if st = stBUDGET then { k with doneBudget := satAdd k.doneBudget 1 }
  else k

/-- The budget entry of a tenant (R400). -/
def Part.budget (k : Part) (t : BitVec 16) : Budget := (alGet k.budgets t.toNat).getD {}

/-- Takes `n` tokens from a tenant, unless its RATE is 0xFFFF_FFFF (R400). -/
def Part.charge (k : Part) (t : BitVec 16) (n : Nat) : Part :=
  let b := k.budget t
  if b.rate = 0xFFFFFFFF then k
  else { k with budgets := alSet k.budgets t.toNat { b with balance := b.balance - BitVec.ofNat 32 n } }

/-- Charges of the entries of a stopped step (R409). -/
def Part.chargeAll (k : Part) : List Entry → Part
  | [] => k
  | e :: t => (if e.ended then k else k.charge e.tenant e.rows).chargeAll t

/-- Completes every ACTIVE and CANCELLING request with a status (R409). -/
def Part.finishAll (k : Part) (now : BitVec 64) (st : Nat) : List (Nat × Request) → Part
  | [] => k
  | (n, r) :: t =>
    (if r.state = .active ∨ r.state = .cancelling then
      k.done now n r st (st == stCANCELLED) else k).finishAll now st t

/-- The entry that a ring step serves, none where it is VOID or not written. Its rows are the tokens of its
prompt (Assumption 99). -/
def Part.ringEntry (k : Part) : Option Entry :=
  let s := (k.stepNo - 1).toNat
  if k.ringCount ≤ s then none else
  match alGet k.ring (s % 16) with
  | none => none
  | some x => if x.void then none else
      some { slot := x.slot, gen := x.gen, tenant := x.tenant, row0 := 0, rows := x.rows, prompt := true }

/-- The entries of the step in progress. -/
def Part.stepEntries (k : Part) : List Entry :=
  if k.srvMode ≠ 2 then k.entries else if k.stepping then k.ringEntry.toList else []

/-- R399, R408, R409: what the stop of a step in progress does to its requests, to the descriptor pool and
to the ring. -/
def Part.abandon (k : Part) (now : BitVec 64) (st : Nat) : Part :=
  let k := (k.chargeAll k.stepEntries).finishAll now st k.slots
  { k with used := [], kvReset := true, entries := [], endedNext := [],
           ring := k.ring.map (fun e => (e.1, { e.2 with void := true })) }

/-- R363: the partition enters STOPPED with a cause; a step in progress, or one that waits for its match
(R487), is abandoned. -/
def Part.stop (k : Part) (now : BitVec 64) (st cause : Nat) : Part :=
  let k := if k.stepping ∨ k.ls.await then k.abandon now st else k
  { k with state := 1, cause := BitVec.ofNat 4 cause, stepping := false, stepWaits := false,
           ls := { k.ls with await := false, batches := [] } }

/-- Whether a held access is no queue's instruction. -/
def Held.isPacket : Held → Bool
  | .packet _ _ _ => true
  | .write _ _ _ _ _ => true
  | .instr _ _ _ => false

/-- Whether an access is held at group `g`. -/
def Held.inGroup (g : Nat) : Held → Bool
  | .instr _ _ x => x == g
  | .packet _ _ x => x == g
  | .write _ _ _ _ x => x == g

/-- No queue issues again; what was issued and not complete is given up, and with it the tags that no
target answers (R209, step 3). -/
def Core.halt (k : Core) : Core :=
  { k with
    inflight := [], tags := k.tags.filter (fun t => t.ack || t.kind == 2),
    memory := { k.memory with held := k.memory.held.filter Held.isPacket },
    array := { k.array with ready := false, count := none, passHolds := {} },
    queues := k.queues.map (fun q => { q with waiting := none, slipped := false, since := none }) }

/-- Steps 3 and 4 of R209 for one partition, with a status for its requests and a CAUSE. A partition that
has no step to stop is left as it is. -/
def State.stopStep (s : State) (p : PartId) (st cause : Nat) : State :=
  let k := s.part p
  if k.state = 3 ∨ k.state = 4 then
    let s := (coresOf p).foldl (fun s c => s.modCore c Core.halt) s
    let stops := k.stops
    let s := s.setPart p { k.stop s.time st cause with stops := [] }
    s.respondAll 0x30 stOK [1] stops
  else s

/-! Words of core memory. -/

/-- The bank group of a word (R199); under ILV 0 the eight groups share one state, that of group 0. -/
def Memory.group (m : Memory) (a : Nat) : Fin 8 := if m.ilv then Fin.ofNat 8 (a / 0x20000) else 0

/-- The bank group that holds a word: address[19:17] under ILV 1, address[5:3] under ILV 0 (R199). -/
def Memory.bankGroup (m : Memory) (a : Nat) : Fin 8 := if m.ilv then Fin.ofNat 8 (a / 0x20000) else Fin.ofNat 8 (a / 8)

/-- What a read of word `a` delivers, correctable errors corrected (R207). -/
def Memory.peek (m : Memory) (a : Nat) : MWord :=
  let f := smGet m.flips a
  if f = 0 then smGet m.mem a else
  match eccDecode m.cmode.toNat f with
  | .corr syms => smGet m.mem a ^^^ flipData (flipAfter f syms)
  | _ => smGet m.mem a ^^^ flipData f

/-- The canonical form of a core's memory and of its pattern of wrong bits. -/
def Memory.wf (m : Memory) : Bool := smWf m.mem && smWf m.flips

/-- A whole-word write (R205, R209, R237): fresh check bytes, and a pending write-back is dropped. -/
def Memory.write (m : Memory) (a : Nat) (w : MWord) : Memory :=
  { m with mem := smSet m.mem a w, flips := smSet m.flips a 0, writeback := m.writeback.filter (·.1 != a) }

def State.peek (s : State) (c : CoreId) (a : Nat) : MWord := (s.core c).memory.peek a

def State.poke (s : State) (c : CoreId) (a : Nat) (w : MWord) : State :=
  s.modMem c (fun m => m.write a w)

/-- Words of core memory from `a` upward. -/
def State.peekMany (s : State) (c : CoreId) (a n : Nat) : List MWord :=
  (List.range n).map (fun i => s.peek c (a + i))

def State.pokeMany (s : State) (c : CoreId) (a : Nat) : List MWord → State
  | [] => s
  | w :: t => (s.poke c a w).pokeMany c (a + 1) t

/-- Bits [lo + n − 1 : lo] of the bit string that starts at word `a`. -/
def State.bitsAt (s : State) (c : CoreId) (a lo n : Nat) : Nat :=
  let w := s.peek c (a + lo / 256)
  let x := w.toNat >>> (lo % 256)
  let y := if lo % 256 + n ≤ 256 then x else
    x + (s.peek c (a + lo / 256 + 1)).toNat <<< (256 - lo % 256)
  y % 2 ^ n

/-- Reads one 32-bit value at byte offset `4i` of a region. -/
def State.u32At (s : State) (c : CoreId) (a i : Nat) : BitVec 32 := wordLane (s.peek c (a + i / 8)) (i % 8)

/-- Writes of whole words and of parts of words: `mask` gives the bits that are written (R210). -/
structure Wr where
  core : CoreId
  addr : Nat
  data : MWord
  mask : MWord := ~~~0
  deriving DecidableEq, Repr

def State.wr (s : State) (x : Wr) : State :=
  if x.mask = ~~~0 then s.poke x.core x.addr x.data
  else s.poke x.core x.addr ((s.peek x.core x.addr &&& ~~~x.mask) ||| (x.data &&& x.mask))

def State.wrAll (s : State) (xs : List Wr) : State := xs.foldl State.wr s

/-- Writes a bit field into a region of words: used to build element stores. -/
def wrField (c : CoreId) (a lo n v : Nat) : List Wr :=
  let o := lo % 256
  let one := (2 ^ n - 1) <<< o
  let dat := (v % 2 ^ n) <<< o
  let w0 : Wr := { core := c, addr := a + lo / 256, data := BitVec.ofNat 256 dat, mask := BitVec.ofNat 256 one }
  if o + n ≤ 256 then [w0]
  else [w0, { core := c, addr := a + lo / 256 + 1, data := BitVec.ofNat 256 (dat >>> 256),
              mask := BitVec.ofNat 256 (one >>> 256) }]

/-- Adds a write to a list, joined with an earlier write to the same word (the later bits win). -/
def wrInsert : List Wr → Wr → List Wr
  | [], x => [x]
  | y :: t, x =>
    if y.core = x.core ∧ y.addr = x.addr then
      { y with data := (y.data &&& ~~~x.mask) ||| (x.data &&& x.mask), mask := y.mask ||| x.mask } :: t
    else y :: wrInsert t x

/-- The writes of an instruction, one for each word, in the order of first touch. -/
def wrJoin (ws : List Wr) : List Wr := ws.foldl wrInsert []

/-! Reads with the check code, and groups that are not ON. -/

/-- Starts the wake of a group (R212, R213). -/
def Memory.wake (m : Memory) (g : Fin 8) : Memory :=
  if m.bgState[g] = 1 ∨ m.bgState[g] = 2 then
    { m with bgState := m.bgState.set g 3, bgFromOff := m.bgFromOff.set g (m.bgState[g] == 2),
             bgReq := m.bgReq.set g 0 }
  else m

/-- EV_LATE_WAKE of a core, at most once per step (R213). -/
def State.lateWake (s : State) (c : CoreId) (g : Fin 8) : State :=
  if (s.core c).marks.lateWake then s
  else (s.modCore c (fun k => { k with marks := { k.marks with lateWake := true } })).log
    0x0006 (srcCore c) g.val 0 0 0

/-- The first word of a list whose group is not ON. -/
def State.asleep (s : State) (ws : List (CoreId × Nat)) : Option (CoreId × Nat) :=
  ws.find? (fun x => let m := (s.core x.1).memory; m.bgState[m.group x.2] != 0)

/-- A sleeping group that an access reaches: EV_LATE_WAKE is logged and the wake begins (R213). A group
that is waking already has nothing to report (R212). -/
def State.wakeAt (s : State) (x : CoreId × Nat) : State :=
  let m := (s.core x.1).memory
  let g := m.group x.2
  if m.bgState[g] = 1 ∨ m.bgState[g] = 2 then
    (s.lateWake x.1 (m.bankGroup x.2)).modMem x.1 (fun m => m.wake g)
  else s

/-- An access to a word meets a group that is not ON: the group begins to wake and the access is held, an
instruction once however often it is presented. -/
def State.holdAt (s : State) (h : Fin 8 → Held) (x : CoreId × Nat) : State :=
  (s.wakeAt x).modMem x.1 (fun m =>
    let y := h (m.group x.2)
    if y.isPacket = false ∧ m.held.contains y then m else { m with held := m.held ++ [y] })

/-- What a checked read of one word concludes (R207, R208). -/
inductive Read1 where
  | good
  | corrected (syms : List (Nat × Nat))
  | bad
  deriving DecidableEq, Repr

def Memory.check (m : Memory) (a : Nat) : Read1 :=
  let f := smGet m.flips a
  if f = 0 then .good else
  match eccDecode m.cmode.toNat f with
  | .clean => .good
  | .corr syms => .corrected syms
  | .uncorr => .bad

/-- Registers and event of a corrected read (R208, R221, R222), and its write-back (R207). -/
def State.corrected (s : State) (c : CoreId) (a : Nat) (syms : List (Nat × Nat)) (scrub : Bool) : State :=
  let pos := (syms.map (·.1)).foldl min 63
  let s := s.modMem c (fun m => { m with
    eccCorr := satAdd m.eccCorr 1,
    logSyms := BitVec.ofNat 2 syms.length, logPos := BitVec.ofNat 6 pos, logScrub := scrub,
    logAddr := BitVec.ofNat 20 a,
    writeback := if m.writeback.any (·.1 == a) then m.writeback else m.writeback ++ [(a, m.peek a)] })
  if (s.core c).marks.eccCorr then s
  else (s.modCore c (fun k => { k with marks := { k.marks with eccCorr := true } })).log
    0x0001 (srcCore c) a syms.length 0 0

/-- Records an uncorrectable word (R209 step 2, R223). -/
def State.recordUncorr (s : State) (c : CoreId) (a src : Nat) (scrub : Bool) : State :=
  s.modMem c (fun m => if m.unValid then m else
    { m with unValid := true, unScrub := scrub, unSrc := BitVec.ofNat 4 src, unAddr := BitVec.ofNat 20 a })

/-- Containment of an uncorrectable word: steps 2 to 4 of R209. `by` is the requesting core. -/
def State.contain (s : State) (c : CoreId) (a src by_ : Nat) : State :=
  ((s.recordUncorr c a src false).log 0x0002 (srcCore c) a src by_ 0).stopStep (partOf c) stFAULT 2

/-- The first uncorrectable word of a list. -/
def State.firstBad (s : State) (ws : List (CoreId × Nat)) : Option (CoreId × Nat) :=
  ws.find? (fun x => (s.core x.1).memory.check x.2 == .bad)

/-- The words of a list that are read before the first uncorrectable one. -/
def State.beforeBad (s : State) (ws : List (CoreId × Nat)) : List (CoreId × Nat) :=
  ws.takeWhile (fun x => (s.core x.1).memory.check x.2 != .bad)

/-- Reads that a sleeping group delays without holding anything back (R84): the groups begin to wake. -/
def State.wakeAll (s : State) : List (CoreId × Nat) → State
  | [] => s
  | x :: t => (s.wakeAt x).wakeAll t

/-- The corrections of a list of reads, in order. -/
def State.corrections (s : State) : List (CoreId × Nat) → State
  | [] => s
  | (c, a) :: t =>
    (match (s.core c).memory.check a with
     | .corrected syms => s.corrected c a syms false
     | _ => s).corrections t

/-- The first word of a list whose group is not ON, or still has to serve what arrived before (R213). -/
def State.mustHold (s : State) (ws : List (CoreId × Nat)) : Option (CoreId × Nat) :=
  ws.find? (fun x => let m := (s.core x.1).memory
    m.bgState[m.group x.2] != 0 || m.held.any (Held.inGroup (m.group x.2).val))

/-- A write by a control block of the bits `mask` of a word, served now (R210): a part of an uncorrectable
word is not written. -/
def State.wrCtl (s : State) (c : CoreId) (a : Nat) (data mask : MWord) (src : Nat) : State :=
  if mask = ~~~0 then s.poke c a data else
  match (s.core c).memory.check a with
  | .bad => s.contain c a src c.val
  | .corrected syms => (s.corrected c a syms false).wr { core := c, addr := a, data := data, mask := mask }
  | .good => s.wr { core := c, addr := a, data := data, mask := mask }

/-- A write by a control block: held where its group is not ON (R213). -/
def State.putBits (s : State) (c : CoreId) (a : Nat) (data mask : MWord) (src : Nat) : State :=
  match s.mustHold [(c, a)] with
  | some x => s.holdAt (fun g => .write a data mask src g.val) x
  | none => s.wrCtl c a data mask src

/-- Whole words written by a control block from `a` upward. -/
def State.putWords (s : State) (c : CoreId) (a src : Nat) : List MWord → State
  | [] => s
  | w :: t => (s.putBits c a w (~~~0) src).putWords c (a + 1) src t

/-- The words of a range. -/
def wordsAt (c : CoreId) (a n : Nat) : List (CoreId × Nat) := (List.range n).map (fun i => (c, a + i))

end Sys2Proof.Machine
end

