-- ==== Sys2Proof/Machine/Net.lean ====
section
/-! DEFINITION. Packets (R323, R324), the routing lookup (R326, R331, R332), and the sending of packets by
a partition, with their lock-step records (R484). -/

namespace Sys2Proof.Machine

def State.link (s : State) (l : LinkId) : Link := s.links[l]
def State.setLink (s : State) (l : LinkId) (k : Link) : State := { s with links := s.links.set l k }
def State.modLink (s : State) (l : LinkId) (f : Link → Link) : State := s.setLink l (f (s.link l))
def State.modRte (s : State) (f : Router → Router) : State := { s with rte := f s.rte }

/-! Header fields (R323). -/

end Sys2Proof.Machine

namespace Sys2Proof

def Packet.field (p : Packet) (lo n : Nat) : Nat := Machine.wordField p.hdr lo n
def Packet.dstChip (p : Packet) : Nat := p.field 0 14
def Packet.epoch (p : Packet) : Nat := p.field 14 1
def Packet.phase (p : Packet) : Nat := p.field 15 1
def Packet.srcChip (p : Packet) : Nat := p.field 16 14
def Packet.dstPart (p : Packet) : Nat := p.field 30 4
def Packet.srcPart (p : Packet) : Nat := p.field 34 4
def Packet.srcRank (p : Packet) : Nat := p.field 38 3
def Packet.kind (p : Packet) : Nat := p.field 41 3
def Packet.kflags (p : Packet) : Nat := p.field 44 4
def Packet.win (p : Packet) : Nat := p.field 48 8
def Packet.length (p : Packet) : Nat := p.field 56 8
def Packet.woff (p : Packet) : Nat := p.field 64 20
def Packet.tag (p : Packet) : Nat := p.field 84 8
def Packet.rlen (p : Packet) : Nat := p.field 92 8
def Packet.status (p : Packet) : Nat := p.field 64 4
def Packet.dstRank (p : Packet) : Nat := p.field 68 3
def Packet.roff (p : Packet) : Nat := p.field 100 20
def Packet.rowIndex (p : Packet) (j : Nat) : Nat := p.field (64 + 12 * j) 12

/-- The number of flits that LENGTH gives a packet (R285, R325). -/
def Packet.flits (p : Packet) : Nat := (32 + 32 * p.length + 243) / 244

end Sys2Proof

namespace Sys2Proof.Machine

def setFields (w : MWord) : List (Nat × Nat × Nat) → MWord
  | [] => w
  | (lo, n, v) :: t => setFields (wordSetField w lo n v) t

/-- A packet from its fields, with LENGTH from the payload. -/
def mkPacket (s : State) (p : PartId) (rank dchip dpart kind kflags win : Nat)
    (rest : List (Nat × Nat × Nat)) (payload : List MWord) : Packet :=
  { hdr := setFields (setFields 0
      [(0, 14, dchip), (14, 1, s.rte.stamp.toNat), (16, 14, s.chipId.toNat), (30, 4, dpart),
       (34, 4, p.val), (38, 3, rank), (41, 3, kind), (44, 4, kflags), (48, 8, win),
       (56, 8, payload.length)]) rest,
    payload := payload }

/-- VC of a class: 2 × class for requests, one more for responses (R282). -/
def vcOf (cls : Nat) (resp : Bool) : Fin 8 := Fin.ofNat 8 (2 * (cls % 4) + resp.toNat)

/-! Routing. -/

/-- The table entry of a chip in a bank: 8 bits, TYPE [7:6] and PORT [4:0] (R326). -/
def Router.entry (r : Router) (bank : Nat) (chip : Nat) : BitVec 8 := smGet (r.table[bank % 2]!) chip

/-- The logical port a packet routes to, none when the entry has no route (R326). -/
def Router.portFor (r : Router) (bank chip : Nat) : Option Nat :=
  let e := (r.entry bank chip).toNat
  if chip = 0x3FFF then none
  else if e / 64 = 1 ∧ e % 32 < 24 then some (e % 32) else none

/-- LNK_STATUS.STATE of an ACTIVE link is found in R287; its code is 5. -/
def lsACTIVE : BitVec 4 := 5

/-- ACTIVE members of a logical port (R310). -/
def State.members (s : State) (port : Nat) : List LinkId :=
  (List.finRange 24).filter (fun l => (s.link l).state == lsACTIVE && (s.link l).portNow.toNat == port)

/-! Pools (R292): 2 × class for headers, one more for data. -/

def poolHdr (vc : Fin 8) : Fin 8 := Fin.ofNat 8 (vc.val / 2 * 2)
def poolData (vc : Fin 8) : Fin 8 := Fin.ofNat 8 (vc.val / 2 * 2 + 1)

/-- Available credit of a pool, modulo 2^16 (R292). -/
def Link.credit (k : Link) (pool : Fin 8) : Nat := (k.limit[pool] - k.used[pool]).toNat

/-- The SOP flit of a packet of `n` flits finds credit, and `h` header and `d` data credits beyond what R293
asks. -/
def Link.sopCredit (k : Link) (vc : Fin 8) (n h d : Nat) : Bool :=
  let req := (decide (vc.val % 2 = 0)).toNat
  decide (1 + req + h ≤ k.credit (poolHdr vc)) && decide (n + 17 * req + d ≤ k.credit (poolData vc))

/-- The plan entry that stands for a link: its own, or the one it is taken as swapped with (R341 row 4). -/
def Router.plan (r : Router) (l : LinkId) : Plan :=
  match (r.plans[l]).swapped with
  | some x => r.plans[x]
  | none => r.plans[l]

/-- The member with the most data credit of the class, the lowest link number on a tie (R310). -/
def State.pickMember (s : State) (cls : Nat) : List LinkId → Option LinkId
  | [] => none
  | l :: t =>
    match s.pickMember cls t with
    | none => some l
    | some m =>
      let pool : Fin 8 := Fin.ofNat 8 (2 * (cls % 4) + 1)
      if (s.link m).credit pool ≤ (s.link l).credit pool then some l else some m

/-- The members among which a packet chooses: those in no drain (R308) and of these those that hold credit
(R310). Where none does, the packet waits for one of them, and STAGING_BUFFER_ENTER chooses again. -/
def State.candidates (s : State) (vc : Fin 8) (p : Packet) (ms : List LinkId) : List LinkId :=
  let free := ms.filter (fun l => !(s.link l).graceful)
  let free := if free = [] then ms else free
  let held := free.filter (fun l => (s.link l).sopCredit vc p.flits 0 0)
  if held = [] then free else held

/-- The link a packet leaves on, or none where the lookup fails (R330, R332). -/
def State.route (s : State) (vc : Fin 8) (p : Packet) : Option LinkId :=
  if s.rte.bank[p.epoch]! = 0 then none else
  match s.rte.portFor p.epoch p.dstChip with
  | none => none
  | some port =>
    match s.pickMember (vc.val / 2) (s.candidates vc p (s.members port)) with
    | none => none
    | some l => if p.phase = 1 ∧ (s.rte.plan l).tier = 2 then none else some l

/-- A packet is for this chip (R326). A module with no chip ID has none for a packet to name. -/
def State.isHere (s : State) (p : Packet) : Bool := p.dstChip == s.chipId.toNat && s.chipId != 0x3FFF

/-! Spine segments (R24, R25, R374), numbered as R492 numbers them: 0 Q0–Q1, 1 Q2–Q3, 2 Q0–Q2, 3 Q1–Q3, and
4 + q within field q. -/

/-- The field of a partition (R19) and of a link (R20). -/
def fieldOf (p : PartId) : Fin 4 := Fin.ofNat 4 (p.val / 3)
def fieldOfLink (l : LinkId) : Fin 4 := Fin.ofNat 4 (l.val / 6)

/-- The segments from one field to another: the vertical stitch line is crossed first. -/
def spinePath (a b : Fin 4) : List (Fin 8) :=
  if a = b then [Fin.ofNat 8 (4 + a.val)]
  else Fin.ofNat 8 (4 + a.val) ::
    ((if a.val % 2 = b.val % 2 then [] else [Fin.ofNat 8 (a.val / 2)]) ++
     (if a.val / 2 = b.val / 2 then [] else [Fin.ofNat 8 (2 + b.val % 2)]) ++ [Fin.ofNat 8 (4 + b.val)])

/-- The segments whose buckets a packet has to find room in: none but in class 0, and none for DRAIN (R375). -/
def spineNeeds (vc : Fin 8) (p : Packet) (a b : Fin 4) : List (Fin 8) :=
  if 2 ≤ vc.val ∨ p.kind = 5 then [] else spinePath a b

/-- The path of a packet of a partition of this chip: no spine within a partition (R28). -/
def ownPath (vc : Fin 8) (p : Packet) (out : Option LinkId) : List (Fin 8) :=
  let a := fieldOf (partOfNat p.srcPart)
  match out with
  | some l => spineNeeds vc p a (fieldOfLink l)
  | none => if p.srcPart = p.dstPart then [] else spineNeeds vc p a (fieldOf (partOfNat p.dstPart))

/-! Lock-step records (R484). -/

/-- What CHECK of a packet covers, as bytes. -/
def checkedBytes (p : Packet) : List Byte :=
  let h := setFields 0
    [(0, 3, p.kind), (8, 4, p.kflags), (16, 4, p.dstPart), (24, 8, p.win), (32, 8, p.length)]
  let k := p.hdr &&& ~~~(0xFFFFFFFFFFFFFFFF#256)
  let k := if p.kind = 4 then k else wordSetField k 84 8 0
  (bytesOfWord h).take 5 ++ (bytesOfWord k).drop 8 ++ p.payload.flatMap bytesOfWord

/-- Adds the record of a formed packet to the pending records of a paired partition. -/
def Part.record (k : Part) (rank unit : Nat) (p : Packet) : Part :=
  if k.ls.paired then
    let st := rank * 16 + unit
    let n := (alGet k.ls.seqs st).getD 0
    let r : LsRecord := { stream := BitVec.ofNat 16 st, seq := BitVec.ofNat 32 n, check := crc64 (checkedBytes p) }
    { k with ls := { k.ls with
        own := k.ls.own ++ [r], unsent := k.ls.unsent ++ [r], seqs := alSet k.ls.seqs st (n + 1) } }
  else k

/-- Puts a packet in motion: to this chip's own partitions, or towards the link of its route. Answers
none where the lookup fails at the origin (R332). -/
def State.launch (s : State) (vc : Fin 8) (p : Packet) : Option State :=
  if s.isHere p then
    some { s with transit := s.transit ++ [{ vc := vc, pkt := p, path := ownPath vc p none }] }
  else match s.route vc p with
    | none => none
    | some l =>
      some { s with transit := s.transit ++ [{ vc := vc, pkt := p, link := some l, path := ownPath vc p (some l) }] }

/-- A packet formed by an engine of a core: recorded, then launched. -/
def State.send (s : State) (p : PartId) (rank unit : Nat) (vc : Fin 8) (pkt : Packet) : Option State :=
  (s.modPart p (fun k => k.record rank unit pkt)).launch vc pkt

/-- Sends a list of packets; the second component says that some lookup failed. -/
def State.sendAll (s : State) (p : PartId) (rank unit : Nat) (vc : Fin 8) : List Packet → State × Bool
  | [] => (s, false)
  | x :: t =>
    match s.send p rank unit vc x with
    | none => (s, true)
    | some s => s.sendAll p rank unit vc t

/-- A response or a control packet of a partition control block; one without a route is not sent. -/
def State.reply (s : State) (vc : Fin 8) (pkt : Packet) : State := (s.launch vc pkt).getD s

end Sys2Proof.Machine
end

