-- ==== Sys2Proof/Machine/Issue.lean ====
section
/-! DEFINITION. The issue of an instruction at the head of its queue (R102, R128, R134, R135, R213, R241,
R256, R262, R266), shared by every engine: what holds it, what rejects it, what its reads meet, and what
it leaves in flight. -/

namespace Sys2Proof.Machine

/-- The array queue and the vector queue (R251). -/
def qArray : QueueId := 8
def qVec : QueueId := 9

/-- What an engine finds out about its instruction before it acts: a rejection with its REASON; a wait on
a resource, with what the engine has noted by then; words that decide what follows, read first; words that
are read as the instruction runs, whose sleeping groups do not hold it (R84); or the words it will read and
write, what must still happen before it may complete, and its effect. -/
inductive Todo where
  | reject (reason : Nat)
  | wait (noted : State → State)
  | need (reads : List (CoreId × Nat)) (next : Todo)
  | stream (reads : List (CoreId × Nat)) (next : Todo)
  | run (reads writes : List (CoreId × Nat)) (due : State → Until) (eff : State → State)

/-- What a plan reads before its end is known, what it reads as it runs, and its end. -/
def Todo.first : Todo → List (CoreId × Nat)
  | .need r t => r ++ t.first
  | .stream _ t => t.first
  | _ => []

def Todo.soft : Todo → List (CoreId × Nat)
  | .need _ t => t.soft
  | .stream r t => r ++ t.soft
  | _ => []

def Todo.last : Todo → Todo
  | .need _ t => t.last
  | .stream _ t => t.last
  | t => t

/-- A wait that leaves nothing behind. -/
def Todo.waits : Todo := .wait (fun s => s)

/-- A plan unless some condition rejects it. -/
def Todo.unless (rej : Option Nat) (next : Todo) : Todo :=
  match rej with
  | some r => .reject r
  | none => next

/-- An instruction that does nothing but issue (R17, R268). -/
def Todo.nop : Todo := .run [] [] (fun _ => .now) (fun s => s)

/-- The REASON of the first condition that holds. -/
def firstReason (l : List (Bool × Nat)) : Option Nat := (l.find? (·.1)).map (·.2)

/-- A wait on counter `c` with target `t` is satisfied (R262). -/
def Counter.met (k : Counter) (t : BitVec 12) : Bool := decide ((k.count - (k.base + t)).toNat < 2048)

/-- Ready counter `n` of a core. -/
def Core.counter (k : Core) (n : BitVec 5) : Counter := k.counters[n.toNat]'n.isLt

def Core.wait0 (k : Core) (h : Header) : Bool := !h.w0en || (k.counter h.w0ctr).met h.w0tgt
def Core.wait1 (k : Core) (h : Header) : Bool := !h.w1en || (k.counter h.w1ctr).met h.w1tgt

/-- Both enabled waits of a header are satisfied (R256). -/
def Core.waits (k : Core) (h : Header) : Bool := k.wait0 h && k.wait1 h

/-- The queue has been stopped by a rejection or a fault (R89, R128, R135, R209). -/
def Core.stopped (k : Core) (q : QueueId) : Bool :=
  if q = qArray then k.array.state == 7 else (k.queue q).state == 4 || (k.queue q).state == 5

/-- A step is in progress, the core is enabled and awake, and the queue is not stopped. -/
def State.canPresent (s : State) (c : CoreId) (q : QueueId) : Bool :=
  (s.part (partOf c)).stepping && s.enabled c && s.domains[c.val]! == 0 && !(s.core c).stopped q

/-- Counter 31 of rank 0 counts the requests of a ring (R407). -/
def State.ringCore (s : State) (c : CoreId) : Bool := (s.part (partOf c)).srvMode == 2 && s.rankOf c == 0

/-- The slip of an instruction's waits (R266); a wait of the ring's counter never slips (R407). -/
def State.waitSlip (s : State) (i : Issue) : Nat :=
  let ring := s.ringCore i.core && ((i.hdr.w0en && i.hdr.w0ctr == 31) || (i.hdr.w1en && i.hdr.w1ctr == 31))
  if i.hdr.slack = 63 ∨ (i.hdr.w0en = false ∧ i.hdr.w1en = false) ∨ ring then 0
  else i.waited - 16 * i.hdr.slack.toNat

/-- Adds slip to CORE_SLIP, and logs EV_SLIP where it exceeds a non-zero limit and the mark is clear. -/
def State.addSlip (s : State) (c : CoreId) (q : QueueId) (qpos : BitVec 16) (n : Nat) (limit : BitVec 16)
    (mark : Marks → Bool) (set : Marks → Marks) : State :=
  let s := s.modCore c (fun k => { k with slip := satAdd k.slip n })
  if limit ≠ 0 ∧ limit.toNat < n ∧ mark (s.core c).marks = false then
    (s.modCore c (fun k => { k with marks := set k.marks })).log 0x0005 (srcCore c) q.val qpos.toNat n 0
  else s

/-- The head of a queue waits: STATE `st` and QPOS show it (R129, R167). -/
def State.headWaits (s : State) (q : QueueId) (op : BitVec 8) (i : Issue) (st : BitVec 3) : State :=
  s.modQueue i.core q (fun k => { k with
    state := (if q = qArray then k.state else st), qpos := i.qpos, waiting := some i, waitOp := op,
    since := some (k.since.getD s.time), stallAt := s.time })

/-- The head of a queue with the cycles it has waited by now. -/
def State.waitedNow (s : State) (q : QueueId) (i : Issue) : Issue :=
  match ((s.core i.core).queue q).since with
  | some t => { i with waited := max i.waited (s.ccSince (partOf i.core) t) }
  | none => i

/-- The slip of one wait goes to the core's slip counter (R266). -/
def State.addWaitSlip (s : State) (q : QueueId) (i : Issue) : State :=
  s.addSlip i.core q i.qpos (s.waitSlip i) (s.core i.core).waitSlipLimit
    (·.waitSlip) (fun m => { m with waitSlip := true })

/-- The waits of the instruction at the head are met: their slip is counted, once, whatever then becomes of
the instruction (R266). -/
def State.waitsMet (s : State) (q : QueueId) (i : Issue) : State :=
  if ((s.core i.core).queue q).slipped then s
  else (s.addWaitSlip q i).modQueue i.core q (fun k => { k with slipped := true })

/-- Cycles in which the head of the vector queue has waited for an operand or a unit since it was last
presented (R131), whatever then becomes of it. -/
def State.addStall (s : State) (q : QueueId) (i : Issue) (n : Nat) : State :=
  if q = qVec then s.modVec i.core (fun v => { v with stall := satAdd v.stall n }) else s

/-- Cycles for which the head has waited for an operand or a unit since it was last presented. -/
def State.stalledNow (s : State) (c : CoreId) (q : QueueId) : Nat :=
  let k := (s.core c).queue q
  if k.state = 3 then s.ccSince (partOf c) k.stallAt else 0

/-- The queue's head is taken away from it. -/
def Queue.free (k : Queue) : Queue := { k with waiting := none, slipped := false, since := none }

/-- A rejection with BOUNDS (R89, R128, R135): the queue stops, the record is made, EV_BOUNDS is logged and
the partition stops its step. -/
def State.rejectAt (s : State) (q : QueueId) (i : Issue) (reason : Nat) : State :=
  let s := if q = qArray then s.modArray i.core (fun a => { a with state := 7, boundsStop := true })
    else s.modQueue i.core q (fun k => { k with
      state := 5, qpos := i.qpos, rejValid := true, rejReason := BitVec.ofNat 3 reason, rejQpos := i.qpos })
  (s.log 0x0007 (srcCore i.core) q.val i.qpos.toNat reason 0).stopStep (partOf i.core) stBOUNDS 3

/-- An uncorrectable word under a queue's instruction (R209): the queue stops and the word is contained. The
instruction has not issued, and CORE_VEC_ISSUE does not count it (R130; DESIGN CHOICE, Assumption 99). -/
def State.faultAt (s : State) (q : QueueId) (i : Issue) (x : CoreId × Nat) : State :=
  let s := if q = qArray then s.modArray i.core (fun a => { a with state := 7, boundsStop := false })
    else s.modQueue i.core q (fun k => { k with state := 4, qpos := i.qpos })
  let s := s.contain x.1 x.2 (if x.1 = i.core then q.val else 10) i.core.val
  if partOf x.1 = partOf i.core then s else s.stopStep (partOf i.core) stFAULT 2

/-- What the issue of an instruction adds beside its effect: issue counts, the queue's status and position,
and the instruction in flight. The end of a queue is a kernel end (R255). -/
def State.issued (s : State) (q : QueueId) (op : BitVec 8) (i : Issue) (due : Until) : State :=
  let s := if q = qVec then s.modVec i.core (fun v => { v with issue := satAdd v.issue 1 }) else s
  let k := (s.core i.core).queue q
  let last := decide (k.pos = i.qpos.toNat) && !k.ended && (k.pass i.qpos.toNat).ended
  let s := s.modQueue i.core q (fun k => { (k.pass i.qpos.toNat).free with
    state := (if q = qArray then k.state else 1), qpos := i.qpos })
  s.modCore i.core (fun k => { k with
    inflight := k.inflight ++
      [{ q := q, op := op, qpos := i.qpos, hdr := { i.hdr with kend := i.hdr.kend || last }, due := due }] })

/-- Removes what was held for a queue's head, from every core of its partition. -/
def State.unhold (s : State) (q : QueueId) (c : CoreId) : State :=
  (coresOf (partOf c)).foldl (fun s x =>
    if (s.core x).memory.held.isEmpty then s else
    s.modMem x (fun m => { m with held := m.held.filter (fun h =>
      (List.range 8).all (fun g => h != .instr c q g)) })) s

/-- The corrections made by reads in order, and the fault at the first uncorrectable word (R208, R209). -/
def State.readFault (s : State) (q : QueueId) (i : Issue) (reads : List (CoreId × Nat)) (x : CoreId × Nat) : State :=
  (s.corrections (s.beforeBad reads)).faultAt q i x

/-- Runs a plan after `seen` have been read, with `soft` among the words still to be read: the groups it
touches must be ON (R102, R213), its reads must be correctable (R209) before anything is made of them, and
corrections are counted (R208) before the effect. -/
def State.runPlanFrom (q : QueueId) (op : BitVec 8) (i : Issue) :
    List (CoreId × Nat) → List (CoreId × Nat) → Todo → State → State
  | seen, _, .reject r, s => (s.corrections seen).rejectAt q i r
  | _, _, .wait noted, s => (noted s).headWaits q op i 3
  | seen, soft, .need reads next, s =>
    match s.asleep reads with
    | some x => (s.holdAt (fun g => .instr i.core q g.val) x).headWaits q op i 3
    | none =>
      match s.firstBad reads with
      | some x => s.readFault q i (seen ++ reads) x
      | none => State.runPlanFrom q op i (seen ++ reads) soft next s
  | seen, soft, .stream reads next, s => State.runPlanFrom q op i seen (soft ++ reads) next s
  | _, soft, .run reads writes due eff, s =>
    match s.asleep (reads ++ writes) with
    | some x => (s.holdAt (fun g => .instr i.core q g.val) x).headWaits q op i 3
    | none =>
      match s.firstBad (reads ++ soft) with
      | some x => s.readFault q i (reads ++ soft) x
      | none =>
        let s := ((s.corrections (reads ++ soft)).wakeAll soft).unhold q i.core
        let s := s.issued q op i (due s)
        eff s

def State.runPlan (s : State) (q : QueueId) (op : BitVec 8) (i : Issue) (t : Todo) : State :=
  State.runPlanFrom q op i [] [] t s

/-- The waits of a presented instruction are accounted for. -/
def State.begun (s : State) (q : QueueId) (i : Issue) : State := (s.addStall q i i.stalled).waitsMet q i

/-- Presents an instruction, of opcode `op`, at the head of its queue; the plan is that of the state in which it
is presented. -/
def State.present (s : State) (q : QueueId) (op : BitVec 8) (i : Issue) (plan : State → Todo) : State :=
  if s.canPresent i.core q = false then s
  else if (s.core i.core).waits i.hdr = false then (s.addStall q i i.stalled).headWaits q op i 2
  else (s.begun q i).runPlan q op i (plan s)

/-- What lets a presented instruction go on to its plan. -/
def State.Ready (s : State) (q : QueueId) (i : Issue) : Prop :=
  s.canPresent i.core q = true ∧ (s.core i.core).waits i.hdr = true

/-- Range past the 2^20 words of a memory (R268: an empty range is not checked). -/
def pastMem (a n : Nat) : Bool := decide (n ≠ 0 ∧ 2 ^ 20 < a + n)

/-- Words that hold `n` items of `bits` bits. -/
def wordsFor (n bits : Nat) : Nat := (n * bits + 255) / 256

/-- The first time in a step that a core logs a run-time count above its limit (R69). -/
def State.slotCount (s : State) (c : CoreId) (q : QueueId) (qpos : BitVec 16) (n : Nat) : State :=
  if (s.core c).marks.slot then s
  else (s.modCore c (fun k => { k with marks := { k.marks with slot := true } })).log
    0x000B (srcCore c) q.val qpos.toNat n 0

/-- Bad T2 bytes decoded (R43): counted, flagged, and the first of a step logged with its word. -/
def State.badT2 (s : State) (c : CoreId) (n : Nat) (addr : Nat) : State :=
  if n = 0 then s else
  let s := s.modCore c (fun k => { k with t2Bad := satAdd k.t2Bad n, flags := k.flags ||| flT2Bad })
  if (s.core c).marks.t2 then s
  else (s.modCore c (fun k => { k with marks := { k.marks with t2 := true } })).log
    0x0004 (srcCore c) addr 0 0 0

end Sys2Proof.Machine
end

