-- ==== Sys2Proof/Machine/Flags.lean ====
section
/-! DEFINITION. The flag computations shared by the engines (R41, R43, R48, R55): the flags of a list of
conversions, of the scales a range decodes, and the bad T2 bytes of a range. -/

namespace Sys2Proof.Machine

/-- The union of the flags of a list of results. -/
def orFlags {α : Type} (l : List (α × FmtFlags)) : FmtFlags := l.foldl (fun a x => a ||| x.2) 0

/-- MX_NAN_SCALE when a scale byte 0xFF is among those decoded (R41). -/
def scaleFlags (scs : List Nat) : FmtFlags := if scs.any (· == 255) then flMxNan else 0

/-- Bytes of codes 243 to 255 among the four blocks' bytes of a T2 word, blocks `b0` to `b0 + n − 1`. -/
def t2BadIn (w : MWord) (b0 n : Nat) : Nat :=
  ((List.range (7 * n)).filter (fun j => 243 ≤ (wordByte w (7 * b0 + j)).toNat)).length

/-- The bad T2 bytes of blocks `b` to `b + n − 1` of a T2 region read by `rd`, and the word of the first. -/
def t2BadRange (rd : Nat → MWord) (addr b n : Nat) : Nat × Nat :=
  (List.range n).foldr (fun i acc =>
    let k := b + i
    let m := t2BadIn (rd (addr + k / 4)) (k % 4) 1
    if m = 0 then acc else (acc.1 + m, addr + k / 4)) (0, 0)

end Sys2Proof.Machine
end

