-- ==== Sys2Proof/Machine/Operands.lean ====
section
/-! DEFINITION. The operand forms shared by the engines: elements of every format in a region of memory
(R33, R40 to R44, R107), lists of words that a region touches, and rows of values stored in a format
(R48, R50, R70). -/

namespace Sys2Proof.Machine

/-- Bits [lo + n − 1 : lo] of the region that starts at word `a`, read by `rd`. -/
def rdBits (rd : Nat → MWord) (a lo n : Nat) : Nat :=
  let x := (rd (a + lo / 256)).toNat >>> (lo % 256)
  let y := if lo % 256 + n ≤ 256 then x else
    x + (rd (a + lo / 256 + 1)).toNat <<< (256 - lo % 256)
  y % 2 ^ n

/-- The bits of element `i`: its storage bits, or its digit for T2 (R42, R44). -/
def rdElem (rd : Nat → MWord) (f : Fmt) (a i : Nat) : Nat :=
  match f with
  | .t2 => t2Digit (wordByte (rd (a + i / 128)) (7 * (i / 32 % 4) + i % 32 / 5)).toNat (i % 32 % 5)
  | f => rdBits rd a (i * f.bits) f.bits

/-- The scale byte of block `b`: in the scale region for MX, in the word for T2 (R40, R44). -/
def rdScale (rd : Nat → MWord) (f : Fmt) (a sa b : Nat) : Nat :=
  match f with
  | .t2 => (wordByte (rd (a + b / 4)) (28 + b % 4)).toNat
  | _ => rdBits rd sa (8 * b) 8

/-- The value of element `i`; `bare` takes the constant scale 0x7F (R41, R110). -/
def rdNum (rd : Nat → MWord) (f : Fmt) (bare : Bool) (a sa i : Nat) : Num :=
  let x := rdElem rd f a i
  if f.isBlock && !bare then decodeScaled f.elem x (rdScale rd f a sa (i / 32)) else f.elem.decode x

/-- Words that elements `i` to `i + n − 1` of a region touch (R107). -/
def elemWords (f : Fmt) (a i n : Nat) : List Nat :=
  if n = 0 then [] else
  let b := f.bits
  let w0 := i * b / 256
  let w1 := ((i + n) * b - 1) / 256
  (List.range (w1 - w0 + 1)).map (fun k => a + w0 + k)

/-- Words that the scale bytes of elements `i` to `i + n − 1` touch. -/
def scaleWords (sa i n : Nat) : List Nat :=
  if n = 0 then [] else
  let w0 := i / 32 / 32
  let w1 := (i + n - 1) / 32 / 32
  (List.range (w1 - w0 + 1)).map (fun k => sa + w0 + k)

/-- One past the last word of a range of elements. -/
def elemEnd (f : Fmt) (a i n : Nat) : Nat := a + ((i + n) * f.bits + 255) / 256

/-- The scale bytes decoded for elements `i` to `i + n − 1`. -/
def scalesRead (rd : Nat → MWord) (f : Fmt) (bare : Bool) (a sa i n : Nat) : List Nat :=
  if !f.isBlock || bare || n = 0 then [] else
  (List.range ((i + n - 1) / 32 - i / 32 + 1)).map (fun k => rdScale rd f a sa (i / 32 + k))

/-- A block's writes: its elements at block `b` of the region, and its scale where one is written. -/
def blockWrites (c : CoreId) (f : Fmt) (a sa b : Nat) (scale : Option Nat) (els : List Nat) : List Wr :=
  match f with
  | .t2 =>
    let bytes := t2BlockBytes els
    let word := a + b / 4
    let body := (bytes.zipIdx).flatMap (fun x => wrField c word (8 * (7 * (b % 4) + x.2)) 8 x.1)
    body ++ (match scale with
      | some s => wrField c word (8 * (28 + b % 4)) 8 s
      | none => [])
  | f =>
    let body := (els.zipIdx).flatMap (fun x => wrField c a ((32 * b + x.2) * f.bits) f.bits x.1)
    body ++ (match scale with
      | some s => wrField c sa (8 * b) 8 s
      | none => [])

/-- Writes of plain elements from index `i` upward. -/
def elemWrites (c : CoreId) (f : Fmt) (a i : Nat) (els : List Nat) : List Wr :=
  (els.zipIdx).flatMap (fun x => wrField c a ((i + x.2) * f.bits) f.bits x.1)

/-- One row of values stored in a format at word `a`, its blocks' chosen scales from byte `sb` of region
`sa`, the row completed to whole words with zeros (R48, R50, R52, R70). -/
def rowWrites (c : CoreId) (f : Fmt) (rnd : Nat) (sat : Bool) (a sa sb : Nat)
    (vs : List (Num × BitVec 32)) : List Wr × FmtFlags :=
  if f.isBlock then
    let n := (vs.length + 31) / 32
    (List.range n).foldl (fun acc b =>
      let blk := (vs.drop (32 * b)).take 32
      let (sc, els, fl) := encodeBlock f .chosen rnd sat blk
      let els := els ++ List.replicate (32 - els.length) 0
      let ws := match f with
        | .t2 => blockWrites c f a sa b (some sc) els
        | f => blockWrites c f a sa b none els ++ wrField c sa (8 * (sb + b)) 8 sc
      (acc.1 ++ ws, acc.2 ||| fl)) ([], 0)
  else
    let es := vs.map (fun v => f.elem.encode rnd sat v.2 v.1)
    (elemWrites c f a 0 (es.map (·.1)), orFlags es)

/-- The words that a list of writes touches, and those that it writes only in part (R210). -/
def wrWords (ws : List Wr) : List (CoreId × Nat) := ws.map (fun w => (w.core, w.addr))
def wrPartial (ws : List Wr) : List (CoreId × Nat) :=
  (ws.filter (fun w => w.mask != ~~~0)).map (fun w => (w.core, w.addr))

end Sys2Proof.Machine
end

