-- ==== Sys2Proof/Machine/MuleSend.lean ====
section
/-! DEFINITION. The sending half of the Mule (R88, R162): rows of a PASS or an MSEND become MULE_ROWS
packets of a stream. -/

namespace Sys2Proof.Machine

/-- Lists cut into pieces of `n`. -/
def chunksGo {α : Type} (n : Nat) : Nat → List α → List (List α)
  | 0, _ => []
  | _ + 1, [] => []
  | k + 1, x :: t => (x :: t).take n :: chunksGo n k ((x :: t).drop n)

def chunks {α : Type} (n : Nat) (l : List α) : List (List α) := chunksGo (max n 1) l.length l

/-- The destination indices of `n` rows from row `t` of a stream, read from its list in own memory. -/
def State.ridx (s : State) (c : CoreId) (x : Stream) (t n : Nat) : List (BitVec 32) :=
  (List.range n).map (fun i => s.u32At c x.ridx.toNat (t + i))

/-- The words that hold entries `t` to `t + n − 1` of a list of 32-bit entries. -/
def listWords (a t n : Nat) : List Nat :=
  if n = 0 then [] else (List.range ((t + n - 1) / 8 - t / 8 + 1)).map (fun i => a + t / 8 + i)

/-- One value of a row in the stream's format (R88, R162). -/
def rowValue (bf16 : Bool) (factor : Option (BitVec 32)) (v : BitVec 32) : Nat × FmtFlags :=
  let f : FFmt := if bf16 then .bf16 else .fp32
  match factor with
  | some g =>
    let (p, f1) := (f32 v).mul (f32 g)
    let (b, f2) := encodeFlt f 0 false 0 p
    (b, f1 ||| f2)
  | none => if bf16 then encodeFlt f 0 false 0 (f32 v) else (v.toNat, 0)

/-- The rows that are sent: index, bytes and flags. -/
def State.muleRows (s : State) (c : CoreId) (x : Stream) (bf16 : Bool) (rows : List (List (BitVec 32))) :
    List (Nat × List Byte) × FmtFlags :=
  let idx := s.ridx c x x.rows rows.length
  ((rows.zip idx).zipIdx).foldl (fun acc e =>
    let ((row, i), t) := e
    if i = 0xFFFFFFFF then acc else
    let factor := if x.rscen then some (s.u32At c x.rsc.toNat (x.rows + t)) else none
    let vs := row.map (rowValue bf16 factor)
    let bytes := vs.flatMap (fun v => leBytes (if bf16 then 2 else 4) v.1)
    (acc.1 ++ [(i.toNat, bytes)], acc.2 ||| orFlags vs)) ([], 0)

/-- A MULE_ROWS packet of some rows (R162, R324). -/
def State.mulePacket (s : State) (c : CoreId) (x : Stream) (bf16 : Bool) (w : Nat) (fin : Bool)
    (rows : List (Nat × List Byte)) : Packet :=
  let p := partOf c
  let wc := if w = 1 then 0 else if w = 2 then 1 else 2
  mkPacket s p (s.rankOf c) x.chip.toNat x.part.toNat 4 (fin.toNat + 2 * bf16.toNat + 4 * wc) x.win.toNat
    ((rows.zipIdx).map (fun e => (64 + 12 * e.2, 12, e.1.1)))
    (wordsOfBytes (rows.flatMap (·.2)))

/-- The packets of one PASS or MSEND, END on the last where it is the stream's PASSES-th (R162). -/
def State.mulePackets (s : State) (c : CoreId) (x : Stream) (bf16 : Bool) (w : Nat)
    (rows : List (Nat × List Byte)) : List Packet :=
  let fin := x.done + 1 == x.passes.toNat
  let per := 4096 / (128 * w * (if bf16 then 2 else 4))
  let cs := chunks per rows
  if cs.isEmpty then (if fin then [s.mulePacket c x bf16 w true []] else [])
  else (cs.zipIdx).map (fun e => s.mulePacket c x bf16 w (fin && e.2 + 1 == cs.length) e.1)

/-- Feeds rows into a stream and sends them. The second component says that a lookup failed. -/
def State.muleSend (s : State) (c : CoreId) (n : Nat) (x : Stream) (bf16 : Bool) (w : Nat)
    (rows : List (List (BitVec 32))) : State × Bool :=
  let (rs, fl) := s.muleRows c x bf16 rows
  let pkts := s.mulePackets c x bf16 w rs
  let fin := x.done + 1 == x.passes.toNat
  let x' := { x with rows := (if fin then 0 else x.rows + rows.length),
                     done := (if fin then 0 else x.done + 1) }
  let s := (s.flag c fl).modCore c (fun k => { k with streams := alSet k.streams n x' })
  s.sendAll (partOf c) (s.rankOf c) 1 (vcOf x.cls.toNat false) pkts

/-- Whether some index of the rows to be sent is out of range (R162). -/
def badRidx (l : List (BitVec 32)) : Bool := l.any (fun i => i != 0xFFFFFFFF && decide (4096 ≤ i.toNat))

/-- A lookup failed at the origin (R332): the queue stops with a status and so does the step (R159). -/
def State.broken (s : State) (c : CoreId) (q : QueueId) : State :=
  let s := if q = qArray then s.modArray c (fun a => { a with state := 7 })
    else s.modQueue c q (fun k => { k with state := 4 })
  s.stopStep (partOf c) stBROKEN 7

end Sys2Proof.Machine
end

