-- ==== Sys2Proof/Machine/Array.lean ====
section
/-! DEFINITION. The matrix array's instructions (spec/03): PASS, ACCOUT, EWISE and FFENCE, and the ramp of
R86. -/

namespace Sys2Proof.Machine

/-! Accumulator memory (R67, R74). -/

def ArrayUnit.accAt (a : ArrayUnit) (row c : Nat) : BitVec 32 := smGet a.acc (128 * row + c)

/-- Writes a row of 128 values. -/
def accSetRow (m : SMap 32) (row : Nat) (vs : List (BitVec 32)) : SMap 32 := smSetMany m (128 * row) vs

def ArrayUnit.accRow (a : ArrayUnit) (row : Nat) : List (BitVec 32) :=
  (List.range 128).map (a.accAt row)

/-! Format pairings (R63). -/

def Fmt.isAct8 : Fmt → Bool
  | .e4m3 | .e5m2 | .mxE4m3 | .mxE5m2 | .mxE3m2 | .mxE2m3 | .mxE2m1 => true
  | _ => false

/-- Weights per register and whether the pairing accumulates in INT32; none where R63 lists no pairing. -/
def pairing (wf af : Fmt) : Option (Nat × Bool) :=
  match wf with
  | .bf16 | .fp16 => if af = .bf16 ∨ af = .fp16 then some (1, false) else none
  | .e4m3 | .e5m2 | .mxE4m3 | .mxE5m2 => if af.isAct8 then some (1, false) else none
  | .mxE3m2 | .mxE2m3 | .mxE2m1 => if af.isAct8 then some (2, false) else none
  | .t2 => if af.isAct8 ∨ af = .int8 ∨ af = .mxint8 then some (4, false) else none
  | .int8 => if af = .int8 ∨ af = .int4 then some (1, true) else none
  | .mxint8 => if af = .int8 ∨ af = .mxint8 ∨ af = .int4 then some (1, false) else none
  | .int4 => if af = .int8 ∨ af = .int4 then some (2, true) else none
  | _ => none

/-- Weights per register of a weight format (R63). -/
def Fmt.perReg : Fmt → Nat
  | .mxE3m2 | .mxE2m3 | .mxE2m1 | .int4 => 2
  | .t2 => 4
  | _ => 1

/-- Weight formats that have no N:M mode (R68). -/
def Fmt.noSparse (f : Fmt) : Bool := f = .bf16 ∨ f = .fp16 ∨ f = .t2

/-! A pass. -/

/-- m of R68: logical rows per physical row. -/
def sparseM (sp : BitVec 2) : Nat := if sp = 1 then 2 else if sp = 2 then 4 else 1

/-- The logical row that cell (k, n) takes (R79, R144, R176). -/
def Tile.logical (t : Tile) (k n : Nat) : Nat :=
  if t.sparse = 1 then 4 * (k / 2) + (smGet t.index (128 * k + n)).toNat
  else if t.sparse = 2 then 4 * k + (smGet t.index (128 * k + n)).toNat
  else match t.rows with
    | some rs => rs.getD k 0x100000
    | none => k

/-- Physical rows of a row group (R64). -/
def groupRows (sp : BitVec 2) : Nat := 32 / sparseM sp

/-- The weight of cell (k, n), sub-weight `u`, in format `wf` (R41, R63, R141). -/
def Tile.weight (t : Tile) (wf : Fmt) (k n u : Nat) : Num :=
  let w := wf.perReg
  let x := (smGet t.cells (128 * k + n)).toNat >>> (u * wf.bits) % 2 ^ wf.bits
  if wf.isBlock then
    let g := if t.rows.isSome then k else k / groupRows t.sparse
    decodeScaled wf.elem x (smGet t.scales (g * 128 * w + w * n + u)).toNat
  else wf.elem.decode x

/-- A word as the feeders see it: a held word of the same pass key, or the bank's (R233, R234). -/
def State.feedWord (s : State) (o : CoreId) (held : List (Nat × MWord)) (a : Nat) : MWord :=
  match alGet held a with
  | some w => w
  | none => s.peek o a

/-- The exact sum of the products of one row group, before and after which nothing is rounded (R54). -/
def groupSum (acts : Nat → Num) (t : Tile) (wf : Fmt) (n u g : Nat) : Num × FmtFlags :=
  let r := groupRows t.sparse
  (List.range r).foldl (fun acc i =>
    let k := g * r + i
    let (p, f1) := (acts (t.logical k n)).mul (t.weight wf k n u)
    let (x, f2) := acc.1.add false p
    (x, acc.2 ||| f1 ||| f2)) (.fin false 0 0, 0)

/-- One output value: the running FP32 value of a column after its row groups (R54, R77). -/
def columnF (acts : Nat → Num) (t : Tile) (wf : Fmt) (n u : Nat) (start : BitVec 32) :
    BitVec 32 × FmtFlags :=
  (List.range (128 / groupRows t.sparse)).foldl (fun acc g =>
    let (x, f1) := groupSum acts t wf n u g
    if x.isZero then (acc.1, acc.2 ||| f1) else
    let (y, f2) := (f32 acc.1).add false x
    let (z, f3) := toF32 y
    (z, acc.2 ||| f1 ||| f2 ||| f3)) (start, 0)

/-- The integer of an exact value that is one. -/
def Num.toInt : Num → Int
  | .fin neg m e => Num.signed neg (if 0 ≤ e then m * 2 ^ e.toNat else m >>> (-e).toNat)
  | _ => 0

/-- INT32 addition that saturates and says so (R53). -/
def int32Add (a : BitVec 32) (i : Int) : BitVec 32 × FmtFlags :=
  let (v, c) := clampInt 32 (a.toInt + i)
  (BitVec.ofInt 32 v, if c then flOverflow else 0)

/-- One output value of an integer pairing (R53, R54). -/
def columnI (acts : Nat → Num) (t : Tile) (wf : Fmt) (n u : Nat) (start : BitVec 32) :
    BitVec 32 × FmtFlags :=
  (List.range (128 / groupRows t.sparse)).foldl (fun acc g =>
    let (x, f1) := groupSum acts t wf n u g
    let (z, f2) := int32Add acc.1 x.toInt
    (z, acc.2 ||| f1 ||| f2)) (start, 0)

/-- All 128·w values of one activation row, in column order. -/
def passRow (acts : Nat → Num) (t : Tile) (wf : Fmt) (isInt : Bool) (start : Nat → BitVec 32) :
    List (BitVec 32 × FmtFlags) :=
  let w := wf.perReg
  (List.range (128 * w)).map (fun c =>
    (if isInt then columnI else columnF) acts t wf (c / w) (c % w) (start c))

/-- Words of one activation row (R68), of the layer's width for a compacted tile (R81, R144). -/
def actElems (t : Tile) (sp : BitVec 2) : Nat :=
  match t.rows with
  | some _ => 128 * ((t.klen + 127) / 128)
  | none => 128 * sparseM sp

/-- What a PASS runs on: the tile it uses and whether it must run no rows (R76, R78, R143). -/
def ArrayUnit.taken (a : ArrayUnit) (o : PassOp) : Tile × Bool :=
  if o.swap then
    match a.shadow with
    | some (.tile t) => (t, false)
    | some .skip => (a.active, true)
    | none => (a.active, false)
  else (a.active, false)

/-- The count word of a PASS: the one read when its waits were met, or the word as it stands (R69). -/
def State.passCountWord (s : State) (c src : CoreId) (o : PassOp) : Nat :=
  ((s.core c).array.count.getD (wordLane (s.peek src o.cntAddr.toNat) 0)).toNat

/-- Rows that run, and the count read when it exceeds LEN (R69). -/
def State.passLen (s : State) (c src : CoreId) (o : PassOp) : Nat × Option Nat :=
  let n := s.passCountWord c src o
  if o.lenInd then (min n o.len.toNat, if o.len.toNat < n then some n else none)
  else (o.len.toNat, none)

/-- The activation and scale words of a pass of `rows` rows. -/
def passWords (o : PassOp) (af : Fmt) (t : Tile) (rows : Nat) : List Nat :=
  let m := actElems t o.sparse
  let rw := wordsFor m af.bits
  (List.range (rows * rw)).map (o.aaddr.toNat + ·) ++
    (if af.isMX then (List.range (wordsFor (rows * (m / 32)) 8)).map (o.ascale.toNat + ·) else [])

/-- The rejections of R34, R63, R66, R67, R68 and R162 for a PASS on a tile, which runs no rows under a skip
mark; with no tile yet, those that no tile decides. -/
def State.passRejectOn (s : State) (c : CoreId) (o : PassOp) (tile : Option (Tile × Bool)) : Option Nat :=
  let wf := Fmt.ofCode o.wfmt
  let af := Fmt.ofCode o.afmt
  let st := alGet (s.core c).streams o.fwdStream.toNat
  match firstReason [
      (o.asel ≠ 0 ∧ o.asel.toNat < 4, 2), (2 ≤ o.accMode.toNat, 2), (o.sparse = 3, 2),
      (2 ≤ o.fwdFmt.toNat, 2), (wf = none, 2), (af = none, 2)] with
  | some r => some r
  | none =>
    match wf, af with
    | some wf, some af =>
      match pairing wf af with
      | none => some 6
      | some (w, isInt) =>
        let src := (s.sel c o.asel).getD c
        let fixed := [
          (o.sparse ≠ 0 && wf.noSparse, 6), (o.fwd && isInt, 6),
          (s.sel c o.asel = none, 3),
          (decide (4096 < o.accBase.toNat + o.len.toNat * w) && decide (o.len ≠ 0) &&
            !(o.fwd && o.accMode == 0), 3),
          (o.fwd && st.isNone, 5)]
        match tile with
        | none => firstReason fixed
        | some (t, skip) =>
        let m := actElems t o.sparse
        let rw := wordsFor m af.bits
        let rows := if skip then 0 else (s.passLen c src o).1
        firstReason (fixed ++ [
          (pastMem o.aaddr.toNat (o.len.toNat * rw), 3),
          (af.isMX && pastMem o.ascale.toNat (wordsFor (o.len.toNat * (m / 32)) 8), 3),
          (o.fwd && (match st with
            | some x => pastMem x.ridx.toNat (wordsFor (if rows = 0 then 0 else x.rows + rows) 32) ||
                (x.rscen && pastMem x.rsc.toNat (wordsFor (if rows = 0 then 0 else x.rows + rows) 32))
            | none => false), 3),
          (o.fwd && (match st with
            | some x => badRidx (s.ridx c x x.rows rows)
            | none => false), 4)])
    | _, _ => some 2

/-- The tile that a PASS at the head would run on; none while it waits for one (R76). -/
def ArrayUnit.tileOf (a : ArrayUnit) (o : PassOp) : Option (Tile × Bool) :=
  if o.swap ∧ a.shadow = none then none else some (a.taken o)

def State.passReject (s : State) (c : CoreId) (o : PassOp) : Option Nat :=
  s.passRejectOn c o ((s.core c).array.tileOf o)

/-- Free values stand for what a PASS computes from a tile of another format or sparse mode than its own,
which the manual does not settle. -/
def freeRow (s : State) (n : Nat) : List (BitVec 32 × FmtFlags) :=
  (List.range n).map (fun i => ((Config.freeWord (s.draws + i)).extractLsb' 0 32, 0))

/-- The key of the feeders' held words (R234). -/
def heldKeyOf (o : PassOp) : HeldKey := ⟨o.asel, o.aaddr, o.afmt, o.ascale, o.sparse⟩

/-- The groups of holds sorted by their start, after holds from `lo` to `hi` of which the longest lasted `m`:
first cycle, end and longest hold of each. A hold joins a group whose cycles it shares (R83). -/
def holdGroupsGo : Nat → Nat → Nat → List Hold → List (Nat × Nat × Nat)
  | lo, hi, m, [] => [(lo, hi, m)]
  | lo, hi, m, h :: t =>
    if h.start < hi then holdGroupsGo lo (max hi (h.start + h.len)) (max m h.len) t
    else (lo, hi, m) :: holdGroupsGo h.start (h.start + h.len) h.len t

def holdGroups : List Hold → List (Nat × Nat × Nat)
  | [] => []
  | h :: t => holdGroupsGo h.start (h.start + h.len) h.len t

def insHold (h : Hold) : List Hold → List Hold
  | [] => [h]
  | x :: t => if h.start ≤ x.start then h :: x :: t else x :: insHold h t

/-- Sorted by start; a hold of no cycle is none. -/
def sortHolds (l : List Hold) : List Hold := (l.filter (·.len ≠ 0)).foldr insHold []

/-- The ramp step shown (R86): the steps down that stand, or those that a ramp-up, 8 cc for each, has still
to make good `cc` cycles after it began. -/
def ArrayUnit.rampNow (a : ArrayUnit) (cc : Nat) : Nat := max a.rampStep.toNat (a.upFrom.toNat - cc / 8)

/-- A PASS or an EWISE becomes ready in cycle `gap` of the array's gap, or since its last ramp-down step (R86,
R97): the dummy operation so far and that of the ramp-up count, and the ramp-up begins. An idle array has run
none. -/
def ArrayUnit.getReady (a : ArrayUnit) (now : BitVec 64) (gap : Nat) : ArrayUnit :=
  if a.ready then a else
  let ran := if a.rampStep = 0 then gap else if a.state = 5 then min gap 8 else 0
  { a with
    ready := true, upFrom := a.rampStep, upAt := now, upGap := gap, rampStep := 0,
    dummy := satAdd a.dummy (ran + 8 * a.rampStep.toNat), state := (if a.state = 7 then 7 else 4) }

/-- The gap ends at cycle `gap`: dummy operation has gone on from the ramp-up to the start (R86, R97). -/
def ArrayUnit.endGap (a : ArrayUnit) (now : BitVec 64) (gap : Nat) : ArrayUnit :=
  let a := a.getReady now gap
  { a with dummy := satAdd a.dummy (gap - a.upGap - 8 * a.upFrom.toNat), ready := false }

/-- Cycles in which a pass's row cannot enter physical row 0: those that feeder 0 holds, and the frozen ones
that remain of the groups it does not hold in (R83, R86). -/
def passGaps (h : PassHolds) : Nat :=
  let north := sortHolds (h.feed.filter (fun x => x.unit == 0))
  let own := (holdGroups north).foldl (fun n g => n + min 192 (g.2.1 - g.1)) 0
  let others := (holdGroups (sortHolds (h.feed ++ h.drain))).filter (fun g =>
    !(north.any (fun x => decide (g.1 ≤ x.start ∧ x.start < g.2.1))))
  own + others.foldl (fun n g => n + min 192 (g.2.2 - 8)) 0

/-- Effect of the holds that met a pass (R83, R85, R94 to R97), on the array's registers. -/
def ArrayUnit.holds (a : ArrayUnit) (h : PassHolds) : ArrayUnit :=
  let gs (l : List Hold) := holdGroups (sortHolds l)
  let clamped (l : List (Nat × Nat × Nat)) := l.foldl (fun n g => n + (g.2.2 - 8)) 0
  let span (l : List (Nat × Nat × Nat)) := l.foldl (fun n g => n + (g.2.1 - g.1)) 0
  { a with frozen := satAdd a.frozen (clamped (gs (h.feed ++ h.drain))),
           feedStall := satAdd a.feedStall (span (gs h.feed)),
           drainStall := satAdd a.drainStall (span (gs h.drain)),
           dummy := satAdd a.dummy (passGaps h) }

def slipOf (h : PassHolds) : Nat :=
  (holdGroups (sortHolds (h.feed ++ h.drain))).foldl (fun n g => n + g.2.2) 0

/-- A hold in cycle `t` of its pass. -/
def holdIs (h : Hold) (t : Nat) : Bool := decide (h.start ≤ t ∧ t < h.start + h.len)

/-- The units that hold in cycle `t`, as bits (R90). -/
def holdBits (l : List Hold) (t : Nat) : Nat :=
  ((List.finRange 16).map (fun u => if l.any (fun h => h.unit == u && holdIs h t) then 2 ^ u.val else 0)).sum

/-- Entries of the fullest elastic buffer in cycle `t` of a pass (R82, R83): one for each cycle that a hold
has lasted, at most eight, kept to the end of the pass. -/
def elasticFill (h : PassHolds) (t : Nat) : Nat :=
  (h.feed ++ h.drain).foldl (fun n x => max n (min 8 (min x.len (t + 1 - x.start)))) 0

/-- The array is frozen in cycle `t` of a pass (R83): a hold as long as any of its group has lasted eight
cycles, and goes on. -/
def frozenAt (h : PassHolds) (t : Nat) : Bool :=
  (h.feed ++ h.drain).any (fun x => holdIs x t && decide (x.start + 8 ≤ t) &&
    (holdGroups (sortHolds (h.feed ++ h.drain))).any (fun g =>
      decide (g.1 ≤ x.start ∧ x.start < g.2.1 ∧ x.len = g.2.2)))

/-- The results of a pass, row by row in activation order, each of 128·w values. `held` are the words the
feeders keep. -/
def State.passResults (s : State) (c src : CoreId) (o : PassOp) (wf af : Fmt) (isInt : Bool) (t : Tile)
    (held : List (Nat × MWord)) (rows : Nat) : List (List (BitVec 32 × FmtFlags)) :=
  let a := (s.core c).array
  let w := wf.perReg
  let m := actElems t o.sparse
  let rw := wordsFor m af.bits
  let rd := s.feedWord src held
  let mixed := (t.fmt ≠ o.wfmt ∨ t.sparse ≠ o.sparse) ∧ t.cells ≠ []
  (List.range rows).map (fun i =>
    if mixed then freeRow { s with draws := s.draws + 128 * w * i } (128 * w) else
    let acts := fun j =>
      if m ≤ j then .fin false 0 0 else
      let x := rdElem rd af (o.aaddr.toNat + i * rw) j
      if af.isMX then decodeScaled af.elem x (rdBits rd o.ascale.toNat (8 * (i * (m / 32) + j / 32)) 8)
      else af.elem.decode x
    let start := fun k => if o.accMode = 1 then a.accAt (o.accBase.toNat + i * w + k / 128) (k % 128) else 0
    passRow acts t wf isInt start)

/-- The effect of a PASS that has been issued (R62 to R69, R74 to R85, R88, R92 to R97, R234, R245). -/
def State.passEffect (c : CoreId) (i : Issue) (o : PassOp) (h : PassHolds) (s : State) : State :=
  match Fmt.ofCode o.wfmt, Fmt.ofCode o.afmt, s.sel c o.asel with
  | some wf, some af, some src =>
    let a := (s.core c).array
    let isInt := match pairing wf af with
      | some (_, b) => b
      | none => false
    let (t, skip) := a.taken o
    let (n, clamped) := if skip then (0, none) else s.passLen c src o
    let held := if a.heldKey = some (heldKeyOf o) then a.held else []
    let used := passWords o af t n
    let reused := used.any (fun x => (alGet held x).isSome)
    let kept := if 512 < used.length then [] else
      (used.filter (fun x => (alGet held x).isNone)).foldl (fun l x => l ++ [(x, s.peek src x)]) held
    let res := s.passResults c src o wf af isInt t held n
    let vals := res.map (fun r => r.map (·.1))
    let w := wf.perReg
    let mixed := (t.fmt ≠ o.wfmt ∨ t.sparse ≠ o.sparse) ∧ t.cells ≠ []
    let scs := if af.isMX then (List.range (n * (actElems t o.sparse / 32))).map (fun b =>
      rdBits (s.feedWord src held) o.ascale.toNat (8 * b) 8) else []
    let fl := scaleFlags scs ||| res.foldl (fun f r => f ||| orFlags r) 0
    let acc := if o.fwd then a.acc else
      (vals.zipIdx).foldl (fun m r => smSetMany m (128 * (o.accBase.toNat + r.2 * w)) r.1) a.acc
    let now := s.time
    let s := (s.modArray c (fun a => ({ (if n = 0 then a else a.endGap now i.gap) with
        active := t,
        shadow := (if o.swap then none else a.shadow),
        acc := acc, count := none, ready := false, passAt := now, passHolds := h,
        rowCount := satAdd a.rowCount n,
        heldKey := some (heldKeyOf o), held := kept,
        reuse := (if reused then satAdd a.reuse 1 else a.reuse) }).holds h)).flag c fl
    let s := if mixed then { s with draws := s.draws + 128 * w * n } else s
    let s := match clamped with
      | some k => s.slotCount c qArray i.qpos k
      | none => s
    let s := s.addSlip c qArray i.qpos (slipOf h) (s.core c).array.slipLimit
      (·.passSlip) (fun m => { m with passSlip := true })
    if o.fwd then
      match alGet (s.core c).streams o.fwdStream.toNat with
      | some x =>
        let (s, bad) := s.muleSend c o.fwdStream.toNat x (o.fwdFmt == 1) w vals
        if bad then s.broken c qArray else s
      | none => s
    else s
  | _, _, _ => s

/-- The words a PASS must have before it runs: its count word, unless it has been read, and its stream's
lists. -/
def State.passReads (s : State) (c : CoreId) (o : PassOp) : List (CoreId × Nat) :=
  match s.sel c o.asel with
  | some src =>
    let a := (s.core c).array
    let n := if (a.taken o).2 then 0 else (s.passLen c src o).1
    (if o.lenInd && a.count.isNone then [(src, o.cntAddr.toNat)] else []) ++
    (if o.fwd then
      match alGet (s.core c).streams o.fwdStream.toNat with
      | some x => (listWords x.ridx.toNat x.rows n ++
          (if x.rscen then listWords x.rsc.toNat x.rows n else [])).map (fun y => (c, y))
      | none => []
    else [])
  | none => []

/-- The words its feeders read from banks as it runs: those not held (R84, R234). -/
def State.passFeeds (s : State) (c : CoreId) (o : PassOp) : List (CoreId × Nat) :=
  match Fmt.ofCode o.afmt, s.sel c o.asel with
  | some af, some src =>
    let a := (s.core c).array
    let (t, skip) := a.taken o
    let n := if skip then 0 else (s.passLen c src o).1
    let held := if a.heldKey = some (heldKeyOf o) then a.held else []
    ((passWords o af t n).filter (fun x => (alGet held x).isNone)).map (fun x => (src, x))
  | _, _ => []

/-- A PASS that waits for its tile (R69, R76, R86): its count word has been read, and unless it will run no
row the ramp-up begins. -/
def State.passAwaits (s : State) (i : Issue) (o : PassOp) : State :=
  let c := i.core
  let src := (s.sel c o.asel).getD c
  let fresh := o.lenInd && (s.core c).array.count.isNone
  let s := if fresh then s.corrections [(src, o.cntAddr.toNat)] else s
  let n := (s.passLen c src o).1
  let w := BitVec.ofNat 32 (s.passCountWord c src o)
  s.modArray c (fun a =>
    let a := if o.lenInd then { a with count := some w } else a
    if n = 0 then a else a.getReady s.time i.gap)

/-- The count word of a PASS, where it must be read and a core has it. -/
def State.passCount (s : State) (c : CoreId) (o : PassOp) : List (CoreId × Nat) :=
  match s.sel c o.asel with
  | some src => if o.lenInd && (s.core c).array.count.isNone then [(src, o.cntAddr.toNat)] else []
  | none => []

/-- PASS (R67). What the fields reject is rejected first; then the count word is read, before the ranges and
lists that it decides are checked. -/
def State.passPlan (i : Issue) (o : PassOp) (h : PassHolds) (s : State) : Todo :=
  let c := i.core
  match s.passRejectOn c o none with
  | some r => .reject r
  | none =>
    match (s.core c).array.tileOf o with
    | none => .need (s.passCount c o) (.wait (fun s => s.passAwaits i o))
    | some _ =>
      .need (s.passCount c o)
        (.need (if (s.passRejectOn c o ((s.core c).array.tileOf o)) = some 3 then [] else s.passReads c o)
          (match s.passReject c o with
           | some r => .reject r
           | none => .stream (s.passFeeds c o)
              (.run (s.passReads c o) [] (fun _ => .pass) (State.passEffect c i o h))))

def execPass (i : Issue) (o : PassOp) (h : PassHolds) (s : State) : Out :=
  .next (s.present qArray 0x20 i (State.passPlan i o h))

/-! ACCOUT (R70). -/

/-- The writes of an ACCOUT and its flags. -/
def State.accoutWrites (s : State) (c d : CoreId) (o : AccoutOp) (f : Fmt) : List Wr × FmtFlags :=
  let rw := wordsFor 128 f.bits
  let (ws, fl) := (List.range o.count.toNat).foldl (fun acc r =>
    let vs := (((s.core c).array.accRow (o.accBase.toNat + r)).zipIdx).map (fun v =>
      ((if o.srcInt then Num.ofInt v.1.toInt 0 else f32 v.1), genAt o.seed v.2 r))
    let (ws, fl) := rowWrites d f o.rnd.toNat o.sat (o.daddr.toNat + r * rw) o.dscale.toNat (4 * r) vs
    (acc.1 ++ ws, acc.2 ||| fl)) ([], 0)
  (wrJoin ws, fl)

def State.accoutReject (s : State) (c : CoreId) (o : AccoutOp) : Option Nat :=
  match firstReason [(o.dsel ≠ 0 ∧ o.dsel.toNat < 4, 2), (6 ≤ o.rnd.toNat, 2),
      (Fmt.ofCode o.dfmt = none, 2)] with
  | some r => some r
  | none =>
    match Fmt.ofCode o.dfmt with
    | none => some 2
    | some f => firstReason [
        (s.sel c o.dsel = none, 3),
        (pastMem o.daddr.toNat (o.count.toNat * wordsFor 128 f.bits), 3),
        (f.isMX && pastMem o.dscale.toNat (wordsFor (4 * o.count.toNat) 8), 3),
        (decide (o.count ≠ 0) && decide (4096 < o.accBase.toNat + o.count.toNat), 3)]

/-- Words that an ACCOUT writes are no longer held (R234). -/
def ArrayUnit.dropHeld (a : ArrayUnit) (same : Bool) (ws : List Wr) : ArrayUnit :=
  if same then { a with held := a.held.filter (fun x => ws.all (fun w => w.addr != x.1)) } else a

def State.accoutEffect (c d : CoreId) (o : AccoutOp) (f : Fmt) (s : State) : State :=
  let (ws, fl) := s.accoutWrites c d o f
  let s := (s.wrAll ws).flag c fl
  s.modArray c (fun a =>
    let same := match a.heldKey with
      | some k => decide (s.sel c k.asel = some d)
      | none => false
    let a := a.dropHeld same ws
    { a with acc := (if o.clear then
               (List.range o.count.toNat).foldl (fun m r =>
                 accSetRow m (o.accBase.toNat + r) (List.replicate 128 0)) a.acc else a.acc) })

/-- ACCOUT (R70). -/
def State.accoutPlan (i : Issue) (o : AccoutOp) (s : State) : Todo :=
  match s.accoutReject i.core o with
  | some r => .reject r
  | none =>
    match Fmt.ofCode o.dfmt, s.sel i.core o.dsel with
    | some f, some d =>
      let ws := (s.accoutWrites i.core d o f).1
      .run (wrPartial ws) (wrWords ws) (fun _ => .now) (State.accoutEffect i.core d o f)
    | _, _ => .reject 2

def execAccout (i : Issue) (o : AccoutOp) (s : State) : Out :=
  .next (s.present qArray 0x21 i (State.accoutPlan i o))

/-! EWISE (R71, R72). -/

/-- Formats that EWISE takes as A, and as B. -/
def Fmt.ewiseA (f : Fmt) : Bool := !(f = .fp32 ∨ f = .int32 ∨ f = .t2)
def Fmt.ewiseB (f : Fmt) : Bool := !(f = .fp32 ∨ f = .int32)

def State.ewiseReject (s : State) (c : CoreId) (o : EwiseOp) : Option Nat :=
  let n := 128 * o.count.toNat
  match firstReason [(o.asel ≠ 0 ∧ o.asel.toNat < 4, 2), (o.bsel ≠ 0 ∧ o.bsel.toNat < 4, 2),
      (o.op = 3, 2), (Fmt.ofCode o.afmt = none, 2), (Fmt.ofCode o.bfmt = none, 2)] with
  | some r => some r
  | none =>
    match Fmt.ofCode o.afmt, Fmt.ofCode o.bfmt with
    | some fa, some fb => firstReason [
        (!fa.ewiseA, 6), (!fb.ewiseB, 6),
        (s.sel c o.asel = none, 3), (s.sel c o.bsel = none, 3),
        (pastMem o.aaddr.toNat (wordsFor n fa.bits), 3), (pastMem o.baddr.toNat (wordsFor n fb.bits), 3),
        (fa.isMX && pastMem o.ascale.toNat (wordsFor (4 * o.count.toNat) 8), 3),
        (fb.isMX && pastMem o.bscale.toNat (wordsFor (4 * o.count.toNat) 8), 3),
        (decide (o.count ≠ 0) && decide (4096 < o.accBase.toNat + o.count.toNat), 3)]
    | _, _ => some 2

/-- One result of EWISE: formed exactly, rounded once (R71); INT32 with saturation for integers (R53). -/
def ewiseOne (op : Nat) (isInt : Bool) (acc : BitVec 32) (a b : Num) : BitVec 32 × FmtFlags :=
  if isInt then
    let x : Int := if op = 2 then a.toInt + b.toInt else a.toInt * b.toInt
    int32Add (if op = 1 then acc else 0) x
  else
    let (x, f1) := if op = 2 then a.add false b else a.mul b
    let (y, f2) := if op = 1 then (f32 acc).add false x else (x, 0)
    let (z, f3) := toF32 y
    (z, f1 ||| f2 ||| f3)

def State.ewiseResults (s : State) (c ca cb : CoreId) (o : EwiseOp) (fa fb : Fmt) :
    List (BitVec 32 × FmtFlags) :=
  let isInt := fa.isInt && fb.isInt
  (List.range (128 * o.count.toNat)).map (fun i =>
    let a := rdNum (s.peek ca) fa false o.aaddr.toNat o.ascale.toNat i
    let b := rdNum (s.peek cb) fb false o.baddr.toNat o.bscale.toNat i
    ewiseOne o.op.toNat isInt ((s.core c).array.accAt (o.accBase.toNat + i / 128) (i % 128)) a b)

/-- Cycles of an EWISE (R72): by operand widths under ILV 0, by 8 words per cc of each stream under ILV 1. -/
def ewiseCycles (ilv : Bool) (fa fb : Fmt) (n : Nat) : Nat :=
  let w := max fa.bits (if fb = .t2 then 0 else fb.bits)
  let rate := if w = 16 then 256 else if w = 8 then 1024 else 2048
  let base := (n + rate - 1) / rate
  if ilv then max base (max ((wordsFor n fa.bits + 7) / 8) ((wordsFor n fb.bits + 7) / 8)) else base

def State.ewiseReads (ca cb : CoreId) (o : EwiseOp) (fa fb : Fmt) : List (CoreId × Nat) :=
  let n := 128 * o.count.toNat
  (elemWords fa o.aaddr.toNat 0 n).map (fun x => (ca, x)) ++
  (elemWords fb o.baddr.toNat 0 n).map (fun x => (cb, x)) ++
  (if fa.isMX then (scaleWords o.ascale.toNat 0 n).map (fun x => (ca, x)) else []) ++
  (if fb.isMX then (scaleWords o.bscale.toNat 0 n).map (fun x => (cb, x)) else [])

def State.ewiseEffect (i : Issue) (ca cb : CoreId) (o : EwiseOp) (fa fb : Fmt) (s : State) : State :=
  let c := i.core
  let n := 128 * o.count.toNat
  let res := s.ewiseResults c ca cb o fa fb
  let fl := orFlags res ||| scaleFlags (scalesRead (s.peek ca) fa false o.aaddr.toNat o.ascale.toNat 0 n) |||
    scaleFlags (scalesRead (s.peek cb) fb false o.baddr.toNat o.bscale.toNat 0 n)
  let bad := if fb = .t2 then t2BadRange (s.peek cb) o.baddr.toNat 0 (n / 32) else (0, 0)
  let cyc := ewiseCycles (s.core c).memory.ilv fa fb n
  let now := s.time
  ((s.modArray c (fun a =>
    let g := if n = 0 then a else a.endGap now i.gap
    { g with acc := smSetMany a.acc (128 * o.accBase.toNat) (res.map (·.1)),
             dummy := satAdd g.dummy cyc })).flag c fl).badT2 c bad.1 bad.2

/-- EWISE (R71). -/
def State.ewisePlan (i : Issue) (o : EwiseOp) (s : State) : Todo :=
  match s.ewiseReject i.core o with
  | some r => .reject r
  | none =>
    match Fmt.ofCode o.afmt, Fmt.ofCode o.bfmt, s.sel i.core o.asel, s.sel i.core o.bsel with
    | some fa, some fb, some ca, some cb =>
      .run (State.ewiseReads ca cb o fa fb) [] (fun _ => .now) (State.ewiseEffect i ca cb o fa fb)
    | _, _, _, _ => .reject 2

def execEwise (i : Issue) (o : EwiseOp) (s : State) : Out :=
  .next (s.present qArray 0x22 i (State.ewisePlan i o))

/-! FFENCE (R235). -/

/-- Every held word is discarded. -/
def ArrayUnit.fence (a : ArrayUnit) : ArrayUnit := { a with held := [], heldKey := none }

def State.ffencePlan (i : Issue) (_ : State) : Todo :=
  .run [] [] (fun _ => .now) (fun s => s.modArray i.core ArrayUnit.fence)

def execFfence (i : Issue) (s : State) : Out := .next (s.present qArray 0x23 i (State.ffencePlan i))

/-- One step of ramp-down (R86): the first after 64 cc of dummy operation, the others after 8 cc each, and
after the 8 cc of the last one the array is idle. -/
def ArrayUnit.rampDown (a : ArrayUnit) : ArrayUnit :=
  if a.rampStep = 16 then
    (if a.state = 5 then { a with dummy := satAdd a.dummy 8, state := 0 } else a)
  else { a with dummy := satAdd a.dummy (if a.rampStep = 0 then 64 else 8), rampStep := a.rampStep + 1,
                state := (if a.state = 7 then 7 else 5) }

/-- A PASS or an EWISE is in flight on the array, so no gap runs between passes. -/
def Core.streaming (k : Core) : Bool := k.inflight.any (fun f => f.q == qArray && (f.op == 0x20 || f.op == 0x22))

/-- A PASS or EWISE whose counter waits are satisfied stands at the head of the array queue (R86, R182). -/
def Core.arrayReady (k : Core) : Bool :=
  let x := k.queue qArray
  match x.waiting with
  | some i => (x.waitOp == 0x20 || x.waitOp == 0x22) && k.waits i.hdr
  | none => false

/-- ARRAY_RAMP_DOWN (R86): nothing while a PASS or an EWISE runs, or stands ready at the head. -/
def execArrayRampDown (c : CoreId) (s : State) : Out :=
  .next (if (s.core c).arrayReady || (s.core c).streaming then s else s.modArray c ArrayUnit.rampDown)

/-- STATE of CORE_ARR_STATUS (R89), `cc` cycles after the last ramp-up began. An ACCOUT shows before dummy
operation and ramp-down (DESIGN CHOICE, Assumption 13). -/
def Core.arrayState (k : Core) (cc : Nat) : Nat :=
  let a := k.array
  let runs (op : BitVec 8) : Bool := k.inflight.any (fun f => f.q == qArray && f.op == op)
  if a.state = 7 then 7
  else if a.rampStep = 0 ∧ a.rampNow cc ≠ 0 then 6
  else if runs 0x20 then 1
  else if runs 0x22 then 2
  else if runs 0x21 then 3
  else a.state.toNat

end Sys2Proof.Machine
end

