-- ==== Sys2Proof/Machine/Adapter.lean ====
section
/-! DEFINITION. The adapter engine (R149 to R152): ADOWN and AUP. -/

namespace Sys2Proof.Machine

/-- Engine 3. -/
def qAdapt : QueueId := 3

/-- The slot of row `i`: 16-bit entries at IDADDR. -/
def State.adSlot (s : State) (c : CoreId) (o : AdapterOp) (i : Nat) : Nat :=
  rdBits (s.peek c) o.idaddr.toNat (16 * i) 16

/-- A directory entry (R149). -/
def State.adEntry (s : State) (c : CoreId) (o : AdapterOp) (slot : Nat) : MWord :=
  s.peek c (o.diraddr.toNat + slot)

def adRank (w : MWord) : Nat := wordField w 16 8
def adFmt (w : MWord) : Option Fmt :=
  if wordField w 24 8 = 1 then some .bf16 else if wordField w 24 8 = 5 then some .mxE4m3 else none
def adA (w : MWord) : Nat := wordField w 32 20
def adB (w : MWord) : Nat := wordField w 64 20
def adScale (w : MWord) : Nat := wordField w 96 20
def adAlpha (w : MWord) : BitVec 32 := wordLane w 5
def adValid (w : MWord) : Bool := wordField w 192 1 == 1

/-- The rows that name an adapter. -/
def State.adRows (s : State) (c : CoreId) (o : AdapterOp) : List (Nat × Nat) :=
  ((List.range o.rows.toNat).map (fun i => (i, s.adSlot c o i))).filter (fun x => x.2 != 0xFFFF)

def adXFmt (o : AdapterOp) : Option Fmt :=
  if o.xfmt = 1 then some .bf16 else if o.xfmt = 3 then some .e4m3 else if o.xfmt = 5 then some .mxE4m3 else none

/-- A slot of 1,024 or above (R152). -/
def State.adSlotRej (s : State) (c : CoreId) (o : AdapterOp) : Option Nat :=
  firstReason [((s.adRows c o).any (fun x => decide (1024 ≤ x.2)), 4)]

/-- Rejections from the directory (R152). -/
def State.adEntryRej (s : State) (c : CoreId) (o : AdapterOp) (down : Bool) : Option Nat :=
  let es := (s.adRows c o).map (fun x => s.adEntry c o x.2)
  firstReason
    [(es.any (fun e => !adValid e || decide (adRank e < 4) || decide (64 < adRank e) || (adFmt e).isNone), 4),
     (down && decide (o.klen.toNat % 32 ≠ 0) && es.any (fun e => adFmt e == some .mxE4m3), 4),
     (down && es.any (fun e => match adFmt e with
        | some f => pastMem (adA e) (wordsFor (adRank e * o.klen.toNat) f.bits) ||
            (f.isMX && pastMem (adScale e) (wordsFor (adRank e * o.klen.toNat / 32) 8))
        | none => false), 3),
     (!down && es.any (fun e => pastMem (adB e) (wordsFor ((o.bcol.toNat + o.cols.toNat) * adRank e) 16)), 3)]

/-- Words of the slot list, and of the directory entries it names. -/
def adSlotWords (c : CoreId) (o : AdapterOp) : List (CoreId × Nat) :=
  wordsAt c o.idaddr.toNat (wordsFor o.rows.toNat 16)

def State.adEntryWords (s : State) (c : CoreId) (o : AdapterOp) : List (CoreId × Nat) :=
  ((s.adRows c o).map (fun x => (c, o.diraddr.toNat + x.2))).dedup

/-- What ADOWN and AUP share once their fields pass: the slots and then the entries are read before they
decide anything (R134, R152). -/
def State.adTodo (s : State) (c : CoreId) (o : AdapterOp) (down : Bool) (go : Todo) : Todo :=
  .need (adSlotWords c o) <|
  .unless (s.adSlotRej c o) <|
  .need (s.adEntryWords c o) <|
  .unless (s.adEntryRej c o down) go

/-- Words that the rows' slots and directory entries occupy. -/
def State.adDirReads (s : State) (c : CoreId) (o : AdapterOp) : List (CoreId × Nat) :=
  adSlotWords c o ++ s.adEntryWords c o

/-! ADOWN. -/

def adDownEmpty (o : AdapterOp) : Bool := o.rows == 0 || o.klen == 0

/-- One 32-element block's exact sum, added to FP32 with one rounding unless it is zero (R54, R151). -/
def blockAdd (acc : BitVec 32 × FmtFlags) (ps : List (Num × FmtFlags)) : BitVec 32 × FmtFlags :=
  let (x, f1) := ps.foldl (fun a p =>
    let (y, f) := a.1.add false p.1
    (y, a.2 ||| f ||| p.2)) (Num.fin false 0 0, (0 : FmtFlags))
  if x.isZero then (acc.1, acc.2 ||| f1) else
  let (y, f2) := (f32 acc.1).add false x
  let (z, f3) := toF32 y
  (z, acc.2 ||| f1 ||| f2 ||| f3)

/-- u_j of row `i` (R151). The rows of A and of B are consecutive elements, and the rows of X start at whole
words as those of a PASS do (R68); the manual gives none of them an alignment (DESIGN CHOICE,
Assumption 99). -/
def State.adU (s : State) (c m : CoreId) (o : AdapterOp) (xf : Fmt) (i j : Nat) (e : MWord) :
    BitVec 32 × FmtFlags :=
  let k := o.klen.toNat
  let af := (adFmt e).getD .bf16
  let rw := wordsFor k xf.bits
  let x := fun q =>
    let b := rdElem (s.peek m) xf (o.xaddr.toNat + i * rw) q
    if xf.isMX then decodeScaled xf.elem b (rdBits (s.peek m) o.xscale.toNat (8 * (i * (k / 32) + q / 32)) 8)
    else xf.elem.decode b
  let a := fun q => rdNum (s.peek c) af false (adA e) (adScale e) (j * k + q)
  (List.range ((k + 31) / 32)).foldl (fun acc b =>
    blockAdd acc ((List.range (min 32 (k - 32 * b))).map (fun q => (a (32 * b + q)).mul (x (32 * b + q)))))
    (0, 0)

/-- The scale bytes decoded for one row (R41). -/
def State.adScales (s : State) (c m : CoreId) (o : AdapterOp) (xf : Fmt) (i : Nat) (e : MWord) : List Nat :=
  let b := o.klen.toNat / 32
  (if adFmt e = some .mxE4m3 then
    (List.range (adRank e * b)).map (fun j => rdBits (s.peek c) (adScale e) (8 * j) 8) else []) ++
  (if xf.isMX then
    (List.range b).map (fun j => rdBits (s.peek m) o.xscale.toNat (8 * (i * b + j)) 8) else [])

/-- The eight words of row `i` of u, and flags. -/
def State.adURow (s : State) (c m : CoreId) (o : AdapterOp) (xf : Fmt) (x : Nat × Nat) : List Wr × FmtFlags :=
  let e := s.adEntry c o x.2
  let us := (List.range (adRank e)).map (fun j => s.adU c m o xf x.1 j e)
  let ws := wordsOfBytes (us.flatMap (fun u => leBytes 4 u.1.toNat) ++ List.replicate (4 * (64 - adRank e)) 0)
  ((ws.zipIdx).map (fun w => { core := c, addr := o.uaddr.toNat + 8 * x.1 + w.2, data := w.1 }),
   orFlags us ||| scaleFlags (s.adScales c m o xf x.1 e))

def State.adownReject (s : State) (c : CoreId) (o : AdapterOp) : Option Nat :=
  match firstReason [(o.xsel ≠ 0 ∧ o.xsel.toNat < 4, 2), (adXFmt o = none, 2),
      (o.xfmt = 5 ∧ o.klen.toNat % 32 ≠ 0, 2)] with
  | some r => some r
  | none =>
    let xf := (adXFmt o).getD .bf16
    let e := adDownEmpty o
    firstReason [(decide (s.sel c o.xsel = none), 3),
      (!e && pastMem o.idaddr.toNat (wordsFor o.rows.toNat 16), 3),
      (!e && pastMem o.xaddr.toNat (o.rows.toNat * wordsFor o.klen.toNat xf.bits), 3),
      (!e && xf.isMX && pastMem o.xscale.toNat (wordsFor (o.rows.toNat * (o.klen.toNat / 32)) 8), 3),
      (!e && pastMem o.uaddr.toNat (8 * o.rows.toNat), 3)]

def State.adownPlan (i : Issue) (o : AdapterOp) (s : State) : Todo :=
  let c := i.core
  .unless (s.adownReject c o) <|
  if adDownEmpty o then .nop else
  match adXFmt o, s.sel c o.xsel with
  | some xf, some m =>
    s.adTodo c o true <|
    let rows := s.adRows c o
    let rs := rows.map (s.adURow c m o xf)
    let ws := rs.flatMap (·.1)
    let rw := wordsFor o.klen.toNat xf.bits
    let aw := rows.flatMap (fun x =>
      let e := s.adEntry c o x.2
      let f := (adFmt e).getD .bf16
      wordsAt c (adA e) (wordsFor (adRank e * o.klen.toNat) f.bits) ++
        (if f.isMX then wordsAt c (adScale e) (wordsFor (adRank e * o.klen.toNat / 32) 8) else []))
    .run (s.adDirReads c o ++ aw.dedup ++ rows.flatMap (fun x =>
        wordsAt m (o.xaddr.toNat + x.1 * rw) rw ++
        (if xf.isMX then (scaleWords o.xscale.toNat (x.1 * o.klen.toNat) o.klen.toNat).map (fun y => (m, y)) else [])))
      (wrWords ws) (fun _ => .now) (fun s => (s.wrAll ws).flag c (orFlags rs))
  | _, _ => .reject 3

/-- ADOWN (R151). -/
def execAdown (i : Issue) (o : AdapterOp) (s : State) : Out := .next (s.present qAdapt 0xB0 i (State.adownPlan i o))

/-! AUP. -/

def adUpEmpty (o : AdapterOp) : Bool := o.rows == 0 || o.cols == 0

/-- ALPHA × Σ B × u, formed exactly (R151). -/
def State.adDelta (s : State) (c : CoreId) (o : AdapterOp) (i col : Nat) (e : MWord) : Num × FmtFlags :=
  let r := adRank e
  let (x, f1) := (List.range r).foldl (fun acc j =>
    let b := rdNum (s.peek c) .bf16 false (adB e) 0 ((o.bcol.toNat + col) * r + j)
    let (p, g1) := b.mul (f32 (s.u32At c (o.uaddr.toNat + 8 * i) j))
    let (y, g2) := acc.1.add false p
    (y, acc.2 ||| g1 ||| g2)) (Num.fin false 0 0, (0 : FmtFlags))
  let (y, f2) := (f32 (adAlpha e)).mul x
  (y, f1 ||| f2)

/-- The accumulator after one row. -/
def State.adUpRow (s : State) (c : CoreId) (o : AdapterOp) (acc : SMap 32 × FmtFlags) (x : Nat × Nat) :
    SMap 32 × FmtFlags :=
  let e := s.adEntry c o x.2
  let per := (o.cols.toNat + 127) / 128
  (List.range o.cols.toNat).foldl (fun acc col =>
    let key := 128 * (o.accBase.toNat + x.1 * per + col / 128) + col % 128
    let (d, f1) := s.adDelta c o x.1 col e
    let (y, f2) := (f32 (smGet acc.1 key)).add false d
    let (z, f3) := toF32 y
    (smSet acc.1 key z, acc.2 ||| f1 ||| f2 ||| f3)) acc

/-- The rejections that the fields reveal; those of the activations are checked though AUP reads none
(R134). -/
def State.aupReject (s : State) (c : CoreId) (o : AdapterOp) : Option Nat :=
  let e := adUpEmpty o
  firstReason [(o.xsel ≠ 0 ∧ o.xsel.toNat < 4, 2), (adXFmt o = none, 2), (s.sel c o.xsel = none, 3),
    (!e && pastMem o.idaddr.toNat (wordsFor o.rows.toNat 16), 3),
    (!e && pastMem o.uaddr.toNat (8 * o.rows.toNat), 3),
    (!e && decide (4096 < o.accBase.toNat + o.rows.toNat * ((o.cols.toNat + 127) / 128)), 3)]

def State.aupPlan (i : Issue) (o : AdapterOp) (s : State) : Todo :=
  let c := i.core
  .unless (s.aupReject c o) <|
  if adUpEmpty o then .nop else
  s.adTodo c o false <|
    let rows := s.adRows c o
    .run (s.adDirReads c o ++ rows.flatMap (fun x =>
        let e := s.adEntry c o x.2
        wordsAt c (o.uaddr.toNat + 8 * x.1) 8 ++
          (elemWords .bf16 (adB e) (o.bcol.toNat * adRank e) (o.cols.toNat * adRank e)).map (fun y => (c, y))))
      [] (fun _ => .now) (fun s =>
        let (acc, fl) := rows.foldl (s.adUpRow c o) ((s.core c).array.acc, 0)
        (s.modArray c (fun a => { a with acc := acc })).flag c fl)

/-- AUP (R151). -/
def execAup (i : Issue) (o : AdapterOp) (s : State) : Out := .next (s.present qAdapt 0xB1 i (State.aupPlan i o))

end Sys2Proof.Machine
end

