-- ==== Sys2Proof/Machine/Bank.lean ====
section
/-! DEFINITION. The bank operation queue (R214 to R217): BATOM, BCOUNT and BCMP. -/

namespace Sys2Proof.Machine

/-- Engine 7. -/
def qBank : QueueId := 7

/-- The new value of a BATOM (R215). -/
def batomNew (aop : Nat) (old opnd cmpv : BitVec 32) : BitVec 32 :=
  match aop with
  | 1 => opnd
  | 2 => if old = cmpv then opnd else old
  | 3 => old + opnd
  | 4 => BitVec.ofInt 32 (clampInt 32 (old.toInt + opnd.toInt)).1
  | 5 => if old.toInt < opnd.toInt then opnd else old
  | 6 => if opnd.toInt < old.toInt then opnd else old
  | 7 => old &&& opnd
  | 8 => old ||| opnd
  | 9 => old ^^^ opnd
  | _ => old

/-- The result word of a BATOM. -/
def batomResult (o : BankOp) (old : BitVec 32) : MWord :=
  BitVec.ofNat 256 (old.toNat + (if o.aop = 2 ∧ old = o.cmpv then 2 ^ 32 else 0))

/-- A BATOM's writes: the element in its word, then the result word. An ADDSAT that clamps sets no sticky flag:
R55 names conversions and sums of the engines, and R215 no flag (DESIGN CHOICE, Assumption 99). -/
def State.batomEffect (c m : CoreId) (o : BankOp) (s : State) : State :=
  let old := wordLane (s.peek m o.addr.toNat) o.elem.toNat
  let s := s.poke m o.addr.toNat
    (wordSetField (s.peek m o.addr.toNat) (32 * o.elem.toNat) 32 (batomNew o.aop.toNat old o.opnd o.cmpv).toNat)
  s.poke c o.raddr.toNat (batomResult o old)

/-- The rejections that the three operations share: selectors, AOP and COND, used or not (R134, R214). -/
def State.bankFields (s : State) (c : CoreId) (o : BankOp) : List (Bool × Nat) :=
  [(decide (o.asel ≠ 0 ∧ o.asel.toNat < 4), 2), (decide (o.bsel ≠ 0 ∧ o.bsel.toNat < 4), 2),
   (decide (10 ≤ o.aop.toNat), 2), (decide (5 ≤ o.cond.toNat), 2),
   ((s.sel c o.asel).isNone, 3), ((s.sel c o.bsel).isNone, 3)]

def State.batomPlan (i : Issue) (o : BankOp) (s : State) : Todo :=
  .unless (firstReason (s.bankFields i.core o)) <|
  match s.sel i.core o.asel with
  | none => .reject 3
  | some m => .run [(m, o.addr.toNat)] [(m, o.addr.toNat), (i.core, o.raddr.toNat)] (fun _ => .now)
      (State.batomEffect i.core m o)

/-- BATOM (R215). -/
def execBatom (i : Issue) (o : BankOp) (s : State) : Out := .next (s.present qBank 0xF0 i (State.batomPlan i o))

/-- Whether an element satisfies COND of a BCOUNT (R214, R216). -/
def bankCond (o : BankOp) (w x : Nat) : Bool :=
  let y := o.opnd.toNat % 2 ^ w
  match o.cond.toNat with
  | 0 => x == y
  | 1 => x != y
  | 2 => decide (signedVal w x < signedVal w y)
  | _ => decide (signedVal w y ≤ signedVal w x)

/-- The number of 1 bits of a word. -/
def popcount (w : MWord) : Nat := ((List.range 256).filter w.getLsbD).length

/-- Count and first index of a BCOUNT. -/
def State.bcountOf (s : State) (m : CoreId) (o : BankOp) : Nat × Nat :=
  let n := o.len.toNat
  if o.cond = 4 then
    let ws := s.peekMany m o.addr.toNat n
    (ws.foldl (fun a w => a + popcount w) 0, ((ws.findIdx? (· != 0)).getD 0xFFFFFFFF))
  else
    let w := if o.et then 32 else 8
    let es := (List.range (n * (256 / w))).map (fun i => rdBits (s.peek m) o.addr.toNat (i * w) w)
    ((es.filter (bankCond o w)).length, (es.findIdx? (bankCond o w)).getD 0xFFFFFFFF)

/-- A result word of count and first index. -/
def bankResult (r : Nat × Nat) : MWord := BitVec.ofNat 256 (r.1 % 2 ^ 32 + r.2 * 2 ^ 32)

def State.bcountPlan (i : Issue) (o : BankOp) (s : State) : Todo :=
  .unless (firstReason (s.bankFields i.core o ++ [(pastMem o.addr.toNat o.len.toNat, 3)])) <|
  if o.len = 0 then .nop else
  match s.sel i.core o.asel with
  | none => .reject 3
  | some m =>
    .run (wordsAt m o.addr.toNat o.len.toNat) [(i.core, o.raddr.toNat)] (fun _ => .now)
      (fun s => s.poke i.core o.raddr.toNat (bankResult (s.bcountOf m o)))

/-- BCOUNT (R216). -/
def execBcount (i : Issue) (o : BankOp) (s : State) : Out := .next (s.present qBank 0xF1 i (State.bcountPlan i o))

/-- Equal words and the first unequal one of a BCMP. -/
def State.bcmpOf (s : State) (a b : CoreId) (o : BankOp) : Nat × Nat :=
  let eqs := (List.range o.len.toNat).map (fun i =>
    s.peek a (o.addr.toNat + i) == s.peek b (o.baddr.toNat + i))
  ((eqs.filter id).length, (eqs.findIdx? (fun x => !x)).getD 0xFFFFFFFF)

def State.bcmpPlan (i : Issue) (o : BankOp) (s : State) : Todo :=
  .unless (firstReason (s.bankFields i.core o ++
    [(pastMem o.addr.toNat o.len.toNat, 3), (pastMem o.baddr.toNat o.len.toNat, 3)])) <|
  if o.len = 0 then .nop else
  match s.sel i.core o.asel, s.sel i.core o.bsel with
  | some a, some b =>
    .run (wordsAt a o.addr.toNat o.len.toNat ++ wordsAt b o.baddr.toNat o.len.toNat) [(i.core, o.raddr.toNat)]
      (fun _ => .now) (fun s => s.poke i.core o.raddr.toNat (bankResult (s.bcmpOf a b o)))
  | _, _ => .reject 3

/-- BCMP (R216). -/
def execBcmp (i : Issue) (o : BankOp) (s : State) : Out := .next (s.present qBank 0xF2 i (State.bcmpPlan i o))

end Sys2Proof.Machine
end

