-- ==== Sys2Proof/Machine/Record.lean ====
section
/-! DEFINITION. The recording of accepted commands into a buffer partition's memory (R488 to R490). -/

namespace Sys2Proof.Machine

/-- Words that the buffer partition holds. -/
def State.recCapacity (s : State) (p : PartId) : Nat := (s.ranks p).length * 2 ^ 20

/-- Word `w` of the buffer: its cores in ascending number (R488). -/
def State.recSlot (s : State) (p : PartId) (w : Nat) : CoreId × Nat :=
  let n := w % max (s.recCapacity p) 1
  (((s.ranks p)[n / 2 ^ 20]?).getD 0, n % 2 ^ 20)

/-- Writes words of the buffer. The requester code is that of a partition control block's reads (R223; DESIGN
CHOICE, Assumption 99). -/
def State.recWrite (s : State) (p : PartId) (w : Nat) : List MWord → State
  | [] => s
  | x :: t =>
    let y := s.recSlot p w
    (s.putWords y.1 y.2 10 [x]).recWrite p (w + 1) t

/-- Words held. -/
def Recording.words (r : Recording) : Nat := r.lens.foldl (· + ·) 0

/-- Drops the oldest entries until `n` words fit (R489, WRAP = 1). -/
def Recording.makeRoom (r : Recording) (cap n : Nat) : List Nat → Recording
  | [] => r
  | x :: t =>
    if r.words + n ≤ cap then r
    else { r with first := r.first + x, lens := t, dropped := r.dropped + 1 }.makeRoom cap n t

/-- The 32-byte head of an entry, its CRC-32C over the entry with that field zero (R489). -/
def recHead (time : BitVec 64) (port cls op : Nat) (sess seq : BitVec 32) (body : List Byte) (number : BitVec 32) :
    List Byte :=
  let h := leBytes 8 time.toNat ++ leBytes 1 port ++ leBytes 1 cls ++ leBytes 2 op ++ leBytes 4 sess.toNat ++
    leBytes 4 seq.toNat ++ leBytes 4 body.length ++ leBytes 4 number.toNat
  h ++ leBytes 4 (crc32c (h ++ leBytes 4 0 ++ padTo 32 body)).toNat

/-- Adds an entry, or stops a full recording that does not wrap (R489). -/
def State.recAdd (s : State) (port cls op : Nat) (sess seq : BitVec 32) (body : List Byte) : State :=
  let r := s.work.recording
  let ws := wordsOfBytes (recHead s.time port cls op sess seq body r.number ++ padTo 32 body)
  let cap := s.recCapacity r.buffer
  if r.words + ws.length ≤ cap ∨ (r.wrap ∧ ws.length ≤ cap) then
    let r := if r.wrap then r.makeRoom cap ws.length r.lens else r
    let s := s.recWrite r.buffer r.next ws
    { s with work := { s.work with recording := { r with
        next := r.next + ws.length, lens := r.lens ++ [ws.length], number := r.number + 1 } } }
  else
    { s with work := { s.work with recording := { r with running := false } } }.log
      0x0021 srcChip r.buffer.val (r.words * 32) 0 0

/-- Records a command accepted for a masked partition. -/
def State.recCommand (s : State) (p : PartId) (port cls op : Nat) (sess seq : BitVec 32) (body : List Byte) : State :=
  let r := s.work.recording
  if r.running ∧ r.mask.getLsbD p.val then s.recAdd port cls op sess seq body else s

/-- Records a batch table or a ring entry (R489, BATCH = 1). -/
def State.recBatch (s : State) (p : PartId) (ws : List MWord) : State :=
  let r := s.work.recording
  if r.running ∧ r.batch ∧ r.mask.getLsbD p.val then s.recAdd 0 0 0xFFFF 0 0 (ws.flatMap bytesOfWord) else s

/-- The bytes of the recording that a read of `n` from an offset after the oldest entry returns (R490). -/
def Recording.readable (r : Recording) (off n : Nat) : Nat := min n (r.words * 32 - off)

/-- The words that hold them. -/
def State.recWords (s : State) (off n : Nat) : List (CoreId × Nat) :=
  let r := s.work.recording
  (List.range ((off % 32 + r.readable off n + 31) / 32)).map (fun i => s.recSlot r.buffer (r.first + off / 32 + i))

/-- A word as a read finds it that is served after every write held before it (R213). -/
def State.peekLate (s : State) (x : CoreId × Nat) : MWord :=
  (s.core x.1).memory.held.foldl (fun w h => match h with
    | .write a d m _ _ => if a = x.2 then (w &&& ~~~m) ||| (d &&& m) else w
    | _ => w) (s.peek x.1 x.2)

/-- The bytes themselves. -/
def State.recBytes (s : State) (off n : Nat) : List Byte :=
  (((s.recWords off n).flatMap (fun x => bytesOfWord (s.peekLate x))).drop (off % 32)).take
    (s.work.recording.readable off n)

end Sys2Proof.Machine
end

