-- ==== Sys2Proof/Machine/Flit.lean ====
section
/-! DEFINITION. The 256 bytes of a flit (R281, R282), the bodies of control messages (R288, R289), and which
received flits are good (R283). -/

namespace Sys2Proof.Machine

/-! The header (R282): bits 63:60 down to SEQ. TYPE is 0 IDLE, 1 DATA, 2 CONTROL, 3 not used. -/

def hdrWord (h : FlitHdr) (ty : Nat) : BitVec 64 :=
  h.rsvd ++ BitVec.ofNat 2 ty ++ BitVec.ofBool h.abort ++ BitVec.ofBool h.retx ++ BitVec.ofBool h.eop ++
  BitVec.ofBool h.sop ++ BitVec.ofNat 3 h.vc.val ++ BitVec.ofNat 3 h.csel.val ++ h.credit ++ h.ackSeq ++ h.seq

def bodyBytes : Nat := 244

/-- Bytes filled with zeros, or cut, to a body. -/
def toBody (bs : List Byte) : List Byte :=
  (bs ++ List.replicate (bodyBytes - bs.length) 0).take bodyBytes

/-- The message bytes of a PARAM (R289). -/
def paramBytes (m : ParamMsg) : List Byte :=
  let four (l : List (BitVec 16)) : List Byte := (List.range 4).flatMap (fun i => leBytes 2 (l.getD i 0).toNat)
  [2, m.levelMin, m.levelMax, BitVec.ofNat 8 m.peerSeen.toNat] ++ leBytes 2 m.chip.toNat ++
  leBytes 1 m.link.toNat ++ leBytes 1 m.slot.toNat ++ leBytes 4 m.rom.toNat ++ four m.data ++ four m.hdrs ++
  leBytes 4 m.ts.toNat ++ leBytes 4 m.tsEcho.toNat ++ leBytes 4 m.tsHold.toNat

/-- The message bytes of a CONTROL flit from its CTYPE on (R288). -/
def Control.bytes : Control → List Byte
  | .nak seqs => [1, BitVec.ofNat 8 seqs.length] ++ seqs.flatMap (fun q => leBytes 2 q.toNat)
  | .param m => paramBytes m
  | .goback q => [3, 0] ++ leBytes 2 q.toNat
  | .reset width reason => [4, 0, width, reason.setWidth 8]
  | .leave => [5]
  | .down reason => [6, 0, reason.setWidth 8]
  | .hold reason => [7, 0, reason.setWidth 8]

/-- The bytes under the CRC. -/
def coveredBytes (h : FlitHdr) (ty : Nat) (body : List Byte) : List Byte := leBytes 8 (hdrWord h ty).toNat ++ body

/-- The body of a flit to be sent (R284). -/
def OutFlit.bodyOf (o : OutFlit) : List Byte :=
  match o.ctl with
  | some c => toBody c.bytes
  | none => toBody o.body

/-- The flit with its 256 bytes formed, its CRC over the first 252 (R281). -/
def OutFlit.formed (o : OutFlit) : OutFlit :=
  let bs := coveredBytes o.hdr o.kind o.bodyOf
  { o with wire := bs ++ leBytes 4 (crc32c bs).toNat }

end Sys2Proof.Machine

namespace Sys2Proof

/-- A received flit with TYPE `ty` and the body that begins with `msg` is good (R283): its CRC holds, no codeword
of it is uncorrectable, and its TYPE is not 3. -/
def Rx.good (r : Rx) (ty : Nat) (h : FlitHdr) (msg : List Byte) : Bool :=
  !r.type3 && r.fecUncorr == 0 &&
    r.crc == Machine.crc32c (Machine.coveredBytes h (if r.type3 then 3 else ty) (Machine.toBody (msg ++ r.rest)))

/-- … of a CONTROL flit with a message of R288. -/
def Rx.goodCtl (r : Rx) (h : FlitHdr) (c : Machine.Control) : Bool := r.good 2 h c.bytes

/-- … of an IDLE flit, or of a CONTROL flit with the CTYPE that `other` gives. -/
def Rx.goodIdle (r : Rx) (h : FlitHdr) : Bool :=
  match r.other with
  | none => r.good 0 h []
  | some c => r.good 2 h [c]

end Sys2Proof
end

