-- ==== Sys2Proof/Machine/Landing.lean ====
section
/-! DEFINITION. Packets at their target partition (R160, R162, R164, R166, R240, R324, R476): the window
checks, the landing of words and rows, the answers, and what is held at the ingress. -/

namespace Sys2Proof

/-- A packet that a chip discards as badly formed (R325), but for its number of flits. -/
def Packet.bad (p : Packet) : Bool :=
  p.kind == 7 || decide (12 ≤ p.dstPart) || decide (128 < p.length) || p.payload.length != p.length ||
  (p.kind == 6 && p.kflags != 0)

/-- The source value of a packet, as in SRCLIST (R163). -/
def Packet.source (q : Packet) : Nat := q.field 16 14 * 128 + q.field 34 4 * 8 + q.field 38 3

def Packet.muleW (q : Packet) : Nat := if q.field 46 2 = 0 then 1 else if q.field 46 2 = 1 then 2 else 4

/-- The rows of a MULE_ROWS packet (R324): index and FP32 values. -/
def Packet.rows (q : Packet) : List (Nat × List (BitVec 32)) :=
  let bf16 := q.field 45 1 = 1
  let n := 128 * q.muleW
  let bytes := q.payload.flatMap Machine.bytesOfWord
  let e := if bf16 then 2 else 4
  (List.range (q.payload.length * 32 / (n * e))).map (fun j =>
    (q.field (64 + 12 * j) 12, (List.range n).map (fun i =>
      let x := Machine.leAt bytes ((j * n + i) * e) e
      BitVec.ofNat 32 (if bf16 then x * 65536 else x))))

end Sys2Proof

namespace Sys2Proof.Machine

/-! Taking a packet off the spines. -/

/-- The first packet in transit on this chip that equals `p`, and the others. -/
def takeMoving (p : Packet) : List Moving → Option (Moving × List Moving)
  | [] => none
  | m :: t =>
    if m.link = none ∧ m.pkt = p ∧ m.path = [] then some (m, t)
    else (takeMoving p t).map (fun x => (x.1, m :: x.2))

/-- The virtual channel of an arriving packet, and the state without it on the spines. A packet that is
not there counts as one of class 1 (Assumption 20). -/
def State.arrive (s : State) (p : Packet) : Fin 8 × State :=
  match takeMoving p s.transit with
  | some (m, t) => (m.vc, { s with transit := t })
  | none => (2, s)

def State.badHeader (s : State) : State := s.modRte (fun r => { r with badhdr := satAdd r.badhdr 1 })

/-! Answers. -/

/-- The response channel of a request's class (R323, R324). -/
def respVc (vc : Fin 8) : Fin 8 := vcOf (vc.val / 2) true

/-- A response's fields beside its payload: STATUS, DST_RANK, TAG (R324). -/
def respFields (q : Packet) (status : Nat) : List (Nat × Nat × Nat) :=
  [(64, 4, status), (68, 3, q.field 38 3), (84, 8, q.field 84 8)]

/-- The WRITE_ACK of a WRITE that asks for one. -/
def State.ackWrite (s : State) (p : PartId) (vc : Fin 8) (q : Packet) (status : Nat) : State :=
  if q.field 44 1 = 1 then
    s.reply (respVc vc) (mkPacket s p 0 (q.field 16 14) (q.field 34 4) 1 0 0 (respFields q status) [])
  else s

/-- ROFF of the answer to a READ_REQ (R324): the request's offset within its TGET. The request has no field
for it, and the manual does not say how the target finds it. For a tag of this chip it is what the tag says;
for another chip's it is a free value (Assumption 21). -/
def State.readOffset (s : State) (q : Packet) : Nat × State :=
  let own := if q.srcChip = s.chipId.toNat ∧ q.srcPart < 12 then
      (s.coreOfRank (partOfNat q.srcPart) q.srcRank).bind (fun c =>
        (s.core c).tags.find? (fun x => x.tag == q.tag && x.kind == 2)) else none
  match own with
  | some x => (q.woff - x.woff.toNat, s)
  | none => let (w, s) := s.draw; (wordField w 0 20, s)

/-- The READ_RESP of a READ_REQ. -/
def State.readResp (s : State) (p : PartId) (rank : Nat) (vc : Fin 8) (q : Packet) (status off : Nat)
    (ws : List MWord) : State :=
  s.reply (respVc vc) (mkPacket s p rank (q.field 16 14) (q.field 34 4) 3 0 0
    (respFields q status ++ [(100, 20, off)]) ws)

/-- R160: a discarded packet is logged, and answered where its kind has an answer. `st` is 1 DENIED or
2 BOUNDS. -/
def State.discardAt (s : State) (p : PartId) (vc : Fin 8) (q : Packet) (st : Nat) : State :=
  let s := s.log 0x0009 (srcPart p) q.win q.srcChip q.srcPart (if st = 1 then stDENIED else stBOUNDS)
  if q.kind = 0 then s.ackWrite p vc q st
  else if q.kind = 2 then s.readResp p 0 vc q st 0 []
  else s

/-! The window checks. -/

/-- A CHIPMAP entry (R251) names the source of a packet. -/
def entryIs (e : BitVec 32) (chip part : Nat) : Bool :=
  (e.extractLsb' 0 14).toNat == chip && (e.extractLsb' 16 4).toNat == part

/-- The source lies in the flock of the loaded image, or the window takes granted partitions of this chip
and the source is one (R361, R362). -/
def State.sourceOk (s : State) (p : PartId) (wsrc : Bool) (q : Packet) : Bool :=
  let k := s.part p
  (match k.prog with
   | some g => g.chipmap.any (fun e => entryIs e q.srcChip q.srcPart)
   | none => false) ||
  (wsrc && q.srcChip == s.chipId.toNat && q.srcPart != p.val && k.senders.getLsbD q.srcPart)

/-- R160: 0 OK, 1 DENIED, 2 BOUNDS for a packet that touches `n` words of an open window. -/
def State.windowStatus (s : State) (p : PartId) (w : Window) (q : Packet) (n : Nat) : Nat :=
  if s.sourceOk p w.wsrc q = false then 1
  else if q.kind = 2 ∧ w.wmode ≠ 2 then 1
  else if w.len.toNat < q.woff + n then 2
  else 0

/-! Holding at the ingress, and the wake of a sleeping partition (R476, R477). -/

def State.holdPacket (s : State) (p : PartId) (vc : Fin 8) (q : Packet) : State :=
  s.modPart p (fun k => { k with heldPkts := k.heldPkts ++ [(vc, q)] })

/-- Starts the wake of a sleeping partition. -/
def State.wakePart (s : State) (p : PartId) : State :=
  let k := s.part p
  if k.sleepState = 0 ∨ k.waking ∨ s.chip.failedParts.getLsbD p.val then s else
  let s := s.setPart p { k with waking := true, lateLogged := false }
  { s with domains := (s.ranks p).foldl (fun d c => d.setIfInBounds c.val 3) s.domains }

/-- A wake that work has to wait for: EV_LATE_WAKE once per wake. -/
def State.lateWakePart (s : State) (p : PartId) : State :=
  let s := s.wakePart p
  if (s.part p).lateLogged then s
  else (s.modPart p (fun k => { k with lateLogged := true })).log 0x0006 (srcPart p) 0xFFFFFFFF 0 0 0

/-! WRITE. -/

/-- Arrival counting (R160): how often the threshold is reached, and what is left. -/
def Window.arrive (w : Window) (n : Nat) : Nat × Window :=
  if w.acen ∧ w.arrv ≠ 0 then
    ((w.count + n) / w.arrv.toNat, { w with count := (w.count + n) % w.arrv.toNat })
  else (0, w)

/-- Adds `n` to a ready counter (R262). -/
def Core.bump (k : Core) (n : BitVec 5) (by_ : Nat) : Core :=
  let x := k.counter n
  { k with counters := k.counters.set n.toNat { x with count := x.count + BitVec.ofNat 12 by_ } n.isLt }

/-- A WRITE that passed its checks lands (R160, R239). -/
def State.landWords (s : State) (p : PartId) (vc : Fin 8) (w : Window) (q : Packet) : State :=
  let a := w.laddr.toNat + q.woff
  match s.mustHold (wordsAt w.core a q.payload.length) with
  | some x => s.holdAt (fun g => .packet vc q g.val) x
  | none =>
    let s := s.pokeMany w.core a q.payload
    let (n, w') := w.arrive q.payload.length
    let s := s.modPart p (fun k => { k with windows := alSet k.windows q.win w' })
    let s := if n = 0 then s else s.modCore w.core (fun k => k.bump w.acnt n)
    s.ackWrite p vc q 0

/-! READ_REQ. -/

/-- The core that sent a packet, when it is a core of this chip; another chip's core is answered for by the
core that owns the words (UNVERIFIED, Assumption 20). -/
def State.requester (s : State) (q : Packet) (own : CoreId) : CoreId :=
  if q.srcChip = s.chipId.toNat ∧ q.srcPart < 12 then
    (s.coreOfRank (Fin.ofNat 12 q.srcPart) q.srcRank).getD own
  else own

/-- A READ_REQ that passed its checks is served (R160). -/
def State.serveRead (s : State) (p : PartId) (vc : Fin 8) (w : Window) (q : Packet) : State :=
  let ws := wordsAt w.core (w.laddr.toNat + q.woff) q.rlen
  match s.mustHold ws with
  | some x => s.holdAt (fun g => .packet vc q g.val) x
  | none =>
    match s.firstBad ws with
    | some x => (s.corrections (s.beforeBad ws)).contain x.1 x.2 10 (s.requester q x.1).val
    | none =>
      let s := s.corrections ws
      let (off, s) := s.readOffset q
      s.readResp p (s.rankOf w.core) vc q 0 off (s.peekMany w.core (w.laddr.toNat + q.woff) q.rlen)

/-! MULE_ROWS. -/

/-- The open region bound to a window of a partition. -/
def State.regionAt (s : State) (p : PartId) (win : Nat) : Option (CoreId × Region) :=
  (coresOf p).findSome? (fun c =>
    ((s.core c).regions.find? (fun r => r.win.toNat == win)).map (fun r => (c, r)))

/-- Adds a row to accumulator memory (R164): one RNE rounding per value. -/
def State.addRow (s : State) (c : CoreId) (row : Nat) (vs : List (BitVec 32)) : State :=
  let a := (s.core c).array
  let rs := (vs.zipIdx).map (fun v => f32Add (smGet a.acc (128 * row + v.2)) v.1)
  (s.modArray c (fun a => { a with acc := smSetMany a.acc (128 * row) (rs.map (·.1)) })).flag c (orFlags rs)

/-- Whether source `j`'s contribution to row `i` may be added in fixed-order mode (R164). -/
def Region.mayAdd (r : Region) (j i : Nat) : Bool :=
  (r.sources.take j).all (fun x => r.ended.contains x || r.added.contains (x, i))

/-- The held row that may be added next: the earliest source first. -/
def Region.nextHeld (r : Region) : Option HeldRow :=
  (r.held.filter (fun h => r.mayAdd h.src h.row)).foldl (fun b h =>
    match b with
    | none => some h
    | some g => if h.src < g.src then some h else some g) none

def Region.drop (r : Region) (h : HeldRow) : Region :=
  { r with held := r.held.erase h, added := (r.sources.getD h.src 0, h.row) :: r.added }

/-- Replaces the open region of a window. -/
def State.setRegion (s : State) (c : CoreId) (r : Region) : State :=
  s.modCore c (fun k => { k with regions := k.regions.map (fun x => if x.win = r.win then r else x) })

/-- Adds every held row that has become due, `n` at most. -/
def State.releaseRows (s : State) (c : CoreId) (r : Region) : Nat → State × Region
  | 0 => (s, r)
  | n + 1 =>
    match r.nextHeld with
    | none => (s, r)
    | some h => (s.addRow c (r.accBase.toNat + h.row * h.w) h.vals).releaseRows c (r.drop h) n

/-- The region is complete: END from every source and every row added (R163). -/
def Region.complete (r : Region) : Bool := r.sources.all r.ended.contains && r.held.isEmpty

/-- A complete region is closed and its MREDUCE may complete. -/
def Core.closeRegion (k : Core) (win : BitVec 8) : Core :=
  { k with regions := k.regions.filter (·.win != win),
           inflight := k.inflight.map (fun f =>
             if f.due = .region win.toNat then { f with due := .now } else f) }

/-- A row that the Mule discards (R166). -/
def State.muleDrop (s : State) (c : CoreId) (q : Packet) (row : Nat) : State :=
  let s := s.modCore c (fun k => { k with muleDiscard := satAdd k.muleDiscard 1 })
  if (s.core c).marks.muleRow then s
  else (s.modCore c (fun k => { k with marks := { k.marks with muleRow := true } })).log
    0x000A (srcCore c) q.win q.source row 0

/-- The rows of a packet, one by one: discarded, added, or held (R164, R166). -/
def State.takeRows (s : State) (c : CoreId) (q : Packet) (r : Region) : List (Nat × List (BitVec 32)) → State × Region
  | [] => (s, r)
  | (i, vs) :: t =>
    match r.sources.findIdx? (· == q.source) with
    | none => (s.muleDrop c q i).takeRows c q r t
    | some j =>
      if r.rows.toNat < (i + 1) * q.muleW then (s.muleDrop c q i).takeRows c q r t
      else if (s.core c).fixedOrder = false ∨ r.mayAdd j i = true then
        (s.addRow c (r.accBase.toNat + i * q.muleW) vs).takeRows c q
          { r with added := (q.source, i) :: r.added } t
      else
        s.takeRows c q { r with held := r.held ++
          [{ src := j, row := i, w := q.muleW, size := q.payload.length * 32 / q.rows.length, vals := vs }] } t

/-- Bytes that a source holds in the holding buffer. -/
def Region.heldBytes (r : Region) (j : Nat) : Nat :=
  ((r.held.filter (·.src == j)).map (·.size)).foldl (· + ·) 0

/-- The rows of a packet that would have to be held find no room in the 4 KiB of their source (R164). -/
def State.noRoom (s : State) (c : CoreId) (q : Packet) (r : Region) : Bool :=
  (s.core c).fixedOrder &&
  match r.sources.findIdx? (· == q.source) with
  | none => false
  | some j => !(q.rows.all (fun x => r.mayAdd j x.1)) &&
      decide (4096 < r.heldBytes j + q.payload.length * 32)

/-- A MULE_ROWS packet for an open region (R164). -/
def State.landRows (s : State) (p : PartId) (vc : Fin 8) (c : CoreId) (r : Region) (q : Packet) : State :=
  if q.field 46 2 = 3 then s.discardAt p vc q 2
  else if s.noRoom c q r then s.holdPacket p vc q
  else
    let (s, r) := s.takeRows c q r q.rows
    let r := if q.field 44 1 = 1 ∧ r.sources.contains q.source ∧ !r.ended.contains q.source then
      { r with ended := q.source :: r.ended } else r
    let (s, r) := s.releaseRows c r r.held.length
    if r.complete then s.modCore c (fun k => k.closeRegion r.win) else s.setRegion c r

/-! One packet at its partition. -/

/-- Windows whose packets belong to another row of the table: 0xFF of the safety partition (R370), and 0xFE
of a paired one (R483). -/
def State.special (s : State) (p : PartId) (win : Nat) : Bool :=
  (win == 0xFF && p == 0 && s.safety) || (win == 0xFE && (s.part p).ls.paired)

/-- An earlier MULE_ROWS packet of the same source and window waits at the ingress: the rows of a source are
taken in the order in which they come (R164). -/
def Part.behind (k : Part) (q : Packet) : Bool :=
  k.heldPkts.any (fun x => x.2.kind == 4 && x.2.win == q.win && x.2.source == q.source)

/-- Applies R160 to a packet of kind 0, 2 or 4. -/
def State.landPacket (s : State) (p : PartId) (vc : Fin 8) (q : Packet) : State :=
  if s.special p q.win then s.discardAt p vc q 1
  else if q.kind = 4 then
    match s.regionAt p q.win with
    | none => s.holdPacket p vc q
    | some (c, r) =>
      if (s.part p).behind q then s.holdPacket p vc q
      else if (s.part p).sleepState ≠ 0 then (s.holdPacket p vc q).lateWakePart p
      else s.landRows p vc c r q
  else
    match alGet (s.part p).windows q.win with
    | none => s.holdPacket p vc q
    | some w =>
      let n := if q.kind = 2 then q.rlen else q.length
      let st := s.windowStatus p w q n
      if st ≠ 0 then s.discardAt p vc q st
      else if q.kind = 2 ∧ (q.rlen = 0 ∨ 128 < q.rlen) then s.discardAt p vc q 2
      else if (s.part p).sleepState ≠ 0 then (s.holdPacket p vc q).lateWakePart p
      else if q.kind = 2 then s.serveRead p vc w q
      else s.landWords p vc w q

/-- Lands a list of packets in order. -/
def State.landList (s : State) (p : PartId) : List (Fin 8 × Packet) → State
  | [] => s
  | (vc, q) :: t => (s.landPacket p vc q).landList p t

/-- Tries the packets held at a partition's ingress again, in order. -/
def State.reland (s : State) (p : PartId) : State :=
  let l := (s.part p).heldPkts
  (s.modPart p (fun k => { k with heldPkts := [] })).landList p l

/-- A packet of a kind arrives at its partition; another kind is not this event. -/
def State.rx (s : State) (kind : Nat) (q : Packet) : State :=
  if q.kind ≠ kind then s
  else
    let (vc, s) := s.arrive q
    if Packet.bad q then s.badHeader
    else
      let p := partOfNat q.dstPart
      let n := (s.part p).heldPkts.length
      let s := s.landPacket p vc q
      if n = 0 then s else if q.kind = 4 ∧ (s.part p).heldPkts.length = n then s.reland p else s

/-- RX_WRITE (R160). Packets of the windows of R370 and R483 are left to their own rows. -/
def execRxWrite (q : Packet) (s : State) : Out :=
  .next (if q.dstPart < 12 ∧ s.special (partOfNat q.dstPart) q.win = true then s else s.rx 0 q)

/-- RX_READ_REQ (R160). -/
def execRxReadReq (q : Packet) (s : State) : Out := .next (s.rx 2 q)

/-- RX_MULE_ROWS (R164). -/
def execRxMuleRows (q : Packet) (s : State) : Out := .next (s.rx 4 q)

end Sys2Proof.Machine
end

