-- ==== Sys2Proof/Machine/Transfer.lean ====
section
/-! DEFINITION. The transfer engine (R157 to R160, R225, R229, R230, R344, R345): TCOPY, TSEND, TGET, TWIN
and TDRAIN, its write-combine buffer, its tags, and the responses that complete them. -/

namespace Sys2Proof.Machine

/-- Engine 5. -/
def qXfer : QueueId := 5

/-! The write-combine buffer (R229). -/

/-- The entry of a word, if it is in the buffer. -/
def wcFind (l : List WcEntry) (o : CoreId) (a : Nat) : Option MWord :=
  (l.find? (fun e => e.core == o && e.addr == a)).map (·.data)

/-- A word enters the buffer: over its own entry, or as a new one. -/
def wcPut (l : List WcEntry) (o : CoreId) (a : Nat) (w : MWord) : List WcEntry :=
  if (wcFind l o a).isSome then
    l.map (fun e => if e.core = o ∧ e.addr = a then { e with data := w } else e)
  else l ++ [⟨o, a, w⟩]

/-- A word as the transfer engine of `c` reads it (R225). -/
def State.xferWord (s : State) (c o : CoreId) (a : Nat) : MWord :=
  (wcFind (s.core c).wc o a).getD (s.peek o a)

def State.xferWords (s : State) (c o : CoreId) (a n : Nat) : List MWord :=
  (List.range n).map (fun i => s.xferWord c o (a + i))

/-- The words that the transfer engine reads from banks. -/
def State.xferReads (s : State) (c o : CoreId) (a n : Nat) : List (CoreId × Nat) :=
  (wordsAt o a n).filter (fun x => (wcFind (s.core c).wc x.1 x.2).isNone)

/-- Performs the writes of some entries (requester 5 of R223); one to a sleeping group is held (R213). -/
def State.flush (s : State) : List WcEntry → State
  | [] => s
  | e :: t => (s.putBits e.core e.addr e.data (~~~0) 5).flush t

/-- Flushes the entries that satisfy `p`. -/
def State.wcFlush (s : State) (c : CoreId) (p : WcEntry → Bool) : State :=
  let l := (s.core c).wc
  (s.modCore c (fun k => { k with wc := l.filter (fun e => !p e) })).flush (l.filter p)

/-- One word written by TCOPY; beyond 64 entries the oldest is flushed. -/
def State.wcWrite (s : State) (c o : CoreId) (a : Nat) (w : MWord) : State :=
  let l := wcPut (s.core c).wc o a w
  let s := s.modCore c (fun k => { k with wc := l.drop (l.length - 64) })
  s.flush (l.take (l.length - 64))

def State.wcWrites (s : State) (c o : CoreId) (a : Nat) : List MWord → State
  | [] => s
  | w :: t => (s.wcWrite c o a w).wcWrites c o (a + 1) t

/-! Tags (R159). -/

/-- The lowest free tag. -/
def Core.freeTag (k : Core) : Nat :=
  ((List.range 256).find? (fun n => !(k.tags.any (·.tag == n)))).getD 0

def Core.tagOf (k : Core) (t : Nat) : Option Tag := k.tags.find? (·.tag == t)

def Core.dropTag (k : Core) (t : Nat) : Core := { k with tags := k.tags.filter (·.tag != t) }

def Core.setTag (k : Core) (x : Tag) : Core :=
  { k with tags := k.tags.map (fun y => if y.tag = x.tag then x else y) }

/-- The instruction that waited for a tag may complete. -/
def Core.tagDone (k : Core) (t : Nat) : Core :=
  { k.dropTag t with inflight := k.inflight.map (fun f => if f.due = .tag t then { f with due := .now } else f) }

/-- The completions of a partition in use: TSENDs with ACK = 1 and TGETs. -/
def State.completions (s : State) (p : PartId) : Nat :=
  ((coresOf p).map (fun c => ((s.core c).tags.filter (fun t => t.ack || t.kind == 2)).length)).foldl (· + ·) 0

/-- A tag, and where needed a completion, is free (R16, R159). -/
def State.tagFree (s : State) (c : CoreId) (completion : Bool) : Bool :=
  decide ((s.core c).tags.length < 256) && (!completion || decide (s.completions (partOf c) < 2048))

/-- A completion that is not OK (R159). -/
def State.xferFail (s : State) (c : CoreId) (t : Nat) (status cause : Nat) : State :=
  let s := s.modCore c (fun k => k.dropTag t)
  let s := s.modQueue c qXfer (fun k => { k with state := 4 })
  (s.log 0x0008 (srcCore c) t status 0 0).stopStep (partOf c) status cause

/-- An earlier TGET that has not completed writes into a range: the words of one queue are performed in queue
order, and what it reads of them it reads after (R225). -/
def State.getOverlaps (s : State) (c m : CoreId) (a n : Nat) : Bool :=
  n != 0 && (s.core c).tags.any (fun t => t.kind == 2 && s.sel c t.lsel == some m &&
    decide (t.laddr.toNat < a + n ∧ a < t.laddr.toNat + t.len))

/-! Checks at issue. -/

def xferSel (sel : BitVec 3) : Bool × Nat := (decide (sel ≠ 0 ∧ sel.toNat < 4), 2)

def State.selMissing (s : State) (c : CoreId) (sel : BitVec 3) : Bool × Nat := ((s.sel c sel).isNone, 3)

/-! TCOPY. -/

def State.tcopyReject (s : State) (c : CoreId) (o : XferOp) : Option Nat :=
  firstReason [xferSel o.lsel, xferSel o.dsel, s.selMissing c o.lsel, s.selMissing c o.dsel,
    (pastMem o.laddr.toNat o.len.toNat, 3), (pastMem o.daddr.toNat o.len.toNat, 3)]

/-- Reads all words, takes a tag, and writes them through the buffer. -/
def State.tcopyEffect (c a b : CoreId) (o : XferOp) (t : Nat) (s : State) : State :=
  let ws := s.xferWords c a o.laddr.toNat o.len.toNat
  let s := s.modCore c (fun k => { k with tags := k.tags ++
    [{ tag := t, kind := 0, owed := o.len.toNat, lsel := o.dsel, laddr := o.daddr, len := o.len.toNat }] })
  s.wcWrites c b o.daddr.toNat ws

def State.tcopyPlan (i : Issue) (o : XferOp) (s : State) : Todo :=
  .unless (s.tcopyReject i.core o) <|
  if o.len = 0 then .nop else
  match s.sel i.core o.lsel, s.sel i.core o.dsel with
  | some a, some b =>
    if s.tagFree i.core false = false ∨ s.getOverlaps i.core a o.laddr.toNat o.len.toNat ∨
        s.getOverlaps i.core b o.daddr.toNat o.len.toNat then .waits
    else
      let t := (s.core i.core).freeTag
      .run (s.xferReads i.core a o.laddr.toNat o.len.toNat) (wordsAt b o.daddr.toNat o.len.toNat)
        (fun _ => .release t) (State.tcopyEffect i.core a b o t)
  | _, _ => .reject 3

/-- TCOPY (R158, R229). -/
def execTcopy (i : Issue) (o : XferOp) (s : State) : Out := .next (s.present qXfer 0xD0 i (State.tcopyPlan i o))

/-! TSEND and TGET. -/

/-- DSEL is checked though neither uses it (R134). -/
def State.sendReject (s : State) (c : CoreId) (o : XferOp) : Option Nat :=
  firstReason [xferSel o.lsel, xferSel o.dsel, (decide (12 ≤ o.part.toNat), 3), s.selMissing c o.lsel,
    s.selMissing c o.dsel,
    (pastMem o.laddr.toNat o.len.toNat, 3), (pastMem o.woff.toNat o.len.toNat, 3)]

/-- Offsets and sizes of the packets of `n` words. -/
def packetCuts (n : Nat) : List (Nat × Nat) :=
  (List.range ((n + 127) / 128)).map (fun k => (128 * k, min 128 (n - 128 * k)))

/-- The WRITE packets of a TSEND (R158, R324). -/
def State.sendPackets (s : State) (c a : CoreId) (o : XferOp) (t : Nat) : List Packet :=
  (packetCuts o.len.toNat).map (fun x =>
    mkPacket s (partOf c) (s.rankOf c) o.chip.toNat o.part.toNat 0 o.ack.toNat o.win.toNat
      [(64, 20, o.woff.toNat + x.1), (84, 8, t)] (s.xferWords c a (o.laddr.toNat + x.1) x.2))

/-- The READ_REQ packets of a TGET (R324). -/
def State.getPackets (s : State) (c : CoreId) (o : XferOp) (t : Nat) : List Packet :=
  (packetCuts o.len.toNat).map (fun x =>
    mkPacket s (partOf c) (s.rankOf c) o.chip.toNat o.part.toNat 2 0 o.win.toNat
      [(64, 20, o.woff.toNat + x.1), (84, 8, t), (92, 8, x.2)] [])

/-- Takes a tag and sends packets; a failed lookup completes it with ROUTE_BROKEN (R159, R332). -/
def State.startXfer (s : State) (c : CoreId) (o : XferOp) (x : Tag) (pkts : List Packet) : State :=
  let s := s.modCore c (fun k => { k with tags := k.tags ++ [x] })
  let (s, bad) := s.sendAll (partOf c) (s.rankOf c) 0 (vcOf o.cls.toNat false) pkts
  if bad then s.xferFail c x.tag stBROKEN 7 else s

def sendTag (o : XferOp) (t n : Nat) : Tag :=
  { tag := t, kind := 1, ack := o.ack, chip := o.chip, part := o.part, owed := if o.ack then n else 0 }

def getTag (o : XferOp) (t n : Nat) : Tag :=
  { tag := t, kind := 2, chip := o.chip, part := o.part, owed := n, lsel := o.lsel, laddr := o.laddr,
    woff := o.woff, len := o.len.toNat }

def State.tsendPlan (i : Issue) (o : XferOp) (s : State) : Todo :=
  .unless (s.sendReject i.core o) <|
  if o.len = 0 then .nop else
  match s.sel i.core o.lsel with
  | some a =>
    if s.tagFree i.core o.ack = false ∨ s.getOverlaps i.core a o.laddr.toNat o.len.toNat then .waits
    else
      let t := (s.core i.core).freeTag
      .run (s.xferReads i.core a o.laddr.toNat o.len.toNat) []
        (fun _ => if o.ack then .tag t else .release t)
        (fun s =>
          let ps := s.sendPackets i.core a o t
          s.startXfer i.core o (sendTag o t ps.length) ps)
  | none => .reject 3

/-- TSEND (R158, R159). -/
def execTsend (i : Issue) (o : XferOp) (s : State) : Out := .next (s.present qXfer 0xD1 i (State.tsendPlan i o))

/-- What the write-combine buffer holds of the words a TGET will write is performed before them (R225, R229). -/
def State.tgetPlan (i : Issue) (o : XferOp) (s : State) : Todo :=
  .unless (s.sendReject i.core o) <|
  if o.len = 0 then .nop else
  match s.sel i.core o.lsel with
  | some m =>
    if s.tagFree i.core true = false ∨ s.getOverlaps i.core m o.laddr.toNat o.len.toNat then .waits
    else
      let t := (s.core i.core).freeTag
      .run [] [] (fun _ => .tag t)
        (fun s =>
          let s := s.wcFlush i.core (fun e => e.core == m &&
            decide (o.laddr.toNat ≤ e.addr ∧ e.addr < o.laddr.toNat + o.len.toNat))
          let ps := s.getPackets i.core o t
          s.startXfer i.core o (getTag o t ps.length) ps)
  | none => .reject 3

/-- TGET (R158, R159). -/
def execTget (i : Issue) (o : XferOp) (s : State) : Out := .next (s.present qXfer 0xD2 i (State.tgetPlan i o))

/-! TWIN. -/

/-- The window is open, bound to a region, or reserved under R370 or R483. -/
def State.windowTaken (s : State) (p : PartId) (win : Nat) : Bool :=
  (alGet (s.part p).windows win).isSome || (s.regionAt p win).isSome

def State.twinReject (s : State) (c : CoreId) (o : XferOp) : Option Nat :=
  firstReason [(decide (o.lsel ≠ 0), 2), xferSel o.dsel, (decide (o.wmode = 3), 2), s.selMissing c o.dsel,
    (decide (o.wmode ≠ 0 ∧ o.acen = true ∧ o.arrv = 0), 2),
    (decide (o.wmode ≠ 0) && pastMem o.laddr.toNat o.len.toNat, 3),
    (s.special (partOf c) o.win.toNat, 5),
    (decide (o.wmode ≠ 0 ∧ o.len ≠ 0) && s.windowTaken (partOf c) o.win.toNat, 5)]

def XferOp.window (o : XferOp) (c : CoreId) : Window :=
  { wmode := o.wmode, core := c, laddr := o.laddr, len := o.len, arrv := o.arrv, acnt := o.acnt,
    acen := o.acen, wsrc := o.wsrc }

/-- Closes or opens the window; what was held for it lands (R160). -/
def State.twinEffect (c : CoreId) (o : XferOp) (s : State) : State :=
  let p := partOf c
  if o.wmode = 0 then s.modPart p (fun k => { k with windows := alDel k.windows o.win.toNat })
  else if o.len = 0 then s
  else (s.modPart p (fun k => { k with windows := alSet k.windows o.win.toNat (XferOp.window o c) })).reland p

def State.twinPlan (i : Issue) (o : XferOp) (s : State) : Todo :=
  match s.twinReject i.core o with
  | some r => .reject r
  | none => .run [] [] (fun _ => .now) (State.twinEffect i.core o)

/-- TWIN (R158). -/
def execTwin (i : Issue) (o : XferOp) (s : State) : Out := .next (s.present qXfer 0xD3 i (State.twinPlan i o))

/-! TDRAIN. -/

/-- An earlier TCOPY whose destination overlaps the range has not completed (R230); an empty range overlaps
nothing (R256). -/
def State.copyOverlaps (s : State) (c m : CoreId) (a n : Nat) : Bool :=
  n != 0 && (s.core c).tags.any (fun t => t.kind == 0 && s.sel c t.lsel == some m &&
    decide (t.laddr.toNat < a + n ∧ a < t.laddr.toNat + t.owed))

def State.tdrainPlan (i : Issue) (o : XferOp) (s : State) : Todo :=
  .unless (firstReason [xferSel o.lsel, xferSel o.dsel, s.selMissing i.core o.lsel, s.selMissing i.core o.dsel,
      (pastMem o.laddr.toNat o.len.toNat, 3)]) <|
  match s.sel i.core o.lsel with
  | none => .reject 3
  | some m =>
    if s.copyOverlaps i.core m o.laddr.toNat o.len.toNat then .waits
    else .run [] [] (fun _ => .now) (fun s => s.wcFlush i.core (fun e => e.core == m &&
      decide (o.laddr.toNat ≤ e.addr ∧ e.addr < o.laddr.toNat + o.len.toNat)))

/-- TDRAIN (R230). -/
def execTdrain (i : Issue) (o : XferOp) (s : State) : Out := .next (s.present qXfer 0xD4 i (State.tdrainPlan i o))

/-! Responses (R158, R159, R324, R344). -/

/-- STATUS of a response as a code of R433: 1 DENIED, 2 BOUNDS. -/
def respStatus (n : Nat) : Nat := if n = 1 then stDENIED else stBOUNDS

/-- CAUSE of a completion that is not OK (R159). -/
def respCause (n : Nat) : Nat := if n = 1 then 6 else 3

/-- A response whose tag is not outstanding is counted and discarded. -/
def State.lateResp (s : State) (c : CoreId) : State :=
  s.modCore c (fun k => { k with xferLate := satAdd k.xferLate 1 })

/-- One answer of a tag has come: the tag completes with the last one. -/
def State.answered (s : State) (c : CoreId) (x : Tag) : State :=
  if x.owed ≤ 1 then s.modCore c (fun k => k.tagDone x.tag)
  else s.modCore c (fun k => k.setTag { x with owed := x.owed - 1 })

/-- The core a response is for. -/
def State.respCore (s : State) (q : Packet) : Option CoreId :=
  s.coreOfRank (partOfNat q.dstPart) q.dstRank

/-- A WRITE_ACK at its core. -/
def State.takeAck (s : State) (q : Packet) : State :=
  match s.respCore q with
  | none => s
  | some c =>
    match (s.core c).tagOf q.tag with
    | some x =>
      if x.kind = 1 ∧ x.ack then
        (if q.status = 0 then s.answered c x else s.xferFail c x.tag (respStatus q.status) (respCause q.status))
      else s.lateResp c
    | none => s.lateResp c

/-- A READ_RESP at its core: its words are written where the TGET says. -/
def State.takeResp (s : State) (vc : Fin 8) (q : Packet) : State :=
  match s.respCore q with
  | none => s
  | some c =>
    match (s.core c).tagOf q.tag with
    | some x =>
      if x.kind ≠ 2 then s.lateResp c
      else if q.status ≠ 0 then s.xferFail c x.tag (respStatus q.status) (respCause q.status)
      else
        match s.sel c x.lsel with
        | none => s.answered c x
        | some m =>
          let a := x.laddr.toNat + q.roff
          match s.mustHold (wordsAt m a q.payload.length) with
          | some y => s.holdAt (fun g => .packet vc q g.val) y
          | none => (s.pokeMany m a q.payload).answered c x
    | none => s.lateResp c

/-- RX_WRITE_ACK (R344). -/
def execRxWriteAck (q : Packet) (s : State) : Out :=
  .next (if q.kind ≠ 1 then s else
    let (_, s) := s.arrive q
    if Packet.bad q then s.badHeader else s.takeAck q)

/-- RX_READ_RESP (R344). -/
def execRxReadResp (q : Packet) (s : State) : Out :=
  .next (if q.kind ≠ 3 then s else
    let (vc, s) := s.arrive q
    if Packet.bad q then s.badHeader else s.takeResp vc q)

/-- REMOTE_TIMEOUT (R344): a tag that a response can complete expires. -/
def execRemoteTimeout (c : CoreId) (t : BitVec 8) (s : State) : Out :=
  .next (match (s.core c).tagOf t.toNat with
    | some x => if x.kind = 2 ∨ x.ack then s.xferFail c x.tag stTIMEOUT 6 else s
    | none => s)

/-- WINDOW_HOLD_TIMEOUT (R160): the `n`-th packet held for a closed window is discarded and answered
DENIED. -/
def execWindowHoldTimeout (p : PartId) (n : Nat) (s : State) : Out :=
  .next (match (s.part p).heldPkts[n]? with
    | none => s
    | some (vc, q) =>
      if s.windowTaken p q.win then s
      else (s.modPart p (fun k => { k with heldPkts := k.heldPkts.eraseIdx n })).discardAt p vc q 1)

end Sys2Proof.Machine
end

