-- ==== Sys2Proof/Machine/Mule.lean ====
section
/-! DEFINITION. The Mule's own instructions (R161 to R166): MSTREAM, MREDUCE and MSEND, and the limit on a
reduce region's wait. -/

namespace Sys2Proof.Machine

/-- Engine 6. -/
def qMule : QueueId := 6

/-! MSTREAM. -/

def StreamOp.toStream (o : StreamOp) : Stream :=
  { chip := o.chip, part := o.part, win := o.win, cls := o.cls, ridx := o.ridxaddr, rsc := o.rscaddr,
    rscen := o.rscen, passes := o.passes }

def State.mstreamPlan (i : Issue) (o : StreamOp) (_ : State) : Todo :=
  match firstReason [(decide (o.passes = 0), 2), (decide (12 ≤ o.part.toNat), 3)] with
  | some r => .reject r
  | none => .run [] [] (fun _ => .now) (fun s =>
      s.modCore i.core (fun k => { k with streams := alSet k.streams o.stream.toNat (StreamOp.toStream o) }))

/-- MSTREAM (R161). -/
def execMstream (i : Issue) (o : StreamOp) (s : State) : Out := .next (s.present qMule 0xE0 i (State.mstreamPlan i o))

/-! MREDUCE. -/

/-- The source list. -/
def State.srcList (s : State) (c : CoreId) (o : ReduceOp) : List Nat :=
  (List.range o.sources.toNat).map (fun i => (s.u32At c o.srclist.toNat i).toNat)

def ascending : List Nat → Bool
  | x :: y :: t => decide (x < y) && ascending (y :: t)
  | _ => true

def reduceEmpty (o : ReduceOp) : Bool := o.rows == 0 || o.sources == 0

/-- Sources reserved by the open regions of a core. -/
def Core.reserved (k : Core) : Nat := (k.regions.map (fun r => r.sources.length)).foldl (· + ·) 0

/-- The rejections of the fields, and of the state of windows and regions (R163, R164, R166). -/
def State.reduceReject (s : State) (c : CoreId) (o : ReduceOp) : Option Nat :=
  let e := reduceEmpty o
  let p := partOf c
  firstReason [(decide ((s.core c).fixedOrder = true ∧ 128 < o.sources.toNat), 2),
    (!e && decide (4096 < o.accBase.toNat + o.rows.toNat), 3),
    (!e && pastMem o.srclist.toNat (wordsFor o.sources.toNat 32), 3),
    (!e && (s.special p o.win.toNat || s.windowTaken p o.win.toNat), 5),
    (!e && decide (16 ≤ (s.core c).regions.length), 5)]

/-- Rows of accumulator memory set to +0. -/
def accZero (m : SMap 32) (row n : Nat) : SMap 32 :=
  smFilter (fun a => decide (a < 128 * row ∨ 128 * (row + n) ≤ a)) m

/-- Opens the region; what was held for its window is taken (R160, R164). -/
def State.reduceEffect (c : CoreId) (o : ReduceOp) (s : State) : State :=
  let r : Region := { win := o.win, accBase := o.accBase, rows := o.rows, sources := s.srcList c o }
  let s := if o.init then
    s.modArray c (fun a => { a with acc := accZero a.acc o.accBase.toNat o.rows.toNat }) else s
  (s.modCore c (fun k => { k with regions := k.regions ++ [r] })).reland (partOf c)

def State.mreducePlan (i : Issue) (o : ReduceOp) (s : State) : Todo :=
  let c := i.core
  let list := wordsAt c o.srclist.toNat (wordsFor o.sources.toNat 32)
  .unless (s.reduceReject c o) <|
  if reduceEmpty o then .nop else
  .need list <|
  .unless (firstReason [(!(ascending (s.srcList c o)), 4)]) <|
  if (s.core c).fixedOrder ∧ 128 < (s.core c).reserved + o.sources.toNat then .waits
  else .run list [] (fun _ => .region o.win.toNat) (State.reduceEffect c o)

/-- MREDUCE (R163, R164). -/
def execMreduce (i : Issue) (o : ReduceOp) (s : State) : Out := .next (s.present qMule 0xE1 i (State.mreducePlan i o))

/-! MSEND. -/

def msendW (o : MsendOp) : Nat := if o.w = 0 then 1 else if o.w = 1 then 2 else 4

/-- Bytes of one row in core memory. -/
def msendRowWords (o : MsendOp) : Nat := 128 * msendW o * (if o.fmt = 1 then 2 else 4) / 32

/-- The rows that a MSEND sends, as FP32 values. -/
def State.msendRows (s : State) (c m : CoreId) (o : MsendOp) : List (List (BitVec 32)) :=
  let w := msendW o
  (List.range o.count.toNat).map (fun t => (List.range (128 * w)).map (fun k =>
    if o.src then
      let e := if o.fmt = 1 then 16 else 32
      let x := rdBits (s.peek m) (o.maddr.toNat + t * msendRowWords o) (k * e) e
      BitVec.ofNat 32 (if o.fmt = 1 then x * 65536 else x)
    else smGet (s.core c).array.acc (128 * (o.accBase.toNat + t * w) + k)))

/-- The rejections of the fields and of the stream's state (R134, R165, R166). -/
def State.msendReject (s : State) (c : CoreId) (o : MsendOp) : Option Nat :=
  let st := alGet (s.core c).streams o.stream.toNat
  let n := o.count.toNat
  firstReason ([(decide (2 ≤ o.fmt.toNat), 2), (decide (o.w = 3), 2), xferSel o.msel, s.selMissing c o.msel,
    (!o.src && decide (n ≠ 0 ∧ 4096 < o.accBase.toNat + n * msendW o), 3),
    (o.src && pastMem o.maddr.toNat (n * msendRowWords o), 3),
    (st.isNone, 5)] ++
    (match st with
     | some x => [(pastMem x.ridx.toNat (wordsFor (if n = 0 then 0 else x.rows + n) 32), 3),
        (x.rscen && pastMem x.rsc.toNat (wordsFor (if n = 0 then 0 else x.rows + n) 32), 3)]
     | none => []))

def State.msendPlan (i : Issue) (o : MsendOp) (s : State) : Todo :=
  let c := i.core
  let n := o.count.toNat
  .unless (s.msendReject c o) <|
  if n = 0 then .nop else
  match alGet (s.core c).streams o.stream.toNat with
  | none => .reject 5
  | some x =>
    let m := if o.src then (s.sel c o.msel).getD c else c
    let ridx := (listWords x.ridx.toNat x.rows n).map (fun y => (c, y))
    .need ridx <|
    .unless (firstReason [(badRidx (s.ridx c x x.rows n), 4)]) <|
    .run (ridx ++ ((if x.rscen then listWords x.rsc.toNat x.rows n else []).map (fun y => (c, y)) ++
        (if o.src then wordsAt m o.maddr.toNat (n * msendRowWords o) else []))) []
      (fun _ => .now) (fun s =>
        let (s, bad) := s.muleSend c o.stream.toNat x (o.fmt == 1) (msendW o) (s.msendRows c m o)
        if bad then s.broken c qMule else s)

/-- MSEND (R165). -/
def execMsend (i : Issue) (o : MsendOp) (s : State) : Out := .next (s.present qMule 0xE2 i (State.msendPlan i o))

/-- MREDUCE_TIMEOUT (R166): an incomplete region saw no arrival for the remote timeout. The region is
closed, the Mule's queue stops with a status, and so does the step. -/
def execMreduceTimeout (c : CoreId) (win : BitVec 8) (s : State) : Out :=
  .next (if (s.core c).regions.any (·.win == win) then
    let s := s.modCore c (fun k => { k with regions := k.regions.filter (·.win != win) })
    (s.modQueue c qMule (fun k => { k with state := 4 })).stopStep (partOf c) stTIMEOUT 6
  else s)

end Sys2Proof.Machine
end

