-- ==== Sys2Proof/Machine/CoreEvents.lean ====
section
/-! DEFINITION. The events of a core: completion (R226, R231, R256), scrubbing and write-back (R207, R208),
the power states of bank groups (R211 to R213, R219, R220), and the limits on waits (R241, R265). -/

namespace Sys2Proof.Machine

/-! INSTR_COMPLETE. -/

/-- What an instruction waits for has come about. -/
def Until.met : Until → Bool
  | .now => true
  | .pass => true
  | .release _ => true
  | .tag _ => false
  | .region _ => false

/-- The first instruction of a queue in flight at a position, with the instructions before it and after
it. -/
def splitFlight (q : QueueId) (n : BitVec 16) : List InFlight → Option (List InFlight × InFlight × List InFlight)
  | [] => none
  | f :: t =>
    if f.q = q ∧ f.qpos = n then some ([], f, t)
    else (splitFlight q n t).map (fun x => (f :: x.1, x.2.1, x.2.2))

/-- It may complete: what it waits for has come, and a kernel end has no earlier instruction of its queue
before it (R231). -/
def mayComplete (before : List InFlight) (f : InFlight) : Bool :=
  f.due.met && (!f.hdr.kend || before.all (fun x => x.q != f.q))

/-- The header's increments (R256). -/
def Core.increments (k : Core) (h : Header) : Core :=
  let k := if h.i0en then k.bump h.i0ctr 1 else k
  if h.i1en then k.bump h.i1ctr 1 else k

/-- What the kernel end of a queue adds (R231). -/
def State.kernelEnd (s : State) (c : CoreId) (q : QueueId) : State :=
  if q = qXfer then s.wcFlush c (fun _ => true)
  else if q = qArray then s.modArray c ArrayUnit.fence
  else s

/-- What completion does to the unit: a pass is counted, a tag is released. -/
def Core.finishDue (k : Core) : Until → Core
  | .pass => { k with array := { k.array with passCount := satAdd k.array.passCount 1 } }
  | .release t => k.dropTag t
  | _ => k

/-- The queue shows that nothing runs any more. -/
def Core.idleQueue (k : Core) (q : QueueId) : Core :=
  if k.inflight.any (fun f => f.q == q) then k
  else if q = qArray then k
  else
    let x := k.queue q
    { k with queues := k.queues.set q (if x.state = 1 then { x with state := 0 } else x) }

def State.complete (s : State) (c : CoreId) (before : List InFlight) (f : InFlight) (after : List InFlight) : State :=
  let s := if f.hdr.kend then s.kernelEnd c f.q else s
  s.modCore c (fun k =>
    (({ k with inflight := before ++ after }.finishDue f.due).increments f.hdr).idleQueue f.q)

/-- INSTR_COMPLETE (R226). -/
def execInstrComplete (c : CoreId) (q : QueueId) (n : BitVec 16) (s : State) : Out :=
  .next (match splitFlight q n (s.core c).inflight with
    | some (b, f, a) => if mayComplete b f then s.complete c b f a else s
    | none => s)

/-! Scrubbing and write-back. -/

/-- The word of a row of a bank (R199). -/
def Memory.wordOf (m : Memory) (bank : Fin 64) (row : Nat) : Nat :=
  if m.ilv then bank.val / 8 * 0x20000 + row * 8 + bank.val % 8 else row * 64 + bank.val

/-- Whether a group's state is ON. -/
def Memory.groupOn (m : Memory) (a : Nat) : Bool := m.bgState[m.group a] == 0

/-- One scrub read (R208). -/
def State.scrubOne (s : State) (c : CoreId) (a : Nat) : State :=
  match (s.core c).memory.check a with
  | .good => s
  | .corrected syms => s.corrected c a syms true
  | .bad => (s.recordUncorr c a 0 true).log 0x0003 (srcCore c) a 0 0 0

/-- SCRUB_READ (R208): the bank's next row. -/
def execScrubRead (c : CoreId) (bank : Fin 64) (s : State) : Out :=
  let m := (s.core c).memory
  let row := (smGet m.scrubRow bank.val).toNat
  let a := m.wordOf bank row
  .next (if m.scrub = 0 ∨ m.groupOn a = false ∨ s.domains[c.val]! ≠ 0 then s else
    (s.modMem c (fun m => { m with
      scrubRow := smSet m.scrubRow bank.val (BitVec.ofNat 14 (row + 1)) })).scrubOne c a)

/-- CORRECTED_WRITEBACK (R207): the corrected word with fresh check bytes, if the write-back is still
pending and the group is ON. -/
def execCorrectedWriteback (c : CoreId) (addr : BitVec 20) (s : State) : Out :=
  let m := (s.core c).memory
  .next (match m.writeback.find? (·.1 == addr.toNat) with
    | some x => if m.groupOn addr.toNat then s.poke c addr.toNat x.2 else s
    | none => s)

/-! Bank-group states. -/

/-- The field that a group's requests use, none where writes are ignored (R219). -/
def Memory.reqField (m : Memory) (g : Fin 8) : Bool := m.ilv || g == 0

/-- A write of a state into a group's field (R212, R213, R219). -/
def Memory.request (m : Memory) (g : Fin 8) (r : BitVec 2) : Memory :=
  if m.reqField g = false ∨ r = 3 then m
  else if r = 0 ∧ (m.bgState[g] = 1 ∨ m.bgState[g] = 2) then m.wake g
  else { m with bgReq := m.bgReq.set g r }

/-- The safety partition keeps its memory awake (R371). -/
def State.bgRequest (s : State) (c : CoreId) (g : Fin 8) (r : BitVec 2) : State :=
  if s.safety ∧ partOf c = 0 ∧ r ≠ 0 then s else s.modMem c (fun m => m.request g r)

/-- BG_REQ_ON (R212). -/
def execBgReqOn (c : CoreId) (g : Fin 8) (s : State) : Out := .next (s.bgRequest c g 0)
/-- BG_REQ_RETENTION (R212). -/
def execBgReqRetention (c : CoreId) (g : Fin 8) (s : State) : Out := .next (s.bgRequest c g 1)
/-- BG_REQ_OFF (R212). -/
def execBgReqOff (c : CoreId) (g : Fin 8) (s : State) : Out := .next (s.bgRequest c g 2)


/-- A write to the group is outstanding, or an access to it is held (R212). -/
def State.groupBusy (s : State) (c : CoreId) (g : Fin 8) : Bool :=
  let m := (s.core c).memory
  m.held.any (Held.inGroup g.val) ||
  (coresOf (partOf c)).any (fun x => (s.core x).wc.any (fun e => e.core == c && m.group e.addr == g))

/-- The state that a group would enter: its field, where the group is ON or goes from retention to off. -/
def Memory.entry (m : Memory) (g : Fin 8) : BitVec 2 :=
  if m.reqField g = false then m.bgState[g]
  else if m.bgState[g] = 0 then m.bgReq[g]
  else if m.bgState[g] = 1 ∧ m.bgReq[g] = 2 then 2
  else m.bgState[g]

/-- The contents of a group are lost: its words will read as zeros with zero check bytes (R211). -/
def Memory.clearGroup (m : Memory) (g : Fin 8) : Memory :=
  { m with
    mem := smFilter (fun a => m.group a != g) m.mem, flips := smFilter (fun a => m.group a != g) m.flips,
    writeback := m.writeback.filter (fun x => m.group x.1 != g) }

/-- A group enters a state; in OFF it loses its contents (R211). -/
def Memory.enter (m : Memory) (g : Fin 8) (x : BitVec 2) : Memory :=
  let m := if x = 2 then m.clearGroup g else m
  { m with bgState := m.bgState.set g x }

/-- BG_ENTER_STATE (R212). -/
def execBgEnterState (c : CoreId) (g : Fin 8) (s : State) : Out :=
  .next (if s.groupBusy c g then s else s.modMem c (fun m => m.enter g (m.entry g)))

/-- A waking group is ON; ZEROED tells of a wake from OFF (R220). -/
def Memory.awake (m : Memory) (g : Fin 8) : Memory :=
  { m with bgState := m.bgState.set g 0, bgFromOff := m.bgFromOff.set g false,
           zeroed := if m.bgFromOff[g] = false then m.zeroed
             else if m.ilv then m.zeroed ||| (1#8 <<< g.val) else 0xFF }

/-- Serves accesses of core `c` that were held, in the order in which they arrived (R213), up to the first
instruction; what stays behind that instruction. -/
def State.serveHeld (c : CoreId) : List Held → State → State × List Held
  | [], s => (s, [])
  | .packet vc q _ :: t, s =>
    State.serveHeld c t (if q.kind = 3 then s.takeResp vc q else s.landPacket (partOfNat q.dstPart) vc q)
  | .write a d m src _ :: t, s => State.serveHeld c t (s.wrCtl c a d m src)
  | h :: t, s => (s, h :: t)

/-- Serves what is held at a group that is ON, up to the first instruction, which is served when its queue
presents it again. -/
def State.serveGroup (s : State) (c : CoreId) (g : Fin 8) : State :=
  let l := (s.core c).memory.held.filter (Held.inGroup g.val)
  let (s, l) := State.serveHeld c l
    (s.modMem c (fun m => { m with held := m.held.filter (fun h => !(Held.inGroup g.val h)) }))
  if l = [] then s else s.modMem c (fun m => { m with held := l ++ m.held })

/-- The wake of a group ends (R213). -/
def State.groupAwake (s : State) (c : CoreId) (g : Fin 8) : State :=
  if (s.core c).memory.bgState[g] ≠ 3 then s else (s.modMem c (fun m => m.awake g)).serveGroup c g

/-! Limits on waits. -/

/-- BARRIER_TIMEOUT (R241): the head of the queue is held by an unsatisfied barrier wait. -/
def execBarrierTimeout (c : CoreId) (q : QueueId) (s : State) : Out :=
  let k := s.core c
  let p := partOf c
  .next (match (k.queue q).waiting with
    | none => s
    | some i =>
      if i.hdr.bar = false ∨ i.hdr.w0en = false ∨ k.wait0 i.hdr = true then s else
      let s := (s.waitsMet q (s.waitedNow q i)).modPart p (fun x => { x with barExpired := satAdd x.barExpired 1 })
      let f := match (s.part p).prog with
        | some g => g.flock.toNat
        | none => 0xFFF
      (s.log 0x000E (srcCore c) f q.val i.qpos.toNat 0).stopStep p stTIMEOUT 5)

/-- The counter of the first unsatisfied wait that is no barrier wait (R265). The counter of a ring's arrivals
is not watched (R407). -/
def Core.watched (k : Core) (ring : Bool) (h : Header) : Option Nat :=
  if h.bar = false ∧ k.wait0 h = false ∧ !(ring && h.w0ctr == 31) then some h.w0ctr.toNat
  else if k.wait1 h = false ∧ !(ring && h.w1ctr == 31) then some h.w1ctr.toNat
  else none

/-- WATCHDOG_EXPIRY (R265): the head of the queue is held by such a wait, or by an operand or unit wait of
the vector engine. -/
def execWatchdogExpiry (c : CoreId) (q : QueueId) (s : State) : Out :=
  let k := s.core c
  let p := partOf c
  .next (match (k.queue q).waiting with
    | none => s
    | some i =>
      let stall (n : Nat) : State :=
        let s := (s.addStall q i (s.stalledNow c q)).waitsMet q (s.waitedNow q i)
        let s := s.modPart p (fun x => { x with wdExpired := satAdd x.wdExpired 1 })
        let s := if q = qArray then s.modArray c (fun a => { a with state := 7 })
          else s.modQueue c q (fun x => { x with state := 4 })
        (s.log 0x000F (srcCore c) q.val i.qpos.toNat n 0).stopStep p stSTALL 4
      match k.watched (s.ringCore c) i.hdr with
      | some n => stall n
      | none => if q = qVec ∧ (k.queue q).state = 3 then stall 0 else s)

end Sys2Proof.Machine
end

