-- ==== Sys2Proof/Machine/LsSend.lean ====
section
/-! DEFINITION. The packets that lock-step twins exchange (R483 to R487). The places of the fields behind
the control record are the model's (Assumption 30). -/

namespace Sys2Proof.Machine

/-- The control record of a lock-step packet, filled to one word: 0 RECORDS, 1 HELLO, 2 HALT, 3 BATCH. -/
def lsControl (ty : Nat) (rest : List Byte) : MWord :=
  wordOfBytes (leBytes 2 0xFFFF ++ leBytes 2 0 ++ leBytes 4 ty ++ leBytes 8 0 ++ rest)

/-- Sends one lock-step packet to the twin: a WRITE of class 3 into window 0xFE. -/
def State.lsSend (s : State) (p : PartId) (ws : List MWord) : State :=
  let k := s.part p
  s.reply 6 (mkPacket s p 0 k.ls.twinChip.toNat p.val 0 0 0xFE [] ws)

def State.lsSendAll (s : State) (p : PartId) : List (List MWord) → State
  | [] => s
  | ws :: t => (s.lsSend p ws).lsSendAll p t

def LsRecord.bytes (r : LsRecord) : List Byte :=
  leBytes 2 r.stream.toNat ++ leBytes 2 0 ++ leBytes 4 r.seq.toNat ++ leBytes 8 r.check.toNat

/-- A RECORDS packet: the control record and up to 255 records. -/
def lsRecords (l : List LsRecord) : List MWord :=
  wordsOfBytes (leBytes 2 0xFFFF ++ leBytes 2 0 ++ leBytes 4 0 ++ leBytes 8 0 ++ l.flatMap LsRecord.bytes)

/-- Sends the pending records (R485). -/
def State.lsFlush (s : State) (p : PartId) : State :=
  let l := (s.part p).ls.unsent
  (s.modPart p (fun k => { k with ls := { k.ls with unsent := [] } })).lsSendAll p ((chunks 255 l).map lsRecords)

/-- The HELLO of a partition (R483). -/
def State.lsHello (s : State) (p : PartId) : State :=
  match (s.part p).prog with
  | none => s
  | some g =>
    (s.lsSend p [lsControl 1 (leBytes 4 g.digestLow.toNat ++ leBytes 2 g.ncores.toNat ++ leBytes 2 g.flock.toNat)]).modPart
      p (fun k => { k with ls := { k.ls with helloSent := true } })

def State.lsHalt (s : State) (p : PartId) (stream : BitVec 16) (seq : BitVec 32) : State :=
  s.lsSend p [lsControl 2 (leBytes 2 stream.toNat ++ leBytes 2 0 ++ leBytes 4 seq.toNat)]

/-- A batch table or a ring entry in BATCH packets (R486). -/
def State.lsBatch (s : State) (p : PartId) (table : List MWord) : State :=
  s.lsSendAll p ((chunks 127 table).map (fun ws => lsControl 3 (leBytes 4 table.length) :: ws))

/-- The records that the twin has given for a stream and sequence number, and those that agree. -/
def LsRecord.same (a b : LsRecord) : Bool := a.stream == b.stream && a.seq == b.seq

/-- Pairs own and twin records (R485): the first that differs, and what is left of both lists. -/
def lsMatch : List LsRecord → List LsRecord → Option LsRecord × List LsRecord × List LsRecord
  | [], tw => (none, [], tw)
  | r :: own, tw =>
    match tw.find? (LsRecord.same r) with
    | none =>
      let (bad, o, t) := lsMatch own tw
      (bad, r :: o, t)
    | some x =>
      if x.check = r.check then lsMatch own (tw.erase x) else (some r, r :: own, tw)

/-- The halt of a paired partition (R487): reason 1 MISMATCH or 2 LOST. -/
def State.lsStop (s : State) (p : PartId) (reason : Nat) (stream : BitVec 16) (seq : BitVec 32) : State :=
  let (w, s) := s.draw
  let s := s.modPart p (fun k => { k with ls := { k.ls with
    reason := BitVec.ofNat 2 reason, stream := stream, seq := seq.setWidth 16, step := k.steps,
    cycle := w.extractLsb' 0 32, own := [], twin := [], unsent := [] } })
  let s := s.log 0x0020 (srcPart p) reason stream.toNat seq.toNat 0
  s.stopStep p (if reason = 1 then stFAULT else stTIMEOUT) (if reason = 1 then 9 else 10)

/-- Compares what is present; a mismatch halts both twins. -/
def State.lsCompare (s : State) (p : PartId) : State :=
  let l := (s.part p).ls
  let (bad, own, tw) := lsMatch l.own l.twin
  match bad with
  | none => s.modPart p (fun k => { k with ls := { k.ls with own := own, twin := tw } })
  | some r => (s.lsStop p 1 r.stream r.seq).lsHalt p r.stream r.seq

/-- The result record of the step has been matched. -/
def Lockstep.matched (l : Lockstep) : Bool := !(l.own.any (fun r => r.stream == 0x000F))

end Sys2Proof.Machine
end

