-- ==== Sys2Proof/Machine/Serving.lean ====
section
/-! DEFINITION. The admission controller (R390 to R409): budgets, admission, the batch table, the request
ring, the start of a step, and the result table. -/

namespace Sys2Proof.Machine

/-! Regions of rank 0 (R394). -/

/-- A region of rank 0 of the loaded image: word address and words. -/
def Part.region (k : Part) (n : Nat) : Option (Nat × Nat) :=
  match k.prog with
  | none => none
  | some g => (g.regions.find? (fun r => r.1 == 0 && r.2.1 == n)).map (fun r => (r.2.2.1, r.2.2.2))

def Part.regionAddr (k : Part) (n : Nat) : Nat := ((k.region n).map (·.1)).getD 0
def Part.regionWords (k : Part) (n : Nat) : Nat := ((k.region n).map (·.2)).getD 0

def Part.m (k : Part) : Nat := k.maxRows.toNat

/-- The regions that the serving mode needs are there and large enough. -/
def Part.regionsOk (k : Part) : Bool :=
  let m := k.m
  let has (n w : Nat) : Bool := (k.region n).isSome && decide (w ≤ k.regionWords n)
  if k.srvMode = 1 then
    has 65520 (1 + m + (m + 7) / 8 + 3 * ((m + 15) / 16)) && has 65521 (1 + m + (m + 15) / 16)
  else if k.srvMode = 2 then has 65521 2 && has 65522 32
  else true

/-- Rank 0. -/
def State.rank0 (s : State) (p : PartId) : CoreId := (s.coreOfRank p 0).getD 0

/-! Requests. -/

def Part.reqOf (k : Part) (e : Entry) : Option Request :=
  match alGet k.slots e.slot with
  | some r => if r.gen = e.gen then some r else none
  | none => none

/-- Tokens in the prompt store (R391). -/
def Part.stored (k : Part) : Nat := (k.slots.map (fun x => x.2.prompt.length)).foldl (· + ·) 0

def Part.countState (k : Part) (p : ReqState → Bool) : Nat := (k.slots.filter (fun x => p x.2.state)).length

/-- A DONE slot becomes FREE, its generation grows (R391). -/
def Part.freeSlot (k : Part) (n : Nat) : Part :=
  { k with slots := alDel k.slots n, gens := smSet k.gens n (smGet k.gens n + 1) }

/-- Whether a tenant can pay for requests of classes 1 and 2 (R400): 0 yes, 1 not now, 2 never. -/
def Part.pay (k : Part) (t : BitVec 16) : Nat :=
  let b := k.budget t
  if b.rate = 0xFFFFFFFF ∨ 0 < b.balance.toInt then 0 else if b.rate = 0 then 2 else 1

/-- An ENDED entry for a request that ended for a reason the program did not report (R396). -/
def endedEntry (n : Nat) (r : Request) : Entry :=
  { slot := n, gen := r.gen, tenant := r.tenant, row0 := 0, rows := 0, ended := true, adapter := r.slot,
    pos := r.pos, dropLate := r.dropLate, outLeft := r.outLeft }

/-- A request completes: at once, or at the lock-step match where results are held (R485). `quiet` says that
no ENDED entry tells of it (R396): the program has reported the end, or it comes at no boundary. -/
def Part.complete (k : Part) (now : BitVec 64) (n : Nat) (r : Request) (st : Nat) (drop quiet hold : Bool) :
    Part :=
  let k := if k.srvMode = 1 ∧ !quiet then { k with endedNext := k.endedNext ++ [endedEntry n r] } else k
  if hold then { k with slots := alSet k.slots n { r with pend := some st, pendDrop := drop } }
  else (k.done now n { r with vis := r.out.length } st drop).countDone st

/-- A request's deadline has passed. -/
def Request.late (r : Request) (now : BitVec 64) : Bool := r.deadline != 0 && decide (r.deadline.toNat < now.toNat)

/-- Step 3 of the boundary (R395): DROP_LATE deadlines that have passed, tenants that cannot pay. -/
def Part.sweep (k : Part) (now : BitVec 64) : List (Nat × Request) → Part
  | [] => k
  | (n, r) :: t =>
    (if (r.state ≠ .queued ∧ r.state ≠ .active) ∨ r.pend.isSome then k
     else if r.dropLate ∧ r.late now then k.complete now n r stCANCELLED true false false
     else if r.cls ≠ 0 ∧ k.pay r.tenant = 2 then k.complete now n r stBUDGET false false false
     else k).sweep now t

/-! Admission (R396, R399). -/

def insBy {α : Type} (lt : α → α → Bool) (x : α) : List α → List α
  | [] => [x]
  | y :: t => if lt x y then x :: y :: t else y :: insBy lt x t

def sortBy {α : Type} (lt : α → α → Bool) (l : List α) : List α := l.foldr (insBy lt) []

/-- ACTIVE requests in the order of their admission. -/
def Part.actives (k : Part) : List (Nat × Request) :=
  sortBy (fun a b => decide (a.2.order < b.2.order))
    (k.slots.filter (fun x => x.2.state == .active && x.2.pend.isNone))

/-- The order of QUEUED requests: class, deadline with none last, acceptance. -/
def queuedBefore (a b : Nat × Request) : Bool :=
  let key (r : Request) : Nat := (r.cls.toNat * 2 ^ 65 + (if r.deadline = 0 then 2 ^ 64 else r.deadline.toNat))
  decide (key a.2 < key b.2) || (key a.2 == key b.2 && decide (a.2.order < b.2.order))

def Part.queued (k : Part) : List (Nat × Request) :=
  sortBy queuedBefore (k.slots.filter (fun x => x.2.state == .queued))

/-- The `n` lowest free descriptor indices. -/
def Part.freeDescs (k : Part) (n : Nat) : List Nat :=
  ((List.range k.ndesc.toNat).filter (fun i => !(k.used.contains i))).take n

/-- A batch being built. -/
structure Batch where
  k      : Part
  ents   : List Entry := []
  allocs : List Nat := []
  tokens : List (BitVec 32) := []
  left   : Nat
  deriving DecidableEq, Repr

/-- Rows that a request takes when `left` are left. -/
def Request.rowsFor (r : Request) (left : Nat) : Nat :=
  if r.pos < r.ntok then min (r.ntok - r.pos) left else 1 + min r.draft (left - 1)

/-- New blocks that rows `pos` to `pos + n − 1` enter (R399). -/
def Request.newBlocks (r : Request) (n : Nat) : Nat := (r.pos + n - 1) / 64 + 1 - max (r.pos / 64) r.blocks

/-- Offers rows to one request. -/
def Batch.offer (b : Batch) (x : Nat × Request) : Batch :=
  let (n, r) := x
  let k := b.k
  if b.left = 0 ∨ k.m ≤ b.ents.length ∨ (r.cls ≠ 0 ∧ k.pay r.tenant ≠ 0) then b else
  let rows := r.rowsFor b.left
  let need := r.newBlocks rows
  let ids := k.freeDescs need
  if ids.length < need then b else
  let prompt := decide (r.pos < r.ntok)
  let e : Entry :=
    { slot := n, gen := r.gen, tenant := r.tenant, row0 := k.m - b.left, rows := rows,
      draft := if prompt then 0 else rows - 1, prompt := prompt, last := prompt && r.pos + rows == r.ntok,
      new := r.state == .queued, adapter := r.slot, pos := r.pos, dropLate := r.dropLate,
      outLeft := r.outLeft, alloc0 := b.allocs.length, nalloc := need }
  let r' := { r with
    state := .active, blocks := max r.blocks ((r.pos + rows - 1) / 64 + 1),
    order := (if r.state = .queued then k.accepted else r.order),
    prompt := if prompt then r.prompt.drop rows else r.prompt }
  { k := { k with slots := alSet k.slots n r', used := k.used ++ ids, accepted := k.accepted + 1 },
    ents := b.ents ++ [e], allocs := b.allocs ++ ids,
    tokens := b.tokens ++ (if prompt then r.prompt.take rows else List.replicate rows 0xFFFFFFFF),
    left := b.left - rows }

/-- Admits rows (R396). -/
def Part.admitBatch (k : Part) : Batch :=
  let now := k.endedNext.take k.m
  let k := { k with endedNext := k.endedNext.drop k.m }
  let b : Batch := { k := k, ents := now, left := k.m }
  (k.actives ++ k.queued).foldl Batch.offer b

/-! The batch table (R397). -/

def reqId (p : PartId) (n : Nat) (gen : BitVec 16) : Nat := gen.toNat * 65536 + p.val * 4096 + n

def Part.nspace (k : Part) (t : BitVec 16) : Nat :=
  let b := k.budget t
  if b.nshare = 0 then t.toNat else b.nshare.toNat

def Part.entryWord (k : Part) (p : PartId) (e : Entry) : MWord :=
  let canc := match k.reqOf e with
    | some r => r.state == ReqState.cancelling
    | none => false
  let fl := e.prompt.toNat + 2 * e.last.toNat + 4 * e.new.toNat + 8 * e.ended.toNat + 16 * canc.toNat +
    32 * e.dropLate.toNat
  wordOfBytes (leBytes 4 (reqId p e.slot e.gen) ++ leBytes 2 e.tenant.toNat ++ leBytes 2 e.adapter.toNat ++
    leBytes 2 e.row0 ++ leBytes 2 e.rows ++ leBytes 4 e.pos ++ leBytes 1 fl ++ leBytes 1 e.draft ++
    leBytes 2 e.alloc0 ++ leBytes 2 e.nalloc ++ leBytes 2 0 ++ leBytes 4 e.outLeft ++ leBytes 4 (k.nspace e.tenant))

def u16s (l : List Nat) : List MWord := wordsOfBytes (l.flatMap (leBytes 2))

/-- The words of a table by their place in the region. -/
def Batch.words (b : Batch) (p : PartId) (time : BitVec 64) : List (Nat × List MWord) :=
  let k := b.k
  let m := k.m
  let hdr := wordOfBytes (leBytes 4 k.stepNo.toNat ++ leBytes 2 b.ents.length ++ leBytes 2 b.tokens.length ++
    leBytes 2 b.allocs.length ++ leBytes 1 (k.kvReset.toNat + 2 * k.first.toNat) ++ leBytes 5 0 ++
    leBytes 8 time.toNat)
  let rows (f : Entry → Nat → Nat) : List Nat := (b.ents.zipIdx).flatMap (fun x => List.replicate x.1.rows (f x.1 x.2))
  let o2 := 1 + m + (m + 7) / 8
  let w := (m + 15) / 16
  [(0, [hdr]), (1, b.ents.map (k.entryWord p)),
   (1 + m, wordsOfBytes (b.tokens.flatMap (fun t => leBytes 4 t.toNat))),
   (o2, u16s (rows (fun e _ => e.adapter.toNat))), (o2 + w, u16s (rows (fun _ i => i))),
   (o2 + 2 * w, u16s b.allocs)]

def State.writeTable (s : State) (c : CoreId) (a : Nat) : List (Nat × List MWord) → State
  | [] => s
  | (o, ws) :: t => (s.pokeMany c (a + o) ws).writeTable c a t

/-! The start of a step. -/

/-- A stopped array shows its ramp again. -/
def ArrayUnit.start (a : ArrayUnit) : ArrayUnit :=
  if a.state = 7 then { a with state := (if a.rampStep = 0 then 4 else if a.rampStep = 16 then 0 else 5) } else a

/-- R263: BASE grows by STRIDE. Reports that are made once per step may be made again, and every queue
starts from its first instruction (R255). -/
def Core.stepStart (k : Core) : Core :=
  { k with
    marks := {}, counters := k.counters.map (fun c => if c.decl then { c with base := c.base + c.stride } else c),
    queues := k.queues.map (fun q => { q.rewind.free with state := 0, qpos := 0 }),
    array := k.array.start }

def State.beginStep (s : State) (p : PartId) : State :=
  let s := (s.ranks p).foldl (fun s c => s.modCore c Core.stepStart) s
  s.modPart p (fun k => { k with
    stepping := true, stepNo := k.stepNo + 1, kvReset := false, first := false, stepWaits := false,
    ls := { k.ls with seqs := [] } })

/-- A region of rank 0 that is not all ON; the wake of its first such group is started. -/
def State.tableAsleep (s : State) (p : PartId) (a n : Nat) : Option State :=
  (s.mustHold (wordsAt (s.rank0 p) a n)).map s.wakeAt

/-- The start of a step, or of what the controller writes for it, waits: the partition sleeps (R30, R476), or
a bank group under the region to be written does. -/
def State.boundaryHeld (s : State) (p : PartId) (region : Nat) : Option State :=
  let k := s.part p
  if k.sleepState ≠ 0 then some ((s.lateWakePart p).modPart p (fun k => { k with stepWaits := true }))
  else s.tableAsleep p (k.regionAddr region) (k.regionWords region)

/-- Starts step with a table: written, recorded and sent to the follower (R395 steps 5 and 6). -/
def State.startBatch (s : State) (p : PartId) (b : Batch) : State :=
  let ws := b.words p s.time
  let s := s.setPart p { b.k with entries := b.ents, nrows := b.tokens.length }
  let s := s.writeTable (s.rank0 p) (b.k.regionAddr 65520) ws
  let flat := ws.flatMap (·.2)
  let s := s.recBatch p flat
  let s := if b.k.ls.paired ∧ !b.k.ls.follower then s.lsBatch p flat else s
  s.beginStep p

/-- Steps 3 to 6 of a boundary in batch mode, for a partition that admits its own requests. -/
def State.kickBatch (s : State) (p : PartId) : State :=
  let k := (s.part p).sweep s.time (s.part p).slots
  let b := k.admitBatch
  let s := s.setPart p k
  if b.ents = [] ∧ k.runEmpty = false then s
  else match s.boundaryHeld p 65520 with
    | some s' => s'
    | none => s.startBatch p b

/-! The request ring (R406 to R408). -/

/-- Entries written and not yet served by a step that has ended. -/
def Part.unserved (k : Part) : Nat :=
  k.ringCount - (k.stepNo.toNat - (if k.stepping then 1 else 0))

def ringHeader (p : PartId) (n : Nat) (r : Request) (void : Bool) : MWord :=
  wordOfBytes (leBytes 4 (reqId p n r.gen) ++ leBytes 2 r.tenant.toNat ++ leBytes 2 r.slot.toNat ++
    leBytes 2 r.ntok ++ leBytes 1 (r.dropLate.toNat + 2 * void.toNat + (if r.cls = 0 then 4 else 0)) ++ leBytes 5 0 ++
    leBytes 8 r.deadline.toNat ++ leBytes 8 r.arrive.toNat)

/-- The words of entry `n mod 16` begin here. -/
def Part.ringAddr (k : Part) (n : Nat) : Nat := k.regionAddr 65522 + n % 16 * (k.regionWords 65522 / 16)

/-- Start of work of a class-0 request whose frame came at `rx`: its host-to-start time (R383) is what has
passed since, and a free time that the port, the spine and the controller take (Assumption 7). -/
def State.c0Started (s : State) (p : PartId) (rx : BitVec 64) : State :=
  let (w, s) := s.draw
  let x : BitVec 16 := satAdd (w.extractLsb' 0 16) ((s.time - rx).toNat / 10)
  let k := s.part p
  let k := { k with c0Max := if k.c0Max.toNat < x.toNat then x else k.c0Max }
  if x.toNat ≤ 500 then s.setPart p k else
  let s := s.setPart p { k with c0Over := satAdd k.c0Over 1 }
  match k.c0Late with
  | some t => if s.time.toNat < t.toNat + 1000000 then s else
      (s.modPart p (fun k => { k with c0Late := some s.time })).log 0x0018 (srcPart p) x.toNat 0 0 0
  | none => (s.modPart p (fun k => { k with c0Late := some s.time })).log 0x0018 (srcPart p) x.toNat 0 0 0

/-- The words of an entry go into the ring and counter 31 of rank 0 counts it. -/
def State.ringPut (s : State) (p : PartId) (ws : List MWord) : State :=
  let k := s.part p
  let s := s.pokeMany (s.rank0 p) (k.ringAddr k.ringCount) ws
  let s := s.modCore (s.rank0 p) (fun c => c.bump 31 1)
  s.modPart p (fun k => { k with ringCount := k.ringCount + 1 })

/-- Writes the entry of one request. -/
def State.ringWrite (s : State) (p : PartId) (n : Nat) (r : Request) : State :=
  let ws := ringHeader p n r false :: wordsOfBytes (r.prompt.flatMap (fun t => leBytes 4 t.toNat))
  let k := s.part p
  let s := s.setPart p { k with
    slots := alSet k.slots n { r with state := .active, prompt := [] },
    ring := alSet k.ring (k.ringCount % 16) { slot := n, gen := r.gen, tenant := r.tenant, rows := r.ntok } }
  let s := (s.ringPut p ws).recBatch p ws
  let s := if k.ls.paired ∧ !k.ls.follower then s.lsBatch p ws else s
  if r.cls = 0 then s.c0Started p r.rx else s

/-- The request that takes the next ring entry: class 0 first, then as R396 orders the rest. -/
def Part.ringNext (k : Part) : Option (Nat × Request) :=
  k.queued.find? (fun x => x.2.cls == 0 || k.pay x.2.tenant == 0)

/-- Fills free entries, `n` at most. -/
def State.ringFill (s : State) (p : PartId) : Nat → State
  | 0 => s
  | n + 1 =>
    let k := s.part p
    if 16 ≤ k.unserved then s else
    match k.ringNext with
    | none => s
    | some (i, r) => (s.ringWrite p i r).ringFill p n

/-- No step is in progress, and none waits for its match. -/
def Part.between (k : Part) : Bool := !k.stepping && !k.ls.await

/-- Requests go into the ring on arrival (R377); between steps the boundary's completions come first, and the
next step starts. -/
def State.kickRing (s : State) (p : PartId) : State :=
  let free := (s.part p).between
  let s := if free then s.modPart p (fun k => k.sweep s.time k.slots) else s
  match s.boundaryHeld p 65522 with
  | some s' => s'
  | none =>
    let s := s.ringFill p 16
    if free then s.beginStep p else s

/-! A boundary, or what repeats a part of it. -/

/-- The entries of a table that a follower is sent (R397, R486). -/
def entryOfWord (w : MWord) : Entry :=
  let fl := wordField w 128 8
  { slot := wordField w 0 12, gen := BitVec.ofNat 16 (wordField w 16 16), tenant := BitVec.ofNat 16 (wordField w 32 16),
    adapter := BitVec.ofNat 16 (wordField w 48 16), row0 := wordField w 64 16, rows := wordField w 80 16,
    pos := wordField w 96 32, prompt := fl % 2 == 1, last := fl / 2 % 2 == 1, new := fl / 4 % 2 == 1,
    ended := fl / 8 % 2 == 1, dropLate := fl / 32 % 2 == 1, draft := wordField w 136 8,
    alloc0 := wordField w 144 16, nalloc := wordField w 160 16, outLeft := wordField w 192 32 }

/-- A follower's step with the leader's table. -/
def State.followBatch (s : State) (p : PartId) (table : List MWord) : State :=
  let k := s.part p
  let hdr := table.headD 0
  let nent := wordField hdr 32 16
  let nrows := wordField hdr 48 16
  let nalloc := wordField hdr 64 16
  let m := k.m
  let ents := ((table.drop 1).take nent).map entryOfWord
  let o2 := 1 + m + (m + 7) / 8
  let w := (m + 15) / 16
  let t8 := (nrows + 7) / 8
  let t16 := (nrows + 15) / 16
  let rest := table.drop (1 + nent)
  let al := (rest.drop (t8 + 2 * t16)).take ((nalloc + 15) / 16)
  let ids := (List.range nalloc).map (fun i => wordField (al.getD (i / 16) 0) (16 * (i % 16)) 16)
  let s := s.setPart p { k with entries := ents, nrows := nrows, used := (if k.kvReset then ids else k.used ++ ids) }
  let s := s.writeTable (s.rank0 p) (k.regionAddr 65520)
    [(0, [hdr]), (1, (table.drop 1).take nent), (1 + m, rest.take t8), (o2, (rest.drop t8).take t16),
     (o2 + w, (rest.drop (t8 + t16)).take t16), (o2 + 2 * w, al)]
  (s.recBatch p table).beginStep p

/-- A follower uses what its leader has sent. -/
def State.kickFollower (s : State) (p : PartId) : State :=
  let k := s.part p
  if k.srvMode ≠ 2 ∧ (k.ls.batches = [] ∨ !k.between) then s else
  match s.boundaryHeld p (if k.srvMode = 2 then 65522 else 65520) with
  | some s' => s'
  | none =>
    let s := match k.ls.batches with
      | [] => s
      | t :: rest =>
        let s := s.modPart p (fun k => { k with ls := { k.ls with batches := rest } })
        if k.srvMode = 2 then (s.ringPut p t).recBatch p t else s.followBatch p t
    if k.srvMode = 2 ∧ k.between then s.beginStep p else s

/-- Steps 3 to 6 of R395, or their like in ring mode, where the partition may start work now. -/
def State.kick (s : State) (p : PartId) : State :=
  let k := s.part p
  if k.state ≠ 3 then s
  else if k.ls.paired ∧ k.ls.follower then s.kickFollower p
  else if k.srvMode = 2 then s.kickRing p
  else if k.srvMode = 1 ∧ k.between then s.kickBatch p
  else s

/-! The result table (R398). -/

/-- A result entry, clamped. -/
structure Result where
  run  : Nat
  fin  : Bool
  acc  : Nat
  vals : List (BitVec 32)
  deriving DecidableEq, Repr

/-- The check of a table under way; `wait` is a word in a group that is not ON (R213). -/
structure Check where
  s    : State
  wait : Option (CoreId × Nat) := none
  bad  : Bool := false
  stop : Bool := false
  res  : List (Option Result) := []
  deriving DecidableEq, Repr

/-- EV_SRV_RESULT. -/
def State.srvEvent (s : State) (p : PartId) (idx code : Nat) : State :=
  s.log 0x001A (srcPart p) (s.part p).stepNo.toNat.pred idx code 0

/-- Reads words of rank 0's memory for the controller: an uncorrectable one ends the check. -/
def Check.read (x : Check) (p : PartId) (idx a n : Nat) : Check × List MWord :=
  let c := x.s.rank0 p
  let ws := wordsAt c a n
  match x.s.mustHold ws with
  | some y => ({ x with wait := some y, stop := true }, [])
  | none =>
    match x.s.firstBad ws with
    | some b => ({ x with s := ((x.s.corrections (x.s.beforeBad ws)).contain b.1 b.2 11 c.val).srvEvent p idx 7,
                          bad := true, stop := true }, [])
    | none => ({ x with s := x.s.corrections ws }, x.s.peekMany c a n)

def Check.note (x : Check) (p : PartId) (idx code : Nat) (cond fault : Bool) : Check :=
  if cond then { x with s := x.s.srvEvent p idx code, bad := x.bad || fault } else x

/-- Reads the entry of one batch entry. -/
def Check.entry (base : Nat) (p : PartId) (x : Check) (ei : Entry × Nat) : Check :=
  let (e, i) := ei
  if x.stop then x
  else if e.ended then { x with res := x.res ++ [none] }
  else
    let (x, ws) := x.read p i (base + 1 + i) 1
    if x.stop then x else
    let w := ws.headD 0
    let run := wordField w 0 16
    let outw := wordField w 16 16
    let oa := wordField w 32 20
    let nval := wordField w 72 8
    let acc := wordField w 80 16
    let x := x.note p i 0 (decide (e.rows < run)) false
    let x := x.note p i 1 (decide (e.draft < acc)) false
    let x := x.note p i 2 (decide (5 < nval)) false
    let x := x.note p i 2 (decide (2048 < outw)) false
    let outw := min outw 2048
    if 2 ^ 20 < oa + outw then (x.note p i 5 true true)
    else
      let vals := (List.range (min nval 5)).map (fun j => BitVec.ofNat 32 (wordField w (96 + 32 * j) 32))
      let (x, os) := x.read p i oa outw
      if x.stop then x else
      let outs := os.flatMap (fun o => (List.range 8).map (wordLane o))
      { x with res := x.res ++ [some { run := min run e.rows, fin := wordField w 64 1 == 1,
                                       acc := min acc e.draft, vals := vals ++ outs }] }

/-- Checks a release list: each index in range, in use, and once (R398). -/
def Check.release (p : PartId) (used : List Nat) (nd : Nat) : Check → Nat → List Nat → List Nat → Check
  | x, _, _, [] => x
  | x, j, seen, i :: t =>
    let b := decide (nd ≤ i) || !(used.contains i) || seen.contains i
    Check.release p used nd (x.note p j 6 b true) (j + 1) (i :: seen) t

/-- Reads and checks the result table of the step whose entries are `ents`. -/
def State.checkTable (s : State) (p : PartId) (ents : List Entry) : Check × List Nat :=
  let k := s.part p
  let base := k.regionAddr 65521
  let (x, hs) := ({ s := s } : Check).read p 0 base 1
  if x.stop then (x, []) else
  let h := hs.headD 0
  let nrel := wordField h 32 16
  let x := x.note p 0 3 (decide (wordField h 0 32 ≠ (k.stepNo - 1).toNat)) true
  let x := x.note p 0 4 (decide (k.m < nrel)) true
  let x := (ents.zipIdx).foldl (Check.entry base p) x
  if x.stop ∨ k.m < nrel then (x, []) else
  let (x, ws) := x.read p 0 (base + 1 + k.m) ((nrel + 15) / 16)
  if x.stop then (x, []) else
  let rel := (List.range nrel).map (fun i => wordField (ws.getD (i / 16) 0) (16 * (i % 16)) 16)
  (Check.release p k.used k.ndesc.toNat x 0 [] rel, rel)

/-- Applies one result (R393, R398, R400, R401, R405). -/
def Part.applyResult (now : BitVec 64) (hold ring : Bool) (k : Part) (er : Entry × Option Result) : Part :=
  match er with
  | (_, none) => k
  | (e, some x) =>
    let k := k.charge e.tenant x.run
    match k.reqOf e with
    | none => k
    | some r =>
      if r.state = .cancelling then k.complete now e.slot r stCANCELLED true false hold
      else if r.state ≠ .active then k
      else
        let r := { r with
          pos := r.pos + (if e.prompt then e.rows else x.acc + 1),
          out := r.out ++ x.vals.take r.outLeft, outLeft := r.outLeft - x.vals.length }
        let r := if hold then r else { r with vis := r.out.length }
        if r.dropLate ∧ r.late now then k.complete now e.slot r stCANCELLED true false hold
        else if x.fin ∨ r.outLeft = 0 ∨ ring then
          k.complete now e.slot r (if r.late now then stLATE else stOK) false x.fin hold
        else { k with slots := alSet k.slots e.slot r }

/-- Requests in CANCELLING that had no entry complete at the end of the step too (R392, R402). -/
def Part.endCancels (k : Part) (now : BitVec 64) (hold : Bool) : List (Nat × Request) → Part
  | [] => k
  | (n, r) :: t =>
    (if r.state = .cancelling ∧ r.pend.isNone then k.complete now n r stCANCELLED true false hold else k).endCancels
      now hold t


/-- Applies a table that has no fault: charges, outputs, completions, released descriptors. -/
def Part.applyTable (k : Part) (now : BitVec 64) (hold ring : Bool) (ents : List Entry) (res : List (Option Result))
    (rel : List Nat) : Part :=
  let k := (ents.zip res).foldl (Part.applyResult now hold ring) k
  let k := k.endCancels now hold k.slots
  let ran := (res.map (fun x => match x with
    | some y => y.run
    | none => 0)).foldl (· + ·) 0
  { k with
    used := k.used.filter (fun i => !(rel.contains i)), lastRun := BitVec.ofNat 16 (min ran 65535),
    lastAllot := BitVec.ofNat 16 ((ents.map (·.rows)).foldl (· + ·) 0), entries := [] }

/-! What a twin's records cover of a step's results (R484). -/

/-- The bytes of a result: its table and outputs as read, and the records of each stream. -/
def State.resultBytes (s : State) (p : PartId) (ents : List Entry) (res : List (Option Result)) (rel : List Nat) :
    List Byte :=
  let k := s.part p
  let base := k.regionAddr 65521
  let tab := (s.peek (s.rank0 p) base) :: ((ents.zipIdx).filter (fun x => !x.1.ended)).map (fun x =>
    s.peek (s.rank0 p) (base + 1 + x.2))
  tab.flatMap bytesOfWord ++ rel.flatMap (leBytes 2) ++
  res.flatMap (fun r => match r with
    | some y => y.vals.flatMap (fun v => leBytes 4 v.toNat)
    | none => []) ++
  (List.range (s.ranks p).length).flatMap (fun r =>
    leBytes 4 ((alGet k.ls.seqs (16 * r)).getD 0) ++ leBytes 4 ((alGet k.ls.seqs (16 * r + 1)).getD 0))

/-- Adds the result record of a paired partition's step, sends the records, and compares. -/
def State.lsResult (s : State) (p : PartId) (bytes : List Byte) : State :=
  let r : LsRecord := { stream := 0x000F, seq := (s.part p).stepNo - 1, check := crc64 bytes }
  let s := s.modPart p (fun k => { k with ls := { k.ls with
    own := k.ls.own ++ [r], unsent := k.ls.unsent ++ [r], await := true } })
  (s.lsFlush p).lsCompare p

/-! The end of a step. -/

/-- R232: the end of a step is a kernel end of every queue. -/
def State.endKernels (s : State) (p : PartId) : State :=
  (s.ranks p).foldl (fun s c =>
    let l := (s.core c).wc
    let s := s.modCore c (fun k => { k with
      wc := [], array := { k.array with held := [], heldKey := none },
      queues := k.queues.map (fun q => { q.free with state := 0 }) })
    l.foldl (fun s e => s.poke e.core e.addr e.data) s) s

/-- A declared counter that received fewer increments than its STRIDE (R263). -/
def Counter.short (x : Counter) : Bool :=
  x.decl && x.stride != 0 && decide (2048 ≤ (x.count - (x.base + x.stride)).toNat)

/-- EV_RC_STRIDE of every short counter; the second component says that there is one. -/
def State.strideCheck (s : State) (p : PartId) : State × Bool :=
  (s.ranks p).foldl (fun acc c =>
    (List.range 32).foldl (fun acc n =>
      let x := (acc.1.core c).counter (BitVec.ofNat 5 n)
      if x.short then (acc.1.log 0x0010 (srcCore c) n x.count.toNat x.base.toNat 0, true) else acc) acc) (s, false)

/-- Outputs and completions that waited for a match are released (R485). -/
def Part.releaseHeld (k : Part) (now : BitVec 64) : List (Nat × Request) → Part
  | [] => k
  | (n, r) :: t =>
    (match r.pend with
     | some st => (k.done now n { r with vis := r.out.length } st r.pendDrop).countDone st
     | none => { k with slots := alSet k.slots n { r with vis := r.out.length } }).releaseHeld now t

/-- Every PART_STOP that waits completes (R364). -/
def State.answerStops (s : State) (p : PartId) : State :=
  let l := (s.part p).stops
  (s.modPart p (fun k => { k with stops := [] })).respondAll 0x30 stOK [1] l

/-- What follows a step whose results are applied: the stop of a held or stopping partition, or the next
boundary (R263, R364, R395). -/
def State.afterStep (s : State) (p : PartId) : State :=
  let k := s.part p
  if k.strideHold ∨ k.state = 4 then
    let k := k.sweep s.time k.slots
    (s.setPart p { k with state := 1, cause := if k.strideHold then 8 else 1 }).answerStops p
  else s.kick p

/-- The match of a paired partition's step has come (R485). -/
def State.lsContinue (s : State) (p : PartId) : State :=
  let k := s.part p
  if (k.state = 3 ∨ k.state = 4) ∧ k.ls.await ∧ k.ls.matched then
    let k := { k with ls := { k.ls with await := false } }
    (s.setPart p (k.releaseHeld s.time k.slots)).afterStep p
  else s

/-- The step has no result table to read: the partition does not serve, or the entry of a ring step is VOID or
not written (R408). -/
def Part.noTable (k : Part) : Bool := k.srvMode == 0 || (k.srvMode == 2 && k.stepEntries.isEmpty)

/-- Reads and checks the results. -/
def State.readResults (s : State) (p : PartId) : Check × List Nat :=
  let k := s.part p
  if k.noTable then ({ s := s }, []) else s.checkTable p k.stepEntries

/-- Applies the results that a check has found, then goes on; a table with a fault stops the step instead. -/
def State.stepResults (p : PartId) (x : Check) (rel : List Nat) : State :=
  let s := x.s
  let k := s.part p
  if x.bad then s.stopStep p stFAULT 2
  else
    let ents := k.stepEntries
    let bytes := if k.noTable then [] else s.resultBytes p ents x.res rel
    let s := s.setPart p
      { k.applyTable s.time (k.ls.paired && k.ls.hold) (k.srvMode == 2) ents x.res rel with stepping := false }
    if k.ls.paired then (s.lsResult p bytes).lsContinue p else s.afterStep p

/-- The step may end: every queue has presented its last instruction, and none is in flight (R232, R255). -/
def State.stepDone (s : State) (p : PartId) : Bool :=
  (s.part p).stepping && ((s.part p).state == 3 || (s.part p).state == 4) &&
  (s.ranks p).all (fun c => (s.core c).inflight.isEmpty &&
    (s.core c).queues.toList.all (fun q => q.ended && q.waiting.isNone))

/-- What every end of a step does before its results are read (R232, R263). -/
def State.endStep (s : State) (p : PartId) : State :=
  let s := s.endKernels p
  let s := s.modPart p (fun k => { k with steps := k.steps + 1 })
  let (s, short) := s.strideCheck p
  if short then s.modPart p (fun k => { k with strideHold := true }) else s

/-- STEP_END (R232, R263, R395). Where a word of the results lies in a group that is not ON, the group wakes,
and the step ends once it is ON. -/
def execStepEnd (p : PartId) (s : State) : Out :=
  .next (if s.stepDone p = false then s else
    let (x, rel) := (s.endStep p).readResults p
    match x.wait with
    | some y => s.wakeAt y
    | none => State.stepResults p x rel)

/-! Timers of the controller. -/

/-- HOLD seconds have passed since the request completed (R392). -/
def Part.holdOver (k : Part) (now : BitVec 64) (r : Request) : Bool :=
  r.state == .done && decide (r.doneTime.toNat + k.hold.toNat * 10 ^ 9 ≤ now.toNat)

/-- DONE_HOLD_EXPIRY (R392): the output is discarded and the slot is FREE. -/
def execDoneHoldExpiry (p : PartId) (n : BitVec 12) (s : State) : Out :=
  .next (match alGet (s.part p).slots n.toNat with
    | some r => if (s.part p).holdOver s.time r then
        s.modPart p (fun k => { k.freeSlot n.toNat with doneExpired := satAdd k.doneExpired 1 }) else s
    | none => s)

/-- DROP_LATE_DEADLINE (R401, R395): the deadline of a DROP_LATE request passes. A QUEUED one completes
CANCELLED; the boundary's steps are repeated. -/
def execDropLateDeadline (p : PartId) (n : BitVec 12) (s : State) : Out :=
  .next (match alGet (s.part p).slots n.toNat with
    | some r =>
      if r.dropLate = false ∨ r.late s.time = false then s
      else if r.state = .queued then
        (s.modPart p (fun k => k.complete s.time n.toNat r stCANCELLED true true false)).kick p
      else if r.state = .active ∧ !(s.part p).stepping then s.kick p
      else s
    | none => s)

/-- One millisecond's growth of a balance (R400). -/
def Budget.refill (b : Budget) : Budget :=
  let x := b.frac + b.rate.toNat
  let n := min (b.balance.toInt + (x / 1000 : Nat)) (b.cap.toNat : Int)
  if (b.cap.toNat : Int) ≤ b.balance.toInt then b
  else { b with balance := BitVec.ofInt 32 n, frac := x % 1000 }

/-- A refill lifted a tenant with a waiting request above zero (R395). -/
def Part.lifted (old new : Part) : Bool :=
  new.slots.any (fun x => (x.2.state == .queued || x.2.state == .active) && old.pay x.2.tenant == 1 &&
    new.pay x.2.tenant == 0)

def State.refillPart (s : State) (p : PartId) : State :=
  let k := s.part p
  let k' := { k with budgets := k.budgets.map (fun b => (b.1, b.2.refill)) }
  let s := s.setPart p k'
  if k.lifted k' then s.kick p else s

/-- BUDGET_REFILL (R400). -/
def execBudgetRefill (s : State) : Out :=
  .next ((List.finRange 12).foldl State.refillPart s)

end Sys2Proof.Machine
end

