-- ==== Sys2Proof/Machine/PartCtl.lean ====
section
/-! DEFINITION. Partition control: stop and start (R363 to R365), sleep and wake (R474 to R477), and the
ROUTE NOTICE (R347). -/

namespace Sys2Proof.Machine

/-! Stop (R364). -/

/-- A PART_STOP's STATE and its response. -/
def State.partState (s : State) (p : PartId) : Byte := BitVec.ofNat 8 (s.part p).state.toNat

/-- A WAITING partition returns to STOPPED; every PART_START that waits completes with a status. -/
def State.endWaiting (s : State) (p : PartId) (st cause : Nat) : State :=
  let l := (s.part p).starts
  let s := s.modPart p (fun k => { k with state := 1, cause := BitVec.ofNat 4 cause, starts := [] })
  s.respondAll 0x31 st [1] l

/-- Stops a partition. It is `true` where the partition is in STOPPED or EMPTY afterwards. -/
def State.stopPart (s : State) (p : PartId) (now : Bool) : Bool × State :=
  let k := s.part p
  if k.state = 0 ∨ k.state = 1 then (true, s)
  else if k.state = 2 then (true, s.endWaiting p stCANCELLED 1)
  else if now ∨ (!k.stepping && !k.ls.await) = true then (true, s.stopStep p stCANCELLED 1)
  else (false, s.modPart p (fun k => { k with state := 4 }))

/-! Start (R365, R394, R343, R483). -/

/-- Every logical port that the partition needs has an ACTIVE member. -/
def State.portsReady (s : State) (p : PartId) : Bool :=
  (List.range 24).all (fun n => !((s.part p).portNeed.getLsbD n) || !(s.members n).isEmpty)

/-- Every partition of the flock on this module is up (R29 row 8): its PLL is locked, or the partition sleeps
under R475. A partition that failed its self-test does not hold the others back. -/
def State.flockUp (s : State) (p : PartId) : Bool :=
  (List.finRange 12).all (fun q =>
    (s.part q).flock == 0xFFF || (s.part q).flock != (s.part p).flock || s.chip.failedParts.getLsbD q.val ||
    s.chip.partLock.getLsbD q.val || (s.part q).sleepState != 0)

/-- The conditions of R365, and of R29 row 8. -/
def State.mayRun (s : State) (p : PartId) : Bool :=
  let k := s.part p
  k.state == 2 && s.chip.partLock.getLsbD p.val && k.sleepState == 0 && s.portsReady p &&
  (!k.ls.paired || k.ls.helloSeen) && s.flockUp p

/-- Sets VOID in the headers of the ring entries that a stopped step left unserved (R408). The admission
controller is the writer (R210, R223). -/
def State.voidHeaders (s : State) (p : PartId) : List Nat → State
  | [] => s
  | i :: t =>
    let k := s.part p
    let n := k.stepNo.toNat + i
    (match alGet k.ring (n % 16) with
     | some x => if x.void then
         s.putBits (s.rank0 p) (k.ringAddr n) (wordSetField 0 81 1 1) (wordSetField 0 81 1 1) 11 else s
     | none => s).voidHeaders p t

/-- RUNNING: the starts complete OK, and steps 3 to 6 of R395 follow. -/
def State.enterRunning (s : State) (p : PartId) : State :=
  let s := if (s.part p).srvMode = 2 then s.voidHeaders p (List.range (s.part p).unserved) else s
  let l := (s.part p).starts
  let s := s.modPart p (fun k => { k with
    state := 3, first := true, starts := [], ls := { k.ls with helloSeen := false } })
  (s.respondAll 0x31 stOK [3] l).kick p

/-- Takes a WAITING partition to RUNNING where it may. A ring in a sleeping bank group waits for it. -/
def State.tryRun (s : State) (p : PartId) : State :=
  if s.mayRun p = false then s else
  let k := s.part p
  match (if k.srvMode = 2 ∧ k.unserved ≠ 0 then
      s.tableAsleep p (k.regionAddr 65522) (k.regionWords 65522) else none) with
  | some s' => s'
  | none => s.enterRunning p

/-- Starts a partition: the status, or none where the start waits for RUNNING. -/
def State.startPart (s : State) (p : PartId) : Option Nat × State :=
  let k := s.part p
  if k.state = 0 then (some stDENIED, s)
  else if k.state = 3 ∨ k.state = 4 then (some stBUSY, s)
  else if k.state = 2 then (if s.portsReady p then none else some stBROKEN, s)
  else if k.regionsOk = false then (some stBOUNDS, s)
  else
    let s := s.setPart p { k with
      state := 2, strideHold := false,
      ls := { k.ls with helloBad := false, own := [], twin := [], unsent := [], seqs := [], batches := [] } }
    let s := s.wakePart p
    let s := if k.ls.paired then s.lsHello p else s
    (if s.portsReady p then none else some stBROKEN, s)

/-- WAITING_TO_RUNNING (R365). -/
def execWaitingToRunning (p : PartId) (s : State) : Out := .next (s.tryRun p)

/-! Sleep (R475). -/

/-- The state that a partition's cores go to after IDLE_TIME, 0 where they stay ON. -/
def State.sleepTarget (s : State) (p : PartId) : BitVec 2 :=
  let k := s.part p
  let r := s.work.recording
  if (p = 0 ∧ s.safety) ∨ (r.held ∧ r.buffer = p) then 0
  else if k.state = 0 then (if k.sleepOff then 2 else 0)
  else if k.state = 1 ∨ (k.state = 3 ∧ k.srvMode = 1 ∧ !k.stepping ∧ !k.ls.await) then
    (if k.sleepRet then 1 else 0)
  else 0

/-- Nothing of the partition is under way. -/
def State.atRest (s : State) (p : PartId) : Bool :=
  (s.part p).heldPkts.isEmpty && !(s.part p).stepWaits &&
  (s.ranks p).all (fun c => let k := s.core c
    k.inflight.isEmpty && k.tags.isEmpty && k.wc.isEmpty && k.memory.held.isEmpty)

def State.setDomains (s : State) (p : PartId) (x : BitVec 2) : State :=
  { s with domains := (s.ranks p).foldl (fun d c => d.setIfInBounds c.val x) s.domains }

def State.setPll (s : State) (p : PartId) (on : Bool) : State :=
  let b : BitVec 12 := 1#12 <<< p.val
  { s with chip := { s.chip with partLock := if on then s.chip.partLock ||| b else s.chip.partLock &&& ~~~b } }

/-- PARTITION_IDLE_SLEEP (R475): the partition has been idle for IDLE_TIME. -/
def execPartitionIdleSleep (p : PartId) (s : State) : Out :=
  let t := s.sleepTarget p
  .next (if t = 0 ∨ (s.part p).sleepState ≠ 0 ∨ s.chip.partLock.getLsbD p.val = false ∨ s.atRest p = false then s
    else ((s.modPart p (fun k => { k with sleepState := t, waking := false })).setDomains p t).setPll p false)

/-- What a core keeps when its domain has been OFF (R474): its register block, which lies in the partition
control domain. -/
def Core.fromOff (k : Core) : Core :=
  { k with
    array := { k.array with active := {}, shadow := none, acc := [], heldKey := none, held := [] },
    vec := { k.vec with v := Vector.replicate 32 0, p := Vector.replicate 8 0, r := Vector.replicate 16 0 },
    memory := { k.memory with
      mem := [], flips := [], writeback := [], scrubRow := [], held := [],
      bgState := Vector.replicate 8 0, bgFromOff := Vector.replicate 8 false },
    queues := k.queues.map (fun q => { q with store := [], loops := [], waiting := none }),
    counters := Vector.replicate 32 {}, inflight := [], streams := [], regions := [], wc := [], tags := [] }

/-- The end of a partition's wake (R474, R476, R477), but for the loads that wait for it. -/
def State.wakeDone (s : State) (p : PartId) (ns : Nat) : State :=
  let k := s.part p
  let s := if k.sleepState = 2 then (s.ranks p).foldl (fun s c => s.modCore c Core.fromOff) s else s
  let s := s.setPart p { k with
    sleepState := 0, waking := false, stepWaits := false,
    slip := if k.stepWaits then satAdd k.slip ns else k.slip }
  ((s.setDomains p 0).setPll p true).reland p

/-! Bank groups. -/

/-- BG_WAKE_DONE (R213). A boundary whose tables lie in the group goes on. -/
def execBgWakeDone (c : CoreId) (g : Fin 8) (s : State) : Out :=
  .next ((s.groupAwake c g).kick (partOf c))

/-! ROUTE NOTICE. -/

/-- RX_NOTICE (R347): the named partition, where it runs, stops its step with ROUTE_BROKEN. -/
def execRxNotice (q : Packet) (s : State) : Out :=
  .next (if q.kind ≠ 6 then s else
    let (_, s) := s.arrive q
    if Packet.bad q then s.badHeader else
    let p := partOfNat q.dstPart
    let k := s.part p
    if k.state = 3 ∨ k.state = 4 then
      (s.log 0x0016 (srcPart p) 0xFFFFFFFF (q.field 64 14) (q.field 82 14) 0).stopStep p stBROKEN 7
    else s)

end Sys2Proof.Machine
end

