-- ==== Sys2Proof/Machine/Routing.lean ====
section
/-! DEFINITION. The routing unit (R325 to R333, R341 to R347): the lookup of forwarded packets, NOTICEs, the
marker rounds of a drain, and the plan check. -/

namespace Sys2Proof.Machine

/-! Forwarded packets. -/

/-- EV_ROUTE_EPOCH at most once per millisecond (R330). -/
def State.epochDrop (s : State) (l : LinkId) (q : Packet) : State :=
  let s := s.modRte (fun r => { r with epoch := satAdd r.epoch 1 })
  let log (s : State) : State :=
    (s.modRte (fun r => { r with epochLog := some s.time })).log 0x0015 (srcLink l) q.srcChip 0 0 0
  match s.rte.epochLog with
  | some t => if s.time.toNat < t.toNat + 1000000 then s else log s
  | none => log s

/-- The NOTICE of a discarded packet (R347): no answer to a NOTICE, and one per source and 100 µs. -/
def State.sendNotice (s : State) (q : Packet) : State :=
  let src := q.srcChip * 16 + q.srcPart
  let due := match alGet s.rte.noticed src with
    | some t => decide (t.toNat + 100000 ≤ s.time.toNat)
    | none => true
  if q.kind = 6 ∨ due = false then s else
  let x := mkPacket s 0 0 q.srcChip q.srcPart 6 0 0
    [(64, 14, q.dstChip), (78, 4, q.dstPart), (82, 14, s.chipId.toNat)] []
  match s.launch 6 x with
  | none => s
  | some s => s.modRte (fun r => { r with notice := satAdd r.notice 1, noticed := alSet r.noticed src s.time })

/-- The lookup of a packet that arrives on link `l` for another chip (R330 to R332, R347): the link it leaves
on, or none where it is discarded. -/
def State.forward (s : State) (l : LinkId) (vc : Fin 8) (q : Packet) : Option LinkId × State :=
  if s.rte.bank[q.epoch]! = 0 then (none, s.epochDrop l q)
  else match s.route vc q with
    | some o => (some o, s)
    | none => (none, (s.modRte (fun r => { r with noroute := satAdd r.noroute 1 })).sendNotice q)

/-! Markers (R329). -/

/-- Links in ACTIVE. -/
def State.activeLinks (s : State) : List LinkId :=
  (List.finRange 24).filter (fun l => (s.link l).state == lsACTIVE)

/-- Whether a drain runs. -/
def Router.draining (r : Router) : Bool := r.bank[0] == 3 || r.bank[1] == 3

/-- Queues the markers of a round on every VC of a link (R323, R324): the chip at the other end is the target
chip, this chip the sending one, and the partition and rank fields are 0, as no partition sends it
(Assumption 100). -/
def State.sendMarkers (s : State) (round : Nat) (l : LinkId) : State :=
  let peer := ((s.link l).peer.map (fun m => m.chip.toNat)).getD 0x3FFF
  let q : Packet := { hdr := setFields 0 [(0, 14, peer), (14, 1, s.rte.stamp.toNat), (16, 14, s.chipId.toNat),
    (41, 3, 5), (48, 8, round)] }
  { s with transit := s.transit ++ (List.finRange 8).map (fun vc => { vc := vc, pkt := q, link := some l }) }

def State.sendRound (s : State) (round : Nat) : State := s.activeLinks.foldl (fun s l => s.sendMarkers round l) s

/-- Round `r` has arrived on every input. -/
def State.roundDone (s : State) (r : Nat) : Bool :=
  s.activeLinks.all (fun l => (List.range 8).all (fun vc => s.rte.marks.contains (l.val, vc, r)))

/-- The drain ends: the bank is free, and one marker of each kind is used up. -/
def Router.drained (r : Router) : Router :=
  let used := r.marks.dedup.filter (fun m => m.2.2 ≤ r.rounds.toNat)
  { r with round := 0, bank := r.bank.map (fun b => if b = 3 then 0 else b), marks := r.marks.diff used }

/-- Advances a drain by the rounds whose markers have all arrived. -/
def State.advance (s : State) : Nat → State
  | 0 => s
  | n + 1 =>
    let r := s.rte.round.toNat + 1
    if s.rte.draining = false ∨ s.roundDone r = false then s
    else if s.rte.rounds.toNat ≤ r then s.modRte Router.drained
    else ((s.modRte (fun x => { x with round := BitVec.ofNat 3 r })).sendRound (r + 1)).advance n

def State.drainStep (s : State) : State := s.advance 8

/-- A link that enters ACTIVE during a drain sends every round already sent (R329). -/
def State.joinDrain (s : State) (l : LinkId) : State :=
  if s.rte.draining then
    (List.range (min (s.rte.round.toNat + 1) s.rte.rounds.toNat)).foldl (fun s r => s.sendMarkers (r + 1) l) s
  else s

/-- ROUTE_SWITCH's effect (R328, R329): the other bank becomes ACTIVE and stamps. -/
def State.switchBanks (s : State) : State :=
  let b := if s.rte.bank[0] = 1 then 0 else 1
  let s := s.modRte (fun r => { r with
    bank := if b = 0 then #v[2, 3] else #v[3, 2], stamp := b == 1, round := 0 })
  (s.sendRound 1).drainStep

/-- RX_DRAIN (R325, R329): a marker arrives on a VC of a link. -/
def execRxDrain (l : LinkId) (vc : Fin 8) (q : Packet) (s : State) : Out :=
  .next (if q.kind ≠ 5 then s else
    let (_, s) := s.arrive q
    if q.bad then s.badHeader else
    (s.modRte (fun r => { r with marks := r.marks ++ [(l.val, vc.val, q.win)] })).drainStep)

/-! The plan check (R341). -/

/-- The other links of the same logical port (R310). -/
def State.portMates (s : State) (l : LinkId) : List LinkId :=
  (List.finRange 24).filter (fun m => m != l && (s.link m).port == (s.link l).port)

/-- The link of the same port whose entry names this peer chip and peer link (R341 row 4). -/
def State.swapMate (s : State) (l : LinkId) (m : ParamMsg) : Option LinkId :=
  (s.portMates l).find? (fun x =>
    s.rte.plans[x].valid && s.rte.plans[x].peerChip == m.chip && s.rte.plans[x].peerLink == m.link)

/-- OUTCOME of a link with the identity its peer gave. -/
def State.planOutcome (s : State) (l : LinkId) (m : ParamMsg) : Nat :=
  let e := s.rte.plans[l]
  if e.valid = false then 3
  else if m.chip = 0x3FFF then 4
  else if m.chip ≠ e.peerChip then 5
  else if m.link ≠ e.peerLink ∧ e.remap ∧ (s.swapMate l m).isSome then 2
  else if m.link ≠ e.peerLink then 6
  else if e.checkSlot ∧ m.slot ≠ e.peerSlot then 7
  else if e.minRom ≠ 0 ∧ m.rom.toNat < e.minRom.toNat then 8
  else if (s.portMates l).any (fun x => (s.rte.plan x).tier != e.tier) then 9
  else 1

/-- Records an outcome and the peer in RTE_DISC, takes two entries as swapped after row 4, and logs what is no
match. -/
def State.recordOutcome (s : State) (l : LinkId) (m : ParamMsg) (o : Nat) : State :=
  let x := if o = 2 then s.swapMate l m else none
  let s := s.modRte (fun r => { r with plans := r.plans.set l { r.plans[l] with
    outcome := BitVec.ofNat 4 o, swapped := x, dLevel := m.levelMax.setWidth 2, dSlot := m.slot, dLink := m.link,
    dChip := m.chip, dRom := m.rom } })
  if o = 1 then s else s.log 0x0014 (srcLink l) o m.chip.toNat m.link.toNat 0

/-- PLAN_MISSING_TIMEOUT (R343). -/
def execPlanMissingTimeout (l : LinkId) (s : State) : Out :=
  let e := s.rte.plans[l]
  .next (if e.valid = false ∨ (s.link l).state = lsACTIVE then s else
    (s.modRte (fun r => { r with plans := r.plans.set l { e with outcome := 10 } })).log 0x0014 (srcLink l) 10
      e.dChip.toNat e.dLink.toNat 0)

end Sys2Proof.Machine
end

