-- ==== Sys2Proof/Machine/LinkOps.lean ====
section
/-! DEFINITION. The shared operations of a link: going down (R304 to R309, R345, R346), coming up (R287 to
R291), credits (R292 to R294) and the bodies of packets (R285). -/

namespace Sys2Proof.Machine

/-! Packets and flit bodies (R285). -/

/-- The bytes of a packet cut into flit bodies, the last one filled with zeros. -/
def packetBodies (q : Packet) : List (List Byte) :=
  let bs := bytesOfWord q.hdr ++ q.payload.flatMap bytesOfWord
  (List.range q.flits).map (fun i => ((bs.drop (bodyBytes * i)).take bodyBytes) ++
    List.replicate (bodyBytes - ((bs.drop (bodyBytes * i)).take bodyBytes).length) 0)

/-- The packet that bytes spell: header, and as many payload words as LENGTH gives. -/
def packetOfBytes (bs : List Byte) : Packet :=
  let q : Packet := { hdr := wordOfBytes bs }
  { q with payload := (List.range q.length).map (fun i => wordOfBytes ((bs.drop (32 + 32 * i)).take 32)) }

/-! Pools (R292). -/

/-- The pools a link advertises from LNK_RX_HDR and LNK_RX_DATA (R315, R316). -/
def Link.pools (k : Link) : Vector (BitVec 16) 8 :=
  Vector.ofFn (fun i : Fin 8 =>
    if i.val % 2 = 0 then (k.rxHdr[i.val / 2]!).setWidth 16 else BitVec.ofNat 16 (4 * (k.rxData[i.val / 2]!).toNat))

/-- What a PARAM of the peer advertises for a pool. -/
def peerPool (m : ParamMsg) (i : Fin 8) : BitVec 16 :=
  if i.val % 2 = 0 then m.hdrs.getD (i.val / 2) 0 else m.data.getD (i.val / 2) 0

/-- Frees credit at the receiver (R294). -/
def Link.free (k : Link) (pool : Fin 8) (n : Nat) : Link :=
  { k with rxLimit := k.rxLimit.set pool (k.rxLimit[pool] + BitVec.ofNat 16 n) }

/-- What R333 asks beyond R293 of a packet that has not crossed the optical tier: header and data credits. The
PHASE meant is that of the packet as it waits, before a link stamps it (Assumption 100). -/
def State.reserve (s : State) (q : Packet) : Nat × Nat := if s.rte.phaseRes && q.phase == 0 then (1, 17) else (0, 0)

/-- Whether R293, with the reserve of R333, lets the SOP flit of a packet go. -/
def State.creditFor (s : State) (l : LinkId) (vc : Fin 8) (q : Packet) : Bool :=
  (s.link l).sopCredit vc q.flits (s.reserve q).1 (s.reserve q).2

/-! Time in cycles of the 156.25 MHz reference. -/

def State.refTime (s : State) : BitVec 32 := BitVec.ofNat 32 (s.time.toNat * 5 / 32)

def groupOf (l : LinkId) : Fin 8 := Fin.ofNat 8 (l.val / 3)
/-- The link that holds a group's settings (R311). -/
def headOf (g : Fin 8) : LinkId := Fin.ofNat 24 (3 * g.val)

def groupLinks (g : Fin 8) : List LinkId := (List.range 3).map (fun i => Fin.ofNat 24 (3 * g.val + i))

/-! Going down. -/

/-- The link that a packet entered by may send as many flits more, and a packet header where `eop`. -/
def State.freeUpstream (s : State) (inp : Option LinkId) (vc : Fin 8) (n : Nat) (eop : Bool) : State :=
  match inp with
  | none => s
  | some l => s.modLink l (fun k => (k.free (poolData vc) n).free (poolHdr vc) eop.toNat)

/-- The packets that wait for, or are being sent on, a link that goes down are discarded (R306 step 3); what
is still arriving of them is dropped as it comes. What a staging buffer holds has left the receive buffer, so
its credits are freed already. -/
def State.dropOnto (s : State) (l : LinkId) : State :=
  let gone := s.transit.filter (fun m => m.link == some l)
  let s : State := gone.foldl (fun s m => s.freeUpstream m.inp m.vc m.fl.length (m.fin != 0)) s
  let s := { s with transit := s.transit.filter (fun m => m.link != some l) }
  let s := s.modLink l (fun k => { k with staging := [] })
  { s with links := s.links.map (fun k => { k with
      rxPkt := k.rxPkt.map (fun x => if x.goes = 1 ∧ x.out = some l then { x with goes := 2 } else x) }) }

/-- What a staged packet becomes when its input goes down: ended with ABORT where it has begun. -/
def Staged.cut (l : LinkId) (m : Staged) : Option Staged :=
  if m.inp = some l ∧ m.fin = 0 then (if m.begun then some { m with fl := [], fin := 2 } else none) else some m

/-- Packets that come from the link and are not all here: discarded, or ended with ABORT downstream. -/
def State.dropFrom (s : State) (l : LinkId) : State :=
  let s := { s with transit := s.transit.filter (fun m => !(m.inp == some l && m.fin == 0)) }
  let s : State := { s with links := s.links.map (fun k => { k with staging := k.staging.filterMap (Staged.cut l) }) }
  s.modLink l (fun k => { k with rxPkt := [] })

/-- The tags of a core that are lost with a link (R345). -/
def State.loseTags (s : State) (l : LinkId) (c : CoreId) : State :=
  ((s.core c).tags.filter (fun t => t.links.contains l)).foldl
    (fun s t => s.xferFail c t.tag stLINKLOST 6) s

/-- Partitions that need a port whose last ACTIVE member is gone (R346). -/
def State.breakPort (s : State) (port : Nat) : State :=
  if (s.members port).isEmpty = false then s else
  (List.finRange 12).foldl (fun s p =>
    let k := s.part p
    if (k.state = 3 ∨ k.state = 4) ∧ k.portNeed.getLsbD port then
      (s.log 0x0016 (srcPart p) port 0xFFFFFFFF 0xFFFFFFFF 0).stopStep p stBROKEN 7
    else s) s

/-- A packet that belongs to a tag (R344): a WRITE with ACKREQ, or a READ_REQ. -/
def tagged (q : Packet) : Bool := (q.kind == 0 && q.kflags % 2 == 1) || q.kind == 2

/-- The tags whose packets wait for the link count as having left on it (R345). -/
def State.tagLinks (s : State) (l : LinkId) (m : Moving) : State :=
  if m.inp.isSome ∨ tagged m.pkt = false then s else
  match s.coreOfRank (partOfNat m.pkt.srcPart) m.pkt.srcRank with
  | none => s
  | some c => s.modCore c (fun k => { k with tags := k.tags.map (fun t =>
      if t.tag = m.pkt.tag ∧ t.kind ≠ 0 ∧ !t.links.contains l then { t with links := t.links ++ [l] } else t) })

/-- The LINK_RESET and LINK_LEAVE commands that wait for a link complete with it (R308, R435). -/
def State.resetDone (s : State) (l : LinkId) : State :=
  let mine := s.work.resets.filter (fun x => x.2 == l)
  let s : State := { s with work := { s.work with resets := s.work.resets.filter (fun x => x.2 != l) } }
  mine.foldl (fun s x => s.respond x.1.port x.1.session
    { seq := x.1.seq, op := 0x60, status := stOK, body := [BitVec.ofNat 8 (s.link l).state.toNat] }) s

/-- Links of a mask. -/
def maskLinks (m : BitVec 24) : List LinkId := (List.finRange 24).filter (fun l => m.getLsbD l.val)

/-- Every named link of a LINK_LEAVE is DOWN, or carries no link at all. -/
def State.leaveDone (s : State) : State :=
  let over_ (x : Waiter × BitVec 24) : Bool :=
    (maskLinks x.2).all (fun l => (s.link l).state == 8 || (s.link l).state == 0)
  let mine := s.work.leaves.filter over_
  let s : State := { s with work := { s.work with leaves := s.work.leaves.filter (fun x => !(over_ x)) } }
  mine.foldl (fun s x => s.respond x.1.port x.1.session
    { seq := x.1.seq, op := 0x61, status := stOK, body := leBytes 4 (((maskLinks x.2).filter
        (fun l => (s.link l).state == 8)).map (fun l => 2 ^ l.val)).sum }) s

/-- The markers of a link that leaves the set of inputs (R329). -/
def Router.forget (r : Router) (l : LinkId) : Router := { r with marks := r.marks.filter (fun m => m.1 != l.val) }

/-- The common part of going down (R305 to R307): codes of R307. The state after it is `dst`. -/
def State.linkDown (s : State) (l : LinkId) (reason : Nat) (dst : BitVec 4) : State :=
  let k := s.link l
  if k.state ≠ 5 ∧ k.state ≠ 6 then s else
  let port := k.portNow.toNat
  let s := (s.transit.filter (fun m => m.link == some l)).foldl (fun s m => s.tagLinks l m) s
  let s := (s.dropFrom l).dropOnto l
  let quiet := reason = 4 ∨ reason = 5 ∨ reason = 6 ∨ reason = 7
  let s := s.modLink l (fun k => { k with
    state := dst, reason := BitVec.ofNat 4 reason, downs := satAdd k.downs 1, lanes := 0,
    controls := (k.controls.filter (fun c => match c with
      | .reset _ _ => true
      | .leave => true
      | _ => false)) ++ (if quiet then [] else [Control.down (BitVec.ofNat 4 reason)]),
    replay := [], resend := [], reorder := [], holes := [], goSeq := none,
    limit := Vector.replicate 8 0, used := Vector.replicate 8 0, locked := true,
    graceful := false, afterReset := reason = 5 ∨ reason = 6 ∨ reason = 8 })
  let s := s.modRte (fun r => r.forget l)
  let s := s.log 0x0012 (srcLink l) reason 0 0 0
  let s := s.breakPort port
  let s : State := (List.finRange 96).foldl (fun s c => s.loseTags l c) s
  ((s.drainStep).resetDone l).leaveDone

/-! Coming up. -/

/-- The full class-0 bucket of a link, in 1/64 flit (R335, R353). -/
def State.c0Full (s : State) (port : BitVec 5) : Nat :=
  64 * ((s.rte.ports[port.toNat]?).getD {}).c0Burst.toNat

/-- The self-test has passed and the owner region and journal are replayed (R29 rows 5 and 6): the start has
taken its last step. -/
def State.replayed (s : State) : Bool := s.chip.step == 12

/-- DISABLED, HELD, FAILED or DOWN to DETECT, where the link is enabled, its group's PLL is locked and training
may begin (R29, R287); in a group that awaits a new rate it may not (R309). -/
def State.toDetect (s : State) (l : LinkId) : State :=
  if (s.link l).enable ∧ s.chip.groupLock.getLsbD (groupOf l).val ∧ s.replayed ∧
      (s.link (headOf (groupOf l))).rateTo.isNone then
    s.modLink l (fun k => { k with
      state := 1, width := 3, lanes := 0, level := 0, peer := none, lastTs := none, paramSent := false,
      ctlTime := none, afterReset := false, controls := [], resetTo := none })
  else s

/-- Lanes of a width code: 8, 4 or 2. -/
def lanesOf (w : BitVec 2) : Nat := if w = 0 then 8 else if w = 1 then 4 else 2

/-- Entry to ACTIVE (5) or STANDBY (6): SEQ from 0, LIMIT from the peer's advertised pools, SENT 0 and
EV_LINK_UP (R287). The credit this end grants starts from what it advertised (R294), a full class-0 bucket from
R335; PORT is taken in ACTIVE (R310). -/
def State.linkUp (s : State) (l : LinkId) (st : BitVec 4) (m : ParamMsg) : State :=
  let k := s.link l
  let s := s.setLink l { k with
    state := st, portNow := if st = 5 then k.port else k.portNow, fails := 0, locked := true, nextSeq := 0,
    replay := [], resend := [], controls := [], expect := 0, highest := 0, reorder := [], holes := [], goSeq := none,
    limit := Vector.ofFn (peerPool m), used := Vector.replicate 8 0, rxLimit := k.advert,
    c0Tokens := s.c0Full k.port, rxPkt := [], staging := [], asked := 0 }
  let s := s.modRte (fun r => r.forget l)
  let s := s.log 0x0011 (srcLink l) (lanesOf k.width) k.rate.toNat k.level.toNat 0
  if st = 5 then s.joinDrain l else s

/-- HELD with a reason (R290, R341). -/
def State.linkHeld (s : State) (l : LinkId) (reason : Nat) : State :=
  s.modLink l (fun k => { k with
    state := 7, reason := BitVec.ofNat 4 reason, fails := 0, ctlTime := none, controls := [], replay := [],
    resend := [], reorder := [], holes := [], goSeq := none })

/-- The outcome of the checks at the end of PARAM, in their order: LEVEL (11) and REACH (12) of R290, then the
plan (R341). -/
def State.paramOutcome (s : State) (l : LinkId) (m : ParamMsg) : Nat :=
  let k := s.link l
  if min 2 m.levelMax.toNat < max 1 m.levelMin.toNat then 11
  else if 625 < k.rtt.toNat then 12
  else s.planOutcome l m

/-- REASON of a link held with an outcome (R307). -/
def heldReason (o : Nat) : Nat := if o = 11 then 10 else if o = 12 then 11 else 12

/-- The link takes the state of an outcome (R341). -/
def State.planned (s : State) (l : LinkId) (m : ParamMsg) : State :=
  let o := s.paramOutcome l m
  let s := s.recordOutcome l m o
  if o = 1 ∨ o = 2 then s.linkUp l 5 m
  else if o = 3 ∨ o = 4 then s.linkUp l 6 m
  else s.linkHeld l (heldReason o)

/-- The end of PARAM (R290, R341), once a PARAM with PEER_SEEN = 1 has come and one has gone. -/
def State.endParam (s : State) (l : LinkId) : State :=
  let k := s.link l
  match k.peer with
  | none => s
  | some m =>
    if k.state ≠ 4 ∨ m.peerSeen = false ∨ k.paramSent = false then s
    else (s.modLink l (fun k => { k with level := BitVec.ofNat 2 (min 2 m.levelMax.toNat) })).planned l m

/-- A write to a link's plan checks a STANDBY or HELD link again at once (R341): a HELD link whose outcome is
no longer a hold goes to DETECT (R287). -/
def State.recheck (s : State) (l : LinkId) : State :=
  let k := s.link l
  match k.peer with
  | none => s
  | some m =>
    let o := s.paramOutcome l m
    if k.state = 6 then
      let s := s.recordOutcome l m o
      if o = 1 ∨ o = 2 then ((s.dropFrom l).dropOnto l).linkUp l 5 m
      else if o = 3 ∨ o = 4 then s
      else ((s.dropFrom l).dropOnto l).linkHeld l (heldReason o)
    else if k.state = 7 then
      let s := s.recordOutcome l m o
      if o ≤ 4 then (s.modLink l (fun k => { k with state := 8, afterReset := true })).toDetect l
      else s.linkHeld l (heldReason o)
    else s

end Sys2Proof.Machine
end

