-- ==== Sys2Proof/Machine/LinkTx.lean ====
section
/-! DEFINITION. The transmitter of a link (R281 to R289, R293, R296, R299, R301, R302, R331, R333 to R336). -/

namespace Sys2Proof.Machine

/-! Staging (R331). -/

/-- Whether new packets of a VC may enter the link: ACTIVE, or class 3 in STANDBY, and no drain of R308. -/
def Link.takes (k : Link) (vc : Fin 8) : Bool :=
  (k.state == 5 || (k.state == 6 && decide (6 ≤ vc.val))) && !k.graceful

/-- A packet that leaves on an optical link leaves with PHASE = 1 (R333). -/
def State.stamped (s : State) (l : LinkId) (q : Packet) : Packet :=
  if (s.rte.plan l).tier = 2 then { q with hdr := wordSetField q.hdr 15 1 1 } else q

/-- A packet waits at a link for a VC: it is bound to that link, or to another ACTIVE member of the port that
is draining or has no credit for it (R308, R310). Its spine segments are behind it. -/
def State.waitsAt (s : State) (l : LinkId) (vc : Fin 8) (m : Moving) : Bool :=
  m.vc == vc && m.path.isEmpty &&
  match m.link with
  | none => false
  | some o =>
    o == l || (m.pkt.kind != 5 && (s.members (s.link l).portNow.toNat).contains l &&
      (s.members (s.link l).portNow.toNat).contains o &&
      ((s.link o).graceful || !(s.link o).sopCredit vc m.pkt.flits 0 0) &&
      (s.link l).sopCredit vc m.pkt.flits 0 0)

/-- The first packet that waits at a link for a VC, and the others. -/
def State.takeWaiting (s : State) (l : LinkId) (vc : Fin 8) : List Moving → Option (Moving × List Moving)
  | [] => none
  | m :: t =>
    if s.waitsAt l vc m then some (m, t) else (s.takeWaiting l vc t).map (fun x => (x.1, m :: x.2))

/-- The flits still to arrive of a packet that left its link for another of the port follow it. -/
def State.follow (s : State) (l : LinkId) (m : Moving) : State :=
  match m.inp with
  | none => s
  | some i => if m.fin ≠ 0 then s else s.modLink i (fun k => { k with
      rxPkt := k.rxPkt.map (fun x => if x.vc = m.vc ∧ x.goes = 1 then { x with out := some l } else x) })

/-- Bodies of the flits that are there, the first with the header as it leaves. -/
def firstBody (q : Packet) : List (List Byte) → List (List Byte)
  | [] => []
  | b :: t => (bytesOfWord q.hdr ++ b.drop 32) :: t

/-- STAGING_BUFFER_ENTER (R310, R331): the next packet of a VC enters the link's empty staging buffer where R293
is met. The reserve of R333 is asked of its SOP flit alone. -/
def execStagingBufferEnter (l : LinkId) (vc : Fin 8) (s : State) : Out :=
  let k := s.link l
  .next (if k.takes vc = false ∨ k.staging.any (fun x => x.vc == vc) = true then s else
    match s.takeWaiting l vc s.transit with
    | none => s
    | some (m, rest) =>
      if k.sopCredit vc m.pkt.flits 0 0 = false then s else
      let fl := if m.inp.isNone then packetBodies m.pkt else m.fl
      let s := s.tagLinks l m
      let s := { s with transit := rest }
      let s := (s.follow l m).modLink l (fun k => { k with staging := k.staging ++
        [{ vc := vc, pkt := m.pkt, inp := m.inp, fl := fl, fin := m.fin }] })
      s.freeUpstream m.inp vc fl.length (m.fin != 0))

/-! The link arbiter (R334 to R336). -/

/-- What a service of one flit costs a participant of weight `w`: 2^32 / w, the model's unit of virtual
time. -/
def slotCost (w : Nat) : Nat := 2 ^ 32 / max w 1

/-- Participant of a staged packet: its SRC_PART, or 12 for class 3 (R336). -/
def Staged.who (m : Staged) : Nat := if 6 ≤ m.vc.val then 12 else m.pkt.srcPart

/-- Weight of a participant on the link's logical port (R353, R354). -/
def State.weight (s : State) (port who : Nat) : Nat :=
  if who = 12 then (((s.rte.ports[port]?).getD {}).c3Weight).toNat
  else ((s.rte.shares[12 * port + who]?).getD 0).toNat

/-- A class-0 packet that the bucket does not cover (R335); DRAIN takes no tokens (R375). -/
def Link.capped (k : Link) (m : Staged) : Bool :=
  decide (m.vc.val < 2) && m.pkt.kind != 5 && decide (k.c0Tokens < 64 * m.pkt.flits)

/-- A staged packet has a flit that may go now: its SOP needs credit (R293, R333), and in class 0 the bucket
(R335). -/
def State.ready (s : State) (l : LinkId) (m : Staged) : Bool :=
  let k := s.link l
  let flit := !m.fl.isEmpty || m.fin == 2
  if m.begun then flit
  else flit && k.takes m.vc && s.creditFor l m.vc m.pkt && !k.capped m

/-- Order of VCs within a turn: class 1 before class 2, the response before the request (R334). -/
def vcRank (vc : Fin 8) : Nat := vc.val / 2 * 2 + (1 - vc.val % 2)

/-- The best of a list by a measure; the first of equals. -/
def leastBy {α : Type} (f : α → Nat) : List α → Option α
  | [] => none
  | x :: t =>
    match leastBy f t with
    | none => some x
    | some y => if f x ≤ f y then some x else some y

/-- The virtual time at which a participant is served next. -/
def Link.tagOf (k : Link) (who : Nat) : Nat := max k.vtime ((alGet k.served who).getD 0)

/-- The participant that the arbiter serves among those with a flit ready (R336). -/
def State.pickWho (s : State) (l : LinkId) (ws : List Nat) : Option Nat :=
  let port := (s.link l).portNow.toNat
  let strong := ws.filter (fun w => s.weight port w != 0)
  leastBy (fun w => (s.link l).tagOf w * 16 + w) (if strong = [] then ws else strong)

/-- The staged packet whose flit goes in this slot, and the state with the arbiter's account of it. -/
def State.arbitrate (s : State) (l : LinkId) : Option (Staged × State) :=
  let k := s.link l
  let rs := k.staging.filter (fun m => s.ready l m)
  match leastBy (fun m => vcRank m.vc) (rs.filter (fun m => decide (m.vc.val < 2))) with
  | some m => some (m, s)
  | none =>
    match s.pickWho l (rs.map Staged.who) with
    | none => none
    | some w =>
      let tag := k.tagOf w
      match leastBy (fun m => vcRank m.vc) (rs.filter (fun m => m.who == w)) with
      | none => none
      | some m => some (m, s.modLink l (fun k => { k with
          vtime := tag, served := alSet k.served w (tag + slotCost (s.weight k.portNow.toNat w)) }))

/-! What is sent. -/

/-- The pool that CREDIT describes steps through 0 to 7 (R294). -/
def nextCsel (c : Fin 8) : Fin 8 := c + 1

/-- The header fields that every flit carries. -/
def Link.baseHdr (k : Link) : FlitHdr :=
  { csel := k.csel, credit := k.rxLimit[k.csel], ackSeq := k.expect, seq := k.nextSeq }

/-- A flit leaves, formed; an IDLE flit clears the count of slots without one (R302). -/
def State.emit (s : State) (l : LinkId) (o : OutFlit) : State :=
  s.modLink l (fun k => { k with
    before := [], sent := some o.formed, csel := nextCsel k.csel,
    sinceIdle := if o.kind = 0 then 0 else k.sinceIdle + 1 })

def State.sendIdle (s : State) (l : LinkId) : State := s.emit l { kind := 0, hdr := (s.link l).baseHdr }

/-- Order of CONTROL flits (R302). -/
def Control.rank : Control → Nat
  | .down _ => 0
  | .reset _ _ => 1
  | .leave => 2
  | .nak _ => 3
  | .goback _ => 4
  | .param _ => 5
  | .hold _ => 6

/-- A CONTROL flit leaves. A NAK names its holes now, and a GOBACK is repeated from now (R298, R300). -/
def State.sendControl (s : State) (l : LinkId) (c : Control) : State :=
  let s := s.modLink l (fun k => { k with
    controls := k.controls.erase c,
    holes := (match c with
      | .nak qs => k.holes.map (fun h => if qs.contains h.seq then { h with at_ := s.time } else h)
      | _ => k.holes),
    goTime := (match c with
      | .goback _ => s.time
      | _ => k.goTime),
    goback := (match c with
      | .goback _ => satAdd k.goback 1
      | _ => k.goback) })
  s.emit l { kind := 2, hdr := (s.link l).baseHdr, ctl := some c }

/-- A retransmission (R299, R301). -/
def State.sendAgain (s : State) (l : LinkId) (seq : BitVec 16) (rest : List (BitVec 16)) : State :=
  let k := s.link l
  match k.replay.find? (fun f => f.seq == seq) with
  | none => (s.modLink l (fun k => { k with resend := rest })).sendIdle l
  | some f =>
    let s := s.modLink l (fun k => { k with
      resend := rest, replayCount := satAdd k.replayCount 1,
      replay := k.replay.map (fun g => if g.seq = seq then { g with resent := g.resent + 1 } else g) })
    s.emit l { kind := 1, body := f.body, hdr := { k.baseHdr with
      abort := f.abort, retx := true, eop := f.eop, sop := f.sop, vc := f.vc, seq := f.seq } }

/-- What is left of a staged packet after its next flit, none where that was the last one. -/
def Staged.after (m : Staged) : Option Staged :=
  match m.fl with
  | [] => none
  | _ :: t => if t = [] ∧ m.fin = 1 then none else some { m with fl := t, begun := true }

/-- The next flit of a staged packet: a new DATA flit (R296), SENT and the bucket at its SOP (R293, R335). -/
def State.sendData (s : State) (l : LinkId) (m : Staged) : State :=
  let k := s.link l
  let n := m.pkt.flits
  let abort := m.fl.isEmpty
  let f : TxFlit := {
    seq := k.nextSeq, vc := m.vc, sop := !m.begun, eop := m.after.isNone, abort := abort,
    body := (if m.begun then m.fl else firstBody (s.stamped l m.pkt) m.fl).headD (List.replicate bodyBytes 0) }
  let s := s.modLink l (fun k => { k with
    nextSeq := k.nextSeq + 1, replay := k.replay ++ [f],
    staging := k.staging.filterMap (fun x => if x.vc = m.vc then m.after else some x) })
  let s := if m.begun then s else s.modLink l (fun k => { k with
    used := (k.used.set (poolHdr m.vc) (k.used[poolHdr m.vc] + 1)).set (poolData m.vc)
      (k.used[poolData m.vc] + BitVec.ofNat 16 n),
    c0Tokens := if m.vc.val < 2 ∧ m.pkt.kind ≠ 5 then k.c0Tokens - 64 * n else k.c0Tokens })
  s.emit l { kind := 1, body := f.body, hdr := { k.baseHdr with
    abort := f.abort, eop := f.eop, sop := f.sop, vc := f.vc, seq := f.seq } }

/-- EV_C0_CAP of a link whose class-0 packet waits for tokens, once per millisecond (R335). -/
def State.c0Wait (s : State) (l : LinkId) : State :=
  let k := s.link l
  let waits := k.staging.any (fun m => !m.begun && k.capped m)
  let due := match k.c0Logged with
    | some t => decide (t.toNat + 1000000 ≤ s.time.toNat)
    | none => true
  if waits && due then
    (s.modLink l (fun k => { k with c0Logged := some s.time })).log 0x0017 (srcLink l) 0 0 0 0
  else s

/-- The bucket's growth of one flit slot, up to C0_BURST (R335). -/
def State.c0Refill (s : State) (l : LinkId) : State :=
  let k := s.link l
  let share := ((s.rte.ports[k.portNow.toNat]?).getD {}).c0Share.toNat
  s.modLink l (fun k => { k with c0Tokens := min (k.c0Tokens + share) (s.c0Full k.portNow) })

/-- The message that a PARAM flit carries (R289, R290). -/
def State.paramMsg (s : State) (l : LinkId) : ParamMsg :=
  let k := s.link l
  { peerSeen := k.peer.isSome, chip := s.chipId, link := BitVec.ofNat 5 l.val, slot := s.chip.slotId,
    rom := Config.romVersion,
    data := [k.pools[1], k.pools[3], k.pools[5], k.pools[7]],
    hdrs := [k.pools[0], k.pools[2], k.pools[4], k.pools[6]],
    ts := s.refTime, tsEcho := (k.lastTs.map (·.1)).getD 0,
    tsHold := (k.lastTs.map (fun x => s.refTime - x.2)).getD 0 }

/-- A message that is due every microsecond (R287). -/
def State.micro (s : State) (l : LinkId) : Bool :=
  match (s.link l).ctlTime with
  | none => true
  | some t => decide (t.toNat + 1000 ≤ s.time.toNat)

/-- The slot of a link in PARAM: a PARAM flit each microsecond, else IDLE. The pools advertised are those
that the receiver grants. -/
def State.paramSlot (s : State) (l : LinkId) : State :=
  if s.micro l = false then s.sendIdle l else
  let m := s.paramMsg l
  let s := s.modLink l (fun k => { k with
    ctlTime := some s.time, paramSent := k.paramSent || m.peerSeen, advert := k.pools })
  (s.sendControl l (.param m)).endParam l

/-- The slot of a link in HELD: a HOLD flit each microsecond, else IDLE. -/
def State.heldSlot (s : State) (l : LinkId) : State :=
  if s.micro l = false then s.sendIdle l else
  (s.modLink l (fun k => { k with ctlTime := some s.time })).sendControl l (.hold (s.link l).reason)

/-- The slot of a link that carries traffic (R302). -/
def State.trafficSlot (s : State) (l : LinkId) : State :=
  let s := (s.c0Refill l).c0Wait l
  let k := s.link l
  match leastBy Control.rank k.controls with
  | some c => s.sendControl l c
  | none =>
    if 4095 ≤ k.sinceIdle then s.sendIdle l else
    match k.resend with
    | q :: rest => s.sendAgain l q rest
    | [] =>
      if 4096 ≤ k.replay.length then s.sendIdle l else
      match s.arbitrate l with
      | some (m, s) => s.sendData l m
      | none => s.sendIdle l

/-- The slot of a link that is DOWN or DISABLED: the flits still due, then electrical idle. -/
def State.downSlot (s : State) (l : LinkId) : State :=
  match leastBy Control.rank (s.link l).controls with
  | some c => s.sendControl l c
  | none => s.modLink l (fun k => { k with before := [], sent := none })

/-- TX_FLIT_SLOT (R302). -/
def execTxFlitSlot (l : LinkId) (s : State) : Out :=
  let st := (s.link l).state
  .next (if st = 5 ∨ st = 6 then s.trafficSlot l
    else if st = 3 then s.sendIdle l
    else if st = 4 then s.paramSlot l
    else if st = 7 then s.heldSlot l
    else s.downSlot l)

end Sys2Proof.Machine
end

