-- ==== Sys2Proof/Machine/LinkRx.lean ====
section
/-! DEFINITION. The receiver of a link (R283 to R286, R290, R294, R296 to R301, R304 to R308, R325, R342). -/

namespace Sys2Proof.Machine

/-! Packets that arrive (R285, R286, R325). -/

/-- Credit of the flits of a packet that go no further. -/
def State.freeHere (s : State) (l : LinkId) (vc : Fin 8) (n : Nat) (eop : Bool) : State :=
  s.freeUpstream (some l) vc n eop

def Link.open_ (k : Link) (vc : Fin 8) : Option RxOpen := k.rxPkt.find? (fun x => x.vc == vc)

def Link.close (k : Link) (vc : Fin 8) : Link := { k with rxPkt := k.rxPkt.filter (fun x => x.vc != vc) }

def Link.setOpen (k : Link) (x : RxOpen) : Link := { k.close x.vc with rxPkt := (k.close x.vc).rxPkt ++ [x] }

/-- Where a packet goes, decided at its first flit. -/
def State.openPacket (s : State) (l : LinkId) (vc : Fin 8) (body : List Byte) : State :=
  let q : Packet := { hdr := wordOfBytes body }
  let x : RxOpen := { vc := vc, hdr := q.hdr, goes := 0, n := q.flits }
  if q.kind = 5 ∨ s.isHere q then s.modLink l (fun k => k.setOpen x)
  else
    match s.forward l vc q with
    | (none, s) => s.modLink l (fun k => k.setOpen { x with goes := 2 })
    | (some o, s) =>
      let m : Moving := { vc := vc, pkt := q, link := some o, inp := some l, fl := [], fin := 0,
                          path := spineNeeds vc q (fieldOfLink l) (fieldOfLink o) }
      let s := { s with transit := s.transit ++ [m] }
      s.modLink l (fun k => k.setOpen { x with goes := 1, out := some o })

/-- A flit of a packet being forwarded joins the waiting packet. -/
def Moving.add (l : LinkId) (vc : Fin 8) (body : List Byte) (eop : Bool) (m : Moving) : Moving :=
  if m.inp = some l ∧ m.vc = vc ∧ m.fin = 0 then { m with fl := m.fl ++ [body], fin := eop.toNat } else m

/-- … or the packet in its staging buffer. -/
def Staged.add (l : LinkId) (vc : Fin 8) (body : List Byte) (eop : Bool) (m : Staged) : Staged :=
  if m.inp = some l ∧ m.vc = vc ∧ m.fin = 0 then { m with fl := m.fl ++ [body], fin := eop.toNat } else m

/-- One more flit of a forwarded packet: in staging it has left the receive buffer. -/
def State.passOn (s : State) (l o : LinkId) (vc : Fin 8) (body : List Byte) (eop : Bool) : State :=
  if (s.link o).staging.any (fun m => m.inp == some l && m.vc == vc && m.fin == 0) then
    (s.modLink o (fun k => { k with staging := k.staging.map (Staged.add l vc body eop) })).freeHere l vc 1 eop
  else { s with transit := s.transit.map (Moving.add l vc body eop) }

/-- An aborted packet that was being forwarded: ended downstream in the same way, or dropped where it has not
begun (R286). -/
def State.passAbort (s : State) (l o : LinkId) (vc : Fin 8) : State :=
  let s := { s with transit := s.transit.filter (fun m => !(m.inp == some l && m.vc == vc && m.fin == 0)) }
  s.modLink o (fun k => { k with staging := k.staging.filterMap (fun m =>
    if m.vc = vc then m.cut l else some m) })

/-- A whole packet for this chip (R325): onto the spines, or discarded. -/
def State.arrived (s : State) (l : LinkId) (x : RxOpen) : State :=
  let q := packetOfBytes x.body
  if q.kind = 7 ∨ 12 ≤ q.dstPart ∨ 128 < q.length ∨ x.got ≠ q.flits ∨ (q.kind = 6 ∧ q.kflags ≠ 0) then s.badHeader
  else { s with transit := s.transit ++ [{ vc := x.vc, pkt := q, inp := some l,
                                           path := spineNeeds x.vc q (fieldOfLink l) (fieldOf (partOfNat q.dstPart)) }] }

/-- The next flit of an open packet. -/
def State.nextFlit (s : State) (l : LinkId) (x : RxOpen) (f : RxFlit) : State :=
  let x := { x with got := x.got + 1 }
  if f.abort then
    let s := s.modLink l (fun k => k.close x.vc)
    let waits := s.transit.any (fun m => m.inp == some l && m.vc == x.vc && m.fin == 0)
    let s := match x.goes, x.out with
      | 1, some o => s.passAbort l o x.vc
      | _, _ => s
    s.freeHere l x.vc (if x.goes = 0 ∨ waits then x.n else x.n + 1 - x.got) true
  else
    let x := if x.goes = 0 then { x with body := x.body ++ f.body } else x
    let s := s.modLink l (fun k => if f.eop then k.close x.vc else k.setOpen x)
    match x.goes, x.out with
    | 1, some o => s.passOn l o x.vc f.body f.eop
    | 0, _ => if f.eop then (s.arrived l x).freeHere l x.vc x.got true else s
    | _, _ => s.freeHere l x.vc 1 f.eop

/-- A DATA flit delivered in order (R285, R297). One that belongs to no packet is discarded. -/
def State.deliver (s : State) (l : LinkId) (f : RxFlit) : State :=
  let s := if f.sop then s.openPacket l f.vc f.body else s
  match (s.link l).open_ f.vc with
  | none => s.freeHere l f.vc 1 f.eop
  | some x => s.nextFlit l x f

/-! Sequence (R296 to R300). -/

/-- Delivers the flit that E names, and every held flit then in order. -/
def State.drainReorder (s : State) (l : LinkId) : Nat → State
  | 0 => s
  | n + 1 =>
    let k := s.link l
    match k.reorder.find? (fun f => f.seq == k.expect) with
    | none => s
    | some f =>
      let s := s.modLink l (fun k => { k with
        expect := k.expect + 1, reorder := k.reorder.filter (fun g => g.seq != f.seq) })
      (s.deliver l f).drainReorder l n

/-- Distance from E, modulo 65,536. -/
def Link.ahead (k : Link) (q : BitVec 16) : Nat := (q - k.expect).toNat

/-- Numbers from E up to the highest SEQ known that are neither delivered nor held (R298). -/
def Link.openHoles (k : Link) : List (BitVec 16) :=
  let n := k.ahead k.highest
  if 4096 < n then [] else
  ((List.range n).map (fun i => k.expect + BitVec.ofNat 16 i)).filter
    (fun q => !(k.reorder.any (fun f => f.seq == q)))

def chunk120 (l : List (BitVec 16)) : List (List (BitVec 16)) :=
  (List.range ((l.length + 119) / 120)).map (fun i => (l.drop (120 * i)).take 120)

/-- Asks for flits: NAKs of their numbers at level 2, GOBACK with E at level 1. -/
def Link.ask (k : Link) (l : List (BitVec 16)) : Link :=
  if l = [] then k
  else if k.level = 2 then { k with controls := k.controls ++ (chunk120 l).map Control.nak }
  else { k with controls := k.controls.filter (fun c => c != .goback k.expect) ++ [.goback k.expect] }

/-- Finds new holes after a good flit at a time (R298). -/
def Link.findHoles (now : BitVec 64) (k : Link) : Link :=
  let qs := k.openHoles
  let old := k.holes.filter (fun h => qs.contains h.seq)
  let fresh := qs.filter (fun q => !(k.holes.any (fun h => h.seq == q)))
  { k.ask fresh with
    holes := old ++ fresh.map (fun q => { seq := q, at_ := now }), goSeq := (match k.goSeq with
      | some q => if 32768 ≤ k.ahead q ∨ k.reorder.any (fun f => f.seq == q) then none else some q
      | none => none) }

/-- The highest SEQ known, as the number after it. -/
def Link.know (k : Link) (next : BitVec 16) : Link :=
  if k.ahead k.highest < k.ahead next ∧ k.ahead next ≤ 4096 then { k with highest := next } else
  if 4096 < k.ahead k.highest then { k with highest := if k.ahead next ≤ 4096 then next else k.expect } else k

/-- A DATA flit by its distance from E (R297, R300). A second copy of a flit that is held is a duplicate
(R321). -/
def State.takeData (s : State) (l : LinkId) (f : RxFlit) : State :=
  let k := s.link l
  let d := k.ahead f.seq
  if d = 0 then
    let s := s.modLink l (fun k => { k with expect := k.expect + 1 })
    (s.deliver l f).drainReorder l 1024
  else if d ≤ 4095 then
    if k.level ≠ 2 then s
    else if k.reorder.any (fun g => g.seq == f.seq) then s.modLink l (fun k => { k with dup := satAdd k.dup 1 })
    else if 1024 ≤ k.reorder.length then
      (if k.goSeq.isSome then s else s.modLink l (fun k => { k with
        goSeq := some f.seq, controls := k.controls ++ [.goback f.seq] }))
    else s.modLink l (fun k => { k with reorder := k.reorder ++ [f] })
  else if 32768 ≤ d then s.modLink l (fun k => { k with dup := satAdd k.dup 1 })
  else s.linkDown l 3 8

/-! What every good flit carries. -/

/-- ACK_SEQ (R297): entries below it are freed; one beyond the next new SEQ takes the link down. -/
def State.takeAckSeq (s : State) (l : LinkId) (a : BitVec 16) : State :=
  let k := s.link l
  let n := k.replay.length
  let d := (a - (k.nextSeq - BitVec.ofNat 16 n)).toNat
  if d ≤ n then
    let r := k.replay.drop d
    s.modLink l (fun k => { k with
      replay := r, resend := k.resend.filter (fun q => r.any (fun f => f.seq == q)) })
  else if d < 32768 then s.linkDown l 3 8
  else s

/-- CREDIT of a pool (R294). -/
def State.takeCredit (s : State) (l : LinkId) (pool : Fin 8) (v : BitVec 16) : State :=
  let k := s.link l
  if 32767 < (v - k.limit[pool]).toNat then s
  else if ((k.peer.map (fun m => (peerPool m pool).toNat)).getD 0) < (v - k.used[pool]).toNat then s.linkDown l 3 8
  else s.modLink l (fun k => { k with limit := k.limit.set pool v })

/-- Counts of the codewords of a flit (R320, R321), and of a bad flit (R283). -/
def State.countRx (s : State) (l : LinkId) (r : Rx) (good : Bool) : State :=
  s.modLink l (fun k => { k with
    fecCorr := satAdd k.fecCorr r.fecCorr, fecUncorr := satAdd k.fecUncorr r.fecUncorr,
    badFlit := if good then k.badFlit else satAdd k.badFlit 1 })

/-- The link delivers nothing while it has no lock (R304). -/
def Link.hears (k : Link) : Bool := k.locked && (k.state == 5 || k.state == 6)

/-- A received flit: counted; where it is good and the link carries traffic, its header's fields are used and
then `f`, and new holes are looked for. `next` is the SEQ after those it tells of. -/
def State.receive (s : State) (l : LinkId) (r : Rx) (good : Bool) (h : FlitHdr) (next : BitVec 16)
    (f : State → State) : State :=
  let s := s.countRx l r good
  if good = false ∨ (s.link l).hears = false then s
  else
    let s := (s.takeAckSeq l h.ackSeq).takeCredit l h.csel h.credit
    if (s.link l).hears = false then s else
    let s := f s
    if (s.link l).hears = false then s else s.modLink l (fun k => (k.know next).findHoles s.time)

/-- A CONTROL flit of R288. -/
def State.receiveControl (s : State) (l : LinkId) (r : Rx) (h : FlitHdr) (c : Control) (f : State → State) : State :=
  s.receive l r (r.goodCtl h c) h h.seq f

/-- Bytes of a body fill the flit. -/
def execFlit (ok : Bool) (s : State) : Out := if ok then .next s else .fault .malformedFlit

/-- RX_DATA_FLIT (R297). -/
def execRxDataFlit (l : LinkId) (r : Rx) (h : FlitHdr) (body : List Byte) (s : State) : Out :=
  execFlit (body.length == bodyBytes) (s.receive l r (r.good 1 h body) h (h.seq + 1) (fun s =>
    s.takeData l { seq := h.seq, vc := h.vc, sop := h.sop, eop := h.eop, abort := h.abort && h.eop, body := body }))

/-- `other` names a CTYPE that R288 does not list. -/
def Rx.idleOk (r : Rx) : Bool :=
  match r.other with
  | none => true
  | some c => c == 0 || decide (8 ≤ c.toNat)

/-- RX_IDLE_FLIT (R284, R298); a CONTROL flit with another CTYPE than those of R288 is ignored but for its
header. -/
def execRxIdleFlit (l : LinkId) (r : Rx) (h : FlitHdr) (s : State) : Out :=
  execFlit (Rx.idleOk r) (s.receive l r (r.goodIdle h) h h.seq id)

/-! Retransmission (R299, R301). -/

/-- Asks for the retransmission of an unacknowledged flit; the link goes down where it has been sent again
REPLAY_LIMIT times. -/
def State.askAgain (s : State) (l : LinkId) (q : BitVec 16) : State :=
  let k := s.link l
  match k.replay.find? (fun f => f.seq == q) with
  | none => s
  | some f =>
    if k.resend.contains q then s
    else if k.replayLimit.toNat ≤ f.resent then s.linkDown l 2 8
    else s.modLink l (fun k => { k with resend := k.resend ++ [q] })

/-- RX_NAK (R299). -/
def execRxNak (l : LinkId) (r : Rx) (h : FlitHdr) (seqs : List (BitVec 16)) (s : State) : Out :=
  execFlit (decide (seqs.length ≤ 120)) (s.receiveControl l r h (.nak seqs) (fun s => seqs.foldl (fun s q => s.askAgain l q) s))

/-- RX_GOBACK (R299). -/
def execRxGoback (l : LinkId) (r : Rx) (h : FlitHdr) (seq : BitVec 16) (s : State) : Out :=
  .next (s.receiveControl l r h (.goback seq) (fun s =>
    let k := s.link l
    (k.replay.filter (fun f => decide ((f.seq - seq).toNat < 4096))).foldl (fun s f => s.askAgain l f.seq) s))

/-- REPLAY_TIMEOUT (R299, R301). -/
def execReplayTimeout (l : LinkId) (s : State) : Out :=
  let k := s.link l
  .next (if k.state ≠ 5 ∧ k.state ≠ 6 then s else
    match k.replay with
    | [] => s
    | f :: _ => s.askAgain l f.seq)

/-- NAK_REPEAT has passed since a time (R314: units of 8 ns). -/
def State.nakDue (s : State) (l : LinkId) (t : BitVec 64) : Bool :=
  decide (t.toNat + 8 * (s.link l).nakRepeat.toNat ≤ s.time.toNat)

/-- NAK_REPEAT_TIMER (R298, R300): the holes that are open and were last named NAK_REPEAT ago are named again,
at level 1 with one GOBACK of E; a GOBACK for the reorder buffer is repeated. A message that still waits to be
sent is not queued twice. -/
def execNakRepeatTimer (l : LinkId) (s : State) : Out :=
  .next (if (s.link l).hears = false then s else
    s.modLink l (fun k =>
      let waits (q : BitVec 16) : Bool := k.controls.any (fun c => match c with
        | .nak qs => qs.contains q
        | _ => false)
      let due := (k.holes.filter (fun h => s.nakDue l h.at_ && k.openHoles.contains h.seq && !waits h.seq)).map
        Hole.seq
      let due := if k.level = 2 ∨ s.nakDue l k.goTime then due else []
      let k := k.ask due
      match k.goSeq with
      | some q => if s.nakDue l k.goTime ∧ !k.controls.contains (.goback q) then
          { k with controls := k.controls ++ [.goback q] } else k
      | none => k))

/-! Control messages. -/

/-- RX_PARAM (R290, R341): identity, round trip, and the end of PARAM. -/
def execRxParam (l : LinkId) (r : Rx) (h : FlitHdr) (m : ParamMsg) (rxTime : BitVec 32) (s : State) : Out :=
  .next (
    let good := r.goodCtl h (.param m)
    let s := s.countRx l r good
    if good = false ∨ (s.link l).state ≠ 4 ∨ (s.link l).locked = false then s else
    let rtt := (rxTime - m.tsEcho - m.tsHold).toNat
    let s := s.modLink l (fun k => { k with
      peer := some m, lastTs := some (m.ts, rxTime), level := BitVec.ofNat 2 (min 2 m.levelMax.toNat),
      rtt := if m.peerSeen then BitVec.ofNat 10 (min rtt 1023) else k.rtt })
    s.endParam l)

/-- Width code of 8, 4 or 2 lanes. -/
def widthCode (w : Byte) : BitVec 2 := if w = 8 then 0 else if w = 4 then 1 else 2

/-- RX_RESET_FLIT (R308): down with PEER_RESET, and the next training takes the lower width. -/
def execRxResetFlit (l : LinkId) (r : Rx) (h : FlitHdr) (width : Byte) (reason : BitVec 4) (s : State) : Out :=
  .next (s.receiveControl l r h (.reset width reason) (fun s =>
    (s.modLink l (fun k => { k with asked := widthCode width })).linkDown l 6 8))

/-- RX_LEAVE (R307). -/
def execRxLeave (l : LinkId) (r : Rx) (h : FlitHdr) (s : State) : Out :=
  .next (s.receiveControl l r h .leave (fun s => s.linkDown l 7 8))

/-- RX_DOWN (R306). -/
def execRxDown (l : LinkId) (r : Rx) (h : FlitHdr) (reason : BitVec 4) (s : State) : Out :=
  .next (s.receiveControl l r h (.down reason) (fun s => s.linkDown l 4 8))

/-- RX_HOLD (R342). The peer is in HELD, so its header's acknowledgement and credit are not valid (R284). -/
def execRxHold (l : LinkId) (r : Rx) (h : FlitHdr) (reason : BitVec 4) (s : State) : Out :=
  .next (
    let good := r.goodCtl h (.hold reason)
    let s := s.countRx l r good
    if good = false ∨ (s.link l).hears = false then s else s.linkDown l 4 8)

end Sys2Proof.Machine
end

