-- ==== Sys2Proof/Machine/LinkState.lean ====
section
/-! DEFINITION. The states of a link (R278, R287, R291), loss of lock (R304, R305), enabling and disabling
(R287, R311, R472, R473), and resets (R308, R309). -/

namespace Sys2Proof.Machine

/-! Training. -/

/-- LINK_DETECT_PEER (R287). -/
def execLinkDetectPeer (l : LinkId) (s : State) : Out :=
  .next (if (s.link l).state = 1 then s.modLink l (fun k => { k with state := 2 }) else s)

/-- Lane sets of a width code, the lowest lanes first (R278). -/
def laneSets (w : Nat) : List Nat :=
  if w = 0 then [0xFF] else if w = 1 then [0x0F, 0xF0] else [0x03, 0x0C, 0x30, 0xC0]

/-- The widest allowed lane set that passes: width code and lanes. -/
def chooseLanes (passing : Nat) (least : Nat) : Option (Nat × Nat) :=
  (([0, 1, 2].filter (fun w => least ≤ w)).flatMap (fun w => (laneSets w).map (fun m => (w, m)))).find?
    (fun x => passing &&& x.2 == x.2)

/-- LINK_TRAIN_DONE (R278, R287): the lanes that pass in both directions and the peer's target width. -/
def execLinkTrainDone (l : LinkId) (passing : BitVec 8) (peerWidth : BitVec 2) (s : State) : Out :=
  let k := s.link l
  let least := max (max k.targetWidth.toNat k.asked.toNat) (min peerWidth.toNat 2)
  .next (if k.state ≠ 2 then s else
    match chooseLanes passing.toNat least with
    | none => s
    | some (w, m) => s.setLink l { k with state := 3, width := BitVec.ofNat 2 w, lanes := BitVec.ofNat 8 m })

/-- LINK_ALIGN_DONE (R287). -/
def execLinkAlignDone (l : LinkId) (s : State) : Out :=
  .next (if (s.link l).state = 3 then
    s.modLink l (fun k => { k with
      state := 4, peer := none, lastTs := none, paramSent := false, ctlTime := none, locked := true })
    else s)

/-- LINK_STATE_TIMEOUT (R287, R291). -/
def execLinkStateTimeout (l : LinkId) (s : State) : Out :=
  let k := s.link l
  let n := k.fails + 1
  .next (if k.state ≠ 2 ∧ k.state ≠ 3 ∧ k.state ≠ 4 then s
    else if k.trainRetry.toNat ≤ n then
      (s.setLink l { k with state := 9, fails := n, width := 3, lanes := 0, level := 0 }).log 0x0013 (srcLink l) k.state.toNat
        0 0 0
    else s.setLink l { k with state := 1, fails := n, width := 3, lanes := 0, level := 0 })

/-- DOWN_RETRAIN_TIMER (R287, R308): 100 µs in DOWN, or 10 µs after a reset. -/
def execDownRetrainTimer (l : LinkId) (s : State) : Out :=
  let k := s.link l
  .next (if k.state = 8 ∧ !k.leaving ∧ (k.autoRetrain ∨ k.afterReset) then s.toDetect l else s)

/-! Lock. -/

/-- States in which the receiver has found lock: PARAM, ACTIVE, STANDBY and HELD (R287). -/
def Link.aligned (k : Link) : Bool := decide (4 ≤ k.state.toNat) && decide (k.state.toNat ≤ 7)

/-- LOCK_LOST (R304). -/
def execLockLost (l : LinkId) (s : State) : Out :=
  .next (if (s.link l).aligned then s.modLink l (fun k => { k with locked := false }) else s)

/-- LOCK_REGAINED (R304). -/
def execLockRegained (l : LinkId) (s : State) : Out :=
  .next (if (s.link l).aligned ∧ !(s.link l).locked then
    s.modLink l (fun k => { k with locked := true, lockLoss := satAdd k.lockLoss 1 }) else s)

/-- LOCK_DOWN_TIMEOUT (R305). -/
def execLockDownTimeout (l : LinkId) (s : State) : Out :=
  .next (if (s.link l).locked then s else s.linkDown l 1 8)

/-! Enabling. -/

/-- Some link of a group is enabled. -/
def State.groupOn (s : State) (g : Fin 8) : Bool := (groupLinks g).any (fun l => (s.link l).enable)

/-- Domains 112 to 143 follow ENABLE; a group PLL stops with its last link (R472, R473). -/
def State.linkDomains (s : State) (l : LinkId) : State :=
  let g := groupOf l
  let d := s.domains.setIfInBounds (112 + l.val) (if (s.link l).enable then 0 else 2)
  let d := d.setIfInBounds (136 + g.val) (if s.groupOn g then 0 else 2)
  let k := if s.groupOn g then s.chip.groupLock else s.chip.groupLock &&& ~~~(1#8 <<< g.val)
  { s with domains := d, chip := { s.chip with groupLock := k } }

/-- No link of a group that awaits a new rate carries traffic any more: its PLL loses lock. -/
def State.relock (s : State) (g : Fin 8) : State :=
  if (s.link (headOf g)).rateTo.isSome ∧
      (groupLinks g).all (fun l => (s.link l).state != 5 && (s.link l).state != 6) then
    { s with chip := { s.chip with groupLock := s.chip.groupLock &&& ~~~(1#8 <<< g.val) } }
  else s

/-- ENABLE written 1: a DISABLED link enters DETECT where its group's PLL is locked, else once it is. -/
def State.enableLink (s : State) (l : LinkId) : State :=
  let was := (s.link l).enable
  let s := (s.modLink l (fun k => { k with enable := true })).linkDomains l
  if was = false ∧ (s.link l).state = 0 then s.toDetect l else s

/-- ENABLE written 0: DISABLED from any state, going down with reason DISABLE where it carries traffic. -/
def State.disableLink (s : State) (l : LinkId) : State :=
  let s := s.linkDown l 9 0
  let s := s.modLink l (fun k => { k with
    enable := false, state := 0, fails := 0, width := 3, lanes := 0, level := 0, leaving := false })
  ((((s.linkDomains l).resetDone l).leaveDone)).relock (groupOf l)

/-- LINK_ENABLE (R287, R311). -/
def execLinkEnable (l : LinkId) (s : State) : Out := .next (s.enableLink l)

/-- LINK_DISABLE (R287, R311). -/
def execLinkDisable (l : LinkId) (s : State) : Out := .next (s.disableLink l)

/-- The rate at which a group's PLL locks: GROUP_RATE at its first lock, later a new one only after a reset of
the group (R309, R311, Assumption 100). -/
def State.lockRate (s : State) (g : Fin 8) : BitVec 2 :=
  let k := s.link (headOf g)
  if k.rated then k.rateTo.getD k.rate else k.groupRate

/-- GROUP_PLL_LOCKED (R29, R287, R309): the rate of the group stands, and the enabled links that wait start
training. -/
def execGroupPllLocked (g : Fin 8) (s : State) : Out :=
  .next (if s.groupOn g = false ∨ s.chip.groupLock.getLsbD g.val ∨ s.chip.failedGroups.getLsbD g.val ∨
      s.replayed = false then s else
    let rate := s.lockRate g
    let s := s.modLink (headOf g) (fun k => { k with rated := true, rateTo := none })
    let s := { s with chip := { s.chip with groupLock := s.chip.groupLock ||| (1#8 <<< g.val) } }
    (groupLinks g).foldl (fun s l =>
      let s := s.modLink l (fun k => { k with rate := rate })
      let k := s.link l
      if k.state = 0 ∨ (k.state = 8 ∧ k.afterReset ∧ !k.leaving) then s.toDetect l else s) s)

/-! Resets (R308, R309). -/

/-- The RESET flit is queued and the link goes down. A HELD or FAILED link goes to DETECT (R287), or waits for
the group's new rate. -/
def State.resetNow (s : State) (l : LinkId) (width : Byte) (why : Nat) : State :=
  let k := s.link l
  (if k.state = 5 ∨ k.state = 6 then
    let s := s.modLink l (fun k => { k with
      resetTo := none, controls := k.controls ++ [.reset width (BitVec.ofNat 4 why)] })
    s.linkDown l why 8
  else if k.state = 0 then s.resetDone l
  else
    let s := s.setLink l { k with
      state := 8, reason := BitVec.ofNat 4 why, fails := 0, afterReset := true, lanes := 0,
      width := 3, controls := [] }
    let s := if (k.state = 7 ∨ k.state = 9) then s.toDetect l else s
    ((s.resetDone l).leaveDone)).relock (groupOf l)

/-- Begins the reset of one link; a graceful one first drains. -/
def State.startReset (s : State) (l : LinkId) (width : Byte) (why : Nat) (graceful : Bool) : State :=
  if graceful ∧ ((s.link l).state = 5 ∨ (s.link l).state = 6) then
    s.modLink l (fun k => { k with graceful := true, resetTo := some width, resetWhy := BitVec.ofNat 4 why })
  else s.resetNow l width why

/-- The LEAVE flit is queued and the link goes down and stays so. -/
def State.leaveNow (s : State) (l : LinkId) : State :=
  let k := s.link l
  if k.state = 0 then s
  else if k.state = 5 ∨ k.state = 6 then
    let s := s.modLink l (fun k => { k with leaving := true, controls := k.controls ++ [.leave] })
    s.linkDown l 7 8
  else s.setLink l { k with state := 8, reason := 7, leaving := true, lanes := 0, width := 3, controls := [] }

/-- Begins the leave of one link. -/
def State.startLeave (s : State) (l : LinkId) : State :=
  if (s.link l).state = 5 ∨ (s.link l).state = 6 then
    s.modLink l (fun k => { k with graceful := true, leaving := true })
  else s.leaveNow l

/-- GRACEFUL_DRAIN_DONE (R308): drained, or 100 µs are over. -/
def execGracefulDrainDone (l : LinkId) (s : State) : Out :=
  let k := s.link l
  .next (if k.graceful = false then s
    else if k.leaving then s.leaveNow l
    else s.resetNow l (k.resetTo.getD 8) k.resetWhy.toNat)

/-- A LINK_RESET is under way in a group (R435). -/
def State.groupResetting (s : State) (g : Fin 8) : Bool :=
  s.work.resets.any (fun x => groupOf x.2 == g) ||
  (groupLinks g).any (fun l => (s.link l).graceful && !(s.link l).leaving)

/-- The effect of LINK_RESET: the width, the rate of the group, and the links that are reset. -/
def State.linkReset (s : State) (l : LinkId) (width rate : Nat) (graceful : Bool) : State :=
  let s := if width = 0 then s else s.modLink l (fun k => { k with targetWidth := widthCode (BitVec.ofNat 8 width) })
  let asked (s : State) (x : LinkId) : Byte := BitVec.ofNat 8 (lanesOf (s.link x).targetWidth)
  let g := groupOf l
  let head := headOf g
  if rate = 3 then s.startReset l (asked s l) 5 graceful
  else
    let s := s.modLink head (fun k => { k with groupRate := BitVec.ofNat 2 rate })
    if (s.link head).rate = BitVec.ofNat 2 rate then s.startReset l (asked s l) 5 graceful else
    let s := s.modLink head (fun k => { k with rateTo := some (BitVec.ofNat 2 rate) })
    (groupLinks g).foldl (fun s x => s.startReset x (asked s x) (if x = l then 5 else 8) graceful) s

/-! Every link goes down at once (R348, R480). -/

def linkUp_ (k : Link) : Bool := k.state == 5 || k.state == 6

/-- Ends the open forwarded packets of a link with ABORT (R286); the flits sent for it, in order. -/
def State.abortOpen (s : State) (l : LinkId) : List Staged → State × List OutFlit
  | [] => (s, [])
  | m :: t =>
    if m.begun && m.inp.isSome then
      let s := s.sendData l { m with fl := [], fin := 2 }
      let (s', fs) := s.abortOpen l t
      (s', (s.link l).sent.toList ++ fs)
    else s.abortOpen l t

/-- What a link sends as the module goes down (R348, R480): the ends of its open packets, then its DOWN flit. -/
def State.lastFlits (s : State) (l : LinkId) : State × List OutFlit :=
  let (s, fs) := s.abortOpen l (s.link l).staging
  let s := s.sendControl l (.down 9)
  (s, fs ++ (s.link l).sent.toList)

def State.allLast (s : State) : List LinkId → State × List (LinkId × List OutFlit)
  | [] => (s, [])
  | l :: t =>
    let (s, fs) := s.lastFlits l
    let (s, r) := s.allLast t
    (s, (l, fs) :: r)

/-- Every link is disabled, with what each one sends for it. -/
def State.linksFall (s : State) : State × List (LinkId × List OutFlit) :=
  let (s, flits) := s.allLast ((List.finRange 24).filter (fun l => linkUp_ (s.link l)))
  ((List.finRange 24).foldl State.disableLink s, flits)

/-- The flits leave. -/
def State.putLast (s : State) (flits : List (LinkId × List OutFlit)) : State :=
  flits.foldl (fun s x => s.modLink x.1 (fun k => { k with
    before := x.2.dropLast, sent := x.2.getLast?, controls := [] })) s

end Sys2Proof.Machine
end

