-- ==== Sys2Proof/Machine/Power.lean ====
section
/-! DEFINITION. Clock points and core rails (R478, R479), and heat (R480, R501). -/

namespace Sys2Proof.Machine

/-! Clock points. -/

/-- The level of R480: the highest whose condition holds. -/
def Power.level (w : Power) : Nat :=
  if w.trip then 4 else if w.emg then 3 else if w.thr then 2 else if w.warn then 1 else 0

/-- The point a partition is to run at: the slower of POINT and CAP, CAP not for the safety partition, and
point 3 for every partition in level 3 (R478, R480). -/
def State.wanted (s : State) (p : PartId) : Nat :=
  let k := s.part p
  if s.power.emg then 3
  else if p = 0 ∧ s.safety then k.point.toNat
  else max k.point.toNat k.cap.toNat

/-- Puts the wanted point in force where it is slower, or where the rail already has its voltage (R479). -/
def State.settle (s : State) (p : PartId) : State :=
  let w := s.wanted p
  let k := s.part p
  if k.active.toNat ≤ w ∨ (s.power.rail[fieldOf p]).toNat ≤ w then
    s.setPart p { k with active := BitVec.ofNat 2 w }
  else s

def State.settleAll (s : State) : State := (List.finRange 12).foldl State.settle s

/-- A write of POINT (R478, R498). -/
def State.setPoint (s : State) (p : PartId) (x : BitVec 2) : State :=
  (s.modPart p (fun k => { k with point := x })).settle p

/-- DVFS_POINT_WRITE (R478). -/
def execDvfsPointWrite (p : PartId) (x : BitVec 2) (s : State) : Out := .next (s.setPoint p x)

/-- The fastest point wanted by the partitions of a field whose cores are ON; none where no core is ON. -/
def State.fastest (s : State) (f : Fin 4) : Option Nat :=
  (((List.finRange 12).filter (fun p => fieldOf p == f && (s.part p).sleepState == 0)).map s.wanted).min?

/-- RAIL_RAMP_DONE (R479): the rail has the voltage of that point. A field without a core that is ON keeps
its voltage. -/
def execRailRampDone (f : Fin 4) (s : State) : Out :=
  .next (match s.fastest f with
    | none => s
    | some n => ({ s with power := { s.power with rail := s.power.rail.set f (BitVec.ofNat 2 n) } }).settleAll)

/-! Heat. -/

/-- The hottest sensor, the lowest number of equals, and its reading. -/
def hottest (v : Vector (BitVec 8) 16) : Nat × Nat :=
  (List.finRange 16).foldl (fun b i => if b.2 < (v[i]).toNat then (i.val, (v[i]).toNat) else b) (0, (v[0]).toNat)

/-- A level's condition: begun at or above a limit, ended below it by 5 °C. -/
def holds_ (was : Bool) (t lim : Nat) : Bool := if was then decide (lim ≤ t + 5) else decide (lim ≤ t)

/-- The conditions after a reading. EMERGENCY ends by an event of its own. -/
def Power.read (w : Power) (sensors : Vector (BitVec 8) 16) (power : BitVec 12) (powerMs : Bool) : Power :=
  let t := (hottest sensors).2
  let hot := holds_ w.thr t w.throttleT.toNat
  let high := if w.thr then decide (w.limit.toNat ≤ power.toNat + 50) else powerMs && decide (w.limit.toNat < power.toNat)
  let thr := hot || high
  { w with
    sensors := sensors, power := power, warn := holds_ w.warn t w.warnT.toNat, thr := thr,
    emg := w.emg || decide (w.emergT.toNat ≤ t), trip := w.trip || decide (110 ≤ t),
    cool := (w.cool || w.thr) && !thr }

/-- Logs a change of level with the hottest sensor, or with the power where that alone raised it. -/
def State.logLevel (s : State) (old : Nat) : State :=
  let w := s.power
  if w.level = old then s else
  let h := hottest w.sensors
  if w.level = 2 ∧ old < 2 ∧ h.2 < w.throttleT.toNat then s.log 0x001F srcChip w.level 0 w.power.toNat 0
  else s.log 0x001F srcChip w.level h.1 h.2 0

/-- A partition at a trip: its step stops with FAULT and its cores are OFF. -/
def State.tripPart (s : State) (p : PartId) : State :=
  let s := if (s.part p).state = 2 then s.endWaiting p stFAULT 2 else s.stopStep p stFAULT 2
  s.modPart p (fun k => { k with sleepState := 2, waking := false })

/-- What a trip does (R480): every partition stops with FAULT, links go down as under R348, and every domain but
146 and 147 is OFF. -/
def State.tripped (s : State) : State :=
  let s : State := (List.finRange 12).foldl State.tripPart s
  let (s, flits) := s.linksFall
  { s.putLast flits with
    domains := Vector.ofFn (fun i : Fin 148 => if i.val < 146 then 2 else s.domains[i]),
    chip := { s.chip with partLock := 0, spineLock := 0, hostLock := 0, groupLock := 0 },
    ports := s.ports.map (fun h => { h with linkUp := false, modeActive := 3 }) }

/-- THERMAL_LEVEL_CHANGE (R480): new readings; `powerMs` says that the power has stood above LIMIT for 1 ms. -/
def execThermalLevelChange (sensors : Vector (BitVec 8) 16) (power : BitVec 12) (powerMs : Bool) (s : State) : Out :=
  let old := s.power.level
  .next (
    let s := { s with power := s.power.read sensors power powerMs }
    let s := s.logLevel old
    if s.power.trip ∧ old < 4 then s.tripped else s.settleAll)

/-- One point slower, or one point faster. -/
def Part.capStep (slower : Bool) (k : Part) : Part :=
  let n := k.cap.toNat
  { k with cap := BitVec.ofNat 2 (if slower then min 3 (n + 1) else n - 1) }

/-- THROTTLE_CAP_STEP (R480): each 1 ms while the condition of level 2 holds CAP goes one point down, each
10 ms after it one point up. -/
def execThrottleCapStep (s : State) : Out :=
  let w := s.power
  .next (if w.thr = false ∧ w.cool = false then s else
    let s := { s with parts := s.parts.map (Part.capStep w.thr) }
    let s := { s with power := { w with cool := w.cool && s.parts.any (fun k => k.cap != 0) } }
    s.settleAll)

/-- EMERGENCY_EXIT (R480): every sensor has been below EMERG_T − 5 for 10 ms. -/
def execEmergencyExit (s : State) : Out :=
  let w := s.power
  .next (if w.emg = false ∨ w.trip ∨ w.emergT.toNat ≤ (hottest w.sensors).2 + 5 then s else
    ({ s with power := { w with emg := false, thr := true, cool := false } }.logLevel 3).settleAll)

end Sys2Proof.Machine
end

