-- ==== Sys2Proof/Machine/RegsCore.lean ====
section
/-! DEFINITION. The registers of cores (R55, R56, R89 to R97, R129 to R132, R167 to R174, R196 to R198, R218
to R223, R244 to R246, R271, R272, R495) and of partitions (R247, R248, R273 to R276, R358, R359, R384 to
R388, R411 to R416, R496 to R498): what a read shows, what it clears, and what a write does. -/

namespace Sys2Proof.Machine

/-- A register word from its fields: (lowest bit, value). -/
def word32 (fs : List (Nat × Nat)) : BitVec 32 := BitVec.ofNat 32 ((fs.map (fun f => f.2 * 2 ^ f.1)).sum)

/-- Bits [lo + n − 1 : lo] of a register word. -/
def bits32 (w : BitVec 32) (lo n : Nat) : Nat := w.toNat / 2 ^ lo % 2 ^ n

/-- A value that a write of bits gives a register: the bits of the mask from the value written (R435). -/
def masked (old value mask : BitVec 32) : BitVec 32 := (old &&& ~~~mask) ||| (value &&& mask)

/-- A write of a timeout field of 20 bits outside 1 to 1,000,000 leaves it unchanged. -/
def timeout20 (old : BitVec 20) (w : BitVec 32) : BitVec 20 :=
  let n := bits32 w 0 20
  if 1 ≤ n ∧ n ≤ 1000000 then BitVec.ofNat 20 n else old

/-! Cores. -/

def statusWord (q : Queue) : BitVec 32 := word32 [(8, q.qpos.toNat), (0, q.state.toNat)]

def rejectWord (q : Queue) : BitVec 32 :=
  word32 [(31, q.rejValid.toNat), (24, q.rejReason.toNat), (0, q.rejQpos.toNat)]

/-- Two bits for each bank group. -/
def groupsWord (v : Vector (BitVec 2) 8) : Nat := ((List.finRange 8).map (fun g => (v[g]).toNat * 4 ^ g.val)).sum

/-- A group's state as shown: under ILV 0 every field shows that of group 0 (R220). -/
def Memory.shown (m : Memory) : Vector (BitVec 2) 8 := if m.ilv then m.bgState else Vector.replicate 8 m.bgState[0]

/-- KiB of held rows, a part counting as a whole one (R173). -/
def Core.holdKib (k : Core) : Nat :=
  (((k.regions.flatMap (·.held)).map (·.size)).sum + 1023) / 1024

/-- What a read of a core's register shows; none where no register is. `cc` gives the core's cycles since a
time. -/
def Core.reg (k : Core) (cc : BitVec 64 → Nat) (o : Nat) : Option (BitVec 32) :=
  let a := k.array
  let m := k.memory
  if o = 0x0200 then some (word32 [(16, a.rampNow (cc a.upAt)), (13, a.boundsStop.toNat),
      (12, (match a.shadow with
        | some (.tile _) => 1
        | _ => 0)), (11, (k.streaming && frozenAt a.passHolds (cc a.passAt)).toNat), (8, k.arrayState (cc a.upAt)), (6, a.active.sparse.toNat), (0, a.active.fmt.toNat)])
  else if o = 0x0204 then some (if k.streaming then
      word32 [(16, holdBits a.passHolds.drain (cc a.passAt)), (0, holdBits a.passHolds.feed (cc a.passAt))] else 0)
  else if o = 0x0208 then some (word32 [(0, a.slipLimit.toNat)])
  else if o = 0x020C then some a.passCount
  else if o = 0x0210 then some a.rowCount
  else if o = 0x0214 then some a.feedStall
  else if o = 0x0218 then some a.drainStall
  else if o = 0x021C then some a.frozen
  else if o = 0x0220 then some a.dummy
  else if o = 0x0224 then some (word32 [(0, a.held.length)])
  else if o = 0x0228 then some a.reuse
  else if o = 0x0300 then some (statusWord (k.queue 9))
  else if o = 0x0304 then some k.vec.issue
  else if o = 0x0308 then some k.vec.stall
  else if o = 0x030C then some (rejectWord (k.queue 9))
  else if 0x0400 ≤ o ∧ o < 0x0480 ∧ o % 16 = 0 then some (statusWord (k.queue (Fin.ofNat 10 ((o - 0x0400) / 16))))
  else if 0x0400 ≤ o ∧ o < 0x0480 ∧ o % 16 = 4 then some (rejectWord (k.queue (Fin.ofNat 10 ((o - 0x0400) / 16))))
  else if o = 0x0480 then some (word32 [(0, k.tags.length)])
  else if o = 0x0484 then some k.xferLate
  else if o = 0x0488 then some (word32 [(0, k.wc.length)])
  else if o = 0x0490 then some k.hashFalse
  else if o = 0x0494 then some k.indexFull
  else if o = 0x04A0 then some (word32 [(16, k.regions.length), (0, k.holdKib)])
  else if o = 0x04A4 then some k.muleDiscard
  else if o = 0x04B0 then some k.dispOverflow
  else if o = 0x04B4 then some k.dispResid
  else if o = 0x04B8 then some k.inflSkip
  else if o = 0x0500 then some (word32 [(16, m.scrub.toNat), (8, m.ilv.toNat), (0, m.cmode.toNat)])
  else if o = 0x0504 then some (word32 [(0, if m.ilv then groupsWord m.bgReq else (m.bgReq[0]).toNat)])
  else if o = 0x0508 then some (word32 [(16, m.zeroed.toNat), (0, groupsWord m.shown)])
  else if o = 0x050C then some m.eccCorr
  else if o = 0x0510 then some (word32 [(30, m.logSyms.toNat), (24, m.logPos.toNat), (20, m.logScrub.toNat),
      (0, m.logAddr.toNat)])
  else if o = 0x0514 then some (word32 [(31, m.unValid.toNat), (30, m.unScrub.toNat), (24, m.unSrc.toNat),
      (0, m.unAddr.toNat)])
  else if 0x0600 ≤ o ∧ o < 0x0680 ∧ o % 4 = 0 then
    let c := k.counter (BitVec.ofNat 5 ((o - 0x0600) / 4))
    some (word32 [(30, c.kind.toNat), (29, c.decl.toNat), (16, c.base.toNat), (0, c.count.toNat)])
  else if o = 0x0680 then some (word32 [(0, k.waitSlipLimit.toNat)])
  else if o = 0x0700 then some k.slip
  else if o = 0x0F00 then some (word32 [(31, k.fixedOrder.toNat), (0, k.flags.toNat)])
  else if o = 0x0F04 then some k.t2Bad
  else none

/-- What a read of a core's register clears (RC). -/
def Core.readClear (k : Core) (o : Nat) : Core :=
  let a := k.array
  if o = 0x020C then { k with array := { a with passCount := 0 } }
  else if o = 0x0210 then { k with array := { a with rowCount := 0 } }
  else if o = 0x0214 then { k with array := { a with feedStall := 0 } }
  else if o = 0x0218 then { k with array := { a with drainStall := 0 } }
  else if o = 0x021C then { k with array := { a with frozen := 0 } }
  else if o = 0x0220 then { k with array := { a with dummy := 0 } }
  else if o = 0x0228 then { k with array := { a with reuse := 0 } }
  else if o = 0x0304 then { k with vec := { k.vec with issue := 0 } }
  else if o = 0x0308 then { k with vec := { k.vec with stall := 0 } }
  else if o = 0x0484 then { k with xferLate := 0 }
  else if o = 0x0490 then { k with hashFalse := 0 }
  else if o = 0x0494 then { k with indexFull := 0 }
  else if o = 0x04A4 then { k with muleDiscard := 0 }
  else if o = 0x04B0 then { k with dispOverflow := 0 }
  else if o = 0x04B4 then { k with dispResid := 0 }
  else if o = 0x04B8 then { k with inflSkip := 0 }
  else if o = 0x050C then { k with memory := { k.memory with eccCorr := 0 } }
  else if o = 0x0700 then { k with slip := 0 }
  else if o = 0x0F04 then { k with t2Bad := 0 }
  else k

/-- A write of 1 to VALID clears a queue's record (R132, R168). -/
def Core.clearReject (k : Core) (q : QueueId) (one : BitVec 32) : Core :=
  if one.getLsbD 31 then { k with queues := k.queues.set q { k.queue q with
    rejValid := false, rejReason := 0, rejQpos := 0 } } else k

/-- What a write does to a core's register other than CORE_BG_CTRL. `v` is the masked value, `one` the bits
written as 1. -/
def Core.writeReg (k : Core) (o : Nat) (v one : BitVec 32) : Core :=
  if o = 0x0208 then { k with array := { k.array with slipLimit := v.setWidth 16 } }
  else if o = 0x030C then k.clearReject 9 one
  else if 0x0400 ≤ o ∧ o < 0x0480 ∧ o % 16 = 4 then k.clearReject (Fin.ofNat 10 ((o - 0x0400) / 16)) one
  else if o = 0x0500 then { k with memory := { k.memory with
      scrub := v.extractLsb' 16 8, cmode := if bits32 v 0 2 < 2 then v.setWidth 2 else k.memory.cmode } }
  else if o = 0x0508 then { k with memory := { k.memory with
      zeroed := k.memory.zeroed &&& ~~~(one.extractLsb' 16 8) } }
  else if o = 0x0514 ∧ one.getLsbD 31 then { k with memory := { k.memory with
      unValid := false, unScrub := false, unSrc := 0, unAddr := 0 } }
  else if o = 0x0680 then { k with waitSlipLimit := v.setWidth 16 }
  else if o = 0x0F00 then { k with flags := k.flags &&& ~~~(one.setWidth 7) }
  else k

/-- A write to a core's register. In CORE_BG_CTRL each group whose bits are written takes its request
(R219). -/
def State.writeCoreReg (s : State) (c : CoreId) (o : Nat) (old value mask : BitVec 32) : State :=
  let v := masked old value mask
  if o = 0x0504 then
    (List.finRange 8).foldl (fun s g =>
      if bits32 mask (2 * g.val) 2 = 0 then s else s.bgRequest c g (BitVec.ofNat 2 (bits32 v (2 * g.val) 2))) s
  else s.modCore c (fun k => k.writeReg o v (value &&& mask))

/-! Partitions. -/

/-- STOPPED or EMPTY (R366). -/
def Part.halted (k : Part) : Bool := decide (k.state.toNat < 2)

/-- Descriptors free in the pool (R416). -/
def Part.freeCount (k : Part) : Nat := k.ndesc.toNat - k.used.length

def Part.srvCtrl (k : Part) : BitVec 32 :=
  word32 [(30, k.srvMode.toNat), (29, k.runEmpty.toNat), (12, k.maxRows.toNat), (0, k.hold.toNat)]

def Program.statusBits (g : Program) : List (Nat × Nat) :=
  [(31, 1), (30, g.fixedOrder.toNat), (29, g.ilv.toNat), (24, g.ncores.toNat), (16, g.level.toNat),
   (15, g.c0use.toNat), (0, g.flock.toNat)]

/-- What a read of a partition's register shows. -/
def State.partReg (s : State) (p : PartId) (o : Nat) : Option (BitVec 32) :=
  let k := s.part p
  if o = 0x0000 then some (word32 [(31, (s.safety && p == 0).toNat), (24, k.cause.toNat), (16, k.state.toNat),
      (0, k.steps.toNat)])
  else if o = 0x0004 then some (word32 [(12, k.owner.toNat), (0, k.flock.toNat)])
  else if o = 0x0008 then some (word32 [(0, k.senders.toNat)])
  else if o = 0x0010 then some (word32 [(8, k.c0Period.toNat), (0, k.c0Burst.toNat)])
  else if o = 0x0014 then some (word32 [(16, k.c0Over.toNat), (0, k.c0Max.toNat)])
  else if o = 0x0C00 then some (k.barTimeout.setWidth 32)
  else if o = 0x0C04 then some k.barExpired
  else if o = 0x0C08 then some (k.wdTimeout.setWidth 32)
  else if o = 0x0C0C then some k.wdExpired
  else if o = 0x0C10 then some (word32 ((28, k.strideHold.toNat) :: (match k.prog with
      | some g => g.statusBits
      | none => [])))
  else if o = 0x0C14 then some (match k.prog with
      | some g => g.digestLow
      | none => 0)
  else if o = 0x0C18 then some (k.rmtTimeout.setWidth 32)
  else if o = 0x0C1C then some (k.portNeed.setWidth 32)
  else if o = 0x0D00 then some k.srvCtrl
  else if o = 0x0D04 then some (k.ndesc.setWidth 32)
  else if o = 0x0D08 then some (word32 [(16, k.countState (· == .queued)),
      (0, k.countState (fun x => x == .active || x == .cancelling))])
  else if o = 0x0D0C then some (word32 [(16, k.lastRun.toNat), (0, k.lastAllot.toNat)])
  else if o = 0x0D10 then some (word32 [(24, k.doneLate.toNat), (16, k.doneCancel.toNat), (8, k.doneBudget.toNat),
      (0, k.doneExpired.toNat)])
  else if o = 0x0D14 then some (word32 [(0, k.freeCount)])
  else if o = 0x0E00 then some k.slip
  else if o = 0x0E04 then some (word32 [(31, k.sleepRet.toNat), (30, k.sleepOff.toNat), (0, k.idleTime.toNat)])
  else if o = 0x0E08 then some (word32 [(8, k.active.toNat), (4, k.cap.toNat), (0, k.point.toNat)])
  else none

/-- What a read of a partition's register clears (RC). -/
def Part.readClear (k : Part) (o : Nat) : Part :=
  if o = 0x0014 then { k with c0Over := 0, c0Max := 0 }
  else if o = 0x0C04 then { k with barExpired := 0 }
  else if o = 0x0C0C then { k with wdExpired := 0 }
  else if o = 0x0D10 then { k with doneLate := 0, doneCancel := 0, doneBudget := 0, doneExpired := 0 }
  else if o = 0x0E00 then { k with slip := 0 }
  else k

/-- PART_SRV_CTRL takes a value (R411). -/
def Part.setSrvCtrl (k : Part) (v : BitVec 32) : Part :=
  { k with
    srvMode := if bits32 v 30 2 = 3 then k.srvMode else v.extractLsb' 30 2, runEmpty := v.getLsbD 29,
    maxRows := if bits32 v 12 12 = 0 then k.maxRows else v.extractLsb' 12 12,
    hold := if bits32 v 0 12 = 0 then k.hold else v.setWidth 12 }

/-- PART_SRV_KV takes a value; indices in use stay so (R399, R412). -/
def Part.setSrvKv (k : Part) (v : BitVec 32) : Part :=
  if 65535 < bits32 v 0 17 then k else { k with ndesc := v.setWidth 17 }

/-- The write is refused with BUSY: settings of a partition that is not stopped (R359, R394, R412). -/
def Part.busyReg (k : Part) (o : Nat) (mask : BitVec 32) : Bool :=
  !k.halted && (o == 0x0C1C || o == 0x0D04 || (o == 0x0D00 && mask &&& 0xC0FFF000 != 0))

/-- What a write does to a partition's register. -/
def State.writePartReg (s : State) (p : PartId) (o : Nat) (v : BitVec 32) : State :=
  if o = 0x0E08 then s.setPoint p (v.setWidth 2)
  else s.modPart p (fun k =>
    if o = 0x0010 then
      let n := if 1 ≤ bits32 v 0 3 ∧ bits32 v 0 3 ≤ 4 then v.setWidth 3 else k.c0Burst
      { k with
        c0Period := if bits32 v 8 16 = 0 then k.c0Period else v.extractLsb' 8 16,
        c0Burst := n, c0Tokens := min k.c0Tokens n.toNat }
    else if o = 0x0C00 then { k with barTimeout := timeout20 k.barTimeout v }
    else if o = 0x0C08 then { k with wdTimeout := timeout20 k.wdTimeout v }
    else if o = 0x0C18 then { k with rmtTimeout := timeout20 k.rmtTimeout v }
    else if o = 0x0C1C then { k with portNeed := v.setWidth 24 }
    else if o = 0x0D00 then k.setSrvCtrl v
    else if o = 0x0D04 then k.setSrvKv v
    else if o = 0x0E04 then { k with
      sleepRet := v.getLsbD 31, sleepOff := v.getLsbD 30, idleTime := timeout20 k.idleTime v }
    else k)

end Sys2Proof.Machine
end

