-- ==== Sys2Proof/Machine/RegsFabric.lean ====
section
/-! DEFINITION. The registers of links (R311 to R322) and of the routing unit (R350 to R357, R389). -/

namespace Sys2Proof.Machine

/-! Links. -/

def headLink (l : LinkId) : LinkId := Fin.ofNat 24 (3 * (l.val / 3))

/-- Four bytes of a register of pools, class 3 highest (R315, R316). -/
def poolsWord (v : Vector (BitVec 8) 4) : BitVec 32 :=
  word32 [(24, (v[3]).toNat), (16, (v[2]).toNat), (8, (v[1]).toNat), (0, (v[0]).toNat)]

/-- What a read of a link's register shows. -/
def State.linkReg (s : State) (l : LinkId) (o : Nat) : Option (BitVec 32) :=
  let k := s.link l
  let up := k.state == 5 || k.state == 6
  if o = 0x000 then some (word32 [(31, k.enable.toNat), (30, k.autoRetrain.toNat), (24, k.targetWidth.toNat),
      (22, (s.link (headLink l)).groupRate.toNat), (16, k.trainRetry.toNat), (8, k.port.toNat)])
  else if o = 0x004 then some (word32 [(28, k.state.toNat), (26, k.width.toNat), (24, k.rate.toNat),
      (16, k.lanes.toNat), (12, k.reason.toNat), (10, k.level.toNat), (0, k.rtt.toNat)])
  else if o = 0x008 then some (k.downTime.setWidth 32)
  else if o = 0x00C then some (word32 [(24, k.replayLimit.toNat), (12, k.replayTimeout.toNat), (0, k.nakRepeat.toNat)])
  else if o = 0x010 then some (poolsWord k.rxData)
  else if o = 0x014 then some (poolsWord k.rxHdr)
  else if 0x020 ≤ o ∧ o < 0x030 ∧ o % 4 = 0 then
    let c := (o - 0x020) / 4
    some (if up then word32 [(16, k.credit (Fin.ofNat 8 (2 * c + 1))), (0, k.credit (Fin.ofNat 8 (2 * c)))] else 0)
  else if o = 0x030 then some (word32 [(16, k.replay.length), (0, k.reorder.length)])
  else if o = 0x040 then some k.replayCount
  else if o = 0x044 then some k.fecCorr
  else if o = 0x048 then some (word32 [(24, k.fecUncorr.toNat), (16, k.badFlit.toNat), (8, k.dup.toNat),
      (0, k.goback.toNat)])
  else if o = 0x04C then some (word32 [(16, k.downs.toNat), (0, k.lockLoss.toNat)])
  else none

/-- What a read of a link's register clears (RC). -/
def Link.readClear (k : Link) (o : Nat) : Link :=
  if o = 0x040 then { k with replayCount := 0 }
  else if o = 0x044 then { k with fecCorr := 0 }
  else if o = 0x048 then { k with fecUncorr := 0, badFlit := 0, dup := 0, goback := 0 }
  else if o = 0x04C then { k with downs := 0, lockLoss := 0 }
  else k

/-- Links that share a PORT value, but for one. -/
def State.portCount (s : State) (l : LinkId) (port : Nat) : Nat :=
  ((List.finRange 24).filter (fun m => m != l && (s.link m).port.toNat == port)).length

/-- LNK_CTRL takes a value but for ENABLE (R310, R311). -/
def State.writeLnkCtrl (s : State) (l : LinkId) (v : BitVec 32) : State :=
  let w := bits32 v 24 2
  let r := bits32 v 22 2
  let t := bits32 v 16 4
  let p := bits32 v 8 5
  let k := s.link l
  s.setLink l { k with
    autoRetrain := v.getLsbD 30,
    targetWidth := if w = 3 then k.targetWidth else BitVec.ofNat 2 w,
    groupRate := if r = 3 ∨ l ≠ headLink l then k.groupRate else BitVec.ofNat 2 r,
    trainRetry := if t = 0 then k.trainRetry else BitVec.ofNat 4 t,
    port := if 24 ≤ p ∨ 12 ≤ s.portCount l p then k.port else BitVec.ofNat 5 p }

def fourBytes (v : BitVec 32) : Vector (BitVec 8) 4 :=
  #v[v.extractLsb' 0 8, v.extractLsb' 8 8, v.extractLsb' 16 8, v.extractLsb' 24 8]

/-- LNK_RX_DATA and LNK_RX_HDR: a write out of bounds leaves the register as it is (R315, R316). -/
def poolsAfter (old : Vector (BitVec 8) 4) (v : BitVec 32) (least most : Nat) : Vector (BitVec 8) 4 :=
  let n := (fourBytes v).toList.map (·.toNat)
  if n.any (· < least) = true ∨ most < n.sum then old else fourBytes v

/-- What a write does to a link's register; a change of ENABLE enables or disables the link. -/
def State.writeLinkReg (s : State) (l : LinkId) (o : Nat) (v mask : BitVec 32) : State :=
  if o = 0x000 then
    let s := s.writeLnkCtrl l v
    if mask.getLsbD 31 then (if v.getLsbD 31 then s.enableLink l else s.disableLink l) else s
  else s.modLink l (fun k =>
    if o = 0x008 then
      let n := bits32 v 0 17
      if 10 ≤ n ∧ n ≤ 100000 then { k with downTime := v.setWidth 17 } else k
    else if o = 0x00C then { k with
      replayLimit := if bits32 v 24 8 = 0 then k.replayLimit else v.extractLsb' 24 8,
      replayTimeout := if bits32 v 12 12 = 0 then k.replayTimeout else v.extractLsb' 12 12,
      nakRepeat := if bits32 v 0 12 = 0 then k.nakRepeat else v.setWidth 12 }
    else if o = 0x010 then { k with rxData := poolsAfter k.rxData v 9 255 }
    else if o = 0x014 then { k with rxHdr := poolsAfter k.rxHdr v 2 256 }
    else k)

/-! The routing unit. -/

/-- An entry pair of a bank: the entry of chip 2d in bits [7:0], that of 2d + 1 in bits [23:16] (R357). -/
def Router.pair (r : Router) (b d : Nat) : BitVec 32 :=
  word32 [(16, (r.entry b (2 * d + 1)).toNat), (0, (r.entry b (2 * d)).toNat)]

def Plan.word (e : Plan) : BitVec 32 :=
  word32 [(31, e.valid.toNat), (30, e.remap.toNat), (28, e.tier.toNat), (27, e.checkSlot.toNat),
    (22, e.peerSlot.toNat), (15, e.peerLink.toNat), (0, e.peerChip.toNat)]

def Plan.disc (e : Plan) : BitVec 32 :=
  word32 [(28, e.outcome.toNat), (26, e.dLevel.toNat), (19, e.dSlot.toNat), (14, e.dLink.toNat), (0, e.dChip.toNat)]

/-- Four weights of partitions 4k to 4k + 3 of a set (R354). -/
def Router.shareWord (r : Router) (set k : Nat) : BitVec 32 :=
  let w (i : Nat) : Nat := ((r.shares[12 * set + 4 * k + i]?).getD 0).toNat
  word32 [(24, w 3), (16, w 2), (8, w 1), (0, w 0)]

/-- What a read of a routing-unit register shows. -/
def Router.reg (r : Router) (o : Nat) : Option (BitVec 32) :=
  if o = 0x0000 then some (word32 [(16, r.missing.toNat), (8, r.phaseRes.toNat), (4, r.rounds.toNat),
      (0, r.stamp.toNat)])
  else if o = 0x0004 then some (word32 [(4, r.round.toNat), (2, (r.bank[1]).toNat), (0, (r.bank[0]).toNat)])
  else if o = 0x0008 then some (word32 [(24, r.noroute.toNat), (16, r.epoch.toNat), (8, r.badhdr.toNat),
      (0, r.notice.toNat)])
  else if o = 0x000C then some (word32 [(16, r.spineBurst.toNat), (0, r.spineShare.toNat)])
  else if 0x0100 ≤ o ∧ o < 0x0160 ∧ o % 4 = 0 then
    let c := (r.ports[(o - 0x0100) / 4]?).getD {}
    some (word32 [(24, c.c3Weight.toNat), (14, c.c0Burst.toNat), (0, c.c0Share.toNat)])
  else if 0x0200 ≤ o ∧ o < 0x0390 ∧ o % 4 = 0 ∧ o % 16 ≠ 12 then
    some (r.shareWord ((o - 0x0200) / 16) (o % 16 / 4))
  else if 0x0400 ≤ o ∧ o < 0x04C0 ∧ o % 8 = 0 then some ((r.plans[(o - 0x0400) / 8]?).getD {}).word
  else if 0x0400 ≤ o ∧ o < 0x04C0 ∧ o % 8 = 4 then some ((r.plans[(o - 0x0400) / 8]?).getD {}).minRom
  else if 0x0600 ≤ o ∧ o < 0x06C0 ∧ o % 8 = 0 then some ((r.plans[(o - 0x0600) / 8]?).getD {}).disc
  else if 0x0600 ≤ o ∧ o < 0x06C0 ∧ o % 8 = 4 then some ((r.plans[(o - 0x0600) / 8]?).getD {}).dRom
  else if 0x10000 ≤ o ∧ o < 0x20000 ∧ o % 4 = 0 then some (r.pair ((o - 0x10000) / 0x8000) ((o % 0x8000) / 4))
  else none

/-- What a read of a routing-unit register clears (RC). -/
def Router.readClear (r : Router) (o : Nat) : Router :=
  if o = 0x0008 then { r with noroute := 0, epoch := 0, badhdr := 0, notice := 0 } else r

/-- A bank takes no writes: ACTIVE or DRAINING (R327). -/
def Router.locked (r : Router) (b : Nat) : Bool := 2 ≤ ((r.bank[b % 2]!).toNat)

/-- One entry of a bank (R326): TYPE and PORT. -/
def Router.setEntry (r : Router) (b chip : Nat) (e : BitVec 8) : Router :=
  let b : Fin 2 := Fin.ofNat 2 b
  { r with table := r.table.set b (smSet r.table[b] chip (e &&& 0xDF)) }

/-- A write of an entry pair (R357). -/
def Router.setPair (r : Router) (b d : Nat) (v : BitVec 32) : Router :=
  (r.setEntry b (2 * d) (v.setWidth 8)).setEntry b (2 * d + 1) (v.extractLsb' 16 8)

/-- RTE_PLAN takes a value (R355). -/
def Plan.take (e : Plan) (v : BitVec 32) : Plan :=
  { e with
    valid := v.getLsbD 31, remap := v.getLsbD 30,
    tier := if bits32 v 28 2 = 3 then e.tier else v.extractLsb' 28 2, checkSlot := v.getLsbD 27,
    peerSlot := v.extractLsb' 22 5,
    peerLink := if 24 ≤ bits32 v 15 5 then e.peerLink else v.extractLsb' 15 5,
    peerChip := if bits32 v 0 14 = 0x3FFF then e.peerChip else v.setWidth 14 }

/-- RTE_PORT takes a value (R353). -/
def PortCfg.take (c : PortCfg) (v : BitVec 32) : PortCfg :=
  { c3Weight := v.extractLsb' 24 8,
    c0Burst := if bits32 v 14 10 < 17 then c.c0Burst else v.extractLsb' 14 10,
    c0Share := if 64 < bits32 v 0 7 then c.c0Share else v.setWidth 7 }

def Router.setShares (r : Router) (set k : Nat) (v : BitVec 32) : Router :=
  let f (x : Vector (BitVec 8) 300) (i : Nat) := x.setIfInBounds (12 * set + 4 * k + i) (v.extractLsb' (8 * i) 8)
  { r with shares := (List.range 4).foldl f r.shares }

/-- What a write does to a routing-unit register, but for the check of R341 that follows a plan write. -/
def Router.writeReg (r : Router) (o : Nat) (v : BitVec 32) : Router :=
  if o = 0x0000 then { r with
    missing := if bits32 v 16 8 = 0 then r.missing else v.extractLsb' 16 8, phaseRes := v.getLsbD 8,
    rounds := if bits32 v 4 3 = 0 then r.rounds else v.extractLsb' 4 3 }
  else if o = 0x000C then { r with
    spineBurst := if bits32 v 16 8 < 4 then r.spineBurst else v.extractLsb' 16 8,
    spineShare := if 64 < bits32 v 0 7 then r.spineShare else v.setWidth 7 }
  else if 0x0100 ≤ o ∧ o < 0x0160 then
    { r with ports := r.ports.setIfInBounds ((o - 0x0100) / 4) (((r.ports[(o - 0x0100) / 4]?).getD {}).take v) }
  else if 0x0200 ≤ o ∧ o < 0x0390 then r.setShares ((o - 0x0200) / 16) (o % 16 / 4) v
  else if 0x0400 ≤ o ∧ o < 0x04C0 then
    let e := (r.plans[(o - 0x0400) / 8]?).getD {}
    let e := if o % 8 = 0 then e.take v else { e with minRom := v }
    { r with plans := r.plans.setIfInBounds ((o - 0x0400) / 8) e }
  else if 0x10000 ≤ o ∧ o < 0x20000 then r.setPair ((o - 0x10000) / 0x8000) ((o % 0x8000) / 4) v
  else r

/-- A routing-unit write, with the check of a plan entry's link (R341). -/
def State.writeRteReg (s : State) (o : Nat) (v : BitVec 32) : State :=
  let s := s.modRte (fun r => r.writeReg o v)
  if 0x0400 ≤ o ∧ o < 0x04C0 then s.recheck (Fin.ofNat 24 ((o - 0x0400) / 8)) else s

/-- RTE_PLAN_WRITE (R341, R355). -/
def execRtePlanWrite (l : LinkId) (value mask : BitVec 32) (s : State) : Out :=
  .next (s.writeRteReg (0x0400 + 8 * l.val) (masked (s.rte.plans[l]).word value mask))

/-- RTE_TABLE_WRITE (R327, R357): an ACTIVE or DRAINING bank is left as it is (BUSY). -/
def execRteTableWrite (b : Fin 2) (d : Fin 8192) (value mask : BitVec 32) (s : State) : Out :=
  .next (if s.rte.locked b.val then s else
    s.writeRteReg (0x10000 + 0x8000 * b.val + 4 * d.val) (masked (s.rte.pair b.val d.val) value mask))

end Sys2Proof.Machine
end

