-- ==== Sys2Proof/Machine/HostOps.lean ====
section
/-! DEFINITION. The host ports as Ethernet and IEEE 1588 ports (R417 to R419, R441, R442, R445, R472,
R473). -/

namespace Sys2Proof.Machine

/-! Mode and enable. -/

/-- MODE takes a value: a change retrains the port (R417). -/
def State.setMode (s : State) (h : PortId) (m : BitVec 2) : State :=
  if m = 3 ∨ (s.port h).mode = m then s
  else s.modPort h (fun k => { k with mode := m, linkUp := false, modeActive := 3 })

/-- HOST_MODE_WRITE (R417). -/
def execHostModeWrite (h : PortId) (m : BitVec 2) (s : State) : Out := .next (s.setMode h m)

/-- PTP_EN written 1 selects a port and leaves the other without (R419); written 0 clears it. -/
def State.setPtpEn (s : State) (h : PortId) (en : Bool) : State :=
  let off (k : HostPort) : HostPort := { k with ptpEn := false, ptpLock := false, ptpT1T2 := none, ptpSync := none }
  if en then (s.modPort (1 - h) off).modPort h (fun k => { k with ptpEn := true })
  else s.modPort h off

/-- HOST_PTP_EN_WRITE (R419). -/
def execHostPtpEnWrite (h : PortId) (s : State) : Out := .next (s.setPtpEn h true)

/-- ENABLE takes a value: the port's domain and its PLL follow (R441, R472, R473). -/
def State.setEnable (s : State) (h : PortId) (en : Bool) : State :=
  let was := (s.port h).enable
  let b : BitVec 2 := 1#2 <<< h.val
  let s := s.modPort h (fun k => { k with
    enable := en, linkUp := k.linkUp && en && was, modeActive := if en && was then k.modeActive else 3 })
  { s with
    domains := s.domains.setIfInBounds (144 + h.val) (if en then 0 else 2),
    chip := { s.chip with hostLock := if en then s.chip.hostLock ||| b else s.chip.hostLock &&& ~~~b } }

/-- HOST_ENABLE_WRITE (R441). -/
def execHostEnableWrite (h : PortId) (en : Bool) (s : State) : Out := .next (s.setEnable h en)

/-- The port receives and sends. -/
def State.portOn (s : State) (h : PortId) : Bool := (s.port h).enable && (s.port h).linkUp

/-- PCS_ALIGNED (R442). -/
def execPcsAligned (h : PortId) (s : State) : Out :=
  .next (if (s.port h).enable ∧ s.domains[144 + h.val]! = 0 then
    s.modPort h (fun k => { k with linkUp := true, modeActive := k.mode }) else s)

/-- PCS_ALIGNMENT_LOST (R442). -/
def execPcsAlignmentLost (h : PortId) (s : State) : Out := .next (s.modPort h (fun k => { k with linkUp := false }))

/-! Precision time (R419). -/

/-- A signed count of nanoseconds, saturated to 32 bits (R445). -/
def clamp32 (i : Int) : BitVec 32 := BitVec.ofInt 32 (max (-(2 : Int) ^ 31) (min i ((2 : Int) ^ 31 - 1)))

/-- The port carries IEEE 1588 in the domain of a message. -/
def State.ptpOn (s : State) (h : PortId) (domain : Byte) : Bool :=
  s.portOn h && (s.port h).ptpEn && (s.port h).domain == domain

/-- PTP_SYNC (R419): a one-step Sync carries its own time T1, a two-step one has it in its FOLLOW_UP. -/
def execPtpSync (h : PortId) (domain : Byte) (twoStep : Bool) (seq : BitVec 16) (t1 t2 : BitVec 64) (s : State) : Out :=
  .next (if s.ptpOn h domain = false then s else
    s.modPort h (fun k =>
      if twoStep then { k with ptpSync := some (seq, t2) } else { k with ptpSync := none, ptpT1T2 := some (t1, t2) }))

/-- PTP_FOLLOW_UP (R419). -/
def execPtpFollowUp (h : PortId) (domain : Byte) (seq : BitVec 16) (t1 : BitVec 64) (s : State) : Out :=
  .next (if s.ptpOn h domain = false then s else
    match (s.port h).ptpSync with
    | some (n, t2) => if n = seq then
        s.modPort h (fun k => { k with ptpSync := none, ptpT1T2 := some (t1, t2) }) else s
    | none => s)

/-- The offset from the master by the delay request-response mechanism. -/
def ptpOffset (t1 t2 t3 t4 : BitVec 64) : Int :=
  ((t2.toNat : Int) - t1.toNat - ((t4.toNat : Int) - t3.toNat)) / 2

/-- An offset above 1 µs is corrected by a step, a smaller one by a slew (R419). -/
def State.discipline (s : State) (off : Int) : State :=
  if 1000 < off.natAbs then { s with time := s.time - BitVec.ofInt 64 off, work := { s.work with slew := 0 } }
  else { s with work := { s.work with slew := off, slewTick := 0 } }

/-- One nanosecond of module time passes; a slew takes a nanosecond in every 10,000, which is 100 ppm. -/
def State.tick (s : State) : State :=
  let w := s.work
  if w.slew = 0 then { s with time := s.time + 1 }
  else if w.slewTick + 1 < 10000 then { s with time := s.time + 1, work := { w with slewTick := w.slewTick + 1 } }
  else if 0 < w.slew then { s with work := { w with slew := w.slew - 1, slewTick := 0 } }
  else { s with time := s.time + 2, work := { w with slew := w.slew + 1, slewTick := 0 } }

/-- PTP_DELAY_RESP (R419): the offset is measured, shown, and corrected. -/
def execPtpDelayResp (h : PortId) (domain : Byte) (t3 t4 : BitVec 64) (s : State) : Out :=
  .next (if s.ptpOn h domain = false then s else
    match (s.port h).ptpT1T2 with
    | none => s
    | some (t1, t2) =>
      let off := ptpOffset t1 t2 t3 t4
      let s := s.modPort h (fun k => { k with ptpLock := true, ptpOffset := clamp32 off, ptpT1T2 := none })
      let s := { s with work := { s.work with lockedOnce := true } }
      s.discipline off)

/-- PTP_SYNC_TIMEOUT (R419): the time runs free. -/
def execPtpSyncTimeout (s : State) : Out :=
  .next { s with ports := s.ports.map (fun k => { k with ptpLock := false }) }

end Sys2Proof.Machine
end

