-- ==== Sys2Proof/Machine/Regs.lean ====
section
/-! DEFINITION. The control registers of a chip by address (R11 to R13): the blocks of the chip, the host
ports, the power domains, the security island and the debug block (R441 to R445, R466 to R469, R499 to
R511, R521, R522), and reads and writes of any register (R369, R370, R435). -/

namespace Sys2Proof.Machine

/-- The block of an address and the offset in it (R11). -/
inductive Block where
  | chip
  | part (p : PartId)
  | core (c : CoreId)
  | link (l : LinkId)
  | rte
  | host (h : PortId)
  | pwr
  | sec
  | dbg
  | none
  deriving DecidableEq, Repr

def blockOf (a : Nat) : Block × Nat :=
  let lo := a % 0x10000
  if a < 0x10000 then (.chip, a)
  else if 0x100000 ≤ a ∧ a < 0x1C0000 then (.part (partOfNat ((a - 0x100000) / 0x10000)), lo)
  else if 0x1000000 ≤ a ∧ a < 0x1600000 then (.core (coreOfNat ((a - 0x1000000) / 0x10000)), lo)
  else if 0x2000000 ≤ a ∧ a < 0x2018000 then (.link (Fin.ofNat 24 ((a - 0x2000000) / 0x1000)), a % 0x1000)
  else if 0x2100000 ≤ a ∧ a < 0x2120000 then (.rte, a - 0x2100000)
  else if 0x3000000 ≤ a ∧ a < 0x3020000 then (.host (Fin.ofNat 2 ((a - 0x3000000) / 0x10000)), lo)
  else if 0x4000000 ≤ a ∧ a < 0x4010000 then (.pwr, lo)
  else if 0x5000000 ≤ a ∧ a < 0x5010000 then (.sec, lo)
  else if 0x6000000 ≤ a ∧ a < 0x6100000 then (.dbg, a - 0x6000000)
  else (.none, 0)

/-! Reads. -/

/-- ALERT_SRC (R521). -/
def State.alertSrc (s : State) : Nat :=
  (decide (s.chip.fault ≠ 0)).toNat + 2 * (decide (s.chip.hpState = 2)).toNat + 4 * (decide (1 ≤ s.power.level)).toNat

def State.chipReg (s : State) (o : Nat) : Option (BitVec 32) :=
  let k := s.chip
  if o = 0x10 then some (word32 [(31, k.warm.toNat), (30, k.unclaimed.toNat), (28, k.ownerSlot.toNat),
      (26, k.vendorCopy.toNat), (20, k.step.toNat), (16, k.fault.toNat), (4, k.autoFail.toNat)])
  else if o = 0x14 then some (word32 [(30, k.hpState.toNat), (29, k.attnMode.toNat), (0, k.hpTimeout.toNat)])
  else if o = 0x18 then some (word32 [(31, k.refExt.toNat), (24, k.hostLock.toNat), (20, k.spineLock.toNat),
      (12, k.groupLock.toNat), (0, k.partLock.toNat)])
  else if o = 0x1C then some (word32 [(8, s.alertSrc), (7, k.refValid.toNat), (6, (!k.resetLow).toNat),
      (5, (!k.attnLow).toNat), (0, k.slotId.toNat)])
  else none

/-- Accepted commands of a port that have not completed (R442). -/
def HostPort.outstanding (k : HostPort) : Nat := ((k.sessions.map (fun x => x.running.length)).sum) + k.orphans.length

def HostPort.reg (k : HostPort) (o : Nat) : Option (BitVec 32) :=
  if o = 0x0 then some (word32 [(30, k.mode.toNat), (29, k.enable.toNat), (28, k.ptpEn.toNat), (24, k.encap.toNat),
      (16, k.domain.toNat), (0, k.udpPort.toNat)])
  else if o = 0x4 then some (word32 [(31, k.linkUp.toNat), (29, k.modeActive.toNat), (28, k.ptpLock.toNat),
      (16, k.sessions.length), (0, k.outstanding)])
  else if o = 0x8 then some (word32 [(24, k.dropTag.toNat), (16, k.dropSeq.toNat), (8, k.dropFormat.toNat),
      (0, k.dropBuffer.toNat)])
  else if o = 0xC then some (k.idle.setWidth 32)
  else if o = 0x10 then some (if k.ptpEn then k.ptpOffset else 0)
  else none

def HostPort.readClear (k : HostPort) (o : Nat) : HostPort :=
  if o = 0x8 then { k with dropTag := 0, dropSeq := 0, dropFormat := 0, dropBuffer := 0 } else k

def State.pwrReg (s : State) (o : Nat) : Option (BitVec 32) :=
  let w := s.power
  if o < 592 ∧ o % 4 = 0 then
    some (word32 [(31, (s.domOff[o / 4]!).toNat), (0, (s.domains[o / 4]!).toNat)])
  else if o = 0x400 then
    let h := hottest w.sensors
    some (word32 [(29, w.level), (24, h.1), (16, h.2), (0, w.power.toNat)])
  else if o = 0x404 then some (word32 [(16, w.emergT.toNat), (8, w.throttleT.toNat), (0, w.warnT.toNat)])
  else if o = 0x408 then some (w.limit.setWidth 32)
  else if o = 0x40C then some (word32 [(16, w.current.toNat), (0, w.voltage.toNat)])
  else none

/-- Journal in use in units of 8 KiB (R468), a part counting as a whole one. -/
def Store.usedUnits (k : Store) : Nat := min 255 ((k.used + 8191) / 8192)

def State.secReg (s : State) (o : Nat) : Option (BitVec 32) :=
  let k := s.store
  if o = 0x100 then some (word32 [(24, k.usedUnits), (23, k.compacting.toNat), (22, k.erasePending.toNat),
      (20, match k.activeHalf with
        | some h => h.val
        | none => if s.chip.step = 0 then 0 else 3)])
  else if o = 0x104 then some (k.lastCommit.setWidth 32)
  else none

/-- Record held in KiB (R508), a part counting as a whole one. -/
def State.recordKib (s : State) : Nat := (s.work.recording.words * 32 + 1023) / 1024

def State.dbgReg (s : State) (o : Nat) : Option (BitVec 32) :=
  let r := s.work.recording
  let e := s.evlog
  if o < 0xC0 ∧ o % 16 ≠ 12 ∧ o % 4 = 0 then
    let l := (s.part (partOfNat (o / 16))).ls
    some (if o % 16 = 0 then word32 [(31, l.paired.toNat), (30, l.follower.toNat), (28, l.reason.toNat),
        (0, l.stream.toNat)]
      else if o % 16 = 4 then word32 [(16, l.step.toNat), (0, l.seq.toNat)]
      else l.cycle)
  else if o = 0x100 then some (word32 [(24, s.work.helloLimit.toNat), (0, s.work.lsTimeout.toNat)])
  else if o = 0x200 then some (word32 [(31, r.running.toNat), (30, r.held.toNat), (24, r.buffer.val),
      (0, s.recordKib)])
  else if o = 0x300 then some e.head
  else if o = 0x304 then some (word32 [(16, e.dropped.toNat), (0, e.lost.toNat)])
  else if 0x10000 ≤ o ∧ o < 0x50000 ∧ o % 4 = 0 then
    some (wordLane (smGet e.entries ((o - 0x10000) / 32)) (o % 32 / 4))
  else none

/-- What a read of an address shows; none where no register is (R12). -/
def State.reg (s : State) (a : Nat) : Option (BitVec 32) :=
  match blockOf a with
  | (.chip, o) => s.chipReg o
  | (.part p, o) => s.partReg p o
  | (.core c, o) => if s.enabled c then (s.core c).reg (s.ccSince (partOf c)) o else none
  | (.link l, o) => s.linkReg l o
  | (.rte, o) => s.rte.reg o
  | (.host h, o) => (s.port h).reg o
  | (.pwr, o) => s.pwrReg o
  | (.sec, o) => s.secReg o
  | (.dbg, o) => s.dbgReg o
  | (.none, _) => none

/-- What a read of an address clears (R13). -/
def State.readClear (s : State) (a : Nat) : State :=
  match blockOf a with
  | (.part p, o) => s.modPart p (fun k => k.readClear o)
  | (.core c, o) => s.modCore c (fun k => k.readClear o)
  | (.link l, o) => s.modLink l (fun k => k.readClear o)
  | (.rte, o) => s.modRte (fun k => k.readClear o)
  | (.host h, o) => s.modPort h (fun k => k.readClear o)
  | (.dbg, o) => if o = 0x304 then { s with evlog := { s.evlog with dropped := 0, lost := 0 } } else s
  | _ => s

/-- The blade input is measured as it is read: its current and voltage are free values (R522). -/
def State.measure (s : State) (a : Nat) : State :=
  if a = 0x400040C ∧ s.chip.powered then
    let (w, s) := s.draw
    { s with power := { s.power with current := w.extractLsb' 0 16, voltage := w.extractLsb' 16 10 } }
  else s

/-- A read of one register: its value, and the state after it. -/
def State.readReg (s : State) (a : Nat) : Option (BitVec 32) × State :=
  let s := s.measure a
  match s.reg a with
  | some w => (some w, s.readClear a)
  | none => (none, s)

/-! Writes. -/

/-- HOST_CTRL and HOST_IDLE take a value. -/
def State.writeHostReg (s : State) (h : PortId) (o : Nat) (v mask : BitVec 32) : State :=
  if o = 0x0 then
    let s := s.modPort h (fun k => { k with
      encap := v.extractLsb' 24 3, domain := v.extractLsb' 16 8,
      udpPort := if bits32 v 0 16 = 0 then k.udpPort else v.setWidth 16 })
    let s := s.setMode h (v.extractLsb' 30 2)
    let s := if mask.getLsbD 28 then s.setPtpEn h (v.getLsbD 28) else s
    if mask.getLsbD 29 then s.setEnable h (v.getLsbD 29) else s
  else if o = 0xC then s.modPort h (fun k => { k with idle := if bits32 v 0 16 = 0 then k.idle else v.setWidth 16 })
  else s

/-- PWR_THERM_CFG and PWR_LIMIT take a value (R502, R503). -/
def Power.take (w : Power) (o : Nat) (v : BitVec 32) : Power :=
  if o = 0x404 then
    let a := bits32 v 0 8
    let b := bits32 v 8 8
    let c := bits32 v 16 8
    if a < b ∧ b < c ∧ c ≤ 105 then
      { w with warnT := v.setWidth 8, throttleT := v.extractLsb' 8 8, emergT := v.extractLsb' 16 8 } else w
  else if o = 0x408 then
    if 400 ≤ bits32 v 0 12 ∧ bits32 v 0 12 ≤ 1600 then { w with limit := v.setWidth 12 } else w
  else w

/-- DBG_LS_TIMEOUT takes a value (R507). -/
def Work.takeTimeout (w : Work) (v : BitVec 32) : Work :=
  { w with helloLimit := if bits32 v 24 8 = 0 then w.helloLimit else v.extractLsb' 24 8,
           lsTimeout := timeout20 w.lsTimeout v }

/-- CHIP_HOTPLUG takes a value (R467). -/
def Chip.takeHotplug (k : Chip) (v : BitVec 32) : Chip :=
  { k with attnMode := v.getLsbD 29, hpTimeout := if bits32 v 0 16 = 0 then k.hpTimeout else v.setWidth 16 }

/-- A write that is refused with BUSY (R327, R359, R394, R412). -/
def State.busyWrite (s : State) (a : Nat) (mask : BitVec 32) : Bool :=
  match blockOf a with
  | (.part p, o) => (s.part p).busyReg o mask
  | (.rte, o) => decide (0x10000 ≤ o) && s.rte.locked ((o - 0x10000) / 0x8000)
  | _ => false

/-- The effect of a write under a mask on an address that has a register and is not busy. -/
def State.writeAt (s : State) (a : Nat) (old value mask : BitVec 32) : State :=
  let v := masked old value mask
  match blockOf a with
  | (.chip, o) => if o = 0x14 then { s with chip := s.chip.takeHotplug v } else s
  | (.part p, o) => s.writePartReg p o v
  | (.core c, o) => s.writeCoreReg c o old value mask
  | (.link l, o) => s.writeLinkReg l o v mask
  | (.rte, o) => s.writeRteReg o v
  | (.host h, o) => s.writeHostReg h o v mask
  | (.pwr, o) => { s with power := s.power.take o v }
  | (.dbg, o) => if o = 0x100 then { s with work := s.work.takeTimeout v } else s
  | _ => s

/-- A write under a mask: its status and the state after it (R12, R435). -/
def State.writeReg (s : State) (a : Nat) (value mask : BitVec 32) : Nat × State :=
  match s.reg a with
  | none => (stBOUNDS, s)
  | some old => if s.busyWrite a mask then (stBUSY, s) else (stOK, s.writeAt a old value mask)

/-! The protected set (R369). -/

/-- Bits of an address that are protected while SAFETY is 1. -/
def protectedBits (a : Nat) : BitVec 32 :=
  match blockOf a with
  | (.part p, _) => if p = 0 then ~~~0 else 0
  | (.core c, _) => if partOf c = 0 then ~~~0 else 0
  | (.rte, o) =>
    if o = 0x000C then ~~~0
    else if 0x0100 ≤ o ∧ o < 0x0160 then 0x00FFC07F
    else if 0x0200 ≤ o ∧ o < 0x0390 ∧ o % 16 = 0 then 0x000000FF
    else 0
  | (.pwr, o) => if o < 384 ∧ partOf (coreOfNat (o / 4)) = 0 ∨ o = 384 then ~~~0 else 0
  | _ => 0

/-- A write touches the protected set. -/
def State.guarded (s : State) (a : Nat) (mask : BitVec 32) : Bool := s.safety && protectedBits a &&& mask != 0

/-- SHEEPDOG_WRITE (R370): window 0xFF of the safety partition. -/
def execSheepdogWrite (q : Packet) (s : State) : Out :=
  .next (if q.kind ≠ 0 ∨ q.win ≠ 0xFF ∨ q.dstPart ≠ 0 ∨ s.safety = false then s else
    let (vc, s) := s.arrive q
    if Packet.bad q then s.badHeader
    else if q.srcChip ≠ s.chipId.toNat ∨ q.srcPart ≠ 0 ∨ q.length ≠ 1 then s.discardAt 0 vc q 1
    else
      let w := q.payload.headD 0
      let a := (wordLane w 0).toNat
      let s := if protectedBits a = 0 then s.log 0x0019 (srcPart 0) a 0 0 0
        else (s.writeReg a (wordLane w 1) (wordLane w 2)).2
      s.ackWrite 0 vc q 0)

end Sys2Proof.Machine
end

