-- ==== Sys2Proof/Machine/Frames.lean ====
section
/-! DEFINITION. The acceptance of SCT frames (R421 to R431) and what every command of a session is checked
for before it runs (R369, R372, R376, R424, R434). -/

namespace Sys2Proof.Machine

/-! Host keys (R424, R453, R456). -/

/-- SEAL and STORE (R451). -/
def sealKey : BitVec 256 := kmac256 (bytesOfWord Config.devSeed) [] (ascii "SIRIX-SEAL")
def storeKey : BitVec 256 := kmac256 (bytesOfWord Config.devSeed) [] (ascii "SIRIX-STORE")

/-- A command key under STORE, or out of it (R456). -/
def underStore (nonce : List Byte) (key : BitVec 256) : BitVec 256 :=
  key ^^^ kmac256 (bytesOfWord storeKey) nonce (ascii "SIRIX-WRAP")

/-- The accepted copy of the vendor region. -/
def State.vendor (s : State) : VendorCopy := if s.chip.vendorCopy = 1 then s.store.vendor[1] else s.store.vendor[0]

/-- No owner: the module is unclaimed (R453). -/
def State.unclaimed (s : State) : Bool := s.store.cfg.root.isNone

/-- The keys of the module: an unclaimed one has only CLAIM_ROOT at index 0 (R453). Command keys are under
STORE. -/
def State.hostKey (s : State) (i : Nat) : Option HostKey :=
  if s.unclaimed then
    (if i = 0 then some { admin := true, pub := s.vendor.claimRoot, cmdKey := s.vendor.claimCmd } else none)
  else alGet s.store.cfg.keys i

/-- The command key of a key in clear. -/
def State.commandKey (s : State) (k : HostKey) : BitVec 256 :=
  underStore (if s.unclaimed then s.vendor.serial else leBytes 16 k.nonce.toNat) k.cmdKey

/-- The key of the safety owner (R424). -/
def State.safetyKey (s : State) : Option HostKey := (s.store.cfg.keys.find? (fun k => k.2.safety)).map (·.2)

/-! Sessions. -/

def HostPort.session (k : HostPort) (id : BitVec 32) : Option Session := k.sessions.find? (fun x => x.id == id)

def State.session (s : State) (f : Frame) : Option Session := (s.port f.port).session f.session

def HostPort.setSession (k : HostPort) (x : Session) : HostPort :=
  { k with sessions := k.sessions.map (fun y => if y.id == x.id then x else y) }

/-- The highest SEQ accepted. -/
def Session.highest (x : Session) : Nat := x.seen.foldl (fun a n => max a n.toNat) (x.rack.toNat - 1)

/-- RACK of a frame (R427, R428): kept responses below it leave the store. -/
def Session.hear (x : Session) (rack : BitVec 32) : Session :=
  if x.rack.toNat < rack.toNat ∧ rack.toNat ≤ x.highest + 1 then
    { x with
      rack := rack, seen := x.seen.filter (fun n => decide (rack.toNat ≤ n.toNat)),
      kept := x.kept.filter (fun r => decide (rack.toNat ≤ r.seq.toNat)) }
  else x

/-- Bytes of the kept responses of a port: header, body and tag of each. -/
def HostPort.keptBytes (k : HostPort) : Nat :=
  (k.sessions.map (fun x => (x.kept.map (fun r => r.body.length + 64)).sum)).sum

/-- The port accepts another command (R428, R430). -/
def HostPort.room (k : HostPort) : Bool :=
  decide (k.outstanding < 4096 ∧ k.keptBytes + 8256 ≤ 64 * 2 ^ 20)

/-- A command may be accepted now: there is room, and no frame that came before it waits (R430). -/
def HostPort.accepts (k : HostPort) : Bool := k.room && k.ingress.isEmpty

/-- The bytes of an SCT frame of a host. -/
def frameSize (f : Frame) (body : List Byte) : Nat := 64 + body.length + (optBlock f.sig).length

/-- A frame that breaks the sizes of R421. -/
def frameBad (f : Frame) (command : Bool) (body : List Byte) : Bool :=
  decide (8192 < body.length + (optBlock f.sig).length) ||
  (command && f.cls == 0 && decide (2048 < frameSize f body))

def HostPort.badTag (k : HostPort) : HostPort := { k with dropTag := satAdd k.dropTag 1 }
def HostPort.badSeq (k : HostPort) : HostPort := { k with dropSeq := satAdd k.dropSeq 1 }
def HostPort.badFormat (k : HostPort) : HostPort := { k with dropFormat := satAdd k.dropFormat 1 }
def HostPort.full (k : HostPort) : HostPort := { k with dropBuffer := satAdd k.dropBuffer 1 }

/-- A frame waits in the ingress buffer of 16 MiB, or is discarded for want of room there (R418, R430). -/
def HostPort.await (k : HostPort) (n : Nat) (c : Instr) : HostPort :=
  if (k.ingress.map (·.1)).sum + n ≤ 16 * 2 ^ 20 then { k with ingress := k.ingress ++ [(n, c)] } else k.full

/-- A repeated command (R428): its kept response once more, or a PROGRESS frame. -/
def HostPort.repeated (k : HostPort) (x : Session) (op : BitVec 16) (f : Frame) : HostPort :=
  match x.kept.find? (fun r => r.seq == f.seq) with
  | some r => { k with sent := some (.sct (x.frame { r.sent true with carrier := f.carrier })) }
  | none => { k with sent := some (.sct (x.frame { carrier := f.carrier, ftype := 3, op := op, seq := f.seq })) }

/-- ENCAP enables the carrier of a frame, and one in UDP is for the port's UDP_PORT (R421). -/
def HostPort.carries (k : HostPort) (c : Carrier) : Bool :=
  k.encap.getLsbD c.kind.val && (c.kind == 0 || c.dport == k.udpPort)

/-- The addresses of a port: an unclaimed module has none (R453). -/
def State.ip4 (s : State) (h : PortId) : BitVec 32 :=
  if s.unclaimed then 0 else s.store.cfg.ip4.extractLsb' (32 * h.val) 32
def State.ip6 (s : State) (h : PortId) : BitVec 128 :=
  if s.unclaimed then 0 else s.store.cfg.ip6.extractLsb' (128 * h.val) 128

/-- … and a frame in UDP reaches a port that has an address of that protocol (R453). -/
def State.carries (s : State) (h : PortId) (c : Carrier) : Bool :=
  (s.port h).carries c && (c.kind == 0 || (c.kind == 1 && s.ip4 h != 0) || (c.kind == 2 && s.ip6 h != 0))

/-- A tagged COMMAND of a session (R427, R428, R430): the port after it, and whether it is accepted. -/
def HostPort.take (k : HostPort) (x : Session) (f : Frame) (op : BitVec 16) (size : Nat) (c : Instr) : Bool × HostPort :=
  let x := x.hear f.rack
  let k := k.setSession x
  if f.seq.toNat < x.rack.toNat ∨ x.rack.toNat + 4096 ≤ f.seq.toNat then (false, k.badSeq)
  else if x.seen.contains f.seq then (false, k.repeated x op f)
  else if 0xFFFFF000 < x.rack.toNat then (false, k.badSeq)
  else if k.accepts = false then (false, k.await size c)
  else (true, k.setSession { x with seen := x.seen ++ [f.seq], running := x.running ++ [f.seq],
                                     via := x.via ++ [(f.seq, f.carrier)] })

/-- A COMMAND frame reaches a port (R418, R421, R422, R423, R427, R430): the state, and whether the command is accepted. -/
def State.receiveFrame (s : State) (f : Frame) (op : Nat) (body : List Byte) (c : Instr) : Bool × State :=
  if s.portOn f.port = false then (false, s)
  else if s.carries f.port f.carrier = false ∨ frameBad f true body then (false, s.modPort f.port HostPort.badFormat)
  else match s.session f with
    | none => (false, s.modPort f.port HostPort.badTag)
    | some x =>
      if frameGood f x.skey 0 op body = false then (false, s.modPort f.port HostPort.badTag)
      else
        let (ok, k) := (s.port f.port).take x f (BitVec.ofNat 16 op) (frameSize f body) c
        (ok, s.setPort f.port k)

/-- SCT_ACK_FRAME (R422, R427, R428): a frame that carries RACK alone. -/
def execSctAckFrame (f : Frame) (s : State) : Out :=
  .next (if s.portOn f.port = false then s
    else if s.carries f.port f.carrier = false ∨ frameBad f false [] then s.modPort f.port HostPort.badFormat
    else match s.session f with
      | none => s.modPort f.port HostPort.badTag
      | some x =>
        if frameGood f x.skey 2 0 [] then s.modPort f.port (fun k => k.setSession (x.hear f.rack))
        else s.modPort f.port HostPort.badTag)

/-! Frames that wait in an ingress buffer. -/

/-- A port has frames waiting and room to accept one (R430). -/
def HostPort.ready (k : HostPort) : Bool := k.room && !k.ingress.isEmpty

/-- The frames that wait at a port reach it again, in order. -/
def State.resume (s : State) (h : PortId) : State :=
  { s.setPort h { s.port h with ingress := [] } with pending := s.pending ++ (s.port h).ingress.map (·.2) }

/-! What a command needs (R434). -/

/-- Authority: any session, ADMIN, or the owner of a partition. -/
inductive Auth where
  | any
  | admin
  | owner (p : PartId)
  deriving DecidableEq, Repr

/-- The rule of a command: its opcode, whether class 0 may carry it, a partition number out of range, its
authority, whether it is of the protected set, and the body of a refusal for want of authority. -/
structure Rule where
  op     : Nat
  class0 : Bool := false
  bad    : Bool := false
  auth   : Auth := .any
  guard  : Bool := false
  denied : List Byte := []
  deriving DecidableEq, Repr

/-- The rule of a command that names a partition. -/
def ownerRule (op : Nat) (class0 guard : Bool) (part : Nat) : Rule :=
  { op := op, class0 := class0, bad := decide (12 ≤ part), auth := .owner (partOfNat part),
    guard := guard && part % 12 == 0 }

/-- A session has the authority. -/
def State.authorised (s : State) (f : Frame) (a : Auth) : Bool :=
  match s.session f with
  | none => false
  | some x =>
    match a with
    | .any => true
    | .admin => match s.hostKey x.key.toNat with
      | some k => k.admin
      | none => false
    | .owner p => (s.part p).owner == x.key

/-- The bytes under a safety signature (R423). -/
def signedBytes (f : Frame) (op : Nat) (body : List Byte) : List Byte :=
  leBytes 4 f.session.toNat ++ leBytes 4 f.seq.toNat ++ leBytes 2 op ++ body

/-- The safety signature of a protected command (R369): none where it is good. -/
def State.safetyStatus (s : State) (f : Frame) (op : Nat) (body : List Byte) : Option Nat :=
  match f.sig, s.safetyKey with
  | none, _ => some stDENIED
  | some _, none => some stBADSIG
  | some g, some k => if Config.falconVerify k.pub (signedBytes f op body) g then none else some stBADSIG

/-- Why a command does not run, in the order of its checks: status and body. -/
def State.refusal (s : State) (f : Frame) (r : Rule) (body : List Byte) : Option (Nat × List Byte) :=
  if f.cls = 0 ∧ r.class0 = false then some (stBOUNDS, [])
  else if r.bad then some (stBOUNDS, [])
  else if s.authorised f r.auth = false then some (stDENIED, r.denied)
  else if f.cls = 0 ∧ s.safety ∧ r.auth ≠ .owner 0 then some (stDENIED, [])
  else if r.guard ∧ s.safety then (s.safetyStatus f r.op body).map (fun st => (st, []))
  else none

def State.answer (s : State) (f : Frame) (op : Nat) (status : Nat) (body : List Byte) : State :=
  s.respond f.port f.session { seq := f.seq, op := BitVec.ofNat 16 op, status := status, body := body }

/-- A class-0 command takes a token of its partition, or waits for one (R376). -/
def State.token (s : State) (f : Frame) (r : Rule) : Option State :=
  match r.auth with
  | .owner p =>
    if f.cls ≠ 0 then some s
    else if 0 < (s.part p).c0Tokens then some (s.modPart p (fun k => { k with c0Tokens := k.c0Tokens - 1 }))
    else none
  | _ => some s

def ruleNumber (r : Rule) : Nat :=
  match r.auth with
  | .owner p => p.val
  | _ => 0

/-- What a command does once accepted: an answer, or none where it waits; with the state after it. -/
abbrev Run := State → Option (Nat × List Byte) × State

def State.run (s : State) (f : Frame) (r : Rule) (go : Run) : State :=
  match go s with
  | (some (st, b), s) => s.answer f r.op st b
  | (none, s) => s

/-- An accepted command: refused, run, or waiting for a class-0 token. -/
def State.serve (s : State) (f : Frame) (r : Rule) (body : List Byte) (c : Instr) (go : Run) : State :=
  match s.refusal f r body with
  | some (st, b) => s.answer f r.op st b
  | none =>
    match s.token f r with
    | some s => s.run f r go
    | none => (s.modPort f.port (fun k => { k with waitC0 := k.waitC0 ++ [(c, s.time)] })).log 0x0017 (srcPort f.port)
        (ruleNumber r) 0 0 0

/-- Records an accepted command of a partition (R489); `keep` is what is recorded of its body. -/
def State.recorded (s : State) (f : Frame) (r : Rule) (keep : List Byte) : State :=
  match r.auth with
  | .owner p => if r.bad then s else s.recCommand p f.port.val f.cls.toNat r.op f.session f.seq keep
  | _ => s

/-- A COMMAND frame: acceptance, recording, checks, and what it does. -/
def State.command (s : State) (f : Frame) (r : State → Rule) (body keep : List Byte) (c : Instr) (go : Run) : Out :=
  .next (match s.receiveFrame f (r s).op body c with
    | (false, s) => s
    | (true, s) => (s.recorded f (r s) keep).serve f (r s) body c go)

end Sys2Proof.Machine
end

