-- ==== Sys2Proof/Machine/DispatchEngine.lean ====
section
/-! DEFINITION. The dispatch engine (R145 to R148): DGATHER, DSCATTER and DSLOT. -/

namespace Sys2Proof.Machine

/-- Engine 1. -/
def qDisp : QueueId := 1

def noIndex : BitVec 32 := 0xFFFFFFFF

/-- Entries that are worked (R145). -/
def State.dispCount (s : State) (c : CoreId) (o : DispOp) : Nat :=
  if o.cntInd then min (wordLane (s.peek c o.cntAddr.toNat) 0).toNat o.count.toNat else o.count.toNat

/-- The index list. -/
def State.dispIdx (s : State) (c : CoreId) (o : DispOp) : List (BitVec 32) :=
  (List.range (s.dispCount c o)).map (s.u32At c o.iaddr.toNat)

/-- Words of a list of 32-bit entries. -/
def dispListWords (c : CoreId) (o : DispOp) (n : Nat) : List (CoreId × Nat) :=
  wordsAt c o.iaddr.toNat (wordsFor n 32)

/-- A row copied word by word. -/
def State.copyRow (s : State) (a : CoreId) (x : Nat) (b : CoreId) (y n : Nat) : State :=
  s.pokeMany b y (s.peekMany a x n)

def State.zeroRow (s : State) (b : CoreId) (y n : Nat) : State := s.pokeMany b y (List.replicate n 0)

def dispFields (o : DispOp) : List (Bool × Nat) :=
  [(o.ssel ≠ 0 ∧ o.ssel.toNat < 4, 2), (o.dsel ≠ 0 ∧ o.dsel.toNat < 4, 2), (2 ≤ o.empty.toNat, 2)]

/-- Whether an index other than the empty one lies beyond the table (R146). -/
def badIdx (o : DispOp) (l : List (BitVec 32)) : Bool :=
  l.any (fun x => x != noIndex && decide (o.nrows.toNat ≤ x.toNat))

/-- A field of 0 that makes the instruction a no-op whose ranges and list are not looked at (R17, R268): no
index, no word in a row, or no row in the table. The last is read as a row field (DESIGN CHOICE,
Assumption 99). -/
def dispEmpty (o : DispOp) : Bool := o.count == 0 || o.roww == 0 || o.nrows == 0

/-- The rejections that the fields reveal. -/
def State.dispStatic (s : State) (c : CoreId) (o : DispOp) : List (Bool × Nat) :=
  dispFields o ++ [(decide (s.sel c o.ssel = none), 3), (decide (s.sel c o.dsel = none), 3)]

/-- The rejections of the ranges of `n` entries. -/
def dispRanges (o : DispOp) (gather : Bool) (n : Nat) : List (Bool × Nat) :=
  let w := o.roww.toNat
  let tab := if n = 0 then 0 else o.nrows.toNat * w
  [(pastMem o.iaddr.toNat (wordsFor n 32), 3),
   (pastMem o.saddr.toNat (if gather then tab else n * w), 3),
   (pastMem o.daddr.toNat (if gather then n * w else tab), 3)]

/-- What DGATHER and DSCATTER share: the count word and the index list are read before they decide anything
(R134). -/
def State.dispTodo (i : Issue) (o : DispOp) (gather : Bool) (s : State) (go : CoreId → CoreId → Todo) : Todo :=
  let c := i.core
  .unless (firstReason (s.dispStatic c o)) <|
  if dispEmpty o then .nop else
  match s.sel c o.ssel, s.sel c o.dsel with
  | some a, some b =>
    .need (if o.cntInd then [(c, o.cntAddr.toNat)] else []) <|
    .unless (firstReason (dispRanges o gather (s.dispCount c o))) <|
    .need (dispListWords c o (s.dispCount c o)) <|
    .unless (firstReason [(badIdx o (s.dispIdx c o), 4)]) (go a b)
  | _, _ => .reject 3

/-- DGATHER row by row (R146). -/
def State.gatherRows (s : State) (a b : CoreId) (o : DispOp) : List (BitVec 32 × Nat) → State
  | [] => s
  | (x, i) :: t =>
    let d := o.daddr.toNat + i * o.roww.toNat
    let s := if x = noIndex then (if o.empty = 1 then s.zeroRow b d o.roww.toNat else s)
      else s.copyRow a (o.saddr.toNat + x.toNat * o.roww.toNat) b d o.roww.toNat
    s.gatherRows a b o t

/-- DSCATTER row by row: the row of the largest `i` is left (R146). An empty index names no destination
row, so nothing is written for it under either value of EMPTY. -/
def State.scatterRows (s : State) (a b : CoreId) (o : DispOp) : List (BitVec 32 × Nat) → State
  | [] => s
  | (x, i) :: t =>
    let s := if x = noIndex then s
      else s.copyRow a (o.saddr.toNat + i * o.roww.toNat) b (o.daddr.toNat + x.toNat * o.roww.toNat) o.roww.toNat
    s.scatterRows a b o t

/-- Words read before the rows: the count and the index list. -/
def State.dispLists (s : State) (c : CoreId) (o : DispOp) : List (CoreId × Nat) :=
  (if o.cntInd then [(c, o.cntAddr.toNat)] else []) ++ dispListWords c o (s.dispCount c o)

def State.gatherPlan (i : Issue) (o : DispOp) (s : State) : Todo :=
  s.dispTodo i o true (fun a b =>
    let l := (s.dispIdx i.core o).zipIdx
    let w := o.roww.toNat
    .run (s.dispLists i.core o ++ l.flatMap (fun x =>
        if x.1 = noIndex then [] else wordsAt a (o.saddr.toNat + x.1.toNat * w) w))
      (l.flatMap (fun x => if x.1 = noIndex ∧ o.empty = 0 then [] else wordsAt b (o.daddr.toNat + x.2 * w) w))
      (fun _ => .now) (fun s => s.gatherRows a b o l))

/-- DGATHER (R146). -/
def execDgather (i : Issue) (o : DispOp) (s : State) : Out :=
  .next (s.present qDisp 0x90 i (State.gatherPlan i o))

def State.scatterPlan (i : Issue) (o : DispOp) (s : State) : Todo :=
  s.dispTodo i o false (fun a b =>
    let l := (s.dispIdx i.core o).zipIdx
    let w := o.roww.toNat
    .run (s.dispLists i.core o ++ l.flatMap (fun x =>
        if x.1 = noIndex then [] else wordsAt a (o.saddr.toNat + x.2 * w) w))
      (l.flatMap (fun x => if x.1 = noIndex then [] else wordsAt b (o.daddr.toNat + x.1.toNat * w) w))
      (fun _ => .now) (fun s => s.scatterRows a b o l))

/-- DSCATTER (R146). -/
def execDscatter (i : Issue) (o : DispOp) (s : State) : Out :=
  .next (s.present qDisp 0x91 i (State.scatterPlan i o))

/-! DSLOT (R147, R148). -/

/-- One choice: expert and gate. -/
structure Choice where
  expert : Nat
  gate   : BitVec 32
  deriving DecidableEq, Repr

/-- Choice j of token t. -/
def State.choice (s : State) (c : CoreId) (o : DslotOp) (t j : Nat) : Choice :=
  let e := t * (o.k.toNat + o.alt.toNat) + j
  let w := s.peek c (o.caddr.toNat + e / 4)
  { expert := wordField w (64 * (e % 4)) 16, gate := BitVec.ofNat 32 (wordField w (64 * (e % 4) + 32) 32) }

/-- The plan under construction: regular fills, overflow fills, (expert, slot, token), combine entries
(t, r, expert, slot, gate), used backups (t, j), and the counts of R196 and R197. -/
structure SlotPlan where
  fill  : List (Nat × Nat) := []
  ofill : List (Nat × Nat) := []
  slots : List (Nat × Nat × Nat) := []
  comb  : List (Nat × Nat × Nat × Nat × BitVec 32) := []
  used  : List (Nat × Nat) := []
  nover : Nat := 0
  nres  : Nat := 0
  deriving DecidableEq, Repr

def SlotPlan.put (p : SlotPlan) (t r e slot : Nat) (g : BitVec 32) : SlotPlan :=
  { p with slots := (e, slot, t) :: p.slots, comb := (t, r, e, slot, g) :: p.comb }

def fillOf (l : List (Nat × Nat)) (e : Nat) : Nat := (alGet l e).getD 0
def bump (l : List (Nat × Nat)) (e : Nat) : List (Nat × Nat) := alSet l e (fillOf l e + 1)

/-- The first backup that may take a choice of token `t` (R148). -/
def SlotPlan.backup (p : SlotPlan) (o : DslotOp) (ch : Nat → Nat → Choice) (t : Nat) : Option Nat :=
  (List.range o.alt.toNat).find? (fun j =>
    let b := (ch t (o.k.toNat + j)).expert
    !p.used.contains (t, j) && (List.range o.k.toNat).all (fun r => (ch t r).expert != b) &&
    decide (fillOf p.fill b < o.cap.toNat))

/-- One choice placed (R148). -/
def SlotPlan.place (p : SlotPlan) (o : DslotOp) (ch : Nat → Nat → Choice) (r t : Nat) : SlotPlan :=
  let x := ch t r
  let f := fillOf p.fill x.expert
  let residual : SlotPlan := { p with comb := (t, r, 0xFFFF, 0xFFFF, 0) :: p.comb, nres := p.nres + 1 }
  if f < o.cap.toNat then { p.put t r x.expert f x.gate with fill := bump p.fill x.expert }
  else if o.policy = 1 then
    match p.backup o ch t with
    | some j =>
      let b := (ch t (o.k.toNat + j)).expert
      { p.put t r b (fillOf p.fill b) x.gate with fill := bump p.fill b, used := (t, j) :: p.used }
    | none => residual
  else if o.policy = 2 ∧ fillOf p.ofill x.expert < o.ocap.toNat then
    { p.put t r x.expert (o.cap.toNat + fillOf p.ofill x.expert) x.gate with
      ofill := bump p.ofill x.expert, nover := p.nover + 1 }
  else residual

/-- Every choice, in the order of R148. -/
def dslotPlan (o : DslotOp) (ch : Nat → Nat → Choice) : SlotPlan :=
  (List.range o.k.toNat).foldl (fun p r =>
    (List.range o.tokens.toNat).foldl (fun p t => p.place o ch r t) p) {}

def dslotEmpty (o : DslotOp) : Bool := o.tokens == 0 || o.e == 0 || o.k == 0

/-- The writes of a DSLOT: the slot table filled with the empty marker and then the plan, the fill words
whole, and the combine list. -/
def dslotWrites (c : CoreId) (o : DslotOp) (p : SlotPlan) : List Wr :=
  let per := o.cap.toNat + o.ocap.toNat
  let n := o.e.toNat
  let tab := (List.range (n * per)).flatMap (fun k =>
    let v := (p.slots.find? (fun x => x.1 * per + x.2.1 == k)).map (fun x => x.2.2)
    wrField c o.sladdr.toNat (32 * k) 32 (v.getD 0xFFFFFFFF))
  let fills := (List.range n).flatMap (fun e =>
    [({ core := c, addr := o.fladdr.toNat + 2 * e, data := BitVec.ofNat 256 (fillOf p.fill e) } : Wr),
     { core := c, addr := o.fladdr.toNat + 2 * e + 1, data := BitVec.ofNat 256 (fillOf p.ofill e) }])
  let comb := (List.range (o.tokens.toNat * o.k.toNat)).flatMap (fun k =>
    match p.comb.find? (fun x => x.1 * o.k.toNat + x.2.1 == k) with
    | some (_, _, e, sl, g) => wrField c o.cbaddr.toNat (64 * k) 64 (e + sl * 65536 + g.toNat * 2 ^ 32)
    | none => [])
  wrJoin (tab ++ fills ++ comb)

/-- The rejections that the fields reveal (R134, R147). -/
def dslotReject (o : DslotOp) : Option Nat :=
  let e := dslotEmpty o
  let nch := if e then 0 else o.tokens.toNat * (o.k.toNat + o.alt.toNat)
  firstReason [
    (decide (o.policy = 3), 2),
    (pastMem o.caddr.toNat (wordsFor nch 64), 3),
    (!e && pastMem o.sladdr.toNat (wordsFor (o.e.toNat * (o.cap.toNat + o.ocap.toNat)) 32), 3),
    (!e && pastMem o.fladdr.toNat (2 * o.e.toNat), 3),
    (!e && pastMem o.cbaddr.toNat (wordsFor (o.tokens.toNat * o.k.toNat) 64), 3)]

/-- An expert number of the choice list beyond E (R148). -/
def State.dslotBad (s : State) (c : CoreId) (o : DslotOp) : Option Nat :=
  firstReason [
    (!dslotEmpty o && (List.range o.tokens.toNat).any (fun t =>
      (List.range (o.k.toNat + o.alt.toNat)).any (fun j =>
        decide (o.e.toNat ≤ (s.choice c o t j).expert))), 4)]

def State.dslotTodo (i : Issue) (o : DslotOp) (s : State) : Todo :=
  let c := i.core
  let list := wordsAt c o.caddr.toNat (wordsFor (o.tokens.toNat * (o.k.toNat + o.alt.toNat)) 64)
  .unless (dslotReject o) <|
  if dslotEmpty o then .nop else
  .need list <|
  .unless (s.dslotBad c o) <|
    let p := dslotPlan o (s.choice c o)
    let ws := dslotWrites c o p
    .run (list ++ wrPartial ws) (wrWords ws) (fun _ => .now) (fun s =>
      (s.wrAll ws).modCore c (fun k => { k with
        dispOverflow := satAdd k.dispOverflow p.nover, dispResid := satAdd k.dispResid p.nres }))

/-- DSLOT (R148). -/
def execDslot (i : Issue) (o : DslotOp) (s : State) : Out := .next (s.present qDisp 0x92 i (State.dslotTodo i o))

end Sys2Proof.Machine
end

