-- ==== Sys2Proof/Machine/Inflater.lean ====
section
/-! DEFINITION. The weight inflater (R140 to R144, R176 to R183): TILE. -/

namespace Sys2Proof.Machine

/-- Engine 2. -/
def qInfl : QueueId := 2

/-- Weight formats of R63. -/
def Fmt.isWeight (f : Fmt) : Bool := !(f = .fp32 ∨ f = .int32)

/-- Words of a stored tile, and of its scale bytes. -/
def tileWords (f : Fmt) : Nat := wordsFor (128 * 128 * f.perReg) f.bits
def tileScaleBytes (f : Fmt) (sp : BitVec 2) : Nat := 128 / groupRows sp * 128 * f.perReg

/-- The compaction that a TILE makes, outside fixed-order mode (R81, R183). -/
def Core.compacts (k : Core) (o : TileOp) : Bool := o.cmpct && !k.fixedOrder

/-- First logical row of a compacting TILE (R144). -/
def Core.cmStart (k : Core) (o : TileOp) : Nat := if o.cmbase = 0xFFFF then k.cursor.toNat else o.cmbase.toNat

/-- Whether the bitmap skips the tile (R143, R179). -/
def State.tileSkipped (s : State) (m : CoreId) (o : TileOp) : Bool :=
  o.bmen && rdBits (s.peek m) o.bmaddr.toNat o.bmidx.toNat 1 == 0

/-- The logical rows a compacting TILE takes, and the cursor after it (R144). -/
def State.cmRows (s : State) (m : CoreId) (o : TileOp) (start : Nat) : List Nat × Nat :=
  let rs := ((List.range (o.cmlen.toNat - start)).map (start + ·)).filter (fun r =>
    rdBits (s.peek m) o.cmaddr.toNat r 1 == 1)
  let got := rs.take 128
  (got, if got.length = 128 then got.getLastD 0 + 1 else max start o.cmlen.toNat)

/-- The N:M index of cell (k, n) (R176). -/
def State.nmIndex (s : State) (m : CoreId) (o : TileOp) (k n : Nat) : Nat :=
  wordField (s.peek m (o.mdaddr.toNat + k)) (2 * n) 2

/-- In 2:4 mode indices must ascend within a pair of rows (R177). -/
def State.badIndices (s : State) (m : CoreId) (o : TileOp) : Bool :=
  o.sparse == 1 && (List.range 64).any (fun j => (List.range 128).any (fun n =>
    decide (s.nmIndex m o (2 * j + 1) n ≤ s.nmIndex m o (2 * j) n)))

/-- The cell registers of a tile whose weight of physical row k and logical column c is element `at k c`
of the region. -/
def State.tileCells (s : State) (m : CoreId) (o : TileOp) (f : Fmt) (rows : Nat) (idx : Nat → Nat → Nat × Nat) :
    SMap 16 :=
  let w := f.perReg
  (List.range rows).foldl (fun acc k =>
    (List.range 128).foldl (fun acc n =>
      let x := (List.range w).foldr (fun u y =>
        let (base, e) := idx k (w * n + u)
        rdElem (s.peek m) f (o.waddr.toNat + base) e % 2 ^ f.bits + y <<< f.bits) 0
      smSet acc (128 * k + n) (BitVec.ofNat 16 x)) acc) []

/-- A tile that is not compacted (R141, R178). -/
def State.denseTile (s : State) (m : CoreId) (o : TileOp) (f : Fmt) : Tile :=
  let w := f.perReg
  let per := groupRows o.sparse
  let elem := fun k c => (0, (k / per * 128 * w + c) * per + k % per)
  let scs := if f.isBlock then (List.range (128 / per * 128 * w)).map (fun b =>
      BitVec.ofNat 8 (rdScale (s.peek m) f o.waddr.toNat o.saddr.toNat b)) else []
  { fmt := o.wfmt, sparse := o.sparse, cells := s.tileCells m o f 128 elem, scales := smSetMany [] 0 scs,
    index := if o.sparse = 0 then [] else
      smSetMany [] 0 ((List.range (128 * 128)).map (fun x => BitVec.ofNat 2 (s.nmIndex m o (x / 128) (x % 128)))) }

/-- A compacted tile: logical row r of the layer lies in the layer's stored tile r / 128 from WADDR
(R81, R144). -/
def State.compactTile (s : State) (m : CoreId) (o : TileOp) (f : Fmt) (rows : List Nat) : Tile :=
  let w := f.perReg
  let elem := fun k c =>
    let r := rows.getD k 0
    (r / 128 * tileWords f, (r % 128 / 32 * 128 * w + c) * 32 + r % 32)
  let scs := if f.isBlock then
      rows.flatMap (fun r => (List.range (128 * w)).map (fun c =>
        let b := r % 128 / 32 * 128 * w + c
        BitVec.ofNat 8 (match f with
          | .t2 => rdScale (s.peek m) f (o.waddr.toNat + r / 128 * tileWords f) 0 b
          | _ => rdBits (s.peek m) o.saddr.toNat (8 * (r / 128 * tileScaleBytes f 0 + b)) 8)))
    else []
  { fmt := o.wfmt, sparse := 0, cells := s.tileCells m o f rows.length elem, scales := smSetMany [] 0 scs,
    rows := some rows, klen := o.cmlen.toNat }

/-- The rejections that the fields reveal (R34, R66, R68, R134, R140). -/
def State.tileReject (s : State) (c : CoreId) (o : TileOp) : Option Nat :=
  match firstReason [(o.wsel ≠ 0 ∧ o.wsel.toNat < 4, 2), (o.sparse = 3, 2), (Fmt.ofCode o.wfmt = none, 2),
      (o.cmpct && decide (o.sparse ≠ 0), 2)] with
  | some r => some r
  | none =>
    match Fmt.ofCode o.wfmt with
    | none => some 2
    | some f =>
      let cm := (s.core c).compacts o
      let tiles := if cm then (o.cmlen.toNat + 127) / 128 else 1
      firstReason [
        (!f.isWeight, 6), (decide (o.sparse ≠ 0) && f.noSparse, 6), (s.sel c o.wsel = none, 3),
        (pastMem o.waddr.toNat (tiles * tileWords f), 3),
        (f.isMX && pastMem o.saddr.toNat (wordsFor (tiles * tileScaleBytes f o.sparse) 8), 3),
        (decide (o.sparse ≠ 0) && pastMem o.mdaddr.toNat 128, 3),
        (o.bmen && pastMem (o.bmaddr.toNat + o.bmidx.toNat / 256) 1, 3),
        (cm && pastMem o.cmaddr.toNat (wordsFor o.cmlen.toNat 1), 3)]

/-- What a TILE reads once it is not skipped by its bitmap. -/
def State.tileReads (s : State) (c m : CoreId) (o : TileOp) (f : Fmt) : List (CoreId × Nat) :=
  (if o.bmen then [(m, o.bmaddr.toNat + o.bmidx.toNat / 256)] else []) ++
  (if s.tileSkipped m o then [] else
    if (s.core c).compacts o then
      let (rows, _) := s.cmRows m o ((s.core c).cmStart o)
      let ts := (rows.map (· / 128)).dedup
      wordsAt m o.cmaddr.toNat (wordsFor o.cmlen.toNat 1) ++
        ts.flatMap (fun t => wordsAt m (o.waddr.toNat + t * tileWords f) (tileWords f)) ++
        (if f.isMX then ts.flatMap (fun t => (List.range (wordsFor (tileScaleBytes f 0) 8)).map (fun x =>
          (m, o.saddr.toNat + t * tileScaleBytes f 0 / 32 + x))) else [])
    else
      wordsAt m o.waddr.toNat (tileWords f) ++
        (if f.isMX then wordsAt m o.saddr.toNat (wordsFor (tileScaleBytes f o.sparse) 8) else []) ++
        (if o.sparse = 0 then [] else wordsAt m o.mdaddr.toNat 128))

/-- The effect of a TILE: a tile or a skip mark for the array, the cursor, flags and counts. -/
def State.tileEffect (c m : CoreId) (o : TileOp) (f : Fmt) (s : State) : State :=
  let skip (s : State) : State :=
    (s.modArray c (fun a => { a with shadow := some .skip })).modCore c (fun k =>
      { k with inflSkip := satAdd k.inflSkip 1 })
  let load (s : State) (t : Tile) (bad : Nat × Nat) : State :=
    ((s.modArray c (fun a => { a with shadow := some (.tile t) })).flag c
      (if f.isBlock && t.scales.any (fun x => x.2 == 255) then flMxNan else 0)).badT2 c bad.1 bad.2
  if s.tileSkipped m o then skip s
  else if (s.core c).compacts o then
    let (rows, cur) := s.cmRows m o ((s.core c).cmStart o)
    let s' := s.modCore c (fun k => { k with cursor := BitVec.ofNat 16 cur })
    if rows.isEmpty then skip s' else
    let blocks := ((rows.map (fun r => (r / 128, r % 128 / 32))).dedup).flatMap (fun x =>
      (List.range (128 * f.perReg)).map (fun c => (x.1, x.2 * 128 * f.perReg + c)))
    let bad := if f = .t2 then blocks.foldr (fun b acc =>
        let (n, a) := t2BadRange (s.peek m) (o.waddr.toNat + b.1 * tileWords f) b.2 1
        if n = 0 then acc else (acc.1 + n, a)) (0, 0) else (0, 0)
    load s' (s.compactTile m o f rows) bad
  else
    let bad := if f = .t2 then t2BadRange (s.peek m) o.waddr.toNat 0 (4 * 128 * f.perReg) else (0, 0)
    load s (s.denseTile m o f) bad

def State.tilePlan (i : Issue) (o : TileOp) (s : State) : Todo :=
  let c := i.core
  .unless (s.tileReject c o) <|
  if (s.core c).array.shadow ≠ none then .waits else
  match Fmt.ofCode o.wfmt, s.sel c o.wsel with
  | some f, some m =>
    .need (if o.bmen then [(m, o.bmaddr.toNat + o.bmidx.toNat / 256)] else []) <|
    let skipped := s.tileSkipped m o
    .need (if o.sparse = 1 ∧ skipped = false then wordsAt m o.mdaddr.toNat 128 else []) <|
    .unless (firstReason [(!skipped && s.badIndices m o, 4)]) <|
    .run (s.tileReads c m o f) [] (fun _ => .now) (State.tileEffect c m o f)
  | _, _ => .reject 2

/-- TILE (R140). -/
def execTile (i : Issue) (o : TileOp) (s : State) : Out := .next (s.present qInfl 0xA0 i (State.tilePlan i o))

end Sys2Proof.Machine
end

