-- ==== Sys2Proof/Machine/Kv.lean ====
section
/-! DEFINITION. The key-value block engine (R153 to R156). -/

namespace Sys2Proof.Machine

/-- Engine 4. -/
def qKv : QueueId := 4

/-! Descriptors (R153). -/

def dHash (w : MWord) : BitVec 128 := w.extractLsb' 0 128
def dBase (w : MWord) : Nat := wordField w 128 20
def dClen (w : MWord) : Nat := wordField w 160 8
def dTlen (w : MWord) : Nat := wordField w 168 8
def dNext (w : MWord) : Nat := wordField w 176 16
def dRefs (w : MWord) : Nat := wordField w 192 16
def dFull (w : MWord) : Bool := wordField w 208 1 == 1
def dHashed (w : MWord) : Bool := wordField w 209 1 == 1
def dSpace (w : MWord) : Nat := wordField w 224 32

def dSetClen (w : MWord) (n : Nat) : MWord := wordSetField w 160 8 n
def dSetTlen (w : MWord) (n : Nat) : MWord := wordSetField w 168 8 n
def dSetRefs (w : MWord) (n : Nat) : MWord := wordSetField w 192 16 n
def dSetFull (w : MWord) : MWord := wordSetField w 208 1 1
def dSetHashed (w : MWord) (b : Bool) : MWord := wordSetField w 209 1 b.toNat
def dSetHash (w : MWord) (h : BitVec 128) : MWord := wordSetField w 0 128 h.toNat

/-- The address of a descriptor. -/
def dAddr (o : KvOp) (n : Nat) : Nat := o.dtaddr.toNat + n

def State.desc (s : State) (c : CoreId) (o : KvOp) (n : Nat) : MWord := s.peek c (dAddr o n)

/-- Commits `n` tentative entries of a descriptor: CLEN grows, TLEN becomes 0, FULL is set at 64 (R155). -/
def dCommit (w : MWord) (n : Nat) : MWord :=
  let w' := dSetTlen (dSetClen w (dClen w + n)) 0
  if dClen w + n = 64 then dSetFull w' else w'

/-- The count of an instruction (R154). -/
def State.kvCount (s : State) (c : CoreId) (o : KvOp) : Nat :=
  if o.cntInd then (wordLane (s.peek c o.cntaddr.toNat) 0).toNat else o.n.toNat

def kvCountRead (c : CoreId) (o : KvOp) : List (CoreId × Nat) :=
  if o.cntInd then [(c, o.cntaddr.toNat)] else []

/-- Rejections that all six share: the fields SSEL and IXBITS, used or not (R134, R154), DESC 0xFFFF (R153), and
the descriptor's address. -/
def State.kvCommon (s : State) (c : CoreId) (o : KvOp) : List (Bool × Nat) :=
  [(decide (o.ssel ≠ 0 ∧ o.ssel.toNat < 4), 2), (decide (o.ixbits = 0 ∨ 16 < o.ixbits.toNat), 2),
   (decide (o.desc = 0xFFFF), 2), (decide (s.sel c o.ssel = none), 3), (pastMem (dAddr o o.desc.toNat) 1, 3)]

/-- An N above 64 where it is the count (R154). -/
def kvBadN (o : KvOp) : Bool := decide (64 < o.n.toNat) && !o.cntInd

/-- A count of 0 in the instruction makes it a no-op (R17, R268). -/
def kvZero (o : KvOp) : Bool := !o.cntInd && o.n == 0

def kvDescRead (c : CoreId) (o : KvOp) : List (CoreId × Nat) := [(c, dAddr o o.desc.toNat)]

/-- The NEXT of a descriptor that it has, when its address lies in memory. -/
def kvNext (_o : KvOp) (w : MWord) : Option Nat := if dNext w = 0xFFFF then none else some (dNext w)

def kvNextBad (o : KvOp) (w : MWord) : Bool :=
  match kvNext o w with
  | some n => pastMem (dAddr o n) 1
  | none => false

/-! KAPPEND. -/

/-- Rows and token IDs of entries `j` to `j + n − 1` of the list, written at positions from `p` of a block
(R153, R155). -/
def State.kvRows (s : State) (c m : CoreId) (o : KvOp) (w : MWord) (p j n : Nat) : List Wr :=
  let rw := o.roww.toNat
  (List.range n).flatMap (fun k =>
    wrField c (dBase w) (32 * (p + k)) 32 (s.u32At m o.tokaddr.toNat (j + k)).toNat ++
    (List.range rw).map (fun x =>
      ({ core := c, addr := dBase w + 8 + (p + k) * rw + x, data := s.peek m (o.srcaddr.toNat + (j + k) * rw + x) } : Wr)))

/-- Split of n entries between DESC and NEXT. -/
def kvSplit (w : MWord) (n : Nat) : Nat × Nat :=
  let a := min n (64 - dClen w)
  (a, n - a)

/-- A block's own area lies in memory. -/
def kvAreaBad (o : KvOp) (w : MWord) (p n : Nat) : Bool :=
  n ≠ 0 && (pastMem (dBase w) 8 || pastMem (dBase w + 8 + p * o.roww.toNat) (n * o.roww.toNat))

/-- The rejections of `n` entries by DESC and its ranges, and, once NEXT has been read, by NEXT. -/
def State.kappendDesc (s : State) (c : CoreId) (o : KvOp) (n : Nat) : Option Nat :=
  let d := s.desc c o o.desc.toNat
  let (a, b) := kvSplit d n
  firstReason [
    (decide (64 ≤ dClen d), 4), (kvNextBad o d, 4), (decide (64 < b), 4),
    ((kvNext o d).isNone && decide (b ≠ 0), 4),
    (pastMem o.srcaddr.toNat (n * o.roww.toNat), 3), (pastMem o.tokaddr.toNat (wordsFor n 32), 3),
    (kvAreaBad o d (dClen d) a, 3)]

def State.kappendNext (s : State) (c : CoreId) (o : KvOp) (n : Nat) : Option Nat :=
  let d := s.desc c o o.desc.toNat
  match (kvNext o d).map (s.desc c o) with
  | some w => firstReason [(decide (dClen w ≠ 0), 4), (kvAreaBad o w 0 (kvSplit d n).2, 3)]
  | none => none

/-- The descriptor after it has received `n` entries. -/
def dAppend (o : KvOp) (w : MWord) (n : Nat) : MWord :=
  if o.direct then dCommit w n else dSetTlen w n

def State.kappendWrites (s : State) (c m : CoreId) (o : KvOp) (n : Nat) : List Wr :=
  let d := s.desc c o o.desc.toNat
  let (a, b) := kvSplit d n
  let own := s.kvRows c m o d (dClen d) 0 a ++
    [({ core := c, addr := dAddr o o.desc.toNat, data := dAppend o d a } : Wr)]
  let nxt := match kvNext o d with
    | some k =>
      let w := s.desc c o k
      s.kvRows c m o w 0 a b ++ [({ core := c, addr := dAddr o k, data := dAppend o w b } : Wr)]
    | none => []
  wrJoin (own ++ nxt)

/-- The words of the descriptor after DESC. -/
def State.kvNextRead (s : State) (c : CoreId) (o : KvOp) : List (CoreId × Nat) :=
  ((kvNext o (s.desc c o o.desc.toNat)).map (fun k => (c, dAddr o k))).toList

def State.kvDescReads (s : State) (c : CoreId) (o : KvOp) : List (CoreId × Nat) :=
  kvDescRead c o ++ s.kvNextRead c o

def State.kappendPlan (i : Issue) (o : KvOp) (s : State) : Todo :=
  let c := i.core
  .unless (firstReason ((kvBadN o, 2) :: s.kvCommon c o)) <|
  if kvZero o then .nop else
  match s.sel c o.ssel with
  | none => .reject 3
  | some m =>
    .need (kvCountRead c o) <|
    let n := s.kvCount c o
    if n = 0 then .run (kvCountRead c o) [] (fun _ => .now) (fun s => s) else
    .need (kvDescRead c o) <|
    .unless (s.kappendDesc c o n) <|
    .need (s.kvNextRead c o) <|
    .unless (s.kappendNext c o n) <|
    let ws := s.kappendWrites c m o n
    .run (kvCountRead c o ++ s.kvDescReads c o ++
        wordsAt m o.srcaddr.toNat (n * o.roww.toNat) ++ wordsAt m o.tokaddr.toNat (wordsFor n 32) ++ wrPartial ws)
      (wrWords ws) (fun _ => .now) (fun s => s.wrAll ws)

/-- KAPPEND (R155). -/
def execKappend (i : Issue) (o : KvOp) (s : State) : Out := .next (s.present qKv 0xC0 i (State.kappendPlan i o))

/-! KCOMMIT and KDISCARD. -/

/-- EV_KV_COUNT. -/
def State.kvClamped (s : State) (c : CoreId) (o : KvOp) (n : Nat) : State :=
  s.log 0x000C (srcCore c) o.desc.toNat n 0 0

/-- The two descriptor words after a commit of `n` entries, DESC first. Both are formed from the words as they
stand, so a descriptor that is its own NEXT is left with the second (DESIGN CHOICE, Assumption 25). -/
def State.kcommitWrites (s : State) (c : CoreId) (o : KvOp) (n : Nat) : List Wr :=
  let d := s.desc c o o.desc.toNat
  let a := min n (dTlen d)
  ({ core := c, addr := dAddr o o.desc.toNat, data := dCommit d a } : Wr) ::
  (match kvNext o d with
   | some k =>
     let w := s.desc c o k
     [({ core := c, addr := dAddr o k, data := dCommit w (min (n - a) (dTlen w)) } : Wr)]
   | none => [])

/-- Tentative entries of DESC and NEXT. -/
def State.kvTentative (s : State) (c : CoreId) (o : KvOp) : Nat :=
  let d := s.desc c o o.desc.toNat
  dTlen d + (match kvNext o d with
    | some k => dTlen (s.desc c o k)
    | none => 0)

/-- A count of 0, in the instruction or read, is a no-op and leaves both TLEN (R17, R268): the row of R155 would
clear them (DESIGN CHOICE, Assumption 25). -/
def State.kcommitPlan (i : Issue) (o : KvOp) (s : State) : Todo :=
  let c := i.core
  .unless (firstReason ((kvBadN o, 2) :: s.kvCommon c o)) <|
  if kvZero o then .nop else
  .need (kvCountRead c o) <|
  let n := s.kvCount c o
  if n = 0 then .run (kvCountRead c o) [] (fun _ => .now) (fun s => s) else
  .need (kvDescRead c o) <|
  .unless (firstReason [(kvNextBad o (s.desc c o o.desc.toNat), 4)]) <|
  let ws := s.kcommitWrites c o n
  .run (kvCountRead c o ++ s.kvDescReads c o) (wrWords ws) (fun _ => .now) (fun s =>
    let s' := s.wrAll ws
    if s.kvTentative c o < n then s'.kvClamped c o n else s')

/-- KCOMMIT (R155). -/
def execKcommit (i : Issue) (o : KvOp) (s : State) : Out := .next (s.present qKv 0xC1 i (State.kcommitPlan i o))

def State.kdiscardWrites (s : State) (c : CoreId) (o : KvOp) : List Wr :=
  let d := s.desc c o o.desc.toNat
  ({ core := c, addr := dAddr o o.desc.toNat, data := dSetTlen d 0 } : Wr) ::
  (match kvNext o d with
   | some k => [({ core := c, addr := dAddr o k, data := dSetTlen (s.desc c o k) 0 } : Wr)]
   | none => [])

def State.kdiscardPlan (i : Issue) (o : KvOp) (s : State) : Todo :=
  let c := i.core
  .unless (firstReason (s.kvCommon c o)) <|
  .need (kvDescRead c o) <|
  .unless (firstReason [(kvNextBad o (s.desc c o o.desc.toNat), 4)]) <|
  let ws := s.kdiscardWrites c o
  .run (s.kvDescReads c o) (wrWords ws) (fun _ => .now) (fun s => s.wrAll ws)

/-- KDISCARD (R155). -/
def execKdiscard (i : Issue) (o : KvOp) (s : State) : Out := .next (s.present qKv 0xC2 i (State.kdiscardPlan i o))

/-! The hash index (R156). -/

/-- HASH over the parent's HASH, NSPACE and 64 token IDs. -/
def kvHash (parent : BitVec 128) (ns : Nat) (toks : List (BitVec 32)) : BitVec 128 :=
  BitVec.ofNat 128 (leNat (shake256 (leBytes 16 parent.toNat ++ leBytes 4 ns ++
    toks.flatMap (fun t => leBytes 4 t.toNat)) 16))

/-- The address of probe `k`. -/
def kvProbe (o : KvOp) (h : BitVec 128) (k : Nat) : Nat :=
  o.ixaddr.toNat + (h.toNat + k) % 2 ^ o.ixbits.toNat

def ixState (w : MWord) : Nat := wordField w 144 8
def ixDesc (w : MWord) : Nat := wordField w 128 16
def ixSpace (w : MWord) : Nat := wordField w 160 32

def ixEntry (h : BitVec 128) (d ns : Nat) : MWord :=
  setFields 0 [(0, 128, h.toNat), (128, 16, d), (144, 8, 1), (160, 32, ns)]

/-- The index lies in memory. -/
def kvIndexRej (o : KvOp) : List (Bool × Nat) := [(pastMem o.ixaddr.toNat (2 ^ (min o.ixbits.toNat 16)), 3)]

/-- The parent's HASH: 16 zero bytes when there is none. -/
def State.kvParent (s : State) (c : CoreId) (o : KvOp) : BitVec 128 :=
  if o.parent = 0xFFFF then 0 else dHash (s.desc c o o.parent.toNat)

def kvParentRead (c : CoreId) (o : KvOp) : List (CoreId × Nat) :=
  if o.parent = 0xFFFF then [] else [(c, dAddr o o.parent.toNat)]

def kvParentRej (o : KvOp) : List (Bool × Nat) :=
  [(decide (o.parent ≠ 0xFFFF) && pastMem (dAddr o o.parent.toNat) 1, 3)]

/-- The token IDs of a block, or of a list at word `a`. -/
def State.kvTokens (s : State) (c : CoreId) (a : Nat) : List (BitVec 32) := (List.range 64).map (s.u32At c a)

/-- The first probe whose entry is not live. A state byte above 2, which the manual does not list, counts as
dead (DESIGN CHOICE, Assumption 25). -/
def State.kvFree (s : State) (c : CoreId) (o : KvOp) (h : BitVec 128) : Option Nat :=
  ((List.range 8).map (kvProbe o h)).find? (fun a => ixState (s.peek c a) != 1)

/-- The effect of a KHASH that hashes. -/
def State.khashEffect (c : CoreId) (o : KvOp) (s : State) : State :=
  let d := s.desc c o o.desc.toNat
  let h := kvHash (s.kvParent c o) (dSpace d) (s.kvTokens c (dBase d))
  let slot := s.kvFree c o h
  let s := s.poke c (dAddr o o.desc.toNat) (dSetHashed (dSetHash d h) true)
  match slot with
  | some a => s.poke c a (ixEntry h o.desc.toNat (dSpace d))
  | none => (s.modCore c (fun k => { k with indexFull := satAdd k.indexFull 1 })).log
      0x000D (srcCore c) o.desc.toNat 0 0 0

def State.khashPlan (i : Issue) (o : KvOp) (s : State) : Todo :=
  let c := i.core
  .unless (firstReason (s.kvCommon c o ++ kvIndexRej o ++ kvParentRej o)) <|
  .need (kvDescRead c o) <|
  let d := s.desc c o o.desc.toNat
  if dFull d = false ∨ dHashed d = true then .run (kvDescRead c o) [] (fun _ => .now) (fun s => s) else
  .unless (firstReason [(pastMem (dBase d) 8, 3)]) <|
  .need (kvParentRead c o) <|
  .unless (firstReason [(decide (o.parent ≠ 0xFFFF) && !dHashed (s.desc c o o.parent.toNat), 4)]) <|
  let h := kvHash (s.kvParent c o) (dSpace d) (s.kvTokens c (dBase d))
  .run (kvDescRead c o ++ kvParentRead c o ++ wordsAt c (dBase d) 8 ++
      (List.range 8).map (fun k => (c, kvProbe o h k)))
    (kvDescRead c o) (fun _ => .now) (State.khashEffect c o)

/-- KHASH (R155). -/
def execKhash (i : Issue) (o : KvOp) (s : State) : Out := .next (s.present qKv 0xC3 i (State.khashPlan i o))

/-- The live entries with equal hash and namespace, in probe order, as descriptor numbers. -/
def State.kvCandidates (s : State) (c : CoreId) (o : KvOp) (h : BitVec 128) (ns : Nat) : List Nat :=
  (((List.range 8).map (fun k => s.peek c (kvProbe o h k))).filter (fun w =>
    ixState w == 1 && w.extractLsb' 0 128 == h && ixSpace w == ns)).map ixDesc

/-- The comparisons made until the first full match: false matches and the match. -/
def kvSearch (eq : Nat → Bool) : List Nat → Nat × Option Nat
  | [] => (0, none)
  | d :: t => if eq d then (0, some d) else
    let (n, r) := kvSearch eq t
    (n + 1, r)

/-- A descriptor whose stored IDs equal the candidates. -/
def State.kvEqual (s : State) (c : CoreId) (o : KvOp) (toks : List (BitVec 32)) (d : Nat) : Bool :=
  s.kvTokens c (dBase (s.desc c o d)) == toks

def State.kvFound (s : State) (c m : CoreId) (o : KvOp) : Nat × Option Nat :=
  let ns := (wordLane (s.peek c o.cntaddr.toNat) 1).toNat
  let toks := s.kvTokens m o.srcaddr.toNat
  let h := kvHash (s.kvParent c o) ns toks
  kvSearch (s.kvEqual c o toks) (s.kvCandidates c o h ns)

/-- Bytes 0–3 of the word at CNTADDR. -/
def kvResult (c : CoreId) (o : KvOp) (v : Nat) : Wr :=
  { core := c, addr := o.cntaddr.toNat, data := BitVec.ofNat 256 v, mask := 0xFFFFFFFF }

def State.kfindEffect (c m : CoreId) (o : KvOp) (s : State) : State :=
  let (n, r) := s.kvFound c m o
  let s := s.modCore c (fun k => { k with hashFalse := satAdd k.hashFalse n })
  match r with
  | some d =>
    let w := s.desc c o d
    (s.poke c (dAddr o d) (dSetRefs w (min 65535 (dRefs w + 1)))).wr (kvResult c o d)
  | none => s.wr (kvResult c o 0xFFFFFFFF)

/-- Every index entry of equal hash and namespace is checked (R134), those after a match too: it names a
descriptor, in memory (DESIGN CHOICE, Assumption 25). -/
def kvCandRej (o : KvOp) (cand : List Nat) : Option Nat :=
  firstReason [(cand.any (fun d => decide (d = 0xFFFF) || pastMem (dAddr o d) 1), 4)]

def State.kfindPlan (i : Issue) (o : KvOp) (s : State) : Todo :=
  let c := i.core
  .unless (firstReason (s.kvCommon c o ++ kvIndexRej o ++ kvParentRej o ++ [(pastMem o.srcaddr.toNat 8, 3)])) <|
  match s.sel c o.ssel with
  | none => .reject 3
  | some m =>
    let args := (c, o.cntaddr.toNat) :: kvParentRead c o ++ wordsAt m o.srcaddr.toNat 8
    .need args <|
    let ns := (wordLane (s.peek c o.cntaddr.toNat) 1).toNat
    let h := kvHash (s.kvParent c o) ns (s.kvTokens m o.srcaddr.toNat)
    let probes := (List.range 8).map (fun k => (c, kvProbe o h k))
    .need probes <|
    let cand := s.kvCandidates c o h ns
    .unless (kvCandRej o cand) <|
    let ds := cand.map (fun d => (c, dAddr o d))
    .need ds <|
    .unless (firstReason [(cand.any (fun d => pastMem (dBase (s.desc c o d)) 8), 3)]) <|
    .run (args ++ probes ++ ds ++ cand.flatMap (fun d => wordsAt c (dBase (s.desc c o d)) 8))
      [(c, o.cntaddr.toNat)] (fun _ => .now) (State.kfindEffect c m o)

/-- KFIND (R155). -/
def execKfind (i : Issue) (o : KvOp) (s : State) : Out := .next (s.present qKv 0xC4 i (State.kfindPlan i o))

/-! KREF. -/

/-- The live index entry of DESC, found by probing. -/
def State.kvEntryOf (s : State) (c : CoreId) (o : KvOp) (d : MWord) : Option Nat :=
  ((List.range 8).map (kvProbe o (dHash d))).find? (fun a =>
    let w := s.peek c a
    ixState w == 1 && ixDesc w == o.desc.toNat && w.extractLsb' 0 128 == dHash d)

/-- REFS + DELTA, before clamping (R155). -/
def kvRefSum (o : KvOp) (d : MWord) : Int := (dRefs d : Int) + o.delta.toInt

def State.krefEffect (c : CoreId) (o : KvOp) (s : State) : State :=
  let d := s.desc c o o.desc.toNat
  let x := kvRefSum o d
  let r := (max 0 (min 65535 x)).toNat
  let s := if x < 0 then s.kvClamped c o (BitVec.ofInt 32 o.delta.toInt).toNat else s
  if r = 0 then
    let e := if dHashed d then s.kvEntryOf c o d else none
    let s := s.poke c (dAddr o o.desc.toNat) (dSetHashed (dSetRefs d 0) false)
    let s := match e with
      | some a => s.poke c a (wordSetField (s.peek c a) 144 8 2)
      | none => s
    s.wr (kvResult c o o.desc.toNat)
  else (s.poke c (dAddr o o.desc.toNat) (dSetRefs d r)).wr (kvResult c o 0xFFFFFFFF)

def State.krefPlan (i : Issue) (o : KvOp) (s : State) : Todo :=
  let c := i.core
  .unless (firstReason (s.kvCommon c o ++ kvIndexRej o)) <|
  .need (kvDescRead c o) <|
  let d := s.desc c o o.desc.toNat
  .run (kvDescRead c o ++ [(c, o.cntaddr.toNat)] ++
      (if kvRefSum o d ≤ 0 ∧ dHashed d then (List.range 8).map (fun k => (c, kvProbe o (dHash d) k)) else []))
    [(c, dAddr o o.desc.toNat), (c, o.cntaddr.toNat)] (fun _ => .now) (State.krefEffect c o)

/-- KREF (R155). -/
def execKref (i : Issue) (o : KvOp) (s : State) : Out := .next (s.present qKv 0xC5 i (State.krefPlan i o))

end Sys2Proof.Machine
end

