-- ==== Sys2Proof/Machine/Norm.lean ====
section
/-! DEFINITION. The normalisation and softmax engine (R57, R58, R136 to R138): NSMAX and NNORM. -/

namespace Sys2Proof.Machine

/-- Engine 0. -/
def qNorm : QueueId := 0

/-- Formats 0x0 to 0x4. -/
def normFmt (c : BitVec 4) : Option Fmt := if c.toNat ≤ 4 then Fmt.ofCode c else none

/-- Words of a row of LEN entries. -/
def NormRow (o : NormOp) (f : Fmt) : Nat := wordsFor o.len.toNat f.bits

/-- Nothing is done when there are no rows or no entries (R17, R57). -/
def normEmpty (o : NormOp) : Bool := o.len == 0 || o.rows == 0

def normFields (o : NormOp) : List (Bool × Nat) :=
  [(o.isel ≠ 0 ∧ o.isel.toNat < 4, 2), (o.osel ≠ 0 ∧ o.osel.toNat < 4, 2), (6 ≤ o.rnd.toNat, 2),
   (normFmt o.ifmt = none, 2), (normFmt o.ofmt = none, 2)]

def State.normRanges (s : State) (c : CoreId) (o : NormOp) (fi fo : Fmt) : List (Bool × Nat) :=
  let e := normEmpty o
  [(s.sel c o.isel = none, 3), (s.sel c o.osel = none, 3),
   (!e && pastMem o.iaddr.toNat (o.rows.toNat * NormRow o fi), 3),
   (!e && pastMem o.oaddr.toNat (o.rows.toNat * NormRow o fo), 3)]

/-- The generator value of entry `j` of row `r` under RND 5 (R46: seed 0, 64 generators). -/
def normRand (len r j : Nat) : BitVec 32 :=
  let per := (len + 63 - j % 64) / 64
  genAt 0 (j % 64) (r * per + j / 64)

/-- An output entry. -/
def normOut (o : NormOp) (f : Fmt) (r j : Nat) (x : Num) : Nat × FmtFlags :=
  f.elem.encode o.rnd.toNat o.sat (normRand o.len.toNat r j) x

/-- The FP32 value of an entry, converted exactly. -/
def normIn (rd : Nat → MWord) (f : Fmt) (a j : Nat) : BitVec 32 :=
  if f = .fp32 then BitVec.ofNat 32 (rdElem rd f a j) else (toF32 (rdNum rd f false a 0 j)).1

/-! Softmax. -/

/-- Whether an entry is masked (R137). -/
def State.smMasked (s : State) (m : CoreId) (o : NormOp) (r j : Nat) : Bool :=
  match o.mmode.toNat with
  | 1 => decide (o.cbase.toNat + r < j)
  | 2 => rdBits (s.peek m) (o.maddr.toNat + r * wordsFor o.len.toNat 1) j 1 == 1
  | _ => false

/-- The larger of two FP32 values that are not NaN. -/
def f32Max (a b : BitVec 32) : BitVec 32 := if 0 ≤ Num.cmp true (f32 a) (f32 b) then a else b

/-- The exponentials of a row and their sum in ascending order, with flags. -/
def smSum (m : BitVec 32) (xs : List (BitVec 32)) : BitVec 32 × FmtFlags :=
  xs.foldl (fun acc x =>
    let (d, f1) := f32Sub x m
    let (e, f2) := sfu 3 d
    let (t, f3) := f32Add acc.1 e
    (t, acc.2 ||| f1 ||| f2 ||| f3)) (0, 0)

/-- The outputs of one row by the table of R57, their flags, and the row flag. Entries are (masked, x). -/
def smRow (o : NormOp) (f : Fmt) (r : Nat) (row : List (Bool × BitVec 32)) :
    List (Nat × FmtFlags) × Bool :=
  let un := (row.filter (fun e => !e.1)).map (·.2)
  let zero : Nat × FmtFlags := (0, 0)
  let put (g : Nat → BitVec 32 → Nat × FmtFlags) : List (Nat × FmtFlags) :=
    (row.zipIdx).map (fun e => if e.1.1 then zero else g e.2 e.1.2)
  if un.any (fun x => (f32 x).isNaN) then (put (fun j _ => normOut o f r j .nan), false)
  else if un.all (fun x => x == f32Inf true) then (put (fun _ _ => zero), true)
  else
    let k := (un.filter (· == f32Inf false)).length
    if 0 < k then
      (put (fun j x => if x = f32Inf false then
          (match f.elem with
           | .flt g => divTo g o.rnd.toNat o.sat (normRand o.len.toNat r j) (.fin false 1 0) (.fin false k 0)
           | _ => zero)
        else zero), false)
    else
      let m := un.foldl f32Max (f32Inf true)
      let (t, f0) := smSum m un
      (put (fun j x =>
        let (d, f1) := f32Sub x m
        let (e, f2) := sfu 3 d
        let (y, f3) := f32Div e t
        let (b, f4) := if f = .fp32 then (y.toNat, 0) else normOut o f r j (f32 y)
        (b, f0 ||| f1 ||| f2 ||| f3 ||| f4)), false)

/-- The entries of a row: masked or multiplied by SCALE with one rounding (R137). -/
def State.smEntries (s : State) (m : CoreId) (o : NormOp) (fi : Fmt) (r : Nat) :
    List (Bool × BitVec 32) × FmtFlags :=
  (List.range o.len.toNat).foldr (fun j acc =>
    if s.smMasked m o r j then ((true, 0) :: acc.1, acc.2) else
    let (x, fl) := f32Mul (normIn (s.peek m) fi (o.iaddr.toNat + r * NormRow o fi) j) o.scale
    ((false, x) :: acc.1, acc.2 ||| fl)) ([], 0)

/-- All writes of an NSMAX, its flags, computed on the state before any of them. -/
def State.nsmaxWrites (s : State) (mi mo : CoreId) (o : NormOp) (fi fo : Fmt) : List Wr × FmtFlags :=
  if normEmpty o then ([], 0) else
  let rows := (List.range o.rows.toNat).map (fun r =>
    let (es, f0) := s.smEntries mi o fi r
    let (outs, flag) := smRow o fo r es
    (outs, flag, f0))
  let ws := (rows.zipIdx).flatMap (fun x =>
    elemWrites mo fo (o.oaddr.toNat + x.2 * NormRow o fo) 0 (x.1.1.map (·.1)))
  let bits := (rows.zipIdx).foldr (fun x acc => acc + x.1.2.1.toNat <<< x.2) 0
  let fw := (List.range (wordsFor o.rows.toNat 1)).map (fun k =>
    ({ core := mo, addr := o.flagAddr.toNat + k, data := BitVec.ofNat 256 (bits >>> (256 * k)) } : Wr))
  let fl := rows.foldl (fun a x => a ||| orFlags x.1 ||| x.2.2 ||| (if x.2.1 then flSmax else 0)) 0
  (wrJoin (ws ++ fw), fl)

/-- The words an NSMAX or NNORM reads: its rows, and beside them `more`. -/
def normReads (mi : CoreId) (o : NormOp) (fi : Fmt) (more : List (CoreId × Nat)) : List (CoreId × Nat) :=
  if normEmpty o then [] else wordsAt mi o.iaddr.toNat (o.rows.toNat * NormRow o fi) ++ more

def State.nsmaxPlan (i : Issue) (o : NormOp) (s : State) : Todo :=
  match firstReason (normFields o ++ [(decide (o.mmode = 3), 2)]) with
  | some r => .reject r
  | none =>
    match normFmt o.ifmt, normFmt o.ofmt with
    | some fi, some fo =>
      let e := normEmpty o
      let mw := wordsFor o.len.toNat 1
      match firstReason (s.normRanges i.core o fi fo ++
          [(!e && pastMem o.flagAddr.toNat (wordsFor o.rows.toNat 1), 3),
           (!e && o.mmode == 2 && pastMem o.maddr.toNat (o.rows.toNat * mw), 3)]),
          s.sel i.core o.isel, s.sel i.core o.osel with
      | some r, _, _ => .reject r
      | none, some mi, some mo =>
        let (ws, fl) := s.nsmaxWrites mi mo o fi fo
        .run (normReads mi o fi (if o.mmode = 2 then wordsAt mi o.maddr.toNat (o.rows.toNat * mw) else []) ++
            wrPartial ws) (wrWords ws) (fun _ => .now) (fun s => (s.wrAll ws).flag i.core fl)
      | none, _, _ => .reject 3
    | _, _ => .reject 2

/-- NSMAX (R137). -/
def execNsmax (i : Issue) (o : NormOp) (s : State) : Out := .next (s.present qNorm 0x80 i (State.nsmaxPlan i o))

/-! Normalisations (R138). -/

/-- A sum in ascending index order, each operation rounded. -/
def f32Sum (xs : List (BitVec 32 × FmtFlags)) : BitVec 32 × FmtFlags :=
  xs.foldl (fun acc x =>
    let (y, f) := f32Add acc.1 x.1
    (y, acc.2 ||| x.2 ||| f)) (0, 0)

/-- LEN as FP32. -/
def lenF32 (o : NormOp) : BitVec 32 := (toF32 (.fin false o.len.toNat 0)).1

/-- Chains an FP32 operation after a flagged value. -/
def then32 (x : BitVec 32 × FmtFlags) (f : BitVec 32 → BitVec 32 × FmtFlags) : BitVec 32 × FmtFlags :=
  let (y, g) := f x.1
  (y, x.2 ||| g)

/-- The outputs of one row, γ and β given by index, before the conversion to OFMT. -/
def normRowOut (o : NormOp) (xs : List (BitVec 32)) (g b : Nat → BitVec 32) :
    List (BitVec 32 × FmtFlags) :=
  let n := lenF32 o
  if o.nmode = 0 then
    let q := then32 (f32Sum (xs.map (fun x => f32Mul x x))) (fun t => f32Div t n)
    let r := then32 (then32 q (fun t => f32Add t o.scale)) (sfu 2)
    (xs.zipIdx).map (fun e =>
      then32 (then32 (e.1, r.2) (fun x => f32Mul x r.1)) (fun y => f32Mul y (g e.2)))
  else
    let mu := then32 (f32Sum (xs.map (fun x => (x, 0)))) (fun t => f32Div t n)
    let ds := xs.map (fun x => f32Sub x mu.1)
    let v := then32 (f32Sum (ds.map (fun d => then32 d (fun y => f32Mul y y)))) (fun t => f32Div t n)
    let r := then32 (then32 v (fun t => f32Add t o.scale)) (sfu 2)
    (ds.zipIdx).map (fun e =>
      let y := then32 (then32 (e.1.1, e.1.2 ||| mu.2 ||| r.2) (fun x => f32Mul x r.1)) (fun y => f32Mul y (g e.2))
      if o.nmode = 1 then then32 y (fun z => f32Add z (b e.2)) else y)

/-- A BF16 element as FP32 bits. -/
def bf16At (rd : Nat → MWord) (a j : Nat) : BitVec 32 := BitVec.ofNat 32 (rdElem rd .bf16 a j) <<< 16

def State.nnormWrites (s : State) (mi mo : CoreId) (o : NormOp) (fi fo : Fmt) : List Wr × FmtFlags :=
  if normEmpty o then ([], 0) else
  let rd := s.peek mi
  let rows := (List.range o.rows.toNat).map (fun r =>
    let xs := (List.range o.len.toNat).map (normIn rd fi (o.iaddr.toNat + r * NormRow o fi))
    let ys := normRowOut o xs (bf16At rd o.maddr.toNat) (bf16At rd o.flagAddr.toNat)
    (ys.zipIdx).map (fun e =>
      let (b, f) := if fo = .fp32 then (e.1.1.toNat, 0) else normOut o fo r e.2 (f32 e.1.1)
      (b, e.1.2 ||| f)))
  let ws := (rows.zipIdx).flatMap (fun x =>
    elemWrites mo fo (o.oaddr.toNat + x.2 * NormRow o fo) 0 (x.1.map (·.1)))
  (wrJoin ws, rows.foldl (fun a x => a ||| orFlags x) 0)

def State.nnormPlan (i : Issue) (o : NormOp) (s : State) : Todo :=
  match firstReason (normFields o ++ [(decide (o.mmode ≠ 0), 2), (decide (o.nmode = 3), 2)]) with
  | some r => .reject r
  | none =>
    match normFmt o.ifmt, normFmt o.ofmt with
    | some fi, some fo =>
      let e := normEmpty o
      let gw := wordsFor o.len.toNat 16
      match firstReason (s.normRanges i.core o fi fo ++
          [(!e && pastMem o.maddr.toNat gw, 3), (!e && o.nmode == 1 && pastMem o.flagAddr.toNat gw, 3)]),
          s.sel i.core o.isel, s.sel i.core o.osel with
      | some r, _, _ => .reject r
      | none, some mi, some mo =>
        let (ws, fl) := s.nnormWrites mi mo o fi fo
        .run (normReads mi o fi (wordsAt mi o.maddr.toNat gw ++
              (if o.nmode = 1 then wordsAt mi o.flagAddr.toNat gw else [])) ++ wrPartial ws)
            (wrWords ws) (fun _ => .now) (fun s => (s.wrAll ws).flag i.core fl)
      | none, _, _ => .reject 3
    | _, _ => .reject 2

/-- NNORM (R138). -/
def execNnorm (i : Issue) (o : NormOp) (s : State) : Out := .next (s.present qNorm 0x81 i (State.nnormPlan i o))

end Sys2Proof.Machine
end

