-- ==== Sys2Proof/Machine/Vector.lean ====
section
/-! DEFINITION. The vector engine (spec/04): registers, loads and stores, arithmetic, comparisons,
conversions, special functions, reductions, compress and expand. -/

namespace Sys2Proof.Machine

/-! Registers (R98, R100). -/

def VectorUnit.vreg (u : VectorUnit) (n : BitVec 5) : BitVec 2048 := u.v[n.toNat]'n.isLt
def VectorUnit.setV (u : VectorUnit) (n : BitVec 5) (x : BitVec 2048) : VectorUnit :=
  { u with v := u.v.set n.toNat x n.isLt }
/-- P0 reads as all ones. -/
def VectorUnit.mask (u : VectorUnit) (n : BitVec 3) : BitVec 256 :=
  if n = 0 then BitVec.allOnes 256 else u.p[n.toNat]'n.isLt
/-- P0 is never written. -/
def VectorUnit.setP (u : VectorUnit) (n : BitVec 3) (x : BitVec 256) : VectorUnit :=
  if n = 0 then u else { u with p := u.p.set n.toNat x n.isLt }
/-- S0 reads as 0. -/
def VectorUnit.scalar (u : VectorUnit) (n : BitVec 4) : BitVec 32 :=
  if n = 0 then 0 else u.r[n.toNat]'n.isLt
/-- S0 is never written. -/
def VectorUnit.setS (u : VectorUnit) (n : BitVec 4) (x : BitVec 32) : VectorUnit :=
  if n = 0 then u else { u with r := u.r.set n.toNat x n.isLt }

/-- Register types (R99). -/
def regType (et : BitVec 4) : Option Fmt :=
  match Fmt.ofCode et with
  | some f => if f = .fp32 ∨ f = .int32 ∨ f = .bf16 ∨ f = .fp16 ∨ f = .e4m3 ∨ f = .e5m2 ∨ f = .int8
    then some f else none
  | none => none

/-- Element count N of a register type. -/
def Fmt.lanes (f : Fmt) : Nat := 2048 / f.bits

/-- Element `e` of a register at width `w`. -/
def elemOf (x : BitVec 2048) (w e : Nat) : Nat := x.toNat >>> (w * e) % 2 ^ w

/-- The elements of a register. -/
def regElems (x : BitVec 2048) (w : Nat) : List Nat := (List.range (2048 / w)).map (elemOf x w)

/-- A register from its elements. -/
def regOf (w : Nat) (es : List Nat) : BitVec 2048 :=
  BitVec.ofNat 2048 (es.foldr (fun e acc => e % 2 ^ w + acc <<< w) 0)

/-- The result register of an element-wise operation: inactive elements keep their value or become zero
(R101). `res e` is none where the element is not written at all. -/
def merge (old : BitVec 2048) (w : Nat) (mask : BitVec 256) (mz : Bool) (res : Nat → Nat) : BitVec 2048 :=
  regOf w ((List.range (2048 / w)).map (fun e =>
    if mask.getLsbD e then res e else if mz then 0 else elemOf old w e))

/-- Flags of the active elements only (R101). -/
def activeFlags (n : Nat) (mask : BitVec 256) (fl : Nat → FmtFlags) : FmtFlags :=
  (List.range n).foldl (fun a e => if mask.getLsbD e then a ||| fl e else a) 0

/-! Rejections (R127), with the REASON codes of R132. -/

/-- The rejections that every vector instruction shares: RND above 5 (R45) and a type that is no register
type (R99). -/
def vopCommon (o : VOp) : List (Bool × Nat) := [(6 ≤ o.rnd.toNat, 2), (regType o.et = none, 2)]

/-- A register operation: its rejections beside the common ones, and its effect on the registers with the
flags it sets. It reads no memory. -/
def vopTodo (o : VOp) (i : Issue) (rej : List (Bool × Nat))
    (eff : VectorUnit → VectorUnit × FmtFlags) : Todo :=
  match firstReason (vopCommon o ++ rej) with
  | some r => .reject r
  | none => .run [] [] (fun _ => .now) (fun s =>
      let (u, fl) := eff (s.core i.core).vec
      (s.modVec i.core (fun _ => u)).flag i.core fl)

def vopType (o : VOp) : Fmt := (regType o.et).getD .fp32

/-- Operand B of element `e` (R106). -/
def opB (u : VectorUnit) (o : VOp) (w e : Nat) : Nat :=
  if o.bs then (u.scalar o.sb).toNat % 2 ^ w else elemOf (u.vreg o.vb) w e

/-- An element-wise operation from two sources and the old VD. -/
def elementwise (o : VOp) (f : Nat → Nat → Nat → Nat → Nat × FmtFlags) (u : VectorUnit) :
    VectorUnit × FmtFlags :=
  let t := vopType o
  let w := t.bits
  let a := u.vreg o.va
  let c := u.vreg o.vc
  let m := u.mask o.pm
  let r := fun e => f e (elemOf a w e) (opB u o w e) (elemOf c w e)
  (u.setV o.vd (merge (u.vreg o.vd) w m o.mz (fun e => (r e).1)), activeFlags t.lanes m (fun e => (r e).2))

/-! Arithmetic (R113 to R115). -/

/-- Conversion of an exact result to the element type. -/
def toElem (o : VOp) (t : Fmt) (e : Nat) (x : Num) : Nat × FmtFlags :=
  t.elem.encode o.rnd.toNat o.sat (laneRand o.imm t.bits e) x

/-- An integer result that wraps or saturates (R115). -/
def intResult (sat : Bool) (w : Nat) (x : Int) : Nat × FmtFlags :=
  if sat then
    let (v, c) := clampInt w x
    (intBits w v, if c then flOverflow else 0)
  else (intBits w x, 0)

def vAddSub (sub : Bool) (o : VOp) (e a b _c : Nat) : Nat × FmtFlags :=
  let t := vopType o
  if t.isInt then
    let x := signedVal t.bits a
    let y := signedVal t.bits b
    intResult o.sat t.bits (if sub then x - y else x + y)
  else
    let y := t.elem.decode b
    let (x, f1) := (t.elem.decode a).add (o.rnd == 2) (if sub then y.neg else y)
    let (r, f2) := toElem o t e x
    (r, f1 ||| f2)

def vMul (o : VOp) (e a b _c : Nat) : Nat × FmtFlags :=
  let t := vopType o
  if t.isInt then intResult o.sat t.bits (signedVal t.bits a * signedVal t.bits b)
  else
    let (x, f1) := (t.elem.decode a).mul (t.elem.decode b)
    let (r, f2) := toElem o t e x
    (r, f1 ||| f2)

def vFma (o : VOp) (e a b c : Nat) : Nat × FmtFlags :=
  let t := vopType o
  if t.isInt then
    intResult o.sat t.bits (signedVal t.bits a * signedVal t.bits b + signedVal t.bits c)
  else
    let (p, f1) := (t.elem.decode a).mul (t.elem.decode b)
    let (x, f2) := p.add (o.rnd == 2) (t.elem.decode c)
    let (r, f3) := toElem o t e x
    (r, f1 ||| f2 ||| f3)

/-- VMAX and VMIN (R114, R115): one of the operands, or NaN. -/
def vMaxMin (mx : Bool) (o : VOp) (_e a b _c : Nat) : Nat × FmtFlags :=
  let t := vopType o
  if t.isInt then
    let ge := decide (signedVal t.bits b ≤ signedVal t.bits a)
    (if ge == mx then a else b, 0)
  else
    let x := t.elem.decode a
    let y := t.elem.decode b
    if x.isNaN || y.isNaN then ((t.elem.encode 0 false 0 .nan).1, 0)
    else
      let ge := decide (0 ≤ Num.cmp true x y)
      (if ge == mx then a else b, 0)

/-- VSHL with saturation (R115). -/
def shlSat (w a n : Nat) : Nat × FmtFlags :=
  let x := signedVal w a
  if x = 0 then (0, 0) else
  intResult true w (x * 2 ^ (min n w))

def vShift (kind : Nat) (o : VOp) (_e a b _c : Nat) : Nat × FmtFlags :=
  let t := vopType o
  let w := t.bits
  let n := b % 256
  match kind with
  | 0 => if o.sat then shlSat w a n else (if w ≤ n then 0 else (a <<< n) % 2 ^ w, 0)
  | 1 => (if w ≤ n then 0 else a >>> n, 0)
  | _ => (intBits w (signedVal w a / 2 ^ (min n w)), 0)

def execVadd (i : Issue) (o : VOp) (s : State) : Out :=
  .next (s.present qVec 0x48 i (fun _ => vopTodo o i [] (elementwise o (vAddSub false o))))
def execVsub (i : Issue) (o : VOp) (s : State) : Out :=
  .next (s.present qVec 0x49 i (fun _ => vopTodo o i [] (elementwise o (vAddSub true o))))
def execVmul (i : Issue) (o : VOp) (s : State) : Out :=
  .next (s.present qVec 0x4A i (fun _ => vopTodo o i [] (elementwise o (vMul o))))
def execVfma (i : Issue) (o : VOp) (s : State) : Out :=
  .next (s.present qVec 0x4B i (fun _ => vopTodo o i [] (elementwise o (vFma o))))
def execVmax (i : Issue) (o : VOp) (s : State) : Out :=
  .next (s.present qVec 0x4C i (fun _ => vopTodo o i [] (elementwise o (vMaxMin true o))))
def execVmin (i : Issue) (o : VOp) (s : State) : Out :=
  .next (s.present qVec 0x4D i (fun _ => vopTodo o i [] (elementwise o (vMaxMin false o))))

/-- VAND, VOR and VXOR on the bits of any type (R115). -/
def vBits (k : Nat) (_e a b _c : Nat) : Nat × FmtFlags :=
  (if k = 0 then a &&& b else if k = 1 then a ||| b else a ^^^ b, 0)

def execVand (i : Issue) (o : VOp) (s : State) : Out :=
  .next (s.present qVec 0x50 i (fun _ => vopTodo o i [] (elementwise o (vBits 0))))
def execVor (i : Issue) (o : VOp) (s : State) : Out :=
  .next (s.present qVec 0x51 i (fun _ => vopTodo o i [] (elementwise o (vBits 1))))
def execVxor (i : Issue) (o : VOp) (s : State) : Out :=
  .next (s.present qVec 0x52 i (fun _ => vopTodo o i [] (elementwise o (vBits 2))))

/-- Shifts of a float type are rejected (R115). -/
def shiftRej (o : VOp) : List (Bool × Nat) := [(!(vopType o).isInt, 2)]

def execVshl (i : Issue) (o : VOp) (s : State) : Out :=
  .next (s.present qVec 0x53 i (fun _ => vopTodo o i (shiftRej o) (elementwise o (vShift 0 o))))
def execVshr (i : Issue) (o : VOp) (s : State) : Out :=
  .next (s.present qVec 0x54 i (fun _ => vopTodo o i (shiftRej o) (elementwise o (vShift 1 o))))
def execVsra (i : Issue) (o : VOp) (s : State) : Out :=
  .next (s.present qVec 0x55 i (fun _ => vopTodo o i (shiftRej o) (elementwise o (vShift 2 o))))

/-- VSPLAT (R116): IMM, or S[SB], in every active element. -/
def vSplat (o : VOp) (u : VectorUnit) : VectorUnit × FmtFlags :=
  let w := (vopType o).bits
  let x := (if o.bs then u.scalar o.sb else o.imm).toNat % 2 ^ w
  (u.setV o.vd (merge (u.vreg o.vd) w (u.mask o.pm) o.mz (fun _ => x)), 0)

def execVsplat (i : Issue) (o : VOp) (s : State) : Out :=
  .next (s.present qVec 0x4F i (fun _ => vopTodo o i [] (vSplat o)))

/-- VSEL (R116): VA where the mask bit is 1, else operand B. -/
def vSel (o : VOp) (u : VectorUnit) : VectorUnit × FmtFlags :=
  let w := (vopType o).bits
  let m := u.mask o.pm
  (u.setV o.vd (regOf w ((List.range (2048 / w)).map (fun e =>
    if m.getLsbD e then elemOf (u.vreg o.va) w e else opB u o w e))), 0)

def execVsel (i : Issue) (o : VOp) (s : State) : Out :=
  .next (s.present qVec 0x59 i (fun _ => vopTodo o i [] (vSel o)))

/-! Comparisons and masks (R117, R118). -/

/-- The conditions of R117 from the sign of a comparison. -/
def condOf (fn : Nat) (d : Int) : Bool :=
  match fn with
  | 0 => decide (d = 0) | 1 => decide (d ≠ 0) | 2 => decide (d < 0) | 3 => decide (d ≤ 0)
  | 4 => decide (0 < d) | 5 => decide (0 ≤ d) | 6 => true | _ => false

def vCmpOne (t : Fmt) (fn a b : Nat) : Bool :=
  if t.isInt then condOf fn (signedVal t.bits a - signedVal t.bits b)
  else
    let x := t.elem.decode a
    let y := t.elem.decode b
    if x.isNaN || y.isNaN then fn == 1 || fn == 7 else condOf fn (Num.cmp false x y)

/-- A mask from a predicate on its first `n` bits; the rest are 0. -/
def maskOf (n : Nat) (f : Nat → Bool) : BitVec 256 :=
  BitVec.ofNat 256 ((List.range n).foldr (fun e acc => (f e).toNat <<< e + acc) 0)

def vCmp (o : VOp) (u : VectorUnit) : VectorUnit × FmtFlags :=
  let t := vopType o
  let w := t.bits
  let m := u.mask o.pm
  (u.setP o.pd (maskOf t.lanes (fun e =>
    m.getLsbD e && vCmpOne t o.fn.toNat (elemOf (u.vreg o.va) w e) (opB u o w e))), 0)

/-- Conditions above 7 are reserved, and P0 is no destination (R100, R117). -/
def vcmpRej (o : VOp) : List (Bool × Nat) := [(8 ≤ o.fn.toNat, 2), (o.pd = 0, 5)]

def execVcmp (i : Issue) (o : VOp) (s : State) : Out :=
  .next (s.present qVec 0x58 i (fun _ => vopTodo o i (vcmpRej o) (vCmp o)))

/-- MOP (R118). -/
def mopMask (fn : Nat) (a b : BitVec 256) : BitVec 256 :=
  match fn with
  | 0 => a &&& b | 1 => a ||| b | 2 => a ^^^ b | 3 => a &&& ~~~b | 4 => ~~~a
  | 5 => BitVec.allOnes 256 | _ => 0

def vMop (o : VOp) (u : VectorUnit) : VectorUnit × FmtFlags :=
  (u.setP o.pd (mopMask o.fn.toNat (u.mask (o.va.setWidth 3)) (u.mask (o.vb.setWidth 3))), 0)

def mopRej (o : VOp) : List (Bool × Nat) := [(7 ≤ o.fn.toNat, 2), (o.pd = 0, 5)]

def execMop (i : Issue) (o : VOp) (s : State) : Out :=
  .next (s.present qVec 0x6C i (fun _ => vopTodo o i (mopRej o) (vMop o)))

/-- SOP (R119). -/
def vSop (o : VOp) (u : VectorUnit) : VectorUnit × FmtFlags :=
  let t := vopType o
  let x : BitVec 32 := match o.fn.toNat with
    | 0 => o.imm
    | 1 => u.scalar o.sb + o.imm
    | 2 => BitVec.ofNat 32 (elemOf (u.vreg o.va) t.bits o.imm.toNat)
    | _ => BitVec.ofNat 32 ((List.range t.lanes).filter (fun e => (u.mask o.pm).getLsbD e)).length
  (u.setS o.sd x, 0)

def sopRej (o : VOp) : List (Bool × Nat) :=
  [(4 ≤ o.fn.toNat, 2), (o.fn = 2 && decide ((vopType o).lanes ≤ o.imm.toNat), 2), (o.sd = 0, 5)]

def execSop (i : Issue) (o : VOp) (s : State) : Out :=
  .next (s.present qVec 0x6E i (fun _ => vopTodo o i (sopRej o) (vSop o)))

/-! Conversions (R120). -/

/-- PARTs of a conversion, elements converted, and whether PART selects the destination. -/
def cvtShape (ws wd : Nat) : Nat × Nat × Bool :=
  if ws = wd then (1, 2048 / ws, true)
  else if wd < ws then (ws / wd, 2048 / ws, true)
  else (wd / ws, 2048 / wd, false)

def vCvt (o : VOp) (src : Fmt) (u : VectorUnit) : VectorUnit × FmtFlags :=
  let t := vopType o
  let ws := src.bits
  let wd := t.bits
  let (_, n, dst) := cvtShape ws wd
  let k := o.part.toNat * n
  let d0 := if dst then k else 0
  let s0 := if dst then 0 else k
  let m := u.mask o.pm
  let conv := fun e =>
    let x := elemOf (u.vreg o.va) ws (s0 + (e - d0))
    if src = t then (x, 0) else toElem o t e (src.elem.decode x)
  let inr := fun e => decide (d0 ≤ e ∧ e < d0 + n)
  let old := u.vreg o.vd
  (u.setV o.vd (regOf wd ((List.range (2048 / wd)).map (fun e =>
      if !inr e then elemOf old wd e
      else if m.getLsbD e then (conv e).1 else if o.mz then 0 else elemOf old wd e))),
   (List.range (2048 / wd)).foldl (fun a e => if inr e && m.getLsbD e then a ||| (conv e).2 else a) 0)

/-- The source type of a VCVT. -/
def cvtSrc (o : VOp) : Fmt := (regType o.srct).getD .fp32

def vcvtRej (o : VOp) : List (Bool × Nat) :=
  [(regType o.srct = none, 2), (decide ((cvtShape (cvtSrc o).bits (vopType o).bits).1 ≤ o.part.toNat), 2)]

def execVcvt (i : Issue) (o : VOp) (s : State) : Out :=
  .next (s.present qVec 0x5C i (fun _ => vopTodo o i (vcvtRej o) (vCvt o (cvtSrc o))))

/-! Special functions (R121, R122). -/

/-- The FP32 bits of a float element, widened exactly. -/
def widen (t : Fmt) (a : Nat) : BitVec 32 :=
  if t = .fp32 then BitVec.ofNat 32 a else (toF32 (t.elem.decode a)).1

def vSfu (o : VOp) (e a _b _c : Nat) : Nat × FmtFlags :=
  let t := vopType o
  let (y, f1) := sfu o.fn.toNat (widen t a)
  let (r, f2) := if t = .fp32 then (y.toNat, 0) else toElem o t e (f32 y)
  (r, f1 ||| f2)

def vsfuRej (o : VOp) : List (Bool × Nat) := [(9 ≤ o.fn.toNat, 2), ((vopType o).isInt, 2)]

def execVsfu (i : Issue) (o : VOp) (s : State) : Out :=
  .next (s.present qVec 0x5D i (fun _ => vopTodo o i (vsfuRej o) (elementwise o (vSfu o))))

/-! Reductions (R123, R124). -/

/-- One level of the pairwise tree. A lone operand passes on unchanged (R124), the sign and payload of a NaN
included, though R36 says that no payload reaches an output (DESIGN CHOICE, Assumption 99). -/
def redLevel {α : Type} (f : α → α → α) : List (Option α) → List (Option α)
  | a :: b :: t =>
    (match a, b with
     | some x, some y => some (f x y)
     | some x, none => some x
     | none, y => y) :: redLevel f t
  | l => l

def redTree {α : Type} (f : α → α → α) : Nat → List (Option α) → Option α
  | 0, l => (l.head?).getD none
  | n + 1, l => redTree f n (redLevel f l)

/-- Float nodes: FP32 bits and flags. -/
def redFloat (fn : Nat) (a b : BitVec 32 × FmtFlags) : BitVec 32 × FmtFlags :=
  if fn = 0 then
    let (y, f) := f32Add a.1 b.1
    (y, a.2 ||| b.2 ||| f)
  else
    let x := f32 a.1
    let y := f32 b.1
    if x.isNaN || y.isNaN then (f32NaN, a.2 ||| b.2)
    else (if (decide (0 ≤ Num.cmp true x y)) == (fn == 1) then a.1 else b.1, a.2 ||| b.2)

def redInt (fn : Nat) (a b : Int) : Int :=
  if fn = 0 then a + b else if fn = 1 then max a b else min a b

/-- Integer sums wrap or saturate at each node (R115, R124). -/
def redIntNode (fn : Nat) (sat : Bool) (a b : BitVec 32 × FmtFlags) : BitVec 32 × FmtFlags :=
  let (r, fl) := intResult (sat && fn == 0) 32 (redInt fn a.1.toInt b.1.toInt)
  (BitVec.ofNat 32 r, a.2 ||| b.2 ||| fl)

def vRed (o : VOp) (u : VectorUnit) : VectorUnit × FmtFlags :=
  let t := vopType o
  let w := t.bits
  let m := u.mask o.pm
  let fn := o.fn.toNat
  let leaf := fun e => if m.getLsbD e then
      some ((if t.isInt then BitVec.ofInt 32 (signedVal w (elemOf (u.vreg o.va) w e))
             else widen t (elemOf (u.vreg o.va) w e)), (0 : FmtFlags))
    else none
  let empty : BitVec 32 := match fn, t.isInt with
    | 0, _ => 0
    | 1, true => 0x80000000
    | 1, false => 0xFF800000
    | _, true => 0x7FFFFFFF
    | _, false => 0x7F800000
  let (r, fl) := (redTree (if t.isInt then redIntNode fn o.sat else redFloat fn) (Nat.log2 t.lanes)
    ((List.range t.lanes).map leaf)).getD (empty, 0)
  (u.setV o.vd (r.setWidth 2048), fl)

def vredRej (o : VOp) : List (Bool × Nat) := [(3 ≤ o.fn.toNat, 2)]

def execVred (i : Issue) (o : VOp) (s : State) : Out :=
  .next (s.present qVec 0x5E i (fun _ => vopTodo o i (vredRej o) (vRed o)))

/-! Compress and expand (R125). -/

/-- Active element indices in ascending order. -/
def activeList (n : Nat) (m : BitVec 256) : List Nat := (List.range n).filter (fun e => m.getLsbD e)

/-- Position of `e` among the active elements. -/
def activeRank (m : BitVec 256) (e : Nat) : Nat := ((List.range e).filter (fun x => m.getLsbD x)).length

def vComp (o : VOp) (u : VectorUnit) : VectorUnit × FmtFlags :=
  let t := vopType o
  let w := t.bits
  let act := activeList t.lanes (u.mask o.pm)
  let old := u.vreg o.vd
  let src := u.vreg o.va
  let u := u.setV o.vd (regOf w ((List.range t.lanes).map (fun e =>
    match act[e]? with
    | some k => elemOf src w k
    | none => if o.mz then 0 else elemOf old w e)))
  (u.setS o.sd (BitVec.ofNat 32 act.length), 0)

def execVcomp (i : Issue) (o : VOp) (s : State) : Out :=
  .next (s.present qVec 0x68 i (fun _ => vopTodo o i [] (vComp o)))

def vExpd (o : VOp) (u : VectorUnit) : VectorUnit × FmtFlags :=
  let w := (vopType o).bits
  let m := u.mask o.pm
  let src := u.vreg o.va
  (u.setV o.vd (merge (u.vreg o.vd) w m o.mz (fun e => elemOf src w (activeRank m e))), 0)

def execVexpd (i : Issue) (o : VOp) (s : State) : Out :=
  .next (s.present qVec 0x69 i (fun _ => vopTodo o i [] (vExpd o)))

/-! Loads and stores (R107 to R112, R126). -/

/-- EOFF (R107). -/
def VectorUnit.eoff (u : VectorUnit) (o : VMemOp) : Nat := (u.scalar o.soff + o.eimm.setWidth 32).toNat

/-- Rejections on fields that every memory operation with elements shares (R45, R66, R99). -/
def vmemFields (o : VMemOp) : List (Bool × Nat) :=
  [(o.msel ≠ 0 ∧ o.msel.toNat < 4, 2), (6 ≤ o.rnd.toNat, 2), (regType o.et = none, 2),
   (Fmt.ofCode o.mfmt = none, 2)]

/-- Rejections of the offset and the range (R110, R111). -/
def State.vmemRange (s : State) (c : CoreId) (o : VMemOp) (f : Fmt) (n : Nat) (scales : Bool) :
    List (Bool × Nat) :=
  let e := (s.core c).vec.eoff o
  [(s.sel c o.msel = none, 3),
   (f.isBlock && e % 32 != 0, 4), (f = .int4 && e % 2 != 0, 4),
   (decide (n ≠ 0) && decide (2 ^ 20 < elemEnd f o.addr.toNat e n), 3),
   (scales && decide (n ≠ 0) && decide (2 ^ 20 < o.saddr.toNat + ((e + n - 1) / 32) / 32 + 1), 3)]

/-- Scales are read from SADDR: SCM 0 of an MX load, SCM 2 of a block store. -/
def loadScales (o : VMemOp) (f : Fmt) : Bool := f.isMX && o.scm == 0

/-- VLD (R108). A scale byte 0xFF and bad T2 bytes are reported for the whole range, which VLD reads whatever
the mask; the flags of conversions are those of active elements (DESIGN CHOICE, Assumption 99). -/
def State.vldEffect (i : Issue) (o : VMemOp) (m : CoreId) (t f : Fmt) (s : State) : State :=
  let c := i.core
  let u := (s.core c).vec
  let e0 := u.eoff o
  let w := t.bits
  let n := t.lanes
  let bare := o.scm == 1
  let rd := s.peek m
  let conv := fun e =>
    if f = t then (rdElem rd f o.addr.toNat (e0 + e), 0)
    else t.elem.encode o.rnd.toNat o.sat (laneRand o.seed w e) (rdNum rd f bare o.addr.toNat o.saddr.toNat (e0 + e))
  let mask := u.mask o.pm
  let fl := activeFlags n mask (fun e => (conv e).2) |||
    scaleFlags (scalesRead rd f bare o.addr.toNat o.saddr.toNat e0 n)
  let bad := if f = .t2 then t2BadRange rd o.addr.toNat (e0 / 32) (n / 32) else (0, 0)
  ((s.modVec c (fun u => u.setV o.vr (merge (u.vreg o.vr) w mask o.mz (fun e => (conv e).1)))).flag c fl).badT2
    c bad.1 bad.2

def State.vldPlan (i : Issue) (o : VMemOp) (s : State) : Todo :=
  match firstReason (vmemFields o) with
  | some r => .reject r
  | none =>
    match regType o.et, Fmt.ofCode o.mfmt with
    | some t, some f =>
      match firstReason ((f.isBlock && decide (2 ≤ o.scm.toNat), 2) ::
          s.vmemRange i.core o f t.lanes (loadScales o f)) with
      | some r => .reject r
      | none =>
        match s.sel i.core o.msel with
        | none => .reject 3
        | some m =>
          let e := (s.core i.core).vec.eoff o
          .run ((elemWords f o.addr.toNat e t.lanes ++
              (if loadScales o f then scaleWords o.saddr.toNat e t.lanes else [])).map (fun x => (m, x)))
            [] (fun _ => .now) (State.vldEffect i o m t f)
    | _, _ => .reject 2

def execVld (i : Issue) (o : VMemOp) (s : State) : Out := .next (s.present qVec 0x40 i (State.vldPlan i o))

/-- The writes of a VST and its flags (R109, R110). -/
def State.vstWrites (s : State) (c m : CoreId) (o : VMemOp) (t f : Fmt) : List Wr × FmtFlags :=
  let u := (s.core c).vec
  let e0 := u.eoff o
  let w := t.bits
  let x := u.vreg o.vr
  let rnd := o.rnd.toNat
  if f.isBlock then
    let r := (List.range (t.lanes / 32)).foldl (fun (acc : List Wr × FmtFlags) b =>
      let vs := (List.range 32).map (fun j =>
        (t.elem.decode (elemOf x w (32 * b + j)), laneRand o.seed w (32 * b + j)))
      let k := e0 / 32 + b
      let sm : ScaleMode := if o.scm = 0 then .chosen else if o.scm = 1 then .bare
        else .supplied (rdBits (s.peek m) o.saddr.toNat (8 * k) 8)
      let (sc, els, fl) := encodeBlock f sm rnd o.sat vs
      let wsc := if o.scm = 0 ∨ (o.scm = 2 ∧ f = .t2) then some sc else none
      (acc.1 ++ blockWrites m f o.addr.toNat o.saddr.toNat k wsc els, acc.2 ||| fl)) ([], 0)
    (wrJoin r.1, r.2)
  else
    let mask := u.mask o.pm
    let es := (activeList t.lanes mask).map (fun e =>
      (e, if f = t then (elemOf x w e, (0 : FmtFlags))
          else f.elem.encode rnd o.sat (laneRand o.seed w e) (t.elem.decode (elemOf x w e))))
    (wrJoin (es.flatMap (fun e => wrField m o.addr.toNat ((e0 + e.1) * f.bits) f.bits e.2.1)),
     es.foldl (fun a e => a ||| e.2.2) 0)

/-- The scale words a VST reads (SCM 2). -/
def vstScaleReads (o : VMemOp) (f : Fmt) (e n : Nat) : List Nat :=
  if f.isBlock && o.scm == 2 then scaleWords o.saddr.toNat e n else []

def State.vstPlan (i : Issue) (o : VMemOp) (s : State) : Todo :=
  match firstReason (vmemFields o) with
  | some r => .reject r
  | none =>
    match regType o.et, Fmt.ofCode o.mfmt with
    | some t, some f =>
      let sc := f.isBlock && (o.scm == 2 || (o.scm == 0 && f != .t2))
      match firstReason ((f.isBlock && o.scm == 3, 2) :: (f.isBlock && o.pm != 0, 5) ::
          s.vmemRange i.core o f t.lanes sc) with
      | some r => .reject r
      | none =>
        match s.sel i.core o.msel with
        | none => .reject 3
        | some m =>
          let (ws, fl) := s.vstWrites i.core m o t f
          let e := (s.core i.core).vec.eoff o
          .run (wrPartial ws ++ (vstScaleReads o f e t.lanes).map (fun x => (m, x))) (wrWords ws)
            (fun _ => .now) (fun s => (s.wrAll ws).flag i.core fl)
    | _, _ => .reject 2

def execVst (i : Issue) (o : VMemOp) (s : State) : Out := .next (s.present qVec 0x41 i (State.vstPlan i o))

/-- MFMT must equal ET (R126); the REASON is that of a reserved field value. -/
def xferFields (o : VMemOp) : List (Bool × Nat) := vmemFields o ++ [(decide (o.mfmt ≠ o.et), 2)]

/-- VXLD (R126). -/
def State.vxldEffect (i : Issue) (o : VMemOp) (m : CoreId) (t : Fmt) (s : State) : State :=
  let rd := s.peek m
  s.modVec i.core (fun u =>
    let e0 := u.eoff o
    let mask := u.mask o.pm
    let n := (activeList t.lanes mask).length
    let u' := u.setV o.vr (merge (u.vreg o.vr) t.bits mask o.mz (fun e =>
      rdElem rd t o.addr.toNat (e0 + activeRank mask e)))
    if n = 0 then u' else u'.setS o.soff (BitVec.ofNat 32 (e0 + n)))

def State.vxldPlan (i : Issue) (o : VMemOp) (s : State) : Todo :=
  match firstReason (xferFields o) with
  | some r => .reject r
  | none =>
    match regType o.et with
    | none => .reject 2
    | some t =>
      let u := (s.core i.core).vec
      let n := (activeList t.lanes (u.mask o.pm)).length
      match firstReason (s.vmemRange i.core o t n false) with
      | some r => .reject r
      | none =>
        match s.sel i.core o.msel with
        | none => .reject 3
        | some m => .run ((elemWords t o.addr.toNat (u.eoff o) n).map (fun x => (m, x))) []
            (fun _ => .now) (State.vxldEffect i o m t)

def execVxld (i : Issue) (o : VMemOp) (s : State) : Out := .next (s.present qVec 0x42 i (State.vxldPlan i o))

/-- The writes of a VCST (R126). -/
def State.vcstWrites (s : State) (c m : CoreId) (o : VMemOp) (t : Fmt) : List Wr :=
  let u := (s.core c).vec
  wrJoin (elemWrites m t o.addr.toNat (u.eoff o)
    ((activeList t.lanes (u.mask o.pm)).map (elemOf (u.vreg o.vr) t.bits)))

def State.vcstPlan (i : Issue) (o : VMemOp) (s : State) : Todo :=
  match firstReason (xferFields o) with
  | some r => .reject r
  | none =>
    match regType o.et with
    | none => .reject 2
    | some t =>
      let u := (s.core i.core).vec
      let n := (activeList t.lanes (u.mask o.pm)).length
      match firstReason (s.vmemRange i.core o t n false) with
      | some r => .reject r
      | none =>
        match s.sel i.core o.msel with
        | none => .reject 3
        | some m =>
          let ws := s.vcstWrites i.core m o t
          .run (wrPartial ws) (wrWords ws) (fun _ => .now) (fun s =>
            (s.wrAll ws).modVec i.core (fun u =>
              if n = 0 then u else u.setS o.soff (BitVec.ofNat 32 (u.eoff o + n))))

def execVcst (i : Issue) (o : VMemOp) (s : State) : Out := .next (s.present qVec 0x43 i (State.vcstPlan i o))

/-- The rejections of MLD and MST: the fields (R34, R45, R66), and the word's address (R107, R111). -/
def State.maskRej (s : State) (c : CoreId) (o : VMemOp) : List (Bool × Nat) :=
  vmemFields o ++ [(decide (s.sel c o.msel = none), 3),
   (pastMem (o.addr.toNat + (s.core c).vec.eoff o) 1, 3)]

/-- MLD (R112); P0 as a destination is rejected (R100). -/
def State.mldPlan (i : Issue) (o : VMemOp) (s : State) : Todo :=
  match firstReason (s.maskRej i.core o ++ [(decide (o.vr.setWidth 3 = (0 : BitVec 3)), 5)]), s.sel i.core o.msel with
  | some r, _ => .reject r
  | none, none => .reject 3
  | none, some m =>
    let a := o.addr.toNat + (s.core i.core).vec.eoff o
    .run [(m, a)] [] (fun _ => .now) (fun s =>
      let w := s.peek m a
      s.modVec i.core (fun u => u.setP (o.vr.setWidth 3) w))

def execMld (i : Issue) (o : VMemOp) (s : State) : Out := .next (s.present qVec 0x44 i (State.mldPlan i o))

/-- MST (R112). -/
def State.mstPlan (i : Issue) (o : VMemOp) (s : State) : Todo :=
  match firstReason (s.maskRej i.core o), s.sel i.core o.msel with
  | some r, _ => .reject r
  | none, none => .reject 3
  | none, some m =>
    let u := (s.core i.core).vec
    let a := o.addr.toNat + u.eoff o
    .run [] [(m, a)] (fun _ => .now) (fun s => s.poke m a (u.mask (o.vr.setWidth 3)))

def execMst (i : Issue) (o : VMemOp) (s : State) : Out := .next (s.present qVec 0x45 i (State.mstPlan i o))

end Sys2Proof.Machine
end

