-- ==== Sys2Proof/Machine/Image.lean ====
section
/-! DEFINITION. The words of the instruction store: the common header (R256), the fields of every
instruction, and the rejections that the fields alone reveal (R258 step 9). -/

namespace Sys2Proof.Machine

/-- A bit of a list of reserved fields (low bit and width) is 1 (Assumption 40). -/
def reserved (w : MWord) (l : List (Nat × Nat)) : Bool := l.any (fun x => wordField w x.1 x.2 != 0)

/-- The common header (R256). -/
def headerOf (w : MWord) : Header where
  slack := w.extractLsb' 58 6
  i1ctr := w.extractLsb' 53 5
  i1en := w.getLsbD 52
  i0ctr := w.extractLsb' 47 5
  i0en := w.getLsbD 46
  w1tgt := w.extractLsb' 34 12
  w1ctr := w.extractLsb' 29 5
  w1en := w.getLsbD 28
  w0tgt := w.extractLsb' 16 12
  w0ctr := w.extractLsb' 11 5
  w0en := w.getLsbD 10
  bar := w.getLsbD 9
  kend := w.getLsbD 8

/-- R67. -/
def passOpOf (w : MWord) : Option PassOp :=
  if reserved w [(176, 80), (153, 2)] then none else some {
    cntAddr := w.extractLsb' 156 20, lenInd := w.getLsbD 155, fwdStream := w.extractLsb' 147 6,
    ascale := w.extractLsb' 127 20, fwdFmt := w.extractLsb' 125 2, fwd := w.getLsbD 124,
    swap := w.getLsbD 123, accMode := w.extractLsb' 121 2, accBase := w.extractLsb' 109 12,
    len := w.extractLsb' 97 12, sparse := w.extractLsb' 95 2, wfmt := w.extractLsb' 91 4,
    afmt := w.extractLsb' 87 4, asel := w.extractLsb' 84 3, aaddr := w.extractLsb' 64 20 }

/-- R70. -/
def accoutOpOf (w : MWord) : Option AccoutOp :=
  if reserved w [(173, 83)] then none else some {
    srcInt := w.getLsbD 172, seed := w.extractLsb' 140 32, dscale := w.extractLsb' 120 20,
    clear := w.getLsbD 119, sat := w.getLsbD 118, rnd := w.extractLsb' 115 3,
    dfmt := w.extractLsb' 111 4, dsel := w.extractLsb' 108 3, daddr := w.extractLsb' 88 20,
    count := w.extractLsb' 76 12, accBase := w.extractLsb' 64 12 }

/-- R71. -/
def ewiseOpOf (w : MWord) : Option EwiseOp :=
  if reserved w [(184, 72)] then none else some {
    bsel := w.extractLsb' 181 3, asel := w.extractLsb' 178 3, bscale := w.extractLsb' 158 20,
    ascale := w.extractLsb' 138 20, count := w.extractLsb' 126 12, accBase := w.extractLsb' 114 12,
    op := w.extractLsb' 112 2, bfmt := w.extractLsb' 108 4, afmt := w.extractLsb' 104 4,
    baddr := w.extractLsb' 84 20, aaddr := w.extractLsb' 64 20 }

/-- R107. -/
def vMemOpOf (w : MWord) : Option VMemOp :=
  if reserved w [(208, 48), (64, 22)] then none else some {
    seed := w.extractLsb' 176 32, eimm := w.extractLsb' 156 20, soff := w.extractLsb' 152 4,
    scm := w.extractLsb' 150 2, sat := w.getLsbD 149, rnd := w.extractLsb' 146 3,
    et := w.extractLsb' 142 4, mfmt := w.extractLsb' 138 4, saddr := w.extractLsb' 118 20,
    addr := w.extractLsb' 98 20, mz := w.getLsbD 97, pm := w.extractLsb' 94 3,
    msel := w.extractLsb' 91 3, vr := w.extractLsb' 86 5 }

/-- R106. -/
def vOpOf (w : MWord) : Option VOp :=
  if reserved w [(160, 96), (64, 10)] then none else some {
    imm := w.extractLsb' 128 32, srct := w.extractLsb' 124 4, part := w.extractLsb' 122 2,
    sd := w.extractLsb' 118 4, sb := w.extractLsb' 114 4, bs := w.getLsbD 113,
    pd := w.extractLsb' 110 3, fn := w.extractLsb' 106 4, sat := w.getLsbD 105,
    rnd := w.extractLsb' 102 3, et := w.extractLsb' 98 4, mz := w.getLsbD 97, pm := w.extractLsb' 94 3,
    vc := w.extractLsb' 89 5, vb := w.extractLsb' 84 5, va := w.extractLsb' 79 5,
    vd := w.extractLsb' 74 5 }

/-- R136. -/
def normOpOf (w : MWord) : Option NormOp :=
  if reserved w [(64, 14)] then none else some {
    scale := w.extractLsb' 224 32, flagAddr := w.extractLsb' 204 20, maddr := w.extractLsb' 184 20,
    cbase := w.extractLsb' 168 16, mmode := w.extractLsb' 166 2, nmode := w.extractLsb' 164 2,
    rnd := w.extractLsb' 161 3, sat := w.getLsbD 160, ofmt := w.extractLsb' 156 4,
    ifmt := w.extractLsb' 152 4, rows := w.extractLsb' 140 12, len := w.extractLsb' 124 16,
    osel := w.extractLsb' 121 3, isel := w.extractLsb' 118 3, oaddr := w.extractLsb' 98 20,
    iaddr := w.extractLsb' 78 20 }

/-- R140. -/
def tileOpOf (w : MWord) : Option TileOp :=
  if reserved w [(64, 35)] then none else some {
    cmaddr := w.extractLsb' 236 20, cmpct := w.getLsbD 235, bmaddr := w.extractLsb' 215 20,
    bmidx := w.extractLsb' 201 14, bmen := w.getLsbD 200, mdaddr := w.extractLsb' 180 20,
    saddr := w.extractLsb' 160 20, sparse := w.extractLsb' 158 2, wfmt := w.extractLsb' 154 4,
    wsel := w.extractLsb' 151 3, waddr := w.extractLsb' 131 20, cmbase := w.extractLsb' 115 16,
    cmlen := w.extractLsb' 99 16 }

/-- R145. -/
def dispOpOf (w : MWord) : Option DispOp :=
  if reserved w [(64, 63)] then none else some {
    iaddr := w.extractLsb' 236 20, nrows := w.extractLsb' 220 16, count := w.extractLsb' 208 12,
    roww := w.extractLsb' 196 12, ssel := w.extractLsb' 193 3, saddr := w.extractLsb' 173 20,
    dsel := w.extractLsb' 170 3, daddr := w.extractLsb' 150 20, cntInd := w.getLsbD 149,
    cntAddr := w.extractLsb' 129 20, empty := w.extractLsb' 127 2 }

/-- R147. -/
def dslotOpOf (w : MWord) : Option DslotOp :=
  if reserved w [(64, 54)] then none else some {
    caddr := w.extractLsb' 236 20, sladdr := w.extractLsb' 216 20, fladdr := w.extractLsb' 196 20,
    cbaddr := w.extractLsb' 176 20, tokens := w.extractLsb' 164 12, e := w.extractLsb' 154 10,
    k := w.extractLsb' 148 6, alt := w.extractLsb' 144 4, cap := w.extractLsb' 132 12,
    ocap := w.extractLsb' 120 12, policy := w.extractLsb' 118 2 }

/-- R150. -/
def adapterOpOf (w : MWord) : Option AdapterOp :=
  if reserved w [(64, 21)] then none else some {
    diraddr := w.extractLsb' 236 20, idaddr := w.extractLsb' 216 20, xaddr := w.extractLsb' 196 20,
    xscale := w.extractLsb' 176 20, uaddr := w.extractLsb' 156 20, xfmt := w.extractLsb' 152 4,
    xsel := w.extractLsb' 149 3, klen := w.extractLsb' 133 16, cols := w.extractLsb' 121 12,
    rows := w.extractLsb' 109 12, accBase := w.extractLsb' 97 12, bcol := w.extractLsb' 85 12 }

/-- R154. -/
def kvOpOf (w : MWord) : Option KvOp :=
  if reserved w [(64, 15)] then none else some {
    desc := w.extractLsb' 240 16, parent := w.extractLsb' 224 16, dtaddr := w.extractLsb' 204 20,
    ixaddr := w.extractLsb' 184 20, ixbits := w.extractLsb' 179 5, srcaddr := w.extractLsb' 159 20,
    tokaddr := w.extractLsb' 139 20, cntaddr := w.extractLsb' 119 20, roww := w.extractLsb' 107 12,
    n := w.extractLsb' 100 7, cntInd := w.getLsbD 99, delta := w.extractLsb' 83 16,
    ssel := w.extractLsb' 80 3, direct := w.getLsbD 79 }

/-- R157. -/
def xferOpOf (w : MWord) : Option XferOp :=
  if reserved w [(64, 48)] then none else some {
    chip := w.extractLsb' 242 14, part := w.extractLsb' 238 4, win := w.extractLsb' 230 8,
    woff := w.extractLsb' 210 20, laddr := w.extractLsb' 190 20, lsel := w.extractLsb' 187 3,
    daddr := w.extractLsb' 167 20, dsel := w.extractLsb' 164 3, len := w.extractLsb' 144 20,
    cls := w.extractLsb' 142 2, wmode := w.extractLsb' 140 2, arrv := w.extractLsb' 120 20,
    acnt := w.extractLsb' 115 5, acen := w.getLsbD 114, ack := w.getLsbD 113, wsrc := w.getLsbD 112 }

/-- R161. -/
def streamOpOf (w : MWord) : Option StreamOp :=
  if reserved w [(64, 105)] then none else some {
    chip := w.extractLsb' 242 14, part := w.extractLsb' 238 4, win := w.extractLsb' 230 8,
    stream := w.extractLsb' 224 6, cls := w.extractLsb' 222 2, ridxaddr := w.extractLsb' 202 20,
    rscaddr := w.extractLsb' 182 20, rscen := w.getLsbD 181, passes := w.extractLsb' 169 12 }

/-- R163. -/
def reduceOpOf (w : MWord) : Option ReduceOp :=
  if reserved w [(64, 131)] then none else some {
    win := w.extractLsb' 248 8, accBase := w.extractLsb' 236 12, rows := w.extractLsb' 224 12,
    sources := w.extractLsb' 216 8, srclist := w.extractLsb' 196 20, init := w.getLsbD 195 }

/-- R165. -/
def msendOpOf (w : MWord) : Option MsendOp :=
  if reserved w [(64, 134)] then none else some {
    stream := w.extractLsb' 250 6, src := w.getLsbD 249, accBase := w.extractLsb' 237 12,
    count := w.extractLsb' 225 12, maddr := w.extractLsb' 205 20, msel := w.extractLsb' 202 3,
    fmt := w.extractLsb' 200 2, w := w.extractLsb' 198 2 }

/-- R214. -/
def bankOpOf (w : MWord) : Option BankOp :=
  if reserved w [(64, 31)] then none else some {
    opnd := w.extractLsb' 224 32, cmpv := w.extractLsb' 192 32, raddr := w.extractLsb' 172 20,
    baddr := w.extractLsb' 152 20, bsel := w.extractLsb' 149 3, len := w.extractLsb' 129 20,
    cond := w.extractLsb' 126 3, et := w.getLsbD 125, aop := w.extractLsb' 121 4,
    elem := w.extractLsb' 118 3, asel := w.extractLsb' 115 3, addr := w.extractLsb' 95 20 }

/-! Opcodes (R66, R104, R133, R214, R235). -/

def arrayWord (i : Issue) (w : MWord) : Nat → Option Instr
  | 0x20 => (passOpOf w).map (fun o => .pass i o {})
  | 0x21 => (accoutOpOf w).map (.accout i)
  | 0x22 => (ewiseOpOf w).map (.ewise i)
  | 0x23 => if reserved w [(64, 192)] then none else some (.ffence i)
  | _ => none

def vmemWord (i : Issue) (w : MWord) (f : Issue → VMemOp → Instr) : Option Instr := (vMemOpOf w).map (f i)
def vopWord (i : Issue) (w : MWord) (f : Issue → VOp → Instr) : Option Instr := (vOpOf w).map (f i)

def vecWord (i : Issue) (w : MWord) : Nat → Option Instr
  | 0x40 => vmemWord i w .vld
  | 0x41 => vmemWord i w .vst
  | 0x42 => vmemWord i w .vxld
  | 0x43 => vmemWord i w .vcst
  | 0x44 => vmemWord i w .mld
  | 0x45 => vmemWord i w .mst
  | 0x48 => vopWord i w .vadd
  | 0x49 => vopWord i w .vsub
  | 0x4A => vopWord i w .vmul
  | 0x4B => vopWord i w .vfma
  | 0x4C => vopWord i w .vmax
  | 0x4D => vopWord i w .vmin
  | 0x4F => vopWord i w .vsplat
  | 0x50 => vopWord i w .vand
  | 0x51 => vopWord i w .vor
  | 0x52 => vopWord i w .vxor
  | 0x53 => vopWord i w .vshl
  | 0x54 => vopWord i w .vshr
  | 0x55 => vopWord i w .vsra
  | 0x58 => vopWord i w .vcmp
  | 0x59 => vopWord i w .vsel
  | 0x5C => vopWord i w .vcvt
  | 0x5D => vopWord i w .vsfu
  | 0x5E => vopWord i w .vred
  | 0x68 => vopWord i w .vcomp
  | 0x69 => vopWord i w .vexpd
  | 0x6C => vopWord i w .mop
  | 0x6E => vopWord i w .sop
  | _ => none

/-- The instruction that a word of a queue spells; none where the opcode is foreign to the queue or a
reserved bit is 1. -/
def wordInstr (i : Issue) (q : Nat) (w : MWord) : Option Instr :=
  let op := wordField w 0 8
  match q with
  | 0 => if op = 0x80 then (normOpOf w).map (.nsmax i) else if op = 0x81 then (normOpOf w).map (.nnorm i) else none
  | 1 => if op = 0x90 then (dispOpOf w).map (.dgather i) else if op = 0x91 then (dispOpOf w).map (.dscatter i)
    else if op = 0x92 then (dslotOpOf w).map (.dslot i) else none
  | 2 => if op = 0xA0 then (tileOpOf w).map (.tile i) else none
  | 3 => if op = 0xB0 then (adapterOpOf w).map (.adown i) else if op = 0xB1 then (adapterOpOf w).map (.aup i) else none
  | 4 => if op = 0xC0 then (kvOpOf w).map (.kappend i) else if op = 0xC1 then (kvOpOf w).map (.kcommit i)
    else if op = 0xC2 then (kvOpOf w).map (.kdiscard i) else if op = 0xC3 then (kvOpOf w).map (.khash i)
    else if op = 0xC4 then (kvOpOf w).map (.kfind i) else if op = 0xC5 then (kvOpOf w).map (.kref i) else none
  | 5 => if op = 0xD0 then (xferOpOf w).map (.tcopy i) else if op = 0xD1 then (xferOpOf w).map (.tsend i)
    else if op = 0xD2 then (xferOpOf w).map (.tget i) else if op = 0xD3 then (xferOpOf w).map (.twin i)
    else if op = 0xD4 then (xferOpOf w).map (.tdrain i) else none
  | 6 => if op = 0xE0 then (streamOpOf w).map (.mstream i) else if op = 0xE1 then (reduceOpOf w).map (.mreduce i)
    else if op = 0xE2 then (msendOpOf w).map (.msend i) else none
  | 7 => if op = 0xF0 then (bankOpOf w).map (.batom i) else if op = 0xF1 then (bankOpOf w).map (.bcount i)
    else if op = 0xF2 then (bankOpOf w).map (.bcmp i) else none
  | 8 => arrayWord i w op
  | 9 => vecWord i w op
  | _ => none

/-! Rejections that depend on the fields alone (R258 step 9). -/

/-- A core with no data: every run-time value is zero, and every stream is configured. -/
def Core.noData (k : Core) : Core :=
  { fixedOrder := k.fixedOrder,
    streams := (List.range 64).map (fun n =>
      (n, { chip := 0, part := 0, win := 0, cls := 0, ridx := 0, rsc := 0, rscen := false, passes := 1 })) }

/-- The state on which an instruction shows only what its fields reveal: no data, no open window, no
pairing and no safety partition. -/
def State.noData (s : State) : State :=
  { s with cores := s.cores.map Core.noData, parts := Vector.replicate 12 {}, safety := false }

/-- REASON of a plan that rejects. -/
def Todo.reason : Todo → Option Nat
  | .reject r => some r
  | .need _ t => t.reason
  | .stream _ t => t.reason
  | .wait _ => none
  | .run _ _ _ _ => none

def vopReason (o : VOp) (rej : List (Bool × Nat)) : Option Nat := firstReason (vopCommon o ++ rej)

/-- With SOFF other than S0 the offset and the range are found at issue (R111). -/
def vmemStatic (o : VMemOp) : VMemOp := if o.soff = 0 then o else { o with addr := 0, saddr := 0, eimm := 0 }

/-- An engine instruction's rejection at issue in a state. -/
def instrReason (s : State) : Instr → Option Nat
  | .pass i o _ => s.passRejectOn i.core o (some ({}, false))
  | .accout i o => (State.accoutPlan i o s).reason
  | .ewise i o => (State.ewisePlan i o s).reason
  | .vld i o => (State.vldPlan i (vmemStatic o) s).reason
  | .vst i o => (State.vstPlan i (vmemStatic o) s).reason
  | .vxld i o => (State.vxldPlan i (vmemStatic o) s).reason
  | .vcst i o => (State.vcstPlan i (vmemStatic o) s).reason
  | .mld i o => (State.mldPlan i (vmemStatic o) s).reason
  | .mst i o => (State.mstPlan i (vmemStatic o) s).reason
  | .vadd _ o => vopReason o []
  | .vsub _ o => vopReason o []
  | .vmul _ o => vopReason o []
  | .vfma _ o => vopReason o []
  | .vmax _ o => vopReason o []
  | .vmin _ o => vopReason o []
  | .vsplat _ o => vopReason o []
  | .vand _ o => vopReason o []
  | .vor _ o => vopReason o []
  | .vxor _ o => vopReason o []
  | .vshl _ o => vopReason o (shiftRej o)
  | .vshr _ o => vopReason o (shiftRej o)
  | .vsra _ o => vopReason o (shiftRej o)
  | .vcmp _ o => vopReason o (vcmpRej o)
  | .vsel _ o => vopReason o []
  | .vcvt _ o => vopReason o (vcvtRej o)
  | .vsfu _ o => vopReason o (vsfuRej o)
  | .vred _ o => vopReason o (vredRej o)
  | .vcomp _ o => vopReason o []
  | .vexpd _ o => vopReason o []
  | .mop _ o => vopReason o (mopRej o)
  | .sop _ o => vopReason o (sopRej o)
  | .nsmax i o => (State.nsmaxPlan i o s).reason
  | .nnorm i o => (State.nnormPlan i o s).reason
  | .dgather i o => (State.gatherPlan i o s).reason
  | .dscatter i o => (State.scatterPlan i o s).reason
  | .dslot _ o => dslotReject o
  | .tile i o => s.tileReject i.core o
  | .adown i o => s.adownReject i.core o
  | .aup i o => s.aupReject i.core o
  | .kappend i o => (State.kappendPlan i o s).reason
  | .kcommit i o => (State.kcommitPlan i o s).reason
  | .kdiscard i o => (State.kdiscardPlan i o s).reason
  | .khash i o => (State.khashPlan i o s).reason
  | .kfind i o => (State.kfindPlan i o s).reason
  | .kref i o => (State.krefPlan i o s).reason
  | .tcopy i o => s.tcopyReject i.core o
  | .tsend i o => s.sendReject i.core o
  | .tget i o => (State.tgetPlan i o s).reason
  | .twin i o => s.twinReject i.core o
  | .tdrain i o => (State.tdrainPlan i o s).reason
  | .mstream i o => (State.mstreamPlan i o s).reason
  | .mreduce i o => s.reduceReject i.core o
  | .msend i o => s.msendReject i.core o
  | .batom i o => (State.batomPlan i o s).reason
  | .bcount i o => (State.bcountPlan i o s).reason
  | .bcmp i o => (State.bcmpPlan i o s).reason
  | _ => none

/-- What one instruction uses of its core beside memory: the counter that a window it opens counts on, and
whether it names class 0 (R372). -/
def instrOpens : Instr → Option (BitVec 5)
  | .twin _ o => if o.acen ∧ o.wmode ≠ 0 then some o.acnt else none
  | _ => none

def instrClassZero : Instr → Bool
  | .tsend _ o => o.cls == 0
  | .tget _ o => o.cls == 0
  | .mstream _ o => o.cls == 0
  | _ => false

/-- A REASON that data could not have caused: outside the vector queue, 4 names a value read from memory. -/
def staticReason (q : Nat) : Option Nat → Bool
  | none => false
  | some r => q == 9 || r != 4

/-- Counter uses against the declarations (R256, R262): local counters grow by headers, the others by
windows, and only a barrier counter carries a BAR wait. -/
def badCounters (k : Core) (h : Header) (x : Instr) : Bool :=
  let c := k.counter
  let loc (n : BitVec 5) : Bool := (c n).decl && (c n).kind == 0
  (h.w0en && !(c h.w0ctr).decl) || (h.w1en && !(c h.w1ctr).decl) ||
  (h.i0en && !loc h.i0ctr) || (h.i1en && !loc h.i1ctr) ||
  (h.bar && (!h.w0en || (c h.w0ctr).kind != 2)) ||
  (match instrOpens x with
   | some n => !(c n).decl || ((c n).kind != 1 && (c n).kind != 2)
   | none => false)

/-- The static check of one word (R258 step 9, R372): it answers whether the word passes. -/
def State.wordOk (s : State) (c : CoreId) (q : Nat) (w : MWord) : Bool :=
  let h := headerOf w
  match wordInstr { core := c, hdr := h } q w with
  | none => false
  | some x =>
    !staticReason q (instrReason s.noData x) && !badCounters (s.core c) h x &&
    !(s.safety && partOf c != 0 && instrClassZero x)

/-- An instruction of the word names class 0 (R275). -/
def wordClassZero (c : CoreId) (q : Nat) (w : MWord) : Bool :=
  match wordInstr { core := c } q w with
  | some x => instrClassZero x
  | none => false

/-- No strided field wraps, and every word that an instruction can be in its loops' first and last iterations
passes. -/
def State.instrOk (s : State) (c : CoreId) (q : Nat) (ls : List MWord) (i : Nat) (w : MWord) : Bool :=
  !strideWraps ls i w && (loopCorners (loopsOf ls i)).all (fun its => s.wordOk c q (loopWord its i w))

end Sys2Proof.Machine
end

