-- ==== Sys2Proof/Machine/Loader.lean ====
section
/-! DEFINITION. The loader (R250 to R261, R263, R437): the steps of PROG_LOAD, and PROG_PATCH. -/

namespace Sys2Proof.Machine

/-- A failure of R437: the step, the status, and what it concerns. -/
structure LoadErr where
  step   : Nat
  status : Nat
  rank   : Nat := 0xFF
  queue  : Nat := 0xFF
  index  : Nat := 0xFFFFFFFF
  deriving DecidableEq, Repr

abbrev Load (α : Type) := Except LoadErr α

/-- Fails where a condition holds. -/
def failIf (b : Bool) (e : LoadErr) : Load Unit := if b then .error e else .ok ()

/-- The body of a failed PROG_LOAD. -/
def LoadErr.body (e : LoadErr) : List Byte :=
  leBytes 1 e.step ++ leBytes 1 e.rank ++ leBytes 1 e.queue ++ [0] ++ leBytes 4 e.index

/-! Step 2: the header and the section table (R250, R251, R254). -/

/-- A section: `words` are a QUEUE's or LOOPS' items or all words of a DATA section, `heads` the region,
offset and words of each DATA item. -/
structure Sect where
  typ   : Nat
  rank  : Nat
  queue : Nat
  live  : Bool
  body  : List Byte
  items : Nat
  words : List MWord := []
  heads : List (Nat × Nat × Nat) := []
  deriving DecidableEq, Repr

/-- The items of a DATA section (R254): none where they do not fill the section exactly. -/
def dataItems : Nat → List Byte → Option (List (Nat × Nat × Nat × List MWord))
  | 0, bs => if bs = [] then some [] else none
  | n + 1, bs =>
    let w := leAt bs 8 4
    if bs.length < 16 + 32 * w ∨ leAt bs 2 2 ≠ 0 ∨ leAt bs 12 4 ≠ 0 then none
    else match dataItems n (bs.drop (16 + 32 * w)) with
      | none => none
      | some t => some ((leAt bs 0 2, leAt bs 4 4, w, wordsOfBytes ((bs.drop 16).take (32 * w))) :: t)

/-- Bytes of one item of a section type of fixed size. -/
def itemSize (typ : Nat) : Nat :=
  match typ with
  | 1 => 32 | 2 => 32 | 3 => 16 | 4 => 8 | 5 => 24 | 7 => 4 | _ => 8

/-- Types tied to a rank. -/
def rankTied (typ : Nat) : Bool := (1 ≤ typ && typ ≤ 4) || typ == 6

/-- Section `i` of an image for a partition of `n` cores. -/
def section_ (bs : List Byte) (n i : Nat) : Load Sect :=
  let e : List Byte := (bs.drop (128 + 16 * i)).take 16
  let typ := leAt e 0 1
  let rank := leAt e 1 1
  let queue := leAt e 2 1
  let cpp := leAt e 3 1
  let off := leAt e 4 4
  let len := leAt e 8 4
  let items := leAt e 12 4
  let bad : LoadErr := { step := 2, status := stBOUNDS }
  let live := (cpp == 0 || cpp == n) && (!rankTied typ || decide (rank < n))
  let body := (bs.drop off).take len
  let x : Sect := { typ := typ, rank := rank, queue := queue, live := live, body := body, items := items }
  if typ = 0 ∨ 8 < typ then .error { bad with status := stVERSION }
  else if (if rankTied typ then decide (7 < rank) else rank != 0xFF) = true then .error bad
  else if (if typ = 1 ∨ typ = 2 then decide (9 < queue) else queue != 0xFF) = true then .error bad
  else if bs.length < off + len then .error bad
  else if typ = 6 then
    match dataItems items body with
    | none => .error bad
    | some ds => .ok { x with words := ds.flatMap (fun d => d.2.2.2), heads := ds.map (fun d => (d.1, d.2.1, d.2.2.1)) }
  else if len ≠ items * itemSize typ then .error bad
  else .ok { x with words := if typ = 1 ∨ typ = 2 then wordsOfBytes body else [] }

/-- The sections of an image. -/
def sections (bs : List Byte) (n : Nat) : List Nat → Load (List Sect)
  | [] => .ok []
  | i :: t => do
    let x ← section_ bs n i
    let r ← sections bs n t
    .ok (x :: r)

/-- Two sections that name the same queue. -/
def sameQueue (a b : Sect) : Bool :=
  a.live && b.live && a.typ == b.typ && (a.typ == 1 || a.typ == 2) && a.rank == b.rank && a.queue == b.queue

def dupQueue : List Sect → Bool
  | [] => false
  | a :: t => t.any (sameQueue a) || dupQueue t

/-- Step 2 of R258 for an object of `total` bytes. -/
def loadHeader (bs : List Byte) (n total : Nat) : Load (List Sect) := do
  let bad : LoadErr := { step := 2, status := stBOUNDS }
  failIf (decide (bs.length < 128) || leAt bs 0 4 != 0x4D495A42) bad
  failIf (leAt bs 4 2 != 3) { bad with status := stVERSION }
  failIf (decide (16 ≤ leAt bs 6 2) || decide (4096 ≤ leAt bs 8 2) || leAt bs 10 2 != 0 || leAt bs 28 4 != 0 ||
    ((bs.drop 96).take 32).any (· != 0)) bad
  let k := leAt bs 20 4
  failIf (leAt bs 24 4 != total || k == 0 || decide (4096 < k) || decide (total < 128 + 16 * k)) bad
  let xs ← sections bs n (List.range k)
  failIf (dupQueue xs || (xs.filter (fun x => x.live && x.typ == 7)).length != 1) bad
  return xs

/-! Steps 3 to 5. -/

/-- The DIGEST of an image (R250). -/
def imageDigest (bs : List Byte) : List Byte := shake256 (bs.take 32 ++ List.replicate 64 0 ++ bs.drop 96) 64

/-- Live sections of a type, and those of one rank. -/
def liveOf (xs : List Sect) (typ : Nat) : List Sect := xs.filter (fun x => x.live && x.typ == typ)
def liveRank (xs : List Sect) (typ r : Nat) : List Sect := (liveOf xs typ).filter (fun x => x.rank == r)

/-- The items of sections, as byte strings of their item size. -/
def itemsOf (xs : List Sect) : List (List Byte) :=
  xs.flatMap (fun x => (List.range x.items).map (fun i => (x.body.drop (itemSize x.typ * i)).take (itemSize x.typ)))

/-- A CHIPMAP entry of a legal form: partition 0 to 11, zero elsewhere. -/
def chipEntryOk (e : BitVec 32) : Bool :=
  e &&& 0xFFF0C000#32 == 0#32 && decide ((e.extractLsb' 16 4).toNat < 12)

/-- Steps 3 to 5 of R258: the chip map. -/
def State.loadPlan (s : State) (p : PartId) (n : Nat) (bs : List Byte) (xs : List Sect) : Load (List (BitVec 32)) := do
  failIf (imageDigest bs != (bs.drop 32).take 64) { step := 3, status := stBADSIG }
  let fl := leAt bs 6 2
  failIf (!((n == 7 && fl.testBit 2) || (n == 8 && fl.testBit 3))) { step := 4, status := stVERSION }
  let pi := leAt bs 12 4
  let pc := leAt bs 16 4
  let cm := (itemsOf (liveOf xs 7)).map (fun b => BitVec.ofNat 32 (leNat b))
  let mine : BitVec 32 := s.chipId.setWidth 32 ||| (BitVec.ofNat 32 p.val <<< 16)
  failIf (decide (pc ≤ pi) || pc == 0 || decide (147456 < pc) || cm.length != pc || cm.any (fun e => !chipEntryOk e) ||
    cm.getD pi 0 != mine) { step := 5, status := stBOUNDS }
  let f := (s.part p).flock
  failIf (f == 0xFFF#12 || BitVec.ofNat 12 (leAt bs 8 2) != f) { step := 5, status := stDENIED }
  return cm

/-! Step 6: regions (R252). -/

/-- A region declaration: region, alignment, group and words. -/
structure Decl where
  region : Nat
  align  : Nat
  group  : Nat
  words  : Nat
  deriving DecidableEq, Repr

def declOf (b : List Byte) : Decl :=
  { region := leAt b 0 2, align := leAt b 2 1, group := leAt b 3 1, words := leAt b 4 4 }

def declBad (ilv : Bool) (b : List Byte) : Bool :=
  let d := declOf b
  d.region == 0xFFFF || decide (20 < d.align) || decide (2 ^ 20 < d.words) || (b.drop 8).any (· != 0) ||
  (d.group != 0xFF && (decide (7 < d.group) || !ilv))

/-- The lowest address for a region beside those placed (address and words). -/
def placeOne (placed : List (Nat × Nat)) (d : Decl) : Option Nat :=
  let a := 2 ^ d.align
  let lo := if d.group = 0xFF then 0 else 0x20000 * d.group
  let hi := if d.group = 0xFF then 2 ^ 20 else lo + 0x20000
  let up (x : Nat) : Nat := (x + a - 1) / a * a
  let cands := (lo :: placed.map (fun x => max lo (x.1 + x.2))).map up
  (cands.filter (fun c => decide (c + d.words ≤ hi ∧ c < hi) &&
    (d.words == 0 || placed.all (fun x => x.2 == 0 || decide (c + d.words ≤ x.1 ∨ x.1 + x.2 ≤ c))))).min?

/-- Places a rank's regions in ascending number. -/
def placeAll : List (Nat × Nat) → List Decl → Option (List (Nat × Nat × Nat))
  | _, [] => some []
  | placed, d :: t =>
    match placeOne placed d with
    | none => none
    | some a => (placeAll ((a, d.words) :: placed) t).map (fun r => (d.region, a, d.words) :: r)

/-- The layout of one rank. -/
def rankLayout (xs : List Sect) (ilv : Bool) (r : Nat) : Load (List (Nat × Nat × Nat × Nat)) := do
  let bs := itemsOf (liveRank xs 3 r)
  let ds := bs.map declOf
  failIf (bs.any (declBad ilv) || decide ((ds.map (·.region)).dedup.length ≠ ds.length))
    { step := 6, status := stBOUNDS, rank := r }
  match placeAll [] (sortBy (fun a b => decide (a.region < b.region)) ds) with
  | none => .error { step := 6, status := stNOSPACE, rank := r }
  | some l => .ok (l.map (fun x => (r, x)))

/-- The layout of all ranks: rank, region, address and words. -/
def layoutOf (xs : List Sect) (ilv : Bool) : List Nat → Load (List (Nat × Nat × Nat × Nat))
  | [] => .ok []
  | r :: t => do
    let a ← rankLayout xs ilv r
    let b ← layoutOf xs ilv t
    return a ++ b

/-! Step 7: queues and loops (R255, R257). -/

/-- The words of a queue, or its loop entries. -/
def queueWords (xs : List Sect) (typ r q : Nat) : List MWord :=
  ((liveRank xs typ r).filter (fun x => x.queue == q)).flatMap (·.words)

def queueCheck (xs : List Sect) (r : Nat) : Load Unit := do
  failIf (decide (16384 < ((liveRank xs 1 r).map (fun x => x.words.length)).foldl (· + ·) 0))
    { step := 7, status := stNOSPACE, rank := r }
  match (List.range 10).find? (fun q => loopsBad (queueWords xs 2 r q) (queueWords xs 1 r q).length) with
  | some q => .error { step := 7, status := stBOUNDS, rank := r, queue := q }
  | none => .ok ()

def queuesCheck (xs : List Sect) : List Nat → Load Unit
  | [] => .ok ()
  | r :: t => do
    queueCheck xs r
    queuesCheck xs t

/-! Step 8: relocation (R259, R260). -/

/-- What relocation resolves against. -/
structure Reloc where
  p      : PartId
  n      : Nat
  map    : List (BitVec 32)
  params : List (List Byte)
  layout : List (Nat × Nat × Nat × Nat)
  deriving DecidableEq, Repr

/-- Word address and words of a region of a rank. -/
def layoutAt (l : List (Nat × Nat × Nat × Nat)) (r region : Nat) : Option (Nat × Nat) :=
  (l.find? (fun x => x.1 == r && x.2.1 == region)).map (fun x => (x.2.2.1, x.2.2.2))

/-- The rank that WHERE names. -/
def State.whereRank (s : State) (x : Reloc) (r wh : Nat) : Option Nat :=
  if wh = 0xFF then some r
  else if wh < 8 then (if wh < x.n then some wh else none)
  else if 0x10 ≤ wh ∧ wh ≤ 0x13 then
    match s.coreOfRank x.p r with
    | none => none
    | some c => (s.neighbour c (wh - 0x10)).map s.rankOf
  else none

/-- SHARE_START and SHARE_LEN of a parameter of at least granule 1. -/
def share (b : List Byte) (n r : Nat) : Nat × Nat :=
  let d := leAt b 0 4
  let g := leAt b 4 2
  let q := (d + g * n - 1) / (g * n) * g
  let st := min (r * q) d
  (st, min q (d - st))

/-- A chip-map field: bits 13:0 for KIND 1, 19:16 for KIND 2. -/
def mapField (kind : Nat) (e : BitVec 32) : Nat :=
  if kind = 1 then (e.extractLsb' 0 14).toNat else (e.extractLsb' 16 4).toNat

/-- The value of R260. -/
def State.resolve (s : State) (x : Reloc) (r kind wh sym : Nat) : Option Nat :=
  match kind with
  | 0 => match s.whereRank x r wh with
    | none => none
    | some k => (layoutAt x.layout k sym).map (·.1)
  | 1 => (x.map[sym]?).map (mapField 1)
  | 2 => (x.map[sym]?).map (mapField 2)
  | 3 => some r
  | 4 => some x.n
  | 5 => (x.params[sym]?).bind (fun b => if leAt b 4 2 = 0 ∨ leAt b 6 2 ≠ 0 then none else some (share b x.n r).1)
  | 6 => (x.params[sym]?).bind (fun b => if leAt b 4 2 = 0 ∨ leAt b 6 2 ≠ 0 then none else some (share b x.n r).2)
  | 7 => some s.chipId.toNat
  | _ => none

/-- v × 2^SHIFT, or v divided by 2^−SHIFT rounded down. -/
def shifted (v shift : Int) : Int := if 0 ≤ shift then v * 2 ^ shift.toNat else v / 2 ^ (-shift).toNat

/-- A field that records have touched, while the load runs. -/
structure Touched where
  sec    : Nat
  index  : Nat
  lobit  : Nat
  width  : Nat
  before : Nat
  moves  : Bool
  recs   : List (Nat × Nat × Int × Int)
  deriving DecidableEq, Repr

structure Relocated where
  xs   : List Sect
  got  : List Touched := []
  kept : Nat := 0
  deriving DecidableEq, Repr

def Touched.same (t : Touched) (sec index lobit width : Nat) : Bool :=
  t.sec == sec && t.index == index && t.lobit == lobit && t.width == width

/-- Notes a record on its field; a record of another kind is kept as its value (KIND 8 of the model). -/
def Relocated.note (a : Relocated) (t : Touched) : Relocated :=
  if a.got.any (fun u => u.same t.sec t.index t.lobit t.width) then
    { a with got := a.got.map (fun u => if u.same t.sec t.index t.lobit t.width then
        { u with moves := u.moves || t.moves, recs := u.recs ++ t.recs } else u) }
  else { a with got := a.got ++ [t] }

/-- One relocation record, number `i`. -/
def State.relocOne (s : State) (x : Reloc) (a : Relocated) (ib : Nat × List Byte) : Load Relocated :=
  let (i, b) := ib
  let bad : LoadErr := { step := 8, status := stBOUNDS, index := i }
  let sec := leAt b 4 2
  match a.xs[sec]? with
  | none => .error bad
  | some t =>
    if t.live = false then .ok a
    else if t.typ ≠ 1 ∧ t.typ ≠ 6 then .error bad
    else
      let bad := { bad with rank := t.rank, queue := t.queue }
      let index := leAt b 0 4
      let lobit := leAt b 6 1
      let width := leAt b 7 1
      let kind := leAt b 8 1
      let sym := leAt b 12 4
      let shift : Int := (BitVec.ofNat 8 (leAt b 10 1)).toInt
      let addend : Int := (BitVec.ofNat 32 (leAt b 16 4)).toInt
      if t.words.length ≤ index ∨ width = 0 ∨ 32 < width ∨ 256 < lobit + width ∨ shift < -31 ∨ 31 < shift ∨
          leAt b 11 1 ≠ 0 ∨ leAt b 20 4 ≠ 0 then .error bad
      else match s.resolve x t.rank kind (leAt b 9 1) sym with
        | none => .error bad
        | some v =>
          let w := t.words.getD index 0
          let old := wordField w lobit width
          let new : Int := old + shifted v shift + addend
          let moves := kind == 1 || kind == 2 || kind == 7
          if moves ∧ 65536 ≤ a.kept then .error { bad with status := stNOSPACE }
          else if new < 0 ∨ (2 ^ width : Nat) ≤ new then .error bad
          else
            let r := if kind = 1 ∨ kind = 2 then (kind, sym, shift, addend) else (8, v, shift, addend)
            let y : Sect := { t with words := t.words.set index (wordSetField w lobit width new.toNat) }
            let a := { a with xs := a.xs.set sec y, kept := a.kept + moves.toNat }
            .ok (a.note { sec := sec, index := index, lobit := lobit, width := width, before := old, moves := moves,
                          recs := [r] })

def State.relocAll (s : State) (x : Reloc) : Relocated → List (Nat × List Byte) → Load Relocated
  | a, [] => .ok a
  | a, b :: t => do
    let a ← s.relocOne x a b
    s.relocAll x a t

/-! Steps 9 to 12. -/

/-- A counter declaration (R253). -/
def counterOf (b : List Byte) : Counter :=
  let init := BitVec.ofNat 12 (leAt b 2 2)
  let stride := BitVec.ofNat 12 (leAt b 4 2)
  { kind := BitVec.ofNat 2 (leAt b 1 1), decl := true, base := init - stride, count := init, stride := stride }

def counterBad (b : List Byte) : Bool :=
  decide (31 < leAt b 0 1) || decide (2 < leAt b 1 1) || decide (4096 ≤ leAt b 2 2) || decide (2047 < leAt b 4 2) ||
  leAt b 6 2 != 0

/-- DATA words of a rank with their addresses; an item outside its region fails (R254). -/
def dataOf (l : List (Nat × Nat × Nat × Nat)) (r : Nat) : List (Nat × Nat × Nat) → List MWord → Nat →
    Load (List (Nat × List MWord))
  | [], _, _ => .ok []
  | (region, off, n) :: t, ws, i => do
    let bad : LoadErr := { step := 9, status := stBOUNDS, rank := r, index := i }
    match layoutAt l r region with
    | none => .error bad
    | some (a, size) =>
      failIf (decide (size < off + n)) bad
      let rest ← dataOf l r t (ws.drop n) (i + 1)
      return (a + off, ws.take n) :: rest

def dataAll (l : List (Nat × Nat × Nat × Nat)) (r : Nat) : List Sect → Load (List (Nat × List MWord))
  | [] => .ok []
  | x :: t => do
    let a ← dataOf l r x.heads x.words 0
    let b ← dataAll l r t
    return a ++ b

/-- A group that has woken from OFF by the time a load has written its words. -/
def Memory.fromOff (m : Memory) (g : Fin 8) : Bool := m.bgState[g] == 2 || m.bgFromOff[g]

/-- Core memory with nothing but the DATA words (R258 step 10). The writes reach every group, which wakes
(R213); what was to be written before them is written over. -/
def Memory.loaded (m : Memory) (ilv : Bool) (ds : List (Nat × List MWord)) : Memory :=
  { m with
    mem := ds.foldl (fun a d => smSetMany a d.1 d.2) [], flips := [], writeback := [], ilv := ilv,
    held := m.held.filter (fun h => match h with
      | .packet _ _ _ => true
      | _ => false),
    bgState := Vector.replicate 8 0, bgFromOff := Vector.replicate 8 false,
    bgReq := Vector.ofFn (fun g => if m.bgState[g] = 1 ∨ m.bgState[g] = 2 then 0 else m.bgReq[g]),
    zeroed := if m.ilv then (List.finRange 8).foldl (fun z g => if m.fromOff g then z ||| (1#8 <<< g.val) else z) m.zeroed
      else if m.fromOff 0 then 0xFF else m.zeroed }

/-- EV_LATE_WAKE for a load that finds a group asleep (R213). -/
def State.loadWake (s : State) (c : CoreId) : State :=
  let m := (s.core c).memory
  match (List.finRange 8).find? (fun g => m.bgState[g] == 1 || m.bgState[g] == 2) with
  | some g => s.lateWake c g
  | none => s

/-- A core of rank `r` after steps 10 and 11 (R55, R89, R98, R234, R255, R263). -/
def Core.loaded (k : Core) (xs : List Sect) (r : Nat) (fixed ilv : Bool) (ds : List (Nat × List MWord)) : Core :=
  let decls := itemsOf (liveRank xs 4 r)
  { k with
    array := { k.array with active := {}, shadow := none, acc := [], heldKey := none, held := [], boundsStop := false,
                            ready := false, count := none, passHolds := {} },
    vec := { k.vec with v := Vector.replicate 32 0, p := Vector.replicate 8 0, r := Vector.replicate 16 0 },
    memory := k.memory.loaded ilv ds,
    queues := Vector.ofFn (fun q => { (k.queue q).rewind.free with
      store := queueWords xs 1 r q.val, loops := queueWords xs 2 r q.val }),
    counters := Vector.ofFn (fun n => match decls.find? (fun b => leAt b 0 1 == n.val) with
      | some b => counterOf b
      | none => {}),
    inflight := [], fixedOrder := fixed, flags := 0, cursor := 0, wc := [], streams := [], regions := [],
    marks := {} }

/-- The first instruction of a rank that fails the static check: queue and index. -/
def State.badInstr (s : State) (c : CoreId) (only : Nat → Nat → Bool) : Option (Nat × Nat) :=
  (List.finRange 10).findSome? (fun q =>
    let k := (s.core c).queue q
    (List.range k.store.length).findSome? (fun i =>
      if only q.val i ∧ s.instrOk c q.val k.loops i (k.store.getD i 0) = false then some (q.val, i) else none))

/-- Installs the cores of a partition, rank by rank, with the checks of step 9. -/
def State.loadRanks (s : State) (xs : List Sect) (fixed ilv : Bool) (l : List (Nat × Nat × Nat × Nat)) :
    List (CoreId × Nat) → Load State
  | [] => .ok s
  | (c, r) :: t => do
    let decls := itemsOf (liveRank xs 4 r)
    failIf (decls.any counterBad || decide ((decls.map (fun b => leAt b 0 1)).dedup.length ≠ decls.length))
      { step := 9, status := stBOUNDS, rank := r }
    let ds ← dataAll l r (liveRank xs 6 r)
    let s := (s.loadWake c).modCore c (fun k => k.loaded xs r fixed ilv ds)
    match s.badInstr c (fun _ _ => true) with
    | some (q, i) => .error { step := 9, status := stBOUNDS, rank := r, queue := q, index := i }
    | none => s.loadRanks xs fixed ilv l t

/-- The address in core memory of word `i` of a DATA section. -/
def dataAddr (l : List (Nat × Nat × Nat × Nat)) (r : Nat) : List (Nat × Nat × Nat) → Nat → Nat
  | [], _ => 0
  | (region, off, n) :: t, i =>
    if i < n then ((layoutAt l r region).map (·.1)).getD 0 + off + i else dataAddr l r t (i - n)

/-- The fields that PROG_PATCH can rebuild (R261). -/
def patchesOf (l : List (Nat × Nat × Nat × Nat)) (a : Relocated) : List Patch :=
  (a.got.filter (·.moves)).filterMap (fun u => (a.xs[u.sec]?).map (fun x =>
    { rank := x.rank, queue := if x.typ = 1 then some x.queue else none,
      index := if x.typ = 1 then u.index else dataAddr l x.rank x.heads u.index,
      lobit := u.lobit, width := u.width, before := u.before, recs := u.recs }))

/-- Some instruction of a partition names class 0 in a first or last iteration (R275, R372). -/
def State.usesC0 (s : State) (p : PartId) : Bool :=
  (s.ranks p).any (fun c => (List.finRange 10).any (fun q =>
    let k := (s.core c).queue q
    (k.store.zipIdx).any (fun w => (loopCorners (loopsOf k.loops w.2)).any (fun its =>
      wordClassZero c q.val (loopWord its w.2 w.1)))))

/-- A pairing ends (R482); what the last halt recorded stays. -/
def Lockstep.unpair (l : Lockstep) : Lockstep :=
  { reason := l.reason, stream := l.stream, step := l.step, seq := l.seq, cycle := l.cycle }

/-- Steps 2 to 12 of R258: the state with the image loaded and the partition STOPPED. -/
def State.loadImage (s : State) (p : PartId) (bs : List Byte) (total : Nat) : Load State := do
  let rs := s.ranks p
  let n := rs.length
  let xs ← loadHeader bs n total
  let cm ← s.loadPlan p n bs xs
  let fl := leAt bs 6 2
  let layout ← layoutOf xs (fl.testBit 1) (List.range n)
  queuesCheck xs (List.range n)
  let x : Reloc := { p := p, n := n, map := cm, params := itemsOf (liveOf xs 8), layout := layout }
  let recs := itemsOf (liveOf xs 5)
  let a ← s.relocAll x { xs := xs } ((recs.zipIdx).map (fun y => (y.2, y.1)))
  let s ← s.loadRanks a.xs (fl.testBit 0) (fl.testBit 1) layout rs.zipIdx
  let g : Program :=
    { fixedOrder := fl.testBit 0, ilv := fl.testBit 1, ncores := BitVec.ofNat 4 n, level := 3,
      c0use := s.usesC0 p, flock := BitVec.ofNat 12 (leAt bs 8 2), planIndex := leAt bs 12 4, chipmap := cm,
      digest := (bs.drop 32).take 64, regions := layout, patches := patchesOf layout a }
  return s.modPart p (fun k => { k with
    prog := some g, state := 1, cause := 0, windows := [], stepNo := 0, kvReset := true, first := false, used := [],
    entries := [], endedNext := [], nrows := 0, ringCount := 0, ring := [], ls := k.ls.unpair })

/-- No image is loaded on a core (R55, R271). -/
def Core.unloaded (k : Core) : Core :=
  { k with fixedOrder := false, counters := k.counters.map (fun c => { c with decl := false }) }

/-- A load that fails at step 2 or later leaves the partition EMPTY. -/
def State.loadFailed (s : State) (p : PartId) : State :=
  let s := (coresOf p).foldl (fun s c => s.modCore c Core.unloaded) s
  s.modPart p (fun k => { k with state := 0, prog := none, ls := k.ls.unpair })

/-- The adapters of a partition leave its memory with the words that held them. -/
def State.dropAdapters (s : State) (p : PartId) : State :=
  { s with work := { s.work with adapters := s.work.adapters.filter (fun a => a.2.part != p) } }

/-- A load whose object is complete, for a partition that is awake or has nothing to wait for: status, body
and state (R258, R437). -/
def State.loadNow (s : State) (p : PartId) (bs : List Byte) (total : Nat) : Nat × List Byte × State :=
  match s.loadImage p bs total with
  | .ok s' => (stOK, leBytes 4 total, s'.dropAdapters p)
  | .error e => (e.status, e.body, s.loadFailed p)

/-- Loads that waited for their partition's wake (R476), in the order of their acceptance. -/
def State.runLoads (s : State) (p : PartId) : List (PortId × BitVec 32 × BitVec 32 × List Byte) → State
  | [] => s
  | (h, sess, seq, bs) :: t =>
    let (st, body, s) := s.loadNow p bs bs.length
    (s.respond h sess { seq := seq, op := 0x32, status := st, body := body }).runLoads p t

/-- The starts that came behind a waiting load go on with its result (R432). -/
def State.runStarts (s : State) (p : PartId) : List Waiter → State
  | [] => s
  | x :: t =>
    match s.startPart p with
    | (some st, s) =>
      (s.respond x.port x.session { seq := x.seq, op := 0x31, status := st, body := [s.partState p] }).runStarts p t
    | (none, s) =>
      (s.modPart p (fun k => { k with starts := k.starts ++ [(x.port, x.session, x.seq)] })).runStarts p t

/-- PARTITION_WAKE_DONE (R474, R476, R477): what the wake held goes on. -/
def execPartitionWakeDone (p : PartId) (ns : Nat) (s : State) : Out :=
  .next (if (s.part p).waking = false then s else
    let s := s.wakeDone p ns
    let k := s.part p
    if k.loads = [] then s.kick p
    else
      let st := k.starts
      let s := s.setPart p { k with loads := [], starts := [] }
      let s := s.runLoads p k.loads
      s.runStarts p (st.map (fun x => { port := x.1, session := x.2.1, seq := x.2.2 })))

/-! PROG_PATCH (R261). -/

/-- The value of a patched field under a chip map; none where it does not fit. -/
def Patch.value (x : Patch) (map : List (BitVec 32)) : Option Nat :=
  let v : Int := x.recs.foldl (fun a r =>
    let v := if r.1 = 8 then r.2.1 else mapField r.1 (map.getD r.2.1 0)
    a + shifted v r.2.2.1 + r.2.2.2) (x.before : Int)
  if v < 0 ∨ (2 ^ x.width : Nat) ≤ v then none else some v.toNat

/-- Every record's intermediate result fits its field (R259). -/
def Patch.fits (x : Patch) (map : List (BitVec 32)) : Bool :=
  (List.range (x.recs.length + 1)).all (fun n => (Patch.value { x with recs := x.recs.take n } map).isSome)

/-- Rewrites one field: in the instruction store, or in core memory. -/
def State.patchOne (s : State) (p : PartId) (map : List (BitVec 32)) (x : Patch) : State :=
  let c := (s.coreOfRank p x.rank).getD 0
  let v := (x.value map).getD 0
  match x.queue with
  | some q => s.modQueue c (Fin.ofNat 10 q) (fun k => { k with
      store := k.store.set x.index (wordSetField (k.store.getD x.index 0) x.lobit x.width v) })
  | none => s.putBits c x.index (wordSetField 0 x.lobit x.width v) (wordSetField 0 x.lobit x.width (2 ^ x.width - 1)) 10

/-- The new chip map, none where a pair is not allowed. -/
def patchMap (g : Program) : List (BitVec 32 × BitVec 32) → List (BitVec 32) → Option (List (BitVec 32))
  | [], m => some m
  | (i, e) :: t, m =>
    if g.chipmap.length ≤ i.toNat ∨ chipEntryOk e = false ∨ (i.toNat = g.planIndex ∧ e ≠ m.getD i.toNat 0) then none
    else patchMap g t (m.set i.toNat e)

/-- PROG_PATCH of a partition: status, fields rewritten, and the state. -/
def State.patchPart (s : State) (p : PartId) (pairs : List (BitVec 32 × BitVec 32)) : Nat × Nat × State :=
  let k := s.part p
  if 2 ≤ k.state.toNat ∨ k.loads ≠ [] then (stBUSY, 0, s) else
  match k.prog with
  | none => (stBOUNDS, 0, s)
  | some g =>
    match patchMap g pairs g.chipmap with
    | none => (stBOUNDS, 0, s)
    | some m =>
      if g.patches.all (fun x => x.fits m) = false then (stBOUNDS, 0, s) else
      let s' := g.patches.foldl (fun s x => s.patchOne p m x) s
      let changed (c : CoreId) (q i : Nat) : Bool := g.patches.any (fun x =>
        x.queue == some q && x.index == i && s.coreOfRank p x.rank == some c)
      if (s.ranks p).any (fun c => (s'.badInstr c (changed c)).isSome) then (stBOUNDS, 0, s)
      else (stOK, g.patches.length, s'.modPart p (fun k => { k with prog := some { g with chipmap := m } }))

end Sys2Proof.Machine
end

