-- ==== Sys2Proof/Machine/Commands.lean ====
section
/-! DEFINITION. Host commands on registers, partitions and programs (R258, R261, R364, R365, R369, R434 to
R437). -/

namespace Sys2Proof.Machine

/-! Registers (R435). -/

/-- The addresses of a REG_READ. -/
def readAddrs (addr : BitVec 32) (count : Nat) : List Nat := (List.range count).map (fun i => addr.toNat + 4 * i)

def State.readAll (s : State) : List Nat → List Byte × State
  | [] => ([], s)
  | a :: t =>
    let (v, s) := s.readReg a
    let (r, s) := s.readAll t
    (leBytes 4 (v.getD 0).toNat ++ r, s)

def State.regRead (addr : BitVec 32) (count : BitVec 16) : Run := fun s =>
  let as := readAddrs addr count.toNat
  if count = 0 ∨ 64 < count.toNat ∨ as.any (fun a => (s.reg a).isNone) = true then (some (stBOUNDS, []), s)
  else
    let (b, s) := s.readAll as
    (some (stOK, b), s)

/-- REG_READ. -/
def execRegRead (f : Frame) (addr : BitVec 32) (count : BitVec 16) (s : State) : Out :=
  let body := leBytes 4 addr.toNat ++ leBytes 2 count.toNat
  s.command f (fun _ => { op := 0x10 }) body body (.regRead f addr count) (State.regRead addr count)

/-- The partition whose owner may write a register (R434). -/
def writeAuth (a : Nat) : Auth :=
  match blockOf a with
  | (.part p, _) => .owner p
  | (.core c, _) => .owner (partOf c)
  | _ => .admin

def State.regWrite (addr value mask : BitVec 32) : Run := fun s =>
  let (st, s) := s.writeReg addr.toNat value mask
  (some (st, if st = stOK then leBytes 4 ((s.reg addr.toNat).getD 0).toNat else []), s)

/-- REG_WRITE. -/
def execRegWrite (f : Frame) (addr value mask : BitVec 32) (s : State) : Out :=
  let body := leBytes 4 addr.toNat ++ leBytes 4 value.toNat ++ leBytes 4 mask.toNat
  s.command f (fun s => { op := 0x11, auth := writeAuth addr.toNat, guard := s.guarded addr.toNat mask })
    body body (.regWrite f addr value mask) (State.regWrite addr value mask)

/-! Partitions (R364, R365). -/

def State.partStop (f : Frame) (p : PartId) (mode : Byte) : Run := fun s =>
  if 1 < mode.toNat then (some (stBOUNDS, []), s) else
  match s.stopPart p (mode == 1) with
  | (true, s) => (some (stOK, [s.partState p]), s)
  | (false, s) => (none, s.modPart p (fun k => { k with stops := k.stops ++ [(f.port, f.session, f.seq)] }))

/-- PART_STOP. -/
def execPartStop (f : Frame) (part mode : Byte) (s : State) : Out :=
  s.command f (fun _ => ownerRule 0x30 false true part.toNat) [part, mode] [part, mode] (.partStop f part mode)
    (State.partStop f (partOfNat part.toNat) mode)

def State.partStart (f : Frame) (p : PartId) : Run := fun s =>
  let wait (s : State) : State := s.modPart p (fun k => { k with starts := k.starts ++ [(f.port, f.session, f.seq)] })
  if (s.part p).loads ≠ [] then (none, wait s) else
  match s.startPart p with
  | (some st, s) => (some (st, [s.partState p]), s)
  | (none, s) => (none, wait s)

/-- PART_START. -/
def execPartStart (f : Frame) (part : Byte) (s : State) : Out :=
  s.command f (fun _ => ownerRule 0x31 false true part.toNat) [part] [part] (.partStart f part)
    (State.partStart f (partOfNat part.toNat))

/-! Loads in parts (R436). -/

/-- The load header. -/
def loadHdrBytes (h : LoadHdr) : List Byte :=
  leBytes 4 h.total.toNat ++ leBytes 4 h.offset.toNat ++ [h.part] ++ leBytes 1 h.remove.toNat ++
  leBytes 2 h.adapter.toNat ++ leBytes 2 h.tenant.toNat ++ leBytes 2 h.slot.toNat

/-- TOTAL is in range and the part lies in the object. -/
def partFits (h : LoadHdr) (bytes : List Byte) : Bool :=
  1 ≤ h.total.toNat && h.total.toNat ≤ 268435456 && h.offset.toNat + bytes.length ≤ h.total.toNat

/-- The object that a part belongs to; none where another one is staged. -/
def Work.object (w : Work) (f : Frame) (op : BitVec 16) (h : LoadHdr) : Option LoadObj :=
  match w.load with
  | none => some { port := f.port, session := f.session, op := op, hdr := h }
  | some o => if o.port = f.port ∧ o.session = f.session ∧ o.op = op ∧ o.hdr.part = h.part ∧ o.hdr.total = h.total
      then some o else none

/-- The object with a part's bytes. -/
def LoadObj.add (o : LoadObj) (off : Nat) (bytes : List Byte) : LoadObj :=
  { o with bytes := smSetMany o.bytes off (bytes.map (fun b => b.setWidth 9 ||| 0x100)) }

/-- Every byte has arrived. -/
def LoadObj.complete (o : LoadObj) : Bool := o.bytes.length == o.hdr.total.toNat

def LoadObj.data (o : LoadObj) : List Byte := o.bytes.map (fun c => c.2.setWidth 8)

/-- A part goes into the load store: the state, and the object where it is complete. -/
def State.loadPart (s : State) (o : LoadObj) (h : LoadHdr) (bytes : List Byte) : Option LoadObj × State :=
  let o := o.add h.offset.toNat bytes
  if o.complete then (some o, { s with work := { s.work with load := none } })
  else (none, { s with work := { s.work with load := some o } })

/-- Step 1 of R258: the partition is stopped, and holds no recording. -/
def State.loadBusy (s : State) (p : PartId) : Bool :=
  let k := s.part p
  decide (2 ≤ k.state.toNat) || (decide (k.loads ≠ []) && decide (k.starts ≠ [])) ||
  (s.work.recording.held && s.work.recording.buffer == p)

/-- The load of a complete object (R258, R476): at once, or once the partition is awake. -/
def State.progExec (s : State) (f : Frame) (p : PartId) (bs : List Byte) : Option (Nat × List Byte) × State :=
  let k := s.part p
  if s.loadBusy p then (some (stBUSY, ({ step := 1, status := stBUSY } : LoadErr).body), s)
  else if k.sleepState = 0 ∧ k.loads = [] then
    let (st, b, s) := s.loadNow p bs bs.length
    (some (st, b), s)
  else match s.loadImage p bs bs.length with
    | .error e => if k.loads = [] then (some (e.status, e.body), s.loadFailed p)
        else (none, s.modPart p (fun k => { k with loads := k.loads ++ [(f.port, f.session, f.seq, bs)] }))
    | .ok _ =>
      (none, (s.wakePart p).modPart p (fun k => { k with loads := k.loads ++ [(f.port, f.session, f.seq, bs)] }))

def State.progLoad (f : Frame) (p : PartId) (h : LoadHdr) (bytes : List Byte) : Run := fun s =>
  if partFits h bytes = false ∨ h.remove ∨ h.adapter ≠ 0 ∨ h.tenant ≠ 0 ∨ h.slot ≠ 0 then (some (stBOUNDS, []), s)
  else match s.work.object f 0x32 h with
    | none => (some (stBUSY, []), s)
    | some o =>
      match s.loadPart o h bytes with
      | (none, s) => (some (stOK, leBytes 4 (o.add h.offset.toNat bytes).bytes.length), s)
      | (some o, s) => s.progExec f p o.data

/-- PROG_LOAD. -/
def execProgLoad (f : Frame) (h : LoadHdr) (bytes : List Byte) (s : State) : Out :=
  let r := { ownerRule 0x32 false true h.part.toNat with denied := ({ step := 1, status := stDENIED } : LoadErr).body }
  s.command f (fun _ => r) (loadHdrBytes h ++ bytes) (loadHdrBytes h) (.progLoad f h bytes)
    (State.progLoad f (partOfNat h.part.toNat) h bytes)

def State.progPatch (signed : Bool) (p : PartId) (pairs : List (BitVec 32 × BitVec 32)) : Run := fun s =>
  if pairs = [] ∨ (if signed then 863 else 1023) < pairs.length then (some (stBOUNDS, []), s) else
  let (st, n, s) := s.patchPart p pairs
  (some (st, if st = stOK then leBytes 4 n else []), s)

/-- PROG_PATCH. -/
def execProgPatch (f : Frame) (part : Byte) (pairs : List (BitVec 32 × BitVec 32)) (s : State) : Out :=
  let body := [part, 0] ++ leBytes 2 pairs.length ++ pairs.flatMap (fun x => leBytes 4 x.1.toNat ++ leBytes 4 x.2.toNat)
  s.command f (fun _ => ownerRule 0x33 false true part.toNat) body body (.progPatch f part pairs)
    (State.progPatch f.sig.isSome (partOfNat part.toNat) pairs)

/-- LOAD_OBJECT_TIMEOUT (R436): no new byte for 10 s. -/
def execLoadObjectTimeout (s : State) : Out := .next { s with work := { s.work with load := none } }

end Sys2Proof.Machine
end

