-- ==== Sys2Proof/Machine/Requests.lean ====
section
/-! DEFINITION. Host commands on requests, budgets and adapters (R376, R390 to R404, R438 to R440). -/

namespace Sys2Proof.Machine

/-! SUBMIT (R390, R391, R439). -/

/-- The 32-byte header. -/
def submitHdrBytes (h : SubmitHdr) : List Byte :=
  [h.part, h.cls, BitVec.ofNat 8 (h.dropLate.toNat + 2 * h.stream.toNat), h.draft] ++ leBytes 2 h.tenant.toNat ++
  leBytes 2 h.adapter.toNat ++ leBytes 4 h.maxout.toNat ++ leBytes 4 h.ntok.toNat ++ leBytes 8 h.deadline.toNat ++
  leBytes 4 h.toff.toNat ++ leBytes 4 h.first.toNat

/-- A field outside its range (R390). -/
def submitBad (h : SubmitHdr) (n : Nat) : Bool :=
  decide (2 < h.cls.toNat) || decide (5 < h.draft.toNat) || decide (4095 < h.tenant.toNat) || h.maxout == 0 ||
  decide (262144 < h.maxout.toNat) || decide (262144 < h.ntok.toNat) || decide (2040 < n) ||
  decide (h.ntok.toNat < h.toff.toNat + n)

/-- The adapter slot of a request (R404): a status where there is none. -/
def State.resolveAdapter (s : State) (p : PartId) (h : SubmitHdr) : Except Nat (BitVec 16) :=
  if h.adapter = 0xFFFF then .ok 0xFFFF else
  let here := sortBy (fun a b => decide (a.1 < b.1))
    (s.work.adapters.filter (fun x => x.2.adapter == h.adapter && x.2.part == p))
  match here.find? (fun x => x.2.tenant == h.tenant || x.2.tenant == 0xFFFF) with
  | some x => .ok (BitVec.ofNat 16 x.1)
  | none => .error (if here = [] then stBOUNDS else stDENIED)

/-- Why a SUBMIT is refused; the adapter slot where it is not. -/
def State.submitCheck (s : State) (p : PartId) (h : SubmitHdr) (n : Nat) : Except Nat (BitVec 16) :=
  let k := s.part p
  if k.srvMode = 0 ∨ s.chip.hpState ≠ 0 ∨ (k.ls.paired ∧ k.ls.follower) then .error stDENIED
  else if submitBad h n then .error stBOUNDS
  else if h.deadline ≠ 0 ∧ s.work.lockedOnce = false then .error stBOUNDS
  else match s.resolveAdapter p h with
    | .error e => .error e
    | .ok slot =>
      if h.cls = 0 ∧ (k.srvMode ≠ 2 ∨ (s.safety ∧ p ≠ 0)) then .error stDENIED
      else if k.srvMode = 2 ∧ 8 * (k.regionWords 65522 / 16 - 1) < h.ntok.toNat then .error stBOUNDS
      else .ok slot

/-- Tokens of a partition's prompts that are still arriving. -/
def State.reserved (s : State) (p : PartId) : Nat :=
  ((s.work.prompts.filter (fun x => x.hdr.part.toNat == p.val)).map (fun x => x.hdr.ntok.toNat)).sum

def Part.freeReq (k : Part) : Option Nat := (List.range 4096).find? (fun n => (alGet k.slots n).isNone)

/-- Accepts a request, whose frame came at `rx`: QUEUED, and the boundary's steps may follow (R392, R395). -/
def State.acceptReq (s : State) (rx : BitVec 64) (f : Frame) (p : PartId) (h : SubmitHdr) (slot : BitVec 16)
    (tokens : List (BitVec 32)) : Option (Nat × List Byte) × State :=
  let k := s.part p
  match k.freeReq with
  | none => (some (stNOSPACE, []), s)
  | some n =>
    let gen := smGet k.gens n
    let r : Request :=
      { gen := gen, session := f.session, tenant := h.tenant, cls := h.cls.setWidth 2, deadline := h.deadline,
        dropLate := h.dropLate, stream := h.stream, slot := slot, draft := h.draft.toNat, outLeft := h.maxout.toNat,
        prompt := tokens, ntok := h.ntok.toNat, order := k.accepted, arrive := s.time, rx := rx }
    let s := s.setPart p { k with slots := alSet k.slots n r, accepted := k.accepted + 1 }
    (some (stOK, leBytes 4 (reqId p n gen)), s.kick p)

/-- Answers a part that does not complete its prompt, and a SUBMIT without tokens. -/
def noRequest : Option (Nat × List Byte) := some (stOK, leBytes 4 0xFFFFFFFF)

/-- The first part of a prompt. -/
def State.submitFirst (s : State) (rx : BitVec 64) (f : Frame) (p : PartId) (h : SubmitHdr) (slot : BitVec 16)
    (tokens : List (BitVec 32)) : Option (Nat × List Byte) × State :=
  if h.ntok = 0 then (noRequest, s)
  else if 1048576 < (s.part p).stored + s.reserved p + h.ntok.toNat then (some (stNOSPACE, []), s)
  else if tokens.length = h.ntok.toNat then s.acceptReq rx f p h slot tokens
  else if h.cls = 0 then (some (stBOUNDS, []), s)
  else
    let x : Prompt :=
      { port := f.port, session := f.session, seq := f.seq, hdr := h,
        tokens := smSetMany [] h.toff.toNat (tokens.map (fun t => t.setWidth 33 ||| 0x100000000)) }
    (noRequest, { s with work := { s.work with prompts := s.work.prompts ++ [x] } })

def samePrompt (f : Frame) (seq : BitVec 32) (x : Prompt) : Bool :=
  x.port == f.port && x.session == f.session && x.seq == seq

/-- A later part. -/
def State.submitLater (s : State) (rx : BitVec 64) (f : Frame) (p : PartId) (h : SubmitHdr) (slot : BitVec 16)
    (tokens : List (BitVec 32)) : Option (Nat × List Byte) × State :=
  match s.work.prompts.find? (samePrompt f h.first) with
  | none => (some (stBOUNDS, []), s)
  | some x =>
    let new := (List.range tokens.length).all (fun i => smGet x.tokens (h.toff.toNat + i) == 0)
    if x.hdr ≠ { h with toff := x.hdr.toff, first := 0 } ∨ tokens = [] ∨ new = false then (some (stBOUNDS, []), s)
    else
      let ts := smSetMany x.tokens h.toff.toNat (tokens.map (fun t => t.setWidth 33 ||| 0x100000000))
      let rest := s.work.prompts.filter (fun y => !(samePrompt f h.first y))
      if ts.length = h.ntok.toNat then
        State.acceptReq { s with work := { s.work with prompts := rest } } rx f p h slot
          (ts.map (fun c => c.2.setWidth 32))
      else (noRequest, { s with work := { s.work with prompts := rest ++ [{ x with tokens := ts }] } })

/-- SUBMIT, whose frame came at `rx`. -/
def State.submit (rx : BitVec 64) (f : Frame) (p : PartId) (h : SubmitHdr) (tokens : List (BitVec 32)) : Run := fun s =>
  match s.submitCheck p h tokens.length with
  | .error e => (some (e, []), s)
  | .ok slot =>
    if h.first = 0 then s.submitFirst rx f p h slot tokens else s.submitLater rx f p h slot tokens

def submitRule (h : SubmitHdr) : Rule := ownerRule 0x40 true false h.part.toNat

/-- SUBMIT. -/
def execSubmit (f : Frame) (h : SubmitHdr) (tokens : List (BitVec 32)) (s : State) : Out :=
  let body := submitHdrBytes h ++ tokens.flatMap (fun t => leBytes 4 t.toNat)
  s.command f (fun _ => submitRule h) body body (.submit f h tokens)
    (State.submit s.time f (partOfNat h.part.toNat) h tokens)

/-- PROMPT_PART_TIMEOUT (R439). -/
def execPromptPartTimeout (session seq : BitVec 32) (s : State) : Out :=
  .next { s with work := { s.work with
    prompts := s.work.prompts.filter (fun x => !(x.session == session && x.seq == seq)) } }

/-! CANCEL, QUERY and RESULTS (R391, R402, R440). -/

/-- The partition and slot of a REQ_ID, and the request that it names. -/
def reqPart (req : BitVec 32) : Nat := (req.extractLsb' 12 4).toNat
def reqSlot (req : BitVec 32) : Nat := (req.extractLsb' 0 12).toNat

def Part.request (k : Part) (req : BitVec 32) : Option Request :=
  match alGet k.slots (reqSlot req) with
  | some r => if r.gen = req.extractLsb' 16 16 then some r else none
  | none => none

def stateCode (r : Request) : Nat :=
  match r.state with
  | .queued => 1
  | .active => 2
  | .cancelling => 3
  | .done => 4

/-- State 0 is FREE. -/
def Part.reqState (k : Part) (req : BitVec 32) : Nat := ((k.request req).map stateCode).getD 0

def State.cancel (req : BitVec 32) : Run := fun s =>
  let p := partOfNat (reqPart req)
  let n := reqSlot req
  match (s.part p).request req with
  | none => (some (stBOUNDS, []), s)
  | some r =>
    let s := match r.state with
      | .queued => s.modPart p (fun k => k.complete s.time n r stCANCELLED true true false)
      | .active => if r.pend.isSome then s
          else s.modPart p (fun k => { k with slots := alSet k.slots n { r with state := .cancelling } })
      | _ => s
    (some (stOK, leBytes 1 ((s.part p).reqState req)), s)

def cancelRule (req : BitVec 32) : Rule := ownerRule 0x41 true false (reqPart req)

/-- CANCEL. -/
def execCancel (f : Frame) (req : BitVec 32) (s : State) : Out :=
  let body := leBytes 4 req.toNat
  s.command f (fun _ => cancelRule req) body body (.cancel f req) (State.cancel req)

/-- Output values released to hosts. -/
def Request.held (r : Request) : Nat := min r.vis r.out.length

/-- A request's status, zero before DONE. -/
def Request.shown (r : Request) : Nat := if r.state = .done then r.status else 0

def budgetBytes (b : Budget) : List Byte :=
  leBytes 4 b.balance.toNat ++ leBytes 4 b.rate.toNat ++ leBytes 4 b.cap.toNat ++ leBytes 4 b.nshare.toNat

def State.query (req : BitVec 32) (kind : Byte) (tenant : BitVec 16) (part : Byte) : Run := fun s =>
  if kind = 0 then
    match (s.part (partOfNat (reqPart req))).request req with
    | none => (some (stBOUNDS, []), s)
    | some r => (some (stOK, leBytes 1 (stateCode r) ++ leBytes 3 r.shown ++ leBytes 4 r.pos ++ leBytes 4 r.held), s)
  else if 4095 < tenant.toNat then (some (stBOUNDS, []), s)
  else (some (stOK, budgetBytes ((s.part (partOfNat part.toNat)).budget tenant)), s)

def queryRule (req : BitVec 32) (kind part : Byte) : Rule :=
  let r := ownerRule 0x42 true false (if kind = 0 then reqPart req else part.toNat)
  { r with bad := r.bad || decide (1 < kind.toNat) }

/-- QUERY. -/
def execQuery (f : Frame) (req : BitVec 32) (kind : Byte) (tenant : BitVec 16) (part : Byte) (s : State) : Out :=
  let body := leBytes 4 req.toNat ++ [kind] ++ leBytes 2 tenant.toNat ++ [part]
  s.command f (fun _ => queryRule req kind part) body body (.query f req kind tenant part)
    (State.query req kind tenant part)

/-- Every value below `n` has been returned. -/
def allReturned (rs : List (Nat × Nat)) (n : Nat) : Bool :=
  (List.range n).all (fun i => rs.any (fun r => decide (r.1 ≤ i) && decide (i < r.1 + r.2)))

def State.results (req voff : BitVec 32) (maxv : BitVec 16) (release : Bool) : Run := fun s =>
  let p := partOfNat (reqPart req)
  let n := reqSlot req
  match (s.part p).request req with
  | none => (some (stBOUNDS, []), s)
  | some r =>
    if maxv = 0 ∨ 2040 < maxv.toNat ∨ r.held < voff.toNat then (some (stBOUNDS, []), s)
    else
      let open_ := r.state = .done ∨ r.stream
      let vals := if open_ then (r.out.drop voff.toNat).take (min maxv.toNat (r.held - voff.toNat)) else []
      let r := { r with ret := if vals = [] then r.ret else r.ret ++ [(voff.toNat, vals.length)] }
      let free := release && r.state == .done && allReturned r.ret r.held
      let s := s.modPart p (fun k =>
        let k := { k with slots := alSet k.slots n r }
        if free then k.freeSlot n else k)
      (some (stOK, leBytes 1 (if free then 0 else stateCode r) ++ leBytes 3 r.shown ++ leBytes 4 r.held ++
        leBytes 8 vals.length ++ vals.flatMap (fun v => leBytes 4 v.toNat)), s)

def resultsRule (req : BitVec 32) : Rule := ownerRule 0x43 true false (reqPart req)

/-- RESULTS. -/
def execResults (f : Frame) (req voff : BitVec 32) (maxv : BitVec 16) (release : Bool) (s : State) : Out :=
  let body := leBytes 4 req.toNat ++ leBytes 4 voff.toNat ++ leBytes 2 maxv.toNat ++ leBytes 1 release.toNat
  s.command f (fun _ => resultsRule req) body body (.results f req voff maxv release)
    (State.results req voff maxv release)

/-! Class-0 tokens (R376). -/

/-- A command, whose frame came at `rx`, has waited for a token and goes on. -/
def State.runWaiting (s : State) (c : Instr) (rx : BitVec 64) : State :=
  match c with
  | .submit f h tokens => s.run f (submitRule h) (State.submit rx f (partOfNat h.part.toNat) h tokens)
  | .cancel f req => s.run f (cancelRule req) (State.cancel req)
  | .query f req kind tenant part => s.run f (queryRule req kind part) (State.query req kind tenant part)
  | .results f req voff maxv release => s.run f (resultsRule req) (State.results req voff maxv release)
  | _ => s

/-- The partition that a waiting command names. -/
def waitingPart (c : Instr) : Option PartId :=
  match c with
  | .submit _ h _ => some (partOfNat h.part.toNat)
  | .cancel _ req => some (partOfNat (reqPart req))
  | .query _ req kind _ part => some (partOfNat (if kind = 0 then reqPart req else part.toNat))
  | .results _ req _ _ _ => some (partOfNat (reqPart req))
  | _ => none

/-- The first waiting command for a partition at a port goes on with the token. -/
def State.releaseC0 (s : State) (p : PartId) : List PortId → State
  | [] => s
  | h :: t =>
    match (s.port h).waitC0.find? (fun c => waitingPart c.1 == some p) with
    | none => s.releaseC0 p t
    | some c =>
      let s := s.modPort h (fun k => { k with waitC0 := k.waitC0.erase c })
      (s.modPart p (fun k => { k with c0Tokens := k.c0Tokens - 1 })).runWaiting c.1 c.2

/-- HOST_C0_TOKEN_REFILL (R376): PERIOD µs are over. -/
def execHostC0TokenRefill (p : PartId) (s : State) : Out :=
  let s := s.modPart p (fun k => { k with c0Tokens := min (k.c0Tokens + 1) k.c0Burst.toNat })
  .next (if (s.part p).c0Tokens = 0 then s else s.releaseC0 p [0, 1])

/-! BUDGET_SET (R400, R435). -/

def Budget.take (b : Budget) (sel : BitVec 4) (balance rate cap nshare : BitVec 32) : Budget :=
  { b with
    balance := if sel.getLsbD 0 then balance else b.balance, rate := if sel.getLsbD 1 then rate else b.rate,
    cap := if sel.getLsbD 2 then cap else b.cap, nshare := if sel.getLsbD 3 then nshare else b.nshare }

def State.budgetSet (p : PartId) (sel : BitVec 4) (tenant : BitVec 16) (balance rate cap nshare : BitVec 32) : Run :=
  fun s =>
  if 4095 < tenant.toNat ∨ (nshare ≠ 0 ∧ nshare.toNat < 4096) then (some (stBOUNDS, []), s) else
  let b := ((s.part p).budget tenant).take sel balance rate cap nshare
  let s := s.modPart p (fun k => { k with budgets := alSet k.budgets tenant.toNat b })
  (some (stOK, budgetBytes b), s.kick p)

/-- BUDGET_SET. -/
def execBudgetSet (f : Frame) (part : Byte) (sel : BitVec 4) (tenant : BitVec 16) (balance rate cap nshare : BitVec 32)
    (s : State) : Out :=
  let body := [part, sel.setWidth 8] ++ leBytes 2 tenant.toNat ++ leBytes 4 balance.toNat ++ leBytes 4 rate.toNat ++
    leBytes 4 cap.toNat ++ leBytes 4 nshare.toNat
  s.command f (fun _ => ownerRule 0x44 false true part.toNat) body body
    (.budgetSet f part sel tenant balance rate cap nshare)
    (State.budgetSet (partOfNat part.toNat) sel tenant balance rate cap nshare)

/-! ADAPTER_LOAD (R149, R404, R438). -/

/-- An item of an adapter object: its head and its data. -/
structure AdapterItem where
  region : Nat
  rank   : Nat
  arank  : Nat
  fmt    : Nat
  alpha  : Nat
  a      : List MWord
  b      : List MWord
  scales : List MWord
  deriving DecidableEq, Repr

/-- Bytes of a block and of its padding to whole words. -/
def padded (n : Nat) : Nat := (n + 31) / 32 * 32

/-- The items of an object: none where they do not fill it. -/
def adapterItems : Nat → List Byte → Option (List AdapterItem)
  | 0, _ => none
  | n + 1, bs =>
    if bs = [] then some [] else
    let la := leAt bs 20 4
    let lb := leAt bs 24 4
    let ls := leAt bs 28 4
    let size := 32 + padded la + padded lb + padded ls
    if bs.length < size then none else
    let x : AdapterItem :=
      { region := leAt bs 0 2, rank := leAt bs 2 1, arank := leAt bs 3 1, fmt := leAt bs 4 1, alpha := leAt bs 16 4,
        a := wordsOfBytes ((bs.drop 32).take la), b := wordsOfBytes ((bs.drop (32 + padded la)).take lb),
        scales := wordsOfBytes ((bs.drop (32 + padded la + padded lb)).take ls) }
    (adapterItems n (bs.drop size)).map (fun t => x :: t)

def AdapterItem.words (x : AdapterItem) : List MWord := x.a ++ x.b ++ x.scales

/-- Places one item beside those of its rank; a status where it cannot be. -/
def placeItem (g : Program) (n slot : Nat) (used : List Placed) (x : AdapterItem) : Except Nat Placed :=
  match layoutAt g.regions x.rank x.region, layoutAt g.regions x.rank 65523 with
  | some d, some r =>
    if n ≤ x.rank ∨ x.arank < 4 ∨ 64 < x.arank ∨ (x.fmt ≠ 1 ∧ x.fmt ≠ 5) ∨ d.2 ≤ slot then .error stBOUNDS
    else
      let len := x.words.length
      let mine := used.filter (fun y => y.rank == x.rank)
      let ok (c : Nat) : Bool := decide (c + len ≤ r.1 + r.2) &&
        mine.all (fun y => decide (c + len ≤ y.addr ∨ y.addr + y.words ≤ c) || len == 0 || y.words == 0)
      match ((r.1 :: mine.map (fun y => y.addr + y.words)).filter ok).min? with
      | some c => .ok { rank := x.rank, dir := d.1 + slot, addr := c, words := len }
      | none => .error stNOSPACE
  | _, _ => .error stBOUNDS

def placeItems (g : Program) (n slot : Nat) : List Placed → List AdapterItem → Except Nat (List (AdapterItem × Placed))
  | _, [] => .ok []
  | used, x :: t =>
    match placeItem g n slot used x with
    | .error e => .error e
    | .ok y => (placeItems g n slot (used ++ [y]) t).map (fun l => (x, y) :: l)

/-- A directory entry (R149). -/
def adapterEntry (id : BitVec 16) (x : AdapterItem) (y : Placed) : MWord :=
  wordOfBytes (leBytes 2 id.toNat ++ leBytes 1 x.arank ++ leBytes 1 x.fmt ++ leBytes 4 y.addr ++
    leBytes 4 (y.addr + x.a.length) ++ leBytes 4 (y.addr + x.a.length + x.b.length) ++ leBytes 4 0 ++
    leBytes 4 x.alpha ++ leBytes 1 1)

def State.coreAt (s : State) (p : PartId) (r : Nat) : CoreId := (s.coreOfRank p r).getD 0

/-- Clears VALID in the entries of a slot. The spec gives the partition control block one requester code, that
of its reads (R223; DESIGN CHOICE, Assumption 99). -/
def State.dropEntries (s : State) (p : PartId) : List Placed → State
  | [] => s
  | y :: t => (s.putBits (s.coreAt p y.rank) y.dir 0 (wordSetField 0 192 1 1) 10).dropEntries p t

def State.putItems (s : State) (p : PartId) (id : BitVec 16) : List (AdapterItem × Placed) → State
  | [] => s
  | (x, y) :: t =>
    let c := s.coreAt p y.rank
    ((s.putWords c y.addr 10 x.words).putWords c y.dir 10 [adapterEntry id x y]).putItems p id t

/-- A slot that a request of its partition names (R404). -/
def State.slotBusy (s : State) (p : PartId) (slot : Nat) : Bool :=
  (s.part p).slots.any (fun x => x.2.state != .done && x.2.slot == BitVec.ofNat 16 slot)

/-- The slot of a load: that of its header, or the lowest free one. -/
def Work.adapterSlot (w : Work) (h : LoadHdr) : Option Nat :=
  if h.slot = 0xFFFF then (List.range 1024).find? (fun n => (alGet w.adapters n).isNone) else some h.slot.toNat

/-- Why a slot may not be replaced or removed. -/
def State.slotBar (s : State) (p : PartId) (slot : Nat) : Option Nat :=
  match alGet s.work.adapters slot with
  | none => none
  | some a => if a.part ≠ p then some stDENIED else if s.slotBusy p slot then some stBUSY else none

def State.setAdapters (s : State) (l : List (Nat × Adapter)) : State := { s with work := { s.work with adapters := l } }

/-- REMOVE = 1. -/
def State.adapterRemove (s : State) (p : PartId) (slot : Nat) : Option (Nat × List Byte) × State :=
  match alGet s.work.adapters slot, s.slotBar p slot with
  | none, _ => (some (stBOUNDS, []), s)
  | _, some st => (some (st, []), s)
  | some a, none =>
    (some (stOK, leBytes 4 0 ++ leBytes 2 slot), (s.dropEntries p a.places).setAdapters (alDel s.work.adapters slot))

/-- The load of a complete adapter. -/
def State.adapterExec (s : State) (p : PartId) (h : LoadHdr) (bs : List Byte) : Option (Nat × List Byte) × State :=
  match s.work.adapterSlot h, (s.part p).prog with
  | none, _ => (some (stNOSPACE, []), s)
  | _, none => (some (stBOUNDS, []), s)
  | some slot, some g =>
    match s.slotBar p slot, adapterItems (bs.length + 1) bs with
    | some st, _ => (some (st, []), s)
    | _, none => (some (stBOUNDS, []), s)
    | none, some xs =>
      let rest := alDel s.work.adapters slot
      let used := (rest.filter (fun a => a.2.part == p)).flatMap (fun a => a.2.places)
      match placeItems g (s.ranks p).length slot used xs with
      | .error e => (some (e, []), s)
      | .ok ys =>
        let old := ((alGet s.work.adapters slot).map (·.places)).getD []
        let s := (s.dropEntries p old).putItems p h.adapter ys
        let a : Adapter := { adapter := h.adapter, tenant := h.tenant, part := p, places := ys.map (·.2) }
        (some (stOK, leBytes 4 h.total.toNat ++ leBytes 2 slot), s.setAdapters (alSet rest slot a))

/-- A header field outside its range (R436). -/
def adapterBad (h : LoadHdr) : Bool :=
  h.adapter == 0xFFFF || (decide (4095 < h.tenant.toNat) && h.tenant != 0xFFFF) ||
  (decide (1023 < h.slot.toNat) && (h.slot != 0xFFFF || h.remove))

def State.adapterLoad (f : Frame) (p : PartId) (h : LoadHdr) (bytes : List Byte) : Run := fun s =>
  if adapterBad h then (some (stBOUNDS, []), s)
  else if h.remove then (if bytes = [] then s.adapterRemove p h.slot.toNat else (some (stBOUNDS, []), s))
  else if partFits h bytes = false then (some (stBOUNDS, []), s)
  else match s.work.object f 0x45 h with
    | none => (some (stBUSY, []), s)
    | some o =>
      match s.loadPart o h bytes with
      | (none, s) => (some (stOK, leBytes 4 (o.add h.offset.toNat bytes).bytes.length), s)
      | (some o, s) => s.adapterExec p o.hdr o.data

/-- ADAPTER_LOAD. -/
def execAdapterLoad (f : Frame) (h : LoadHdr) (bytes : List Byte) (s : State) : Out :=
  s.command f (fun _ => ownerRule 0x45 false true h.part.toNat) (loadHdrBytes h ++ bytes) (loadHdrBytes h)
    (.adapterLoad f h bytes) (State.adapterLoad f (partOfNat h.part.toNat) h bytes)

end Sys2Proof.Machine
end

