-- ==== Sys2Proof/Machine/FabricCmds.lean ====
section
/-! DEFINITION. Host commands on the routing unit, the links, the module's removal, lock-step pairing and
recording (R308, R328, R435, R464, R482, R488, R490). -/

namespace Sys2Proof.Machine

/-! Routing tables (R328). -/

/-- The bank that is not ACTIVE. -/
def Router.other (r : Router) : Fin 2 := if r.bank[0] = 2 then 1 else 0

def Router.stage (r : Router) (b : Nat) : Nat → List (BitVec 16) → Router
  | _, [] => r
  | n, e :: t => (r.setEntry b n (e.setWidth 8)).stage b (n + 1) t

def State.routeStage (first : BitVec 16) (last : Bool) (entries : List (BitVec 16)) : Run := fun s =>
  let b := s.rte.other
  if entries = [] ∨ 4000 < entries.length ∨ 16384 < first.toNat + entries.length then (some (stBOUNDS, []), s)
  else if s.rte.bank[b] = 3 then (some (stBUSY, []), s)
  else
    let s := s.modRte (fun r => r.stage b.val first.toNat entries)
    let s := if last then s.modRte (fun r => { r with bank := r.bank.set b 1 }) else s
    (some (stOK, leBytes 1 b.val ++ leBytes 1 (s.rte.bank[b]).toNat), s)

/-- ROUTE_STAGE. -/
def execRouteStage (f : Frame) (first : BitVec 16) (last : Bool) (entries : List (BitVec 16)) (s : State) : Out :=
  let body := leBytes 2 first.toNat ++ leBytes 2 entries.length ++ leBytes 4 last.toNat ++
    entries.flatMap (fun e => leBytes 2 e.toNat)
  s.command f (fun _ => { op := 0x50, auth := .admin }) body body (.routeStage f first last entries)
    (State.routeStage first last entries)

def State.routeSwitch : Run := fun s =>
  if s.rte.bank[s.rte.other] ≠ 1 then (some (stBUSY, []), s)
  else
    let s := s.switchBanks
    (some (stOK, leBytes 1 s.rte.stamp.toNat), s)

/-- ROUTE_SWITCH. -/
def execRouteSwitch (f : Frame) (s : State) : Out :=
  s.command f (fun _ => { op := 0x51, auth := .admin }) [] [] (.routeSwitch f) State.routeSwitch

/-! Links (R308, R435). -/

def waiterOf (f : Frame) : Waiter := { port := f.port, session := f.session, seq := f.seq }

def State.linkResetRun (f : Frame) (link width rate : Byte) (graceful : Bool) : Run := fun s =>
  if 24 ≤ link.toNat ∨ (width ≠ 8 ∧ width ≠ 4 ∧ width ≠ 2 ∧ width ≠ 0) ∨ 3 < rate.toNat then (some (stBOUNDS, []), s)
  else
    let l : LinkId := Fin.ofNat 24 link.toNat
    if s.groupResetting (groupOf l) then (some (stBUSY, []), s)
    else
      let s := { s with work := { s.work with resets := s.work.resets ++ [(waiterOf f, l)] } }
      (none, s.linkReset l width.toNat rate.toNat graceful)

/-- LINK_RESET. -/
def execLinkReset (f : Frame) (link width rate : Byte) (graceful : Bool) (s : State) : Out :=
  let body := [link, width, rate] ++ leBytes 1 graceful.toNat
  s.command f (fun _ => { op := 0x60, auth := .admin }) body body (.linkReset f link width rate graceful)
    (State.linkResetRun f link width rate graceful)

def State.linkLeaveRun (f : Frame) (mask : BitVec 32) : Run := fun s =>
  let m : BitVec 24 := mask.setWidth 24
  if mask.toNat ≠ m.toNat then (some (stBOUNDS, []), s)
  else if (maskLinks m).any (fun l => s.groupResetting (groupOf l)) then (some (stBUSY, []), s)
  else
    let s := { s with work := { s.work with leaves := s.work.leaves ++ [(waiterOf f, m)] } }
    (none, ((maskLinks m).foldl State.startLeave s).leaveDone)

/-- LINK_LEAVE. -/
def execLinkLeave (f : Frame) (mask : BitVec 32) (s : State) : Out :=
  let body := leBytes 4 mask.toNat
  s.command f (fun _ => { op := 0x61, auth := .admin }) body body (.linkLeave f mask) (State.linkLeaveRun f mask)

/-! Planned removal (R464). -/

/-- Step 1: every partition is stopped. -/
def State.stopAll (s : State) (now : Bool) : State := (List.finRange 12).foldl (fun s p => (s.stopPart p now).2) s

/-- Step 2: loads that wait for a wake end with BUSY, and the starts behind them are cancelled (R432). -/
def State.endLoads (s : State) (p : PartId) : State :=
  let k := s.part p
  if k.loads = [] then s else
  let s := s.setPart p { k with loads := [], starts := [] }
  let s := s.respondAll 0x32 stBUSY ({ step := 10, status := stBUSY } : LoadErr).body
    (k.loads.map (fun x => (x.1, x.2.1, x.2.2.1)))
  s.respondAll 0x31 stCANCELLED [s.partState p] k.starts

/-- Every partition is STOPPED or EMPTY. -/
def State.allStopped (s : State) : Bool := (List.finRange 12).all (fun p => decide ((s.part p).state.toNat < 2))

/-- Step 3: the links leave, once every partition is stopped. -/
def State.leaveAll (s : State) : State :=
  if s.allStopped then
    (List.finRange 24).foldl (fun s l => if linkUp_ (s.link l) ∧ !(s.link l).leaving then s.startLeave l else s) s
  else s

/-- A planned removal begins: by ATTN_N (0) or HOTPLUG_PREPARE (1). -/
def State.prepare (s : State) (why : Nat) (mode : Bool) : State :=
  let s : State := { s with chip := { s.chip with hpState := 1 } }
  let s := s.log 0x001E srcChip why 0 0 0
  let s : State := (List.finRange 12).foldl State.endLoads s
  (s.stopAll mode).leaveAll

/-- Step 4: READY, and every HOTPLUG_PREPARE that waits completes. -/
def State.removalReady (s : State) : State :=
  let l := s.chip.hpWait
  let s : State := { s with chip := { s.chip with hpState := 2, hpWait := [] } }
  s.respondAll 0x62 stOK [] (l.map (fun w => (w.port, w.session, w.seq)))

def State.hotplugPrepare (f : Frame) (mode : Bool) : Run := fun s =>
  if s.chip.hpState ≠ 0 then (some (stBUSY, []), s)
  else
    let s : State := { s with chip := { s.chip with hpWait := [waiterOf f] } }
    (none, s.prepare 1 mode)

/-- HOTPLUG_PREPARE. -/
def execHotplugPrepare (f : Frame) (mode : Bool) (s : State) : Out :=
  let body := leBytes 1 mode.toNat
  s.command f (fun _ => { op := 0x62, auth := .admin }) body body (.hotplugPrepare f mode)
    (State.hotplugPrepare f mode)

/-- ATTN_N_LOW (R464): ATTN_N has been low for 5 ms; the pin counts from the end of step 9 (R515). -/
def execAttnNLow (s : State) : Out :=
  let s := { s with chip := { s.chip with attnLow := true } }
  .next (if s.chip.pwrGood ∧ !s.chip.resetLow ∧ 9 ≤ s.chip.step.toNat ∧ s.chip.hpState = 0 then
      s.prepare 0 s.chip.attnMode
    else s)

/-- HOTPLUG_STOP_TIMEOUT (R464, R467). -/
def execHotplugStopTimeout (s : State) : Out :=
  .next (if s.chip.hpState = 1 then (s.stopAll true).leaveAll else s)

/-- HOTPLUG_READY (R464): nothing runs and no link is up; where links are still to leave, they begin to. -/
def execHotplugReady (s : State) : Out :=
  .next (if s.chip.hpState ≠ 1 ∨ s.allStopped = false then s
    else if s.links.any linkUp_ then s.leaveAll
    else s.removalReady)

/-! Lock-step pairing (R482). -/

/-- Partitions of a mask. -/
def maskParts (m : BitVec 16) : List PartId := (List.finRange 12).filter (fun p => m.getLsbD p.val)

/-- A named partition's image is not in fixed-order mode. -/
def Part.unordered (k : Part) : Bool := k.state == 1 && (match k.prog with
  | some g => !g.fixedOrder
  | none => false)

/-- A partition's pairing begins anew, or ends. -/
def Lockstep.pair (l : Lockstep) (on follower hold : Bool) (chip : BitVec 14) (p : PartId) : Lockstep :=
  if on then { l.unpair with
    paired := true, follower := follower, hold := hold, twinChip := chip, twinPart := BitVec.ofNat 4 p.val }
  else l.unpair

def State.lockstepPair (mask twin : BitVec 16) (role : Byte) (enable hold : Bool) : Run := fun s =>
  let ps := maskParts mask
  if 4096 ≤ mask.toNat ∨ 16383 ≤ twin.toNat ∨ twin.toNat = s.chipId.toNat ∨ 1 < role.toNat ∨
      ps.any (fun p => (s.part p).unordered) = true then (some (stBOUNDS, []), s)
  else if ps.any (fun p => (s.part p).state != 1) then (some (stBUSY, []), s)
  else
    let s : State := ps.foldl (fun s p => s.modPart p (fun k => { k with
      ls := k.ls.pair enable (role == 1) hold (twin.setWidth 14) p })) s
    (some (stOK, leBytes 1 (match ps with
      | p :: _ => (s.part p).ls.paired.toNat
      | [] => 0)), s)

/-- LOCKSTEP_PAIR. -/
def execLockstepPair (f : Frame) (mask twin : BitVec 16) (role : Byte) (enable hold : Bool) (s : State) : Out :=
  let body := leBytes 2 mask.toNat ++ leBytes 2 twin.toNat ++ [role] ++ leBytes 1 (enable.toNat + 2 * hold.toNat)
  s.command f (fun _ => { op := 0x70, auth := .admin }) body body (.lockstepPair f mask twin role enable hold)
    (State.lockstepPair mask twin role enable hold)

/-! Recording (R488, R490). -/

/-- The buffer partition of a RECORD_START; none where 0xFF finds no EMPTY partition. -/
def State.recBuffer (s : State) (buffer : Byte) : Option PartId :=
  if buffer = 0xFF then (List.finRange 12).find? (fun p => (s.part p).state == 0) else some (partOfNat buffer.toNat)

def State.recordStart (mask : BitVec 16) (buffer : Byte) (wrap batch : Bool) : Run := fun s =>
  let b := s.recBuffer buffer
  let inMask := match b with
    | some p => mask.getLsbD p.val
    | none => false
  if 4096 ≤ mask.toNat ∨ (12 ≤ buffer.toNat ∧ buffer ≠ 0xFF) ∨ inMask = true then (some (stBOUNDS, []), s)
  else if s.work.recording.held then (some (stBUSY, []), s)
  else match b with
    | none => (some (stNOSPACE, []), s)
    | some p =>
      if (s.part p).state ≠ 0 ∨ (s.part p).loads ≠ [] then (some (stBUSY, []), s)
      else
        let s := if (s.part p).sleepState = 0 then s else s.wakeDone p 0
        let r : Recording :=
          { running := true, held := true, wrap := wrap, batch := batch, buffer := p, mask := mask.setWidth 12 }
        (some (stOK, leBytes 1 p.val), { s with work := { s.work with recording := r } })

/-- RECORD_START. -/
def execRecordStart (f : Frame) (mask : BitVec 16) (buffer : Byte) (wrap batch : Bool) (s : State) : Out :=
  let body := leBytes 2 mask.toNat ++ [buffer] ++ leBytes 1 (wrap.toNat + 2 * batch.toNat)
  s.command f (fun _ => { op := 0x71, auth := .admin }) body body (.recordStart f mask buffer wrap batch)
    (State.recordStart mask buffer wrap batch)

/-- RECORD_STOP reads the buffer under R207 to R213; the manual names no status for an uncorrectable word
there, which is FAULT here (DESIGN CHOICE, Assumption 99). -/
def State.recordStop (stop release : Bool) (offset : BitVec 32) (max : BitVec 16) : Run := fun s =>
  if 8000 < max.toNat ∨ max.toNat % 32 ≠ 0 then (some (stBOUNDS, []), s)
  else
    let r := s.work.recording
    let reads := s.recWords offset.toNat max.toNat
    let body := leBytes 4 (r.words * 32) ++ leBytes 12 r.dropped.toNat ++ s.recBytes offset.toNat max.toNat
    let r := if stop then { r with running := false } else r
    let r := if release ∧ !r.running then {} else r
    let s : State := { s with work := { s.work with recording := r } }
    match s.firstBad reads with
    | some x => (some (stFAULT, []), (s.corrections (s.beforeBad reads)).contain x.1 x.2 10 x.1.val)
    | none => (some (stOK, body), (s.corrections reads).wakeAll reads)

/-- RECORD_STOP. -/
def execRecordStop (f : Frame) (stop release : Bool) (offset : BitVec 32) (max : BitVec 16) (s : State) : Out :=
  let body := leBytes 4 (stop.toNat + 2 * release.toNat) ++ leBytes 4 offset.toNat ++ leBytes 2 max.toNat
  s.command f (fun _ => { op := 0x72, auth := .admin }) body body (.recordStop f stop release offset max)
    (State.recordStop stop release offset max)

end Sys2Proof.Machine
end

