-- ==== Sys2Proof/Machine/SetupCmds.lean ====
section
/-! DEFINITION. SETUP frames, the life of sessions, and frames of other protocols (R418, R422 to R429, R462). -/

namespace Sys2Proof.Machine

/-! Identity. -/

/-- The public device key (R451). -/
def deviceKey : List Byte := Config.falconPublic Config.devSeed

/-- The part number (R450). -/
def VendorCopy.partNumber (v : VendorCopy) : List Byte :=
  let b := ascii (if v.sx84 then "IFX-SX84-LC" else "IFX-SX96-LC")
  b ++ List.replicate (16 - b.length) 0

def State.mac (s : State) (h : PortId) : BitVec 48 := if h = 0 then s.vendor.macA else s.vendor.macB


/-- The map of enabled cores. -/
def State.coreMap (s : State) : Nat := ((List.finRange 96).filter s.enabled).foldl (fun a c => a + 2 ^ c.val) 0

/-! SETUP frames (R425). -/

/-- A SETUP_REPLY leaves the port. -/
def State.setupReply (s : State) (f : Setup) (op status : Nat) (body : List Byte) : State :=
  s.modPort f.port (fun k => { k with sent := some (.sct
    { carrier := f.carrier, ftype := 5, op := BitVec.ofNat 16 op, seq := f.seq, status := status, body := body }) })

/-- A SETUP frame reaches a port: `go` answers it with a status and a body. -/
def State.setup (s : State) (f : Setup) (op : Nat) (bodyLen : Nat) (go : State → Nat × List Byte × State) : Out :=
  .next (if s.portOn f.port = false then s
    else if s.carries f.port f.carrier = false then s.modPort f.port HostPort.badFormat
    else if f.ver ≠ 1 then s.setupReply f op stVERSION []
    else if 8192 < bodyLen + (if f.sig = [] then 0 else (sigBlock f.sig).length) then
      s.modPort f.port HostPort.badFormat
    else
      let (st, b, s) := go s
      s.setupReply f op st b)

/-- A nonce that is given to a host, valid for 10 s. -/
def State.giveNonce (s : State) (h : PortId) : BitVec 256 × State :=
  let nm := Config.freshNonce s.draws
  let s := { s with draws := s.draws + 1 }
  (nm, s.modPort h (fun k => { k with
    nonces := k.nonces.filter (fun x => decide (s.time.toNat ≤ x.2.toNat + 10000000000)) ++ [(nm, s.time)] }))

def State.identity (h : PortId) (s : State) : Nat × List Byte × State :=
  let (nm, s) := s.giveNonce h
  (stOK, s.vendor.partNumber ++ leBytes 12 s.coreMap ++ leBytes 2 s.chipId.toNat ++ leBytes 1 s.chip.slotId.toNat ++ [3] ++
    leBytes 4 Config.romVersion.toNat ++ shake256 deviceKey 64 ++ bytesOfWord nm ++ leBytes 6 (s.mac h).toNat ++
    leBytes 4 (s.ip4 h).toNat ++ leBytes 16 (s.ip6 h).toNat, s)

/-- IDENTIFY (R425, R435). -/
def execIdentify (f : Setup) (s : State) : Out := s.setup f 0x01 0 (State.identity f.port)

/-! ATTEST (R462). -/

/-- Bytes 0 to 3,205 of a vendor copy (R450). -/
def VendorCopy.head (v : VendorCopy) : List Byte :=
  let key := deviceKey.take 1793
  let cert := v.cert.take 1280
  leBytes 4 0x52565853 ++ leBytes 2 1 ++ leBytes 1 v.vkey.toNat ++ [0xFF] ++ v.partNumber ++ v.serial.take 16 ++
  leBytes 12 v.map.toNat ++ leBytes 6 v.macA.toNat ++ leBytes 6 v.macB.toNat ++ List.replicate 64 0xFF ++
  key ++ List.replicate (1796 - key.length) 0xFF ++ leBytes 2 cert.length ++ cert ++ List.replicate (1280 - cert.length) 0xFF

/-- The entry of a partition. -/
def State.attestPart (s : State) (p : PartId) : List Byte :=
  let k := s.part p
  leBytes 1 k.state.toNat ++ leBytes 1 (s.safety && p == 0).toNat ++ leBytes 2 k.flock.toNat ++
  leBytes 4 (s.ranks p).length ++ (match k.prog with
    | some g => g.digest
    | none => List.replicate 64 0)

def State.report (s : State) (nonce : BitVec 256) (mask : BitVec 16) : List Byte :=
  leBytes 4 0x54415853 ++ [1, 3] ++ leBytes 2 s.chipId.toNat ++ leBytes 4 Config.romVersion.toNat ++
  leBytes 64 Config.romDigest.toNat ++ leBytes 64 s.vendor.digest.toNat ++
  (match s.store.cfg.root with
    | some r => shake256 r 64
    | none => List.replicate 64 0) ++
  leBytes 8 s.store.generation.toNat ++ leBytes 8 s.store.lastCommit.toNat ++ bytesOfWord nonce ++
  leBytes 8 s.time.toNat ++ leBytes 2 mask.toNat ++ leBytes 2 (((s.chipReg 0x10).getD 0).toNat / 65536) ++
  (maskParts mask).flatMap s.attestPart ++ s.vendor.head

/-- The module's signature over bytes, as a signature block. -/
def deviceSig (bs : List Byte) : List Byte := sigBlock (Config.falconSign Config.devSeed bs)

def State.attest (nonce : BitVec 256) (mask : BitVec 16) (s : State) : Nat × List Byte × State :=
  if 4096 ≤ mask.toNat then (stBOUNDS, [], s)
  else
    let b := s.report nonce mask
    (stOK, b ++ deviceSig b, s)

/-- ATTEST. -/
def execAttest (f : Setup) (nonce : BitVec 256) (mask : BitVec 16) (s : State) : Out :=
  s.setup f 0x02 34 (State.attest nonce mask)

/-! SESSION_OPEN (R426). -/

/-- Session IDs in use, or of an ended session with commands in execution, and 0. -/
def State.sessionIds (s : State) : List (BitVec 32) :=
  0 :: (((s.port 0).sessions ++ (s.port 1).sessions).map (fun x => x.id) ++
    ((s.port 0).orphans ++ (s.port 1).orphans).map (·.1))

/-- A nonce is used up. -/
def HostPort.useNonce (k : HostPort) (nm : BitVec 256) : HostPort :=
  { k with nonces := k.nonces.filter (fun x => x.1 != nm) }

/-- The key of a session (R426). -/
def sessionKey (cmd nm nh : BitVec 256) (id : BitVec 32) : BitVec 256 :=
  kmac256 (bytesOfWord cmd) (bytesOfWord nm ++ bytesOfWord nh ++ leBytes 4 id.toNat) (ascii "SCT-SESSION")

/-- The answer to a SESSION_OPEN that succeeds. -/
def State.opened (s : State) (nh : BitVec 256) (id rack : BitVec 32) : Nat × List Byte × State :=
  (stOK, leBytes 4 id.toNat ++ leBytes 4 rack.toNat ++
    deviceSig (bytesOfWord nh ++ leBytes 4 id.toNat ++ leBytes 2 s.chipId.toNat), s)

/-- Steps 4 and 5, and what follows. -/
def State.openFor (s : State) (h : PortId) (key : Byte) (resume : BitVec 32) (nm nh : BitVec 256) (cmd : BitVec 256) :
    Nat × List Byte × State :=
  if resume = 0 then
    if 64 ≤ (s.port h).sessions.length then (stNOSPACE, [], s)
    else
      let (w, s) := s.draw
      let ids := s.sessionIds
      let id := nextUnseen ids ids.length (w.setWidth 32)
      let x : Session := { id := id, key := key, skey := sessionKey cmd nm nh id }
      (s.modPort h (fun k => { k with sessions := k.sessions ++ [x] })).opened nh id 1
  else match (s.port h).session resume with
    | none => (stDENIED, [], s)
    | some x =>
      if x.key ≠ key then (stDENIED, [], s)
      else (s.modPort h (fun k => k.setSession { x with skey := sessionKey cmd nm nh resume })).opened nh resume x.rack

def State.sessionOpen (f : Setup) (key : Byte) (resume : BitVec 32) (nm nh : BitVec 256) (s : State) :
    Nat × List Byte × State :=
  let known := (s.port f.port).nonces.any (fun x => x.1 == nm && decide (s.time.toNat ≤ x.2.toNat + 10000000000))
  let s := s.modPort f.port (fun k => k.useNonce nm)
  let msg := leBytes 2 s.chipId.toNat ++ bytesOfWord nm ++ bytesOfWord nh ++ [key] ++ leBytes 4 resume.toNat
  if known = false then (stDENIED, [], s)
  else match s.hostKey key.toNat with
    | none => (stDENIED, [], s)
    | some k =>
      if Config.falconVerify k.pub msg f.sig = false then (stBADSIG, [], s)
      else s.openFor f.port key resume nm nh (s.commandKey k)

/-- SESSION_OPEN. -/
def execSessionOpen (f : Setup) (key : Byte) (resume : BitVec 32) (nm nh : BitVec 256) (s : State) : Out :=
  s.setup f 0x03 72 (State.sessionOpen f key resume nm nh)

/-- A compaction that is due begins once no staging is open (R460). -/
def Store.tidy (k : Store) : Store :=
  if k.due ∧ k.stagings = [] then { k with due := false, compacting := true } else k

/-- A session ends (R429, R432): its kept responses and its stagings go, and its commands in execution go on. -/
def State.endSession (s : State) (h : PortId) (id : BitVec 32) : State :=
  let s := s.modPort h (fun k => { k with
    sessions := k.sessions.filter (fun x => x.id != id),
    orphans := k.orphans ++ (k.sessions.filter (fun x => x.id == id)).flatMap (fun x => x.running.map (fun q => (id, q))) })
  { s with store := Store.tidy { s.store with
    stagings := s.store.stagings.filter (fun x => !(x.who.port == h && x.who.session == id)) } }

/-- SESSION_IDLE_TIMEOUT (R429). -/
def execSessionIdleTimeout (h : PortId) (session : BitVec 32) (s : State) : Out := .next (s.endSession h session)

/-! Frames of other kinds (R418, R422, R423, R425, R427, R434). -/

/-- ARP_REQUEST: one for another address is a frame that the port does not answer (R418). -/
def execArpRequest (h : PortId) (ip : BitVec 32) (s : State) : Out :=
  .next (if s.portOn h = false then s
    else if ip ≠ 0 ∧ ip = s.ip4 h then s.modPort h (fun k => { k with sent := some (.arp (s.mac h) ip) })
    else s.modPort h HostPort.badFormat)

/-- NEIGHBOUR_SOLICIT: as ARP_REQUEST. -/
def execNeighbourSolicit (h : PortId) (ip : BitVec 128) (s : State) : Out :=
  .next (if s.portOn h = false then s
    else if ip ≠ 0 ∧ ip = s.ip6 h then s.modPort h (fun k => { k with sent := some (.neighbour (s.mac h) ip) })
    else s.modPort h HostPort.badFormat)

/-- The opcodes of R434 that sessions use. -/
def listedOps : List Nat :=
  [0x10, 0x11, 0x20, 0x21, 0x30, 0x31, 0x32, 0x33, 0x40, 0x41, 0x42, 0x43, 0x44, 0x45, 0x50, 0x51, 0x60, 0x61, 0x62,
   0x70, 0x71, 0x72]

/-- A good COMMAND with an opcode that no table lists completes with VERSION. -/
def State.unlisted (s : State) (h : PortId) (opcode : BitVec 16) (session seq : BitVec 32) (c : Instr) : State :=
  match (s.port h).session session with
  | none => s.modPort h HostPort.badTag
  | some x =>
    if listedOps.contains opcode.toNat then s else
    let f : Frame := { port := h, session := session, seq := seq, rack := x.rack, tag := 0 }
    let (ok, k) := (s.port h).take x f opcode 64 c
    let s := s.setPort h k
    if ok then s.answer f opcode.toNat stVERSION [] else s

/-- OTHER_FRAME: 0 another protocol, 1 a bad SCT version or length, 2 a bad tag or unknown session, 3 a SEQ outside
the window, 4 an unlisted opcode of a session, 5 an unlisted SETUP opcode or SETUP version. -/
def execOtherFrame (h : PortId) (kind : Fin 6) (opcode : BitVec 16) (session seq : BitVec 32) (s : State) : Out :=
  .next (if s.portOn h = false then s else
    if kind.val < 2 then s.modPort h HostPort.badFormat
    else if kind = 2 then s.modPort h HostPort.badTag
    else if kind = 3 then s.modPort h HostPort.badSeq
    else if kind = 4 then s.unlisted h opcode session seq (.otherFrame h kind opcode session seq)
    else s.setupReply { port := h, seq := seq } opcode.toNat stVERSION [])

end Sys2Proof.Machine
end

