-- ==== Sys2Proof/Machine/ConfigStore.lean ====
section
/-! DEFINITION. The configuration functions, the journal and its compaction (R366, R367, R424, R452 to R460). -/

namespace Sys2Proof.Machine

/-! Records (R454, R455). The bytes of a record are the model's: the manual gives its items and no layout. -/

def keyBytes (k : HostKey) : List Byte :=
  leBytes 1 (k.admin.toNat + 2 * k.operator.toNat + 4 * k.safety.toNat) ++ leBytes 16 k.nonce.toNat ++ k.pub ++
  bytesOfWord k.cmdKey

def recFn (r : CfgRecord) : Nat :=
  match r with
  | .owner _ _ _ _ _ => 1
  | .hostKey _ _ => 2
  | .chip _ _ _ => 3
  | .part _ _ _ _ _ _ _ => 4
  | .safety _ => 5
  | .regs _ => 6
  | .route _ _ => 7
  | .autoload _ _ _ => 8
  | .image _ _ => 9

def cfgBytes (r : CfgRecord) : List Byte :=
  match r with
  | .owner root epoch rs xs k => root ++ leBytes 8 epoch.toNat ++ sigBlock rs ++ sigBlock xs ++ keyBytes k
  | .hostKey i k => [i] ++ (match k with
    | some k => keyBytes k
    | none => [])
  | .chip c a b => leBytes 2 c.toNat ++ leBytes 8 a.toNat ++ leBytes 32 b.toNat
  | .part p fl o g n c kv => [p] ++ leBytes 2 fl.toNat ++ [o] ++ leBytes 2 g.toNat ++ leBytes 4 n.toNat ++
      leBytes 4 c.toNat ++ leBytes 4 kv.toNat
  | .safety on => leBytes 1 on.toNat
  | .regs ts => ts.flatMap (fun t => leBytes 4 t.1.toNat ++ leBytes 4 t.2.1.toNat ++ leBytes 4 t.2.2.toNat)
  | .route first es => leBytes 2 first.toNat ++ leBytes 2 es.length ++ es.flatMap (fun e => leBytes 2 e.toNat)
  | .autoload p i st => [p, i] ++ leBytes 1 st.toNat
  | .image off bs => leBytes 4 off.toNat ++ bs

/-- A record that touches partition 0's registers or settings, or the safety designation (R369). -/
def recGuarded (r : CfgRecord) : Bool :=
  match r with
  | .owner _ _ _ _ _ => true
  | .part p _ _ _ _ _ _ => p == 0
  | .safety _ => true
  | .regs ts => ts.any (fun t => protectedBits t.1.toNat &&& t.2.2 != 0)
  | .autoload p _ _ => p == 0
  | .hostKey _ _ => false
  | .chip _ _ _ => false
  | .route _ _ => false
  | .image _ _ => false

/-- A register that REGS may set. -/
def State.cfgReg (s : State) (a : Nat) : Bool :=
  (s.reg a).isSome && (match blockOf a with
    | (.link _, _) => true
    | (.rte, o) => decide (o < 0x10000)
    | (.host _, _) => true
    | (.part _, o) => o == 0x0010 || o == 0x0C00 || o == 0x0C08 || o == 0x0C18
    | _ => false)

/-- 60 MiB. -/
def halfBytes : Nat := 60 * 2 ^ 20

/-- The signed bytes of an OWNER record (R454). -/
def ownerMsg (root : List Byte) (epoch : BitVec 64) : List Byte := shake256 deviceKey 64 ++ root ++ leBytes 8 epoch.toNat

/-- The root whose signature changes the owner. -/
def State.currentRoot (s : State) : List Byte := s.store.cfg.root.getD s.vendor.claimRoot

/-- A key with the SAFETY role beside index `i`, in force or staged. -/
def State.safetyElsewhere (s : State) (i : Nat) : Bool :=
  s.store.cfg.keys.any (fun k => k.1 != i && k.2.safety) ||
  s.store.stagings.any (fun g => g.recs.any (fun r => match r with
    | .hostKey j (some k) => j.toNat != i && k.safety
    | _ => false))

/-- Why CFG_STAGE refuses a record. -/
def State.recStatus (s : State) (r : CfgRecord) : Option Nat :=
  let bounds (b : Bool) : Option Nat := if b then some stBOUNDS else none
  match r with
  | .owner root epoch rs xs k =>
    if root.length ≠ 1793 ∨ k.pub.length ≠ 1793 then some stBOUNDS
    else if Config.falconVerify root (ownerMsg root epoch) rs = false ∨
        Config.falconVerify s.currentRoot (ownerMsg root epoch) xs = false then some stBADSIG
    else bounds (decide (epoch.toNat ≤ s.store.cfg.epoch.toNat))
  | .hostKey i k => match k with
    | some k => bounds (k.pub.length != 1793 || (k.safety && s.safetyElsewhere i.toNat))
    | none => none
  | .chip _ _ _ => none
  | .part p _ _ _ _ _ _ => bounds (decide (12 ≤ p.toNat))
  | .safety _ => none
  | .regs ts => bounds (decide (256 < ts.length) || ts.any (fun t => !(s.cfgReg t.1.toNat)))
  | .route first es => bounds (es.isEmpty || decide (4000 < es.length) || decide (16384 < first.toNat + es.length))
  | .autoload p i _ => bounds (decide (12 ≤ p.toNat) || (decide (16 ≤ i.toNat) && i != 0xFF))
  | .image off bs => bounds (decide (8180 < bs.length) || decide (halfBytes < off.toNat + bs.length))

/-- A command key that a host sent leaves the session's wrapping for that of STORE (R456). -/
def rewrap (skey : BitVec 256) (k : HostKey) : HostKey :=
  let n := leBytes 16 k.nonce.toNat
  { k with cmdKey := underStore n (k.cmdKey ^^^ kmac256 (bytesOfWord skey) n (ascii "SCT-WRAP")) }

def sealRec (skey : BitVec 256) (r : CfgRecord) : CfgRecord :=
  match r with
  | .owner root epoch rs xs k => .owner root epoch rs xs (rewrap skey k)
  | .hostKey i (some k) => .hostKey i (some (rewrap skey k))
  | r => r

/-! The effective configuration. -/

def OwnerCfg.setRegs (c : OwnerCfg) : List (BitVec 32 × BitVec 32 × BitVec 32) → OwnerCfg
  | [] => c
  | t :: ts => OwnerCfg.setRegs { c with regs := c.regs.filter (fun (x : BitVec 32 × BitVec 32 × BitVec 32) => x.1 != t.1) ++ [t] } ts

/-- A record takes the place of the one with its key (R455). -/
def OwnerCfg.apply (c : OwnerCfg) (r : CfgRecord) : OwnerCfg :=
  match r with
  | .owner root epoch rs _ k => { c with
      root := some root, epoch := epoch, rootSig := rs, keys := [(0, { k with admin := true })],
      parts := c.parts.map (fun x => (x.1, { x.2 with owner := 0 })), safety := false }
  | .hostKey i k => { c with keys := match k with
      | some k => alSet c.keys i.toNat k
      | none => alDel c.keys i.toNat }
  | .chip id a b => { c with chipId := id, ip4 := a, ip6 := b }
  | .part p fl o g n ct kv =>
    { c with parts := alSet c.parts p.toNat { flock := fl, owner := o, grant := g, need := n, ctrl := ct, kv := kv } }
  | .safety on => { c with safety := on }
  | .regs ts => c.setRegs ts
  | .route first es => { c with route := smSetMany c.route first.toNat es }
  | .autoload p i st =>
    { c with autoload := if i = 0xFF then alDel c.autoload p.toNat else alSet c.autoload p.toNat (i.toNat, st) }
  | .image _ _ => c

/-- The settings of a PART record reach the partition. -/
def Part.configure (k : Part) (x : PartRec) : Part :=
  (({ k with flock := x.flock, owner := x.owner, senders := x.grant, portNeed := x.need }).setSrvCtrl x.ctrl).setSrvKv x.kv

def State.writeRegs (s : State) : List (BitVec 32 × BitVec 32 × BitVec 32) → State
  | [] => s
  | t :: ts => (s.writeReg t.1.toNat t.2.1 t.2.2).2.writeRegs ts

/-- SAFETY takes a value: partition 0 does not sleep while it is 1 (R371). -/
def State.setSafety (s : State) (on : Bool) : State :=
  let s := { s with safety := on }.settle 0
  if on ∧ (s.part 0).sleepState ≠ 0 then s.wakeDone 0 0 else s

/-- What a committed record changes at once. -/
def State.live (s : State) (r : CfgRecord) : State :=
  let s : State := { s with store := { s.store with cfg := s.store.cfg.apply r } }
  match r with
  | .owner _ _ _ _ _ => State.setSafety { s with parts := s.parts.map (fun k => { k with owner := 0 }) } false
  | .chip id _ _ => { s with chipId := id }
  | .part p fl o g n ct kv => s.modPart (partOfNat p.toNat) (fun k => k.configure
      { flock := fl, owner := o, grant := g, need := n, ctrl := ct, kv := kv })
  | .safety on => s.setSafety on
  | .regs ts => s.writeRegs ts
  | _ => s

/-! The journal (R457, R458). -/

/-- Bytes of a journal record with a body of `n` bytes. -/
def recordSize (n : Nat) : Nat := (16 + n + 4 + 15) / 16 * 16

def JBody.kind : JBody → Nat
  | .edit _ _ => 1
  | .commit _ _ _ _ _ _ => 2

def JBody.fn : JBody → BitVec 16
  | .edit fn _ => fn
  | .commit fn _ _ _ _ _ => fn

/-- Bytes 0 to 83 of a COMMIT's body, or the body of an EDIT. -/
def JBody.bytes : JBody → List Byte
  | .edit _ r => cfgBytes r
  | .commit _ first count half len digest => leBytes 8 first.toNat ++ leBytes 4 count ++ leBytes 4 half ++
      leBytes 4 len ++ leBytes 64 digest.toNat

/-- The body with a COMMIT's SEAL. -/
def JBody.whole (b : JBody) (sealed : BitVec 256) : List Byte :=
  match b with
  | .edit _ _ => b.bytes
  | .commit _ _ _ _ _ _ => b.bytes ++ bytesOfWord sealed

/-- The bytes of a record under its CRC. -/
def journalRec (seq : BitVec 64) (b : JBody) (sealed : BitVec 256) : List Byte :=
  leBytes 2 0x4A53 ++ leBytes 1 b.kind ++ leBytes 1 0 ++ leBytes 2 b.fn.toNat ++ leBytes 2 (b.whole sealed).length ++
  leBytes 8 seq.toNat ++ b.whole sealed

/-- The SEAL of a COMMIT over the EDITs that it covers. -/
def commitSeal (edits : List (BitVec 64 × CfgRecord)) (b : JBody) : BitVec 256 :=
  kmac256 (bytesOfWord sealKey) (edits.flatMap (fun e => leBytes 8 e.1.toNat ++ cfgBytes e.2) ++ b.bytes)
    (ascii "SIRIX-COMMIT")

/-- A record is torn when its CRC fails (R459). -/
def JRec.torn (r : JRec) : Bool := r.crc != crc32c (journalRec r.seq r.body r.sealed)

/-- The EDITs of a function from a SEQ onward. -/
def Store.edits (k : Store) (fn : BitVec 16) (first : BitVec 64) : List (BitVec 64 × CfgRecord) :=
  k.journal.filterMap (fun r => match r.body with
    | .edit f x => if f = fn ∧ first.toNat ≤ r.seq.toNat then some (r.seq, x) else none
    | .commit _ _ _ _ _ _ => none)

/-- 2 MiB, and 75 percent of it. -/
def journalBytes : Nat := 2097152
def journalFull : Nat := 1572864

/-- Appends a record. -/
def Store.append (k : Store) (b : JBody) (sealed : BitVec 256) : Store :=
  let size := recordSize (b.whole sealed).length
  { k with
    journal := k.journal ++ [{ seq := k.nextSeq, size := size, body := b, sealed := sealed,
                               crc := crc32c (journalRec k.nextSeq b sealed) }],
    used := k.used + size, nextSeq := k.nextSeq + 1 }

def Store.staging (k : Store) (fn : Nat) : Option Staging := k.stagings.find? (fun g => g.fn.toNat == fn)

def Store.setStaging (k : Store) (g : Staging) : Store :=
  { k with stagings := k.stagings.filter (fun x => x.fn != g.fn) ++ [g] }

def Store.dropStaging (k : Store) (fn : BitVec 16) : Store :=
  { k with stagings := k.stagings.filter (fun x => x.fn != fn) }.tidy

def State.modStore (s : State) (f : Store → Store) : State := { s with store := f s.store }

/-- The half that is not active. -/
def Store.spare (k : Store) : Fin 2 := if k.activeHalf = some 0 then 1 else 0

/-- Programs bytes of the spare half: a bit once programmed to 0 stays 0. -/
def program (m : SMap 8) : Nat → List Byte → SMap 8
  | _, [] => m
  | a, b :: t => program (smSet m a (smGet m a ||| ~~~b)) (a + 1) t

/-! CFG_STAGE (R455, R458, R460). -/

/-- The staging of a function is open in another session. -/
def Store.taken (k : Store) (fn : Nat) (f : Frame) : Bool :=
  match k.staging fn with
  | some g => !(g.who.port == f.port && g.who.session == f.session)
  | none => false

def State.stageImage (s : State) (f : Frame) (off : Nat) (bs : List Byte) : Option (Nat × List Byte) × State :=
  let k := s.store
  let g := (k.staging 9).getD { fn := 9, who := waiterOf f, first := k.nextSeq, half := k.spare.val }
  let h : Fin 2 := Fin.ofNat 2 g.half
  let old := if (k.staging 9).isSome then k.halves[h] else []
  let g := { g with count := g.count + 1 }
  (some (stOK, leBytes 4 g.count), s.modStore (fun k =>
    { k with halves := k.halves.set h (program old off bs) }.setStaging g))

def State.stageEdit (s : State) (f : Frame) (r : CfgRecord) : Option (Nat × List Byte) × State :=
  let k := s.store
  let n := recFn r
  let skey := ((s.session f).map (·.skey)).getD 0
  let r := sealRec skey r
  let size := recordSize (cfgBytes r).length
  if journalBytes < k.used + size then (some (stNOSPACE, []), s)
  else
    let fn := BitVec.ofNat 16 n
    let g := (k.staging n).getD { fn := fn, who := waiterOf f, first := k.nextSeq }
    let g := { g with recs := g.recs ++ [r] }
    (some (stOK, leBytes 4 g.recs.length), s.modStore (fun k => (k.append (.edit fn r) 0).setStaging g))

def State.cfgStage (f : Frame) (r : CfgRecord) : Run := fun s =>
  match s.recStatus r with
  | some st => (some (st, []), s)
  | none =>
    if s.store.compacting ∨ s.store.erasePending ∨ s.store.taken (recFn r) f then (some (stBUSY, []), s)
    else match r with
      | .image off bs => s.stageImage f off.toNat bs
      | r => s.stageEdit f r

/-- CFG_STAGE. -/
def execCfgStage (f : Frame) (r : CfgRecord) (s : State) : Out :=
  let b := cfgBytes r
  let body := leBytes 2 (recFn r) ++ leBytes 2 b.length ++ b
  s.command f (fun _ => { op := 0x20, auth := .admin, guard := recGuarded r }) body body (.cfgStage f r)
    (State.cfgStage f r)

/-! CFG_COMMIT (R366, R367, R372, R454, R458, R460). -/

/-- A staged record would change a setting of a partition that is not stopped. -/
def State.recBusy (s : State) (r : CfgRecord) : Bool :=
  match r with
  | .owner _ _ _ _ _ => !s.allStopped
  | .safety _ => !s.allStopped
  | .chip id _ _ => id != s.chipId && !s.allStopped
  | .part p _ _ _ _ _ _ => !(s.part (partOfNat p.toNat)).halted
  | _ => false

/-- SAFETY may not become 1 beside an image that uses class 0 (R372). -/
def State.recDenied (s : State) (r : CfgRecord) : Bool :=
  match r with
  | .safety on => on && (List.finRange 12).any (fun p => p != 0 && (match (s.part p).prog with
    | some g => g.c0use
    | none => false))
  | _ => false

/-- Bytes of a half. -/
def halfRead (m : SMap 8) (a n : Nat) : List Byte := (List.range n).map (fun i => ~~~(smGet m (a + i)))

/-- The length and digest of the object in a half; none where they do not agree (R460). -/
def halfObject (m : SMap 8) : Option (Nat × BitVec 512) :=
  let len := leNat (halfRead m 0 4)
  if len < 136 ∨ halfBytes < len then none else
  let d := halfRead m 4 64
  if shake256 (halfRead m 136 (len - 136)) 64 = d then some (len, BitVec.ofNat 512 (leNat d)) else none

/-- Ends the sessions whose key a committed record changed (R454, R455). -/
def State.endKeys (s : State) (all : Bool) (keys : List Nat) : State :=
  [(0 : PortId), 1].foldl (fun s h =>
    ((s.port h).sessions.filter (fun x => all || keys.contains x.key.toNat)).foldl (fun s x => s.endSession h x.id) s) s

def changedKeys (rs : List CfgRecord) : List Nat :=
  rs.filterMap (fun r => match r with
    | .hostKey i _ => some i.toNat
    | _ => none)

/-- Appends the COMMIT, applies the records, and answers before sessions end. -/
def State.commitRecs (s : State) (f : Frame) (fn : BitVec 16) (g : Staging) (b : JBody) :
    Option (Nat × List Byte) × State :=
  let seq := s.store.nextSeq
  let s : State := s.modStore (fun k => k.append b (commitSeal (k.edits fn g.first) b))
  let s : State := g.recs.foldl State.live s
  let s := s.modStore (fun k => ({ k with lastCommit := seq, due := k.due || decide (journalFull ≤ k.used) }).dropStaging fn)
  let s := s.answer f 0x21 stOK (leBytes 4 seq.toNat)
  (none, s.endKeys (fn == 1) (changedKeys g.recs))

def State.commitImage (s : State) (f : Frame) (g : Staging) : Option (Nat × List Byte) × State :=
  let h : Fin 2 := Fin.ofNat 2 g.half
  match halfObject s.store.halves[h] with
  | none => (some (stBADSIG, []), s)
  | some (len, d) =>
    let s := s.modStore (fun k => { k with activeHalf := some h, halfLen := len, halfDigest := d })
    s.commitRecs f 9 g (.commit 9 g.first 0 g.half len d)

def State.cfgCommit (f : Frame) (fn : BitVec 16) (discard : Bool) : Run := fun s =>
  let k := s.store
  let n := fn.toNat
  let g := (k.staging n).getD { fn := fn, who := waiterOf f, first := k.nextSeq, half := k.spare.val }
  if n = 0 ∨ 9 < n then (some (stBOUNDS, []), s)
  else if k.compacting ∨ k.erasePending ∨ k.taken n f then (some (stBUSY, []), s)
  else if discard then (some (stOK, leBytes 4 0), s.modStore (fun k => k.dropStaging fn))
  else if g.recs.any s.recBusy then (some (stBUSY, []), s)
  else if g.recs.any s.recDenied then (some (stDENIED, []), s)
  else if journalBytes < k.used + 144 then (some (stNOSPACE, []), s)
  else if n = 9 then s.commitImage f g
  else s.commitRecs f fn g (.commit fn g.first g.recs.length 0 0 0)

/-- CFG_COMMIT. -/
def execCfgCommit (f : Frame) (fn : BitVec 16) (discard : Bool) (s : State) : Out :=
  let body := leBytes 2 fn.toNat ++ leBytes 1 discard.toNat
  s.command f (fun _ => { op := 0x21, auth := .admin }) body body (.cfgCommit f fn discard)
    (State.cfgCommit f fn discard)

/-! Compaction and erase (R459, R460). -/

/-- A record of an owner slot (R452). -/
def slotRec (fn : Nat) (body : List Byte) : List Byte := padTo 4 (leBytes 2 fn ++ leBytes 2 body.length ++ body)

/-- The records of a configuration; their order and grouping, and the record of the active image half, are the model's
(Assumption 79). -/
def OwnerSlot.area (x : OwnerSlot) : List Byte :=
  let c := x.cfg
  let edit (r : CfgRecord) : List Byte := slotRec (recFn r) (cfgBytes r)
  (match c.root with
    | some r => slotRec 1 (r ++ leBytes 8 c.epoch.toNat ++ sigBlock c.rootSig)
    | none => []) ++
  c.keys.flatMap (fun k => edit (.hostKey (BitVec.ofNat 8 k.1) (some k.2))) ++
  edit (.chip c.chipId c.ip4 c.ip6) ++
  c.parts.flatMap (fun p =>
    edit (.part (BitVec.ofNat 8 p.1) p.2.flock p.2.owner p.2.grant p.2.need p.2.ctrl p.2.kv)) ++
  edit (.safety c.safety) ++ (chunks 256 c.regs).flatMap (fun ts => edit (.regs ts)) ++
  c.route.flatMap (fun e => edit (.route (BitVec.ofNat 16 e.1) [e.2])) ++
  c.autoload.flatMap (fun a => edit (.autoload (BitVec.ofNat 8 a.1) (BitVec.ofNat 8 a.2.1) a.2.2)) ++
  (match x.half with
    | some h => slotRec 9 (leBytes 4 h.val ++ leBytes 4 x.halfLen ++ leBytes 64 x.halfDigest.toNat)
    | none => [])

/-- The SEAL of a slot over its header and record area (R452). -/
def OwnerSlot.baseSeal (x : OwnerSlot) : BitVec 256 :=
  let a := x.area
  kmac256 (bytesOfWord sealKey) (leBytes 4 0x424F5853 ++ leBytes 4 1 ++ leBytes 8 x.gen.toNat ++
    leBytes 8 x.lastSeq.toNat ++ leBytes 8 a.length ++ a) (ascii "SIRIX-BASE")

/-- A slot is valid (R453): its GENERATIONs agree, its seal verifies, and so does its OWNER record's ROOTSIG (R454). -/
def OwnerSlot.good (x : OwnerSlot) : Bool :=
  x.tgen == x.gen && x.sealed == x.baseSeal && (match x.cfg.root with
    | some r => Config.falconVerify r (ownerMsg r x.cfg.epoch) x.cfg.rootSig
    | none => false)

/-- The configuration goes into the slot that is not in use, the trailer last, and the journal is erased. -/
def Store.compact (k : Store) : Store :=
  let slot : Fin 2 := if k.cur = some 0 then 1 else 0
  let x : OwnerSlot :=
    { gen := k.generation + 1, tgen := k.generation + 1, lastSeq := k.lastCommit, cfg := k.cfg, half := k.activeHalf,
      halfLen := k.halfLen, halfDigest := k.halfDigest }
  let x := { x with sealed := x.baseSeal }
  { k with slots := k.slots.set slot (some x), cur := some slot, generation := k.generation + 1,
           journal := [], used := 0, compacting := false }

/-- JOURNAL_COMPACTION. One that a planned removal has stopped does not end (R464); a start begins it again. -/
def execJournalCompaction (s : State) : Out :=
  .next (if s.store.compacting ∧ s.chip.hpState = 0 then s.modStore Store.compact else s)

/-- JOURNAL_ERASE_DONE. -/
def execJournalEraseDone (s : State) : Out :=
  .next (if s.store.erasePending then
    s.modStore (fun k => { k with journal := [], used := 0, erasePending := false }) else s)

end Sys2Proof.Machine
end

