-- ==== Sys2Proof/Machine/EventLog.lean ====
section
/-! DEFINITION. The entries of the chip's event log (R491, R492). -/

namespace Sys2Proof.Machine

/-- The 32 bytes of an entry (R492). -/
def Ev.entry (e : Ev) (seq : BitVec 32) (time : BitVec 64) : MWord :=
  wordOfBytes (leBytes 4 seq.toNat ++ leBytes 2 e.code.toNat ++ leBytes 2 e.source.toNat ++ leBytes 8 time.toNat ++
    leBytes 4 e.p0.toNat ++ leBytes 4 e.p1.toNat ++ leBytes 4 e.p2.toNat ++ leBytes 4 e.p3.toNat)

/-- The slot of a sequence number. -/
def evSlot (seq : BitVec 32) : Nat := seq.toNat % 8192

/-- Enters the oldest waiting event; an entry not yet overwritten is dropped. -/
def EventLog.enter (l : EventLog) (time : BitVec 64) : EventLog :=
  match l.queue with
  | [] => l
  | e :: t =>
    let i := evSlot l.head
    { l with
      queue := t, entries := smSet l.entries i (e.entry l.head time), head := l.head + 1,
      dropped := if smGet l.entries i = 0 then l.dropped else satAdd l.dropped 1 }

/-- EVENT_LOG_ENTRY (R491). -/
def execEventLogEntry (s : State) : Out := .next { s with evlog := s.evlog.enter s.time }

end Sys2Proof.Machine
end

