-- ==== Sys2Proof/Machine/Startup.lean ====
section
/-! DEFINITION. Power, cold and warm start, and autoload (R29, R446 to R453, R459, R461, R472, R473, R515, R517,
R518). -/

namespace Sys2Proof.Machine

/-! The vendor region (R450). -/

/-- The core map agrees with the part number: all cores, or exactly one disabled core in each partition. -/
def VendorCopy.graded (v : VendorCopy) : Bool :=
  if v.sx84 then (List.finRange 12).all (fun p => ((coresOf p).filter (fun c => !(v.map.getLsbD c.val))).length == 1)
  else v.map == ~~~0

/-- The fault of a copy, 0 where it is accepted. -/
def VendorCopy.fault (v : VendorCopy) : Nat :=
  if v.good = false then 2 else if v.bound = false then 4 else if v.graded = false then 5 else 0

/-! The owner configuration (R452, R453, R459). -/

def validSlot (x : Option OwnerSlot) : Option OwnerSlot := x.filter OwnerSlot.good

/-- The valid slot of the higher generation. -/
def Store.pick (k : Store) : Option (Fin 2 × OwnerSlot) :=
  match validSlot k.slots[0], validSlot k.slots[1] with
  | some a, some b => if a.gen.toNat < b.gen.toNat then some (1, b) else some (0, a)
  | some a, none => some (0, a)
  | none, some b => some (1, b)
  | none, none => none

/-- A replay under way: the edits seen, and the commits found void. -/
structure Replay where
  k     : Store
  edits : List (BitVec 64 × BitVec 16 × CfgRecord) := []
  voids : List (BitVec 64 × BitVec 16) := []
  deriving DecidableEq, Repr

def Replay.void (a : Replay) (seq : BitVec 64) (fn : BitVec 16) : Replay := { a with voids := a.voids ++ [(seq, fn)] }

/-- One record of the journal. -/
def Replay.step (a : Replay) (r : JRec) : Replay :=
  match r.body with
  | .edit fn x => { a with edits := a.edits ++ [(r.seq, fn, x)] }
  | .commit fn first count half len d =>
    let h : Fin 2 := Fin.ofNat 2 half
    let mine := a.edits.filter (fun e =>
      e.2.1 == fn && decide (first.toNat ≤ e.1.toNat) && decide (e.1.toNat < r.seq.toNat))
    if mine.length ≠ count ∨ r.sealed ≠ commitSeal (mine.map (fun e => (e.1, e.2.2))) r.body then a.void r.seq fn
    else if fn = 9 then
      if halfObject a.k.halves[h] = some (len, d) then
        { a with k := { a.k with activeHalf := some h, halfLen := len, halfDigest := d, lastCommit := r.seq } }
      else a.void r.seq fn
    else { a with k := { a.k with cfg := (mine.map (·.2.2)).foldl OwnerCfg.apply a.k.cfg, lastCommit := r.seq } }

/-- What the firmware knows of the flash before it reads it: nothing. -/
def Store.unread (k : Store) : Store :=
  { k with
    cfg := {}, generation := 0, lastCommit := 0, cur := none, due := false, compacting := false,
    erasePending := false, stagings := [], activeHalf := none, halfLen := 0, halfDigest := 0 }

/-- The records that are not torn. -/
def Store.whole (k : Store) : List JRec := k.journal.filter (fun r => !r.torn)

/-- The highest SEQ in the journal, or a slot's. -/
def Store.highSeq (k : Store) (low : Nat) : Nat := (k.whole.map (fun r => r.seq.toNat)).foldl max low

/-- Step 8 and 9: the slots and the journal are read. -/
def Store.read (k : Store) : Replay :=
  let k := { k.unread with used := (k.used + 255) / 256 * 256 }
  match k.pick with
  | none => { k := { k with nextSeq := BitVec.ofNat 64 (k.highSeq 0 + 1) } }
  | some (i, o) =>
    let new := k.whole.filter (fun r => decide (o.lastSeq.toNat < r.seq.toNat))
    let k := { k with
      cfg := o.cfg, generation := o.gen, lastCommit := o.lastSeq, cur := some i, activeHalf := o.half,
      halfLen := o.halfLen, halfDigest := o.halfDigest, nextSeq := BitVec.ofNat 64 (k.highSeq o.lastSeq.toNat + 1),
      erasePending := k.used != 0 && new.isEmpty }
    let a := new.foldl Replay.step { k := k }
    { a with k := { a.k with compacting := decide (journalFull ≤ a.k.used) && !a.k.erasePending } }

/-! Bringing the module up: steps 8 to 12 of R446. -/

def State.setRoutes (s : State) (m : SMap 16) : State :=
  s.modRte (fun r => m.foldl (fun r c => r.setEntry 0 c.1 (c.2.setWidth 8)) r)

/-- The configuration takes effect. -/
def State.configure (s : State) : State :=
  let c := s.store.cfg
  let s : State := { s with chipId := c.chipId, safety := c.safety }
  let s : State := c.parts.foldl (fun s x => s.modPart (partOfNat x.1) (fun k => k.configure x.2)) s
  (s.setRoutes c.route).writeRegs c.regs

/-- Partitions whose cores failed no test. -/
def State.goodParts (s : State) : List PartId :=
  (List.finRange 12).filter (fun p => !(s.chip.failedParts.getLsbD p.val))

/-- Step 11 for one partition. -/
def State.partUp (s : State) (p : PartId) : State :=
  ((s.modPart p (fun k => { k with sleepState := 0 })).setDomains p 0).setPll p true

/-- The domains that a start switches on: partition control, spines, host ports, the controller and the island. -/
def startDomains (d : Vector (BitVec 2) 148) : Vector (BitVec 2) 148 :=
  Vector.ofFn (fun i : Fin 148 => if (96 ≤ i.val ∧ i.val < 112) ∨ 144 ≤ i.val then 0 else d[i])

/-- An entry of the directory of an image half: offset and length in KiB (R460). -/
def imageEntry (m : SMap 8) (i : Nat) : Nat × Nat :=
  let b := halfRead m (72 + 4 * i) 4
  (1024 * leAt b 0 2, 1024 * leAt b 2 2)

/-- The bytes of image `i` of the active half: as many as its own header names. -/
def Store.image (k : Store) (i : Nat) : List Byte :=
  match k.activeHalf with
  | none => []
  | some h =>
    let (off, len) := imageEntry k.halves[h] i
    let n := leNat (halfRead k.halves[h] (off + 24) 4)
    halfRead k.halves[h] off (min n len)

/-- A partition fails its autoload (R461). -/
def State.autoFailed (s : State) (p : PartId) (step status : Nat) : State :=
  let s : State := { s with chip := { s.chip with autoFail := s.chip.autoFail ||| (1#12 <<< p.val) } }
  s.log 0x001D (srcPart p) step status 0 0

/-- The autoload of one partition (R461). -/
def State.autoload (s : State) (p : PartId) : State :=
  match alGet s.store.cfg.autoload p.val with
  | none => s
  | some (i, start) =>
    if s.chip.failedParts.getLsbD p.val then s.autoFailed p 10 stFAULT
    else
      let bs := s.store.image i
      match s.loadImage p bs bs.length with
      | .ok s => if start then (s.startPart p).2 else s
      | .error e => s.autoFailed p e.step e.status

/-- EV_CFG_VOID of every void commit. -/
def State.logVoids (s : State) : List (BitVec 64 × BitVec 16) → State
  | [] => s
  | v :: t => (s.log 0x001C srcChip (v.1.toNat % 2 ^ 32) v.2.toNat 0 0).logVoids t

/-- Steps 8 to 12, on a state whose vendor region is accepted. -/
def State.bringUp (s : State) : State :=
  let a := s.store.read
  let slot : BitVec 2 := match a.k.cur with
    | some i => BitVec.ofNat 2 i.val
    | none => 3
  let s : State := { s with
    store := a.k, domains := startDomains s.domains,
    chip := { s.chip with
      unclaimed := a.k.cur.isNone, ownerSlot := slot, hostLock := 3, spineLock := 0xF, step := 12 } }
  let s := (s.logVoids a.voids).configure
  let s : State := s.goodParts.foldl State.partUp s
  (List.finRange 12).foldl State.autoload s

/-! The start (R446 to R448). -/

/-- A fatal fault after step `step` (R447). -/
def State.fatal (s : State) (n step : Nat) : State :=
  { s with
    chip := { s.chip with fault := BitVec.ofNat 4 n, step := BitVec.ofNat 4 step },
    ports := s.ports.map (fun k => { k with enable := false }) }

/-- The vendor region is checked (step 6): a fault where no copy is accepted, else the copy and the state with the
cores that its map disables. -/
def State.vendorCheck (s : State) : Nat × State :=
  let a := s.store.vendor[0]
  let b := s.store.vendor[1]
  if a.fault = 0 then (0, { s with chip := { s.chip with vendorCopy := 0 } })
  else if b.fault = 0 then
    (0, ({ s with chip := { s.chip with vendorCopy := 1 } }).log 0x001B srcChip 1 0 0 0)
  else (max a.fault b.fault, s)

/-- What a start leaves of the module: the flash, the pins, and the commands that wait. -/
def State.blank (s : State) : State :=
  let k := s.chip
  { State.reset with
    pending := s.pending, draws := s.draws, store := s.store.unread, power := { rail := s.power.rail },
    chip := { powered := k.powered, pwrGood := k.pwrGood, resetLow := k.resetLow, attnLow := k.attnLow,
              strap := k.strap, slotId := k.strap, refValid := k.refValid, refExt := k.refExt, driven := k.driven,
              jtagBypass := k.jtagBypass, jtagBoundary := k.jtagBoundary, jtagOut := k.jtagOut, i2cOut := k.i2cOut },
    domains := (State.reset.domains.setIfInBounds 146 0).setIfInBounds 147 0 }

/-- Cores that the vendor's map disables. -/
def State.disableCores (s : State) : State :=
  { s with domOff := Vector.ofFn (fun i : Fin 148 => decide (i.val < 96) && !(s.vendor.map.getLsbD i.val)) }

/-- COLD_START (R446, R447): its self-test results are the die's. -/
def execColdStart (okRom okPuf : Bool) (failedCores : List CoreId) (failedGroups : List (Fin 8)) (s : State) : Out :=
  let k := s.chip
  .next (if k.pwrGood = false ∨ k.resetLow ∨ k.step ≠ 0 ∨ k.fault ≠ 0 then s else
    let s := s.blank
    let s : State := { s with chip := { s.chip with refExt := k.refValid } }
    if okRom = false then s.fatal 1 1
    else if okPuf = false then s.fatal 3 3
    else
      let (f, s) := s.vendorCheck
      if f ≠ 0 then s.fatal f 5
      else
        let s := s.disableCores
        let bad := failedCores.filter s.enabled
        let s : State := { s with chip := { s.chip with
          derived := true,
          failedGroups := failedGroups.foldl (fun a g => a ||| (1#8 <<< g.val)) 0,
          failedParts := bad.foldl (fun a c => a ||| (1#12 <<< (partOf c).val)) 0 } }
        s.bringUp)

/-- The warm start (R448): the derived keys, the time and the self-test's results are kept. -/
def State.warmStart (s : State) : State :=
  let t := s.blank
  let t : State := { t with
    time := s.time, domOff := s.domOff,
    work := { t.work with lockedOnce := s.work.lockedOnce, slew := s.work.slew, slewTick := s.work.slewTick },
    power := { t.power with
      sensors := s.power.sensors, power := s.power.power, current := s.power.current, voltage := s.power.voltage },
    chip := { t.chip with
      warm := true, derived := true, failedGroups := s.chip.failedGroups, failedParts := s.chip.failedParts } }
  let (f, t) := t.vendorCheck
  if f ≠ 0 then t.fatal f 5 else t.disableCores.bringUp

/-- RESET_N_ASSERT (R348, R448, R518): RESET_N is low for 1 µs. -/
def execResetNAssert (s : State) : Out :=
  let s : State := { s with chip := { s.chip with resetLow := true } }
  .next (if s.chip.pwrGood = false then s
    else if s.chip.derived = false then s.blank
    else
      let (s, flits) := s.linksFall
      s.warmStart.putLast flits)

/-- RESET_N_RELEASE (R518): after a reset before step 7 the cold start may begin again. -/
def execResetNRelease (s : State) : Out := .next { s with chip := { s.chip with resetLow := !s.chip.powered } }

/-! Power (R513, R515, R517, R518). -/

/-- The rails are up and PWR_GOOD is asserted; the pull-ups of the inputs are live. -/
def State.powerUp (s : State) : State :=
  if s.chip.powered then s else
  { s with
    chip := { s.chip with powered := true, pwrGood := true, driven := true, resetLow := false, attnLow := false },
    power := { s.power with rail := Vector.replicate 4 0 },
    domains := (s.domains.setIfInBounds 146 0).setIfInBounds 147 0 }

/-- POWER_APPLIED (R518). -/
def execPowerApplied (s : State) : Out := .next s.powerUp

/-- INPUT_RETURNS_IN_RANGE (R517): a cold start follows. -/
def execInputReturnsInRange (s : State) : Out := .next s.powerUp

/-- POWER_LOSS (R348, R470, R517): all is lost but the flash, and nothing is sent. -/
def execPowerLoss (s : State) : Out :=
  .next { State.reset with
    pending := s.pending, draws := s.draws, store := s.store.unread,
    chip := { strap := s.chip.strap, refValid := s.chip.refValid } }

end Sys2Proof.Machine
end

