-- ==== Sys2Proof/Machine/Jtag.lean ====
section
/-! DEFINITION. The I2C management bus and the JTAG port (R515, R516). -/

namespace Sys2Proof.Machine

/-- The registers that the two ports can read. -/
def busAddr (a : Nat) : Bool := decide (a < 0x10000) || (decide (0x4000000 ≤ a) && decide (a < 0x4001000))

/-- The five bytes of a read: the value and the status. -/
def State.busRead (s : State) (a : BitVec 32) : List Byte × State :=
  if busAddr a.toNat then
    match s.readReg a.toNat with
    | (some w, s) => (leBytes 4 w.toNat ++ leBytes 1 stOK, s)
    | (none, s) => (leBytes 4 0xFFFFFFFF ++ leBytes 1 stBOUNDS, s)
  else (leBytes 4 0xFFFFFFFF ++ leBytes 1 stBOUNDS, s)

/-- I2C_READ: the target answers from PWR_GOOD onward. -/
def execI2cRead (a : BitVec 32) (s : State) : Out :=
  .next (if s.chip.pwrGood = false then s else
    let (b, s) := s.busRead a
    { s with chip := { s.chip with i2cOut := b } })

def State.jtag (s : State) (b : List Byte) : State := { s with chip := { s.chip with jtagOut := b } }

/-- CHIPRD. -/
def execChiprd (a : BitVec 32) (s : State) : Out :=
  .next (if s.chip.powered = false then s else
    let (b, s) := s.busRead a
    s.jtag b)

/-- BYPASS: one bit is shifted through the bypass register. -/
def execBypass (tdi : Bool) (s : State) : Out :=
  .next (if s.chip.powered = false then s else
    let s := s.jtag [BitVec.ofNat 8 s.chip.jtagBypass.toNat]
    { s with chip := { s.chip with jtagBypass := tdi } })

/-- IDCODE. -/
def execIdcode (s : State) : Out :=
  .next (if s.chip.powered = false then s else
    s.jtag (leBytes 4 (if s.vendor.sx84 then 0x05A845AB else 0x05A965AB)))

/-- ALERT_N is low while a cause holds (R515). -/
def State.alertLow (s : State) : Bool := s.alertSrc != 0

/-- The connector signal pins in the boundary register: PWR_GOOD, ALERT_N, RESET_N, ATTN_N and SLOT_ID. -/
def State.pins (s : State) : BitVec 16 :=
  BitVec.ofNat 16 (s.chip.pwrGood.toNat + 2 * (!s.alertLow).toNat + 4 * (!s.chip.resetLow).toNat +
    8 * (!s.chip.attnLow).toNat + 16 * s.chip.strap.toNat)

/-- SAMPLE/PRELOAD: the pins are sampled, and the boundary register takes what is shifted in. -/
def execSamplePreload (data : BitVec 16) (s : State) : Out :=
  .next (if s.chip.powered = false then s else
    let s := s.jtag (leBytes 2 s.pins.toNat)
    { s with chip := { s.chip with jtagBoundary := data } })

/-- EXTEST: the boundary register drives the outputs, PWR_GOOD and ALERT_N, and the inputs are captured. -/
def execExtest (s : State) : Out :=
  .next (if s.chip.powered = false then s else
    s.jtag (leBytes 2 ((s.pins &&& 0xFFFC#16) ||| (s.chip.jtagBoundary &&& 3#16)).toNat))

end Sys2Proof.Machine
end

