-- ==== Sys2Proof/Machine/Lockstep.lean ====
section
/-! DEFINITION. The events of lock-step pairing (R483 to R487). The twin's packets come as their records,
which the RX_WRITE of the packet leaves in place (R483). -/

namespace Sys2Proof.Machine

/-- The packet of an event of the twin leaves the spines: the first one for window 0xFE of the partition. -/
def takeTwin (s : State) (p : PartId) : List Moving → Option (List Moving)
  | [] => none
  | m :: t =>
    let q := m.pkt
    if m.link = none ∧ q.kind = 0 ∧ q.win = 0xFE ∧ q.dstPart = p.val ∧
        q.srcChip = (s.part p).ls.twinChip.toNat ∧ q.srcPart = p.val then some t
    else (takeTwin s p t).map (fun l => m :: l)

def State.dropTwin (s : State) (p : PartId) : State :=
  match takeTwin s p s.transit with
  | some l => { s with transit := l }
  | none => s

/-- HELLO_RESEND (R483): every 100 µs while no matching HELLO has arrived. -/
def execHelloResend (p : PartId) (s : State) : Out :=
  let k := s.part p
  .next (if k.state = 2 ∧ k.ls.paired ∧ !k.ls.helloSeen then s.lsHello p else s)

/-- HELLO_TIMEOUT (R483): no matching HELLO within HELLO_LIMIT. -/
def execHelloTimeout (p : PartId) (s : State) : Out :=
  let k := s.part p
  .next (if k.state = 2 ∧ k.ls.paired ∧ !k.ls.helloSeen then
    let n := if k.ls.helloBad then 3 else 2
    let s := s.modPart p (fun k => { k with ls := { k.ls with reason := BitVec.ofNat 2 n } })
    (s.log 0x0020 (srcPart p) n 0 0 0).endWaiting p stTIMEOUT 10
    else s)

/-- RX_LS_RECORDS (R485): records of the twin. -/
def execRxLsRecords (p : PartId) (recs : List LsRecord) (s : State) : Out :=
  .next (if (s.part p).ls.paired = false then s else
    let s := s.dropTwin p
    if 2 ≤ (s.part p).state.toNat then
      ((s.modPart p (fun k => { k with ls := { k.ls with twin := k.ls.twin ++ recs } })).lsCompare p).lsContinue p
    else s)

/-- RX_LS_HELLO (R483). -/
def execRxLsHello (p : PartId) (digest : BitVec 32) (ncores : BitVec 4) (flock : BitVec 12) (s : State) : Out :=
  .next (if (s.part p).ls.paired = false then s else
    let s := s.dropTwin p
    let k := s.part p
    match k.prog with
    | none => s
    | some g =>
      if k.state = 3 ∨ k.state = 4 then s
      else if digest = g.digestLow ∧ ncores = g.ncores ∧ flock = g.flock then
        s.modPart p (fun k => { k with ls := { k.ls with helloSeen := true } })
      else if k.state = 2 ∧ !k.ls.helloBad then
        (s.modPart p (fun k => { k with ls := { k.ls with helloBad := true } })).log 0x0020 (srcPart p) 3 0 0 0
      else s)

/-- RX_LS_HALT (R487): the partition does as its twin did. -/
def execRxLsHalt (p : PartId) (stream : BitVec 16) (seq : BitVec 32) (s : State) : Out :=
  .next (if (s.part p).ls.paired = false then s else
    let s := s.dropTwin p
    if (s.part p).state = 3 ∨ (s.part p).state = 4 then s.lsStop p 1 stream seq else s)

/-- RX_LS_BATCH (R486): the leader's table or ring entry. -/
def execRxLsBatch (p : PartId) (table : List MWord) (s : State) : Out :=
  .next (if (s.part p).ls.paired = false ∨ (s.part p).ls.follower = false then s else
    let s := s.dropTwin p
    (s.modPart p (fun k => { k with ls := { k.ls with batches := k.ls.batches ++ [table] } })).kick p)

/-- LS_RECORD_FLUSH (R485). -/
def execLsRecordFlush (p : PartId) (s : State) : Out :=
  .next (if (s.part p).ls.paired ∧ (s.part p).ls.unsent ≠ [] then s.lsFlush p else s)

/-- LS_TIMEOUT (R487): a record has waited LS_TIMEOUT for its counterpart; the partition stops as at a mismatch, HALT
included. -/
def execLsTimeout (p : PartId) (stream : BitVec 16) (seq : BitVec 32) (s : State) : Out :=
  let k := s.part p
  let here (r : LsRecord) : Bool := r.stream == stream && r.seq == seq
  .next (if k.ls.paired ∧ (k.state = 3 ∨ k.state = 4) ∧ (k.ls.own.any here || k.ls.twin.any here) = true then
    (s.lsStop p 2 stream seq).lsHalt p stream seq else s)

end Sys2Proof.Machine
end

