-- ==== Sys2Proof/Machine/Dispatch.lean ====
section
/-! DEFINITION. One arm per command: its meaning, by name. -/

namespace Sys2Proof.Machine

def exec (i : Instr) (s : State) : Host.Outcome State Fault Refusal :=
  match i with
  | .pass u o h => Sys2Proof.Machine.execPass u o h s
  | .accout u o => Sys2Proof.Machine.execAccout u o s
  | .ewise u o => Sys2Proof.Machine.execEwise u o s
  | .ffence u => Sys2Proof.Machine.execFfence u s
  | .vld u o => Sys2Proof.Machine.execVld u o s
  | .vst u o => Sys2Proof.Machine.execVst u o s
  | .vxld u o => Sys2Proof.Machine.execVxld u o s
  | .vcst u o => Sys2Proof.Machine.execVcst u o s
  | .mld u o => Sys2Proof.Machine.execMld u o s
  | .mst u o => Sys2Proof.Machine.execMst u o s
  | .vadd u o => Sys2Proof.Machine.execVadd u o s
  | .vsub u o => Sys2Proof.Machine.execVsub u o s
  | .vmul u o => Sys2Proof.Machine.execVmul u o s
  | .vfma u o => Sys2Proof.Machine.execVfma u o s
  | .vmax u o => Sys2Proof.Machine.execVmax u o s
  | .vmin u o => Sys2Proof.Machine.execVmin u o s
  | .vsplat u o => Sys2Proof.Machine.execVsplat u o s
  | .vand u o => Sys2Proof.Machine.execVand u o s
  | .vor u o => Sys2Proof.Machine.execVor u o s
  | .vxor u o => Sys2Proof.Machine.execVxor u o s
  | .vshl u o => Sys2Proof.Machine.execVshl u o s
  | .vshr u o => Sys2Proof.Machine.execVshr u o s
  | .vsra u o => Sys2Proof.Machine.execVsra u o s
  | .vcmp u o => Sys2Proof.Machine.execVcmp u o s
  | .vsel u o => Sys2Proof.Machine.execVsel u o s
  | .vcvt u o => Sys2Proof.Machine.execVcvt u o s
  | .vsfu u o => Sys2Proof.Machine.execVsfu u o s
  | .vred u o => Sys2Proof.Machine.execVred u o s
  | .vcomp u o => Sys2Proof.Machine.execVcomp u o s
  | .vexpd u o => Sys2Proof.Machine.execVexpd u o s
  | .mop u o => Sys2Proof.Machine.execMop u o s
  | .sop u o => Sys2Proof.Machine.execSop u o s
  | .nsmax u o => Sys2Proof.Machine.execNsmax u o s
  | .nnorm u o => Sys2Proof.Machine.execNnorm u o s
  | .dgather u o => Sys2Proof.Machine.execDgather u o s
  | .dscatter u o => Sys2Proof.Machine.execDscatter u o s
  | .dslot u o => Sys2Proof.Machine.execDslot u o s
  | .tile u o => Sys2Proof.Machine.execTile u o s
  | .adown u o => Sys2Proof.Machine.execAdown u o s
  | .aup u o => Sys2Proof.Machine.execAup u o s
  | .kappend u o => Sys2Proof.Machine.execKappend u o s
  | .kcommit u o => Sys2Proof.Machine.execKcommit u o s
  | .kdiscard u o => Sys2Proof.Machine.execKdiscard u o s
  | .khash u o => Sys2Proof.Machine.execKhash u o s
  | .kfind u o => Sys2Proof.Machine.execKfind u o s
  | .kref u o => Sys2Proof.Machine.execKref u o s
  | .tcopy u o => Sys2Proof.Machine.execTcopy u o s
  | .tsend u o => Sys2Proof.Machine.execTsend u o s
  | .tget u o => Sys2Proof.Machine.execTget u o s
  | .twin u o => Sys2Proof.Machine.execTwin u o s
  | .tdrain u o => Sys2Proof.Machine.execTdrain u o s
  | .mstream u o => Sys2Proof.Machine.execMstream u o s
  | .mreduce u o => Sys2Proof.Machine.execMreduce u o s
  | .msend u o => Sys2Proof.Machine.execMsend u o s
  | .batom u o => Sys2Proof.Machine.execBatom u o s
  | .bcount u o => Sys2Proof.Machine.execBcount u o s
  | .bcmp u o => Sys2Proof.Machine.execBcmp u o s
  | .instrComplete c q qpos => Sys2Proof.Machine.execInstrComplete c q qpos s
  | .arrayRampDown c => Sys2Proof.Machine.execArrayRampDown c s
  | .scrubRead c bank => Sys2Proof.Machine.execScrubRead c bank s
  | .correctedWriteback c addr => Sys2Proof.Machine.execCorrectedWriteback c addr s
  | .bgReqOn c g => Sys2Proof.Machine.execBgReqOn c g s
  | .bgReqRetention c g => Sys2Proof.Machine.execBgReqRetention c g s
  | .bgReqOff c g => Sys2Proof.Machine.execBgReqOff c g s
  | .bgEnterState c g => Sys2Proof.Machine.execBgEnterState c g s
  | .bgWakeDone c g => Sys2Proof.Machine.execBgWakeDone c g s
  | .rxWrite p => Sys2Proof.Machine.execRxWrite p s
  | .rxWriteAck p => Sys2Proof.Machine.execRxWriteAck p s
  | .rxReadReq p => Sys2Proof.Machine.execRxReadReq p s
  | .rxReadResp p => Sys2Proof.Machine.execRxReadResp p s
  | .rxMuleRows p => Sys2Proof.Machine.execRxMuleRows p s
  | .sheepdogWrite p => Sys2Proof.Machine.execSheepdogWrite p s
  | .rxDrain l vc p => Sys2Proof.Machine.execRxDrain l vc p s
  | .rxNotice p => Sys2Proof.Machine.execRxNotice p s
  | .remoteTimeout c tag => Sys2Proof.Machine.execRemoteTimeout c tag s
  | .windowHoldTimeout p n => Sys2Proof.Machine.execWindowHoldTimeout p n s
  | .mreduceTimeout c win => Sys2Proof.Machine.execMreduceTimeout c win s
  | .barrierTimeout c q => Sys2Proof.Machine.execBarrierTimeout c q s
  | .watchdogExpiry c q => Sys2Proof.Machine.execWatchdogExpiry c q s
  | .stepEnd p => Sys2Proof.Machine.execStepEnd p s
  | .waitingToRunning p => Sys2Proof.Machine.execWaitingToRunning p s
  | .partitionIdleSleep p => Sys2Proof.Machine.execPartitionIdleSleep p s
  | .partitionWakeDone p ns => Sys2Proof.Machine.execPartitionWakeDone p ns s
  | .dvfsPointWrite p point => Sys2Proof.Machine.execDvfsPointWrite p point s
  | .railRampDone field => Sys2Proof.Machine.execRailRampDone field s
  | .thermalLevelChange sensors power powerMs => Sys2Proof.Machine.execThermalLevelChange sensors power powerMs s
  | .throttleCapStep => Sys2Proof.Machine.execThrottleCapStep s
  | .emergencyExit => Sys2Proof.Machine.execEmergencyExit s
  | .txFlitSlot l => Sys2Proof.Machine.execTxFlitSlot l s
  | .stagingBufferEnter l vc => Sys2Proof.Machine.execStagingBufferEnter l vc s
  | .rxDataFlit l r h body => Sys2Proof.Machine.execRxDataFlit l r h body s
  | .rxIdleFlit l r h => Sys2Proof.Machine.execRxIdleFlit l r h s
  | .rxNak l r h seqs => Sys2Proof.Machine.execRxNak l r h seqs s
  | .rxGoback l r h seq => Sys2Proof.Machine.execRxGoback l r h seq s
  | .rxParam l r h m rxTime => Sys2Proof.Machine.execRxParam l r h m rxTime s
  | .rxResetFlit l r h width reason => Sys2Proof.Machine.execRxResetFlit l r h width reason s
  | .rxLeave l r h => Sys2Proof.Machine.execRxLeave l r h s
  | .rxDown l r h reason => Sys2Proof.Machine.execRxDown l r h reason s
  | .rxHold l r h reason => Sys2Proof.Machine.execRxHold l r h reason s
  | .replayTimeout l => Sys2Proof.Machine.execReplayTimeout l s
  | .nakRepeatTimer l => Sys2Proof.Machine.execNakRepeatTimer l s
  | .lockLost l => Sys2Proof.Machine.execLockLost l s
  | .lockRegained l => Sys2Proof.Machine.execLockRegained l s
  | .lockDownTimeout l => Sys2Proof.Machine.execLockDownTimeout l s
  | .linkDetectPeer l => Sys2Proof.Machine.execLinkDetectPeer l s
  | .linkTrainDone l passing peerWidth => Sys2Proof.Machine.execLinkTrainDone l passing peerWidth s
  | .linkAlignDone l => Sys2Proof.Machine.execLinkAlignDone l s
  | .linkStateTimeout l => Sys2Proof.Machine.execLinkStateTimeout l s
  | .downRetrainTimer l => Sys2Proof.Machine.execDownRetrainTimer l s
  | .planMissingTimeout l => Sys2Proof.Machine.execPlanMissingTimeout l s
  | .gracefulDrainDone l => Sys2Proof.Machine.execGracefulDrainDone l s
  | .groupPllLocked g => Sys2Proof.Machine.execGroupPllLocked g s
  | .linkEnable l => Sys2Proof.Machine.execLinkEnable l s
  | .linkDisable l => Sys2Proof.Machine.execLinkDisable l s
  | .rtePlanWrite l value mask => Sys2Proof.Machine.execRtePlanWrite l value mask s
  | .rteTableWrite bank pair value mask => Sys2Proof.Machine.execRteTableWrite bank pair value mask s
  | .hostModeWrite h mode => Sys2Proof.Machine.execHostModeWrite h mode s
  | .hostPtpEnWrite h => Sys2Proof.Machine.execHostPtpEnWrite h s
  | .hostEnableWrite h en => Sys2Proof.Machine.execHostEnableWrite h en s
  | .identify f => Sys2Proof.Machine.execIdentify f s
  | .attest f nonce mask => Sys2Proof.Machine.execAttest f nonce mask s
  | .sessionOpen f key resume nm nh => Sys2Proof.Machine.execSessionOpen f key resume nm nh s
  | .regRead f addr count => Sys2Proof.Machine.execRegRead f addr count s
  | .regWrite f addr value mask => Sys2Proof.Machine.execRegWrite f addr value mask s
  | .cfgStage f r => Sys2Proof.Machine.execCfgStage f r s
  | .cfgCommit f fn discard => Sys2Proof.Machine.execCfgCommit f fn discard s
  | .partStop f part mode => Sys2Proof.Machine.execPartStop f part mode s
  | .partStart f part => Sys2Proof.Machine.execPartStart f part s
  | .progLoad f h bytes => Sys2Proof.Machine.execProgLoad f h bytes s
  | .progPatch f part pairs => Sys2Proof.Machine.execProgPatch f part pairs s
  | .submit f h tokens => Sys2Proof.Machine.execSubmit f h tokens s
  | .cancel f req => Sys2Proof.Machine.execCancel f req s
  | .query f req kind tenant part => Sys2Proof.Machine.execQuery f req kind tenant part s
  | .results f req voff maxv release => Sys2Proof.Machine.execResults f req voff maxv release s
  | .budgetSet f part sel tenant balance rate cap nshare => Sys2Proof.Machine.execBudgetSet f part sel tenant balance rate cap nshare s
  | .adapterLoad f h bytes => Sys2Proof.Machine.execAdapterLoad f h bytes s
  | .routeStage f first last entries => Sys2Proof.Machine.execRouteStage f first last entries s
  | .routeSwitch f => Sys2Proof.Machine.execRouteSwitch f s
  | .linkReset f link width rate graceful => Sys2Proof.Machine.execLinkReset f link width rate graceful s
  | .linkLeave f mask => Sys2Proof.Machine.execLinkLeave f mask s
  | .hotplugPrepare f mode => Sys2Proof.Machine.execHotplugPrepare f mode s
  | .lockstepPair f mask twin role enable hold => Sys2Proof.Machine.execLockstepPair f mask twin role enable hold s
  | .recordStart f mask buffer wrap batch => Sys2Proof.Machine.execRecordStart f mask buffer wrap batch s
  | .recordStop f stop release offset max => Sys2Proof.Machine.execRecordStop f stop release offset max s
  | .sctAckFrame f => Sys2Proof.Machine.execSctAckFrame f s
  | .arpRequest h ip => Sys2Proof.Machine.execArpRequest h ip s
  | .neighbourSolicit h ip => Sys2Proof.Machine.execNeighbourSolicit h ip s
  | .ptpSync h domain twoStep seq t1 t2 => Sys2Proof.Machine.execPtpSync h domain twoStep seq t1 t2 s
  | .ptpFollowUp h domain seq t1 => Sys2Proof.Machine.execPtpFollowUp h domain seq t1 s
  | .ptpDelayResp h domain t3 t4 => Sys2Proof.Machine.execPtpDelayResp h domain t3 t4 s
  | .ptpSyncTimeout => Sys2Proof.Machine.execPtpSyncTimeout s
  | .sessionIdleTimeout h session => Sys2Proof.Machine.execSessionIdleTimeout h session s
  | .loadObjectTimeout => Sys2Proof.Machine.execLoadObjectTimeout s
  | .promptPartTimeout session seq => Sys2Proof.Machine.execPromptPartTimeout session seq s
  | .doneHoldExpiry p slot => Sys2Proof.Machine.execDoneHoldExpiry p slot s
  | .dropLateDeadline p slot => Sys2Proof.Machine.execDropLateDeadline p slot s
  | .budgetRefill => Sys2Proof.Machine.execBudgetRefill s
  | .hostC0TokenRefill p => Sys2Proof.Machine.execHostC0TokenRefill p s
  | .helloResend p => Sys2Proof.Machine.execHelloResend p s
  | .helloTimeout p => Sys2Proof.Machine.execHelloTimeout p s
  | .rxLsRecords p recs => Sys2Proof.Machine.execRxLsRecords p recs s
  | .rxLsHello p digest ncores flock => Sys2Proof.Machine.execRxLsHello p digest ncores flock s
  | .rxLsHalt p stream seq => Sys2Proof.Machine.execRxLsHalt p stream seq s
  | .rxLsBatch p table => Sys2Proof.Machine.execRxLsBatch p table s
  | .lsRecordFlush p => Sys2Proof.Machine.execLsRecordFlush p s
  | .lsTimeout p stream seq => Sys2Proof.Machine.execLsTimeout p stream seq s
  | .journalCompaction => Sys2Proof.Machine.execJournalCompaction s
  | .eventLogEntry => Sys2Proof.Machine.execEventLogEntry s
  | .powerApplied => Sys2Proof.Machine.execPowerApplied s
  | .coldStart okRom okPuf failedCores failedGroups => Sys2Proof.Machine.execColdStart okRom okPuf failedCores failedGroups s
  | .powerLoss => Sys2Proof.Machine.execPowerLoss s
  | .resetNAssert => Sys2Proof.Machine.execResetNAssert s
  | .resetNRelease => Sys2Proof.Machine.execResetNRelease s
  | .attnNLow => Sys2Proof.Machine.execAttnNLow s
  | .hotplugStopTimeout => Sys2Proof.Machine.execHotplugStopTimeout s
  | .hotplugReady => Sys2Proof.Machine.execHotplugReady s
  | .i2cRead addr => Sys2Proof.Machine.execI2cRead addr s
  | .bypass tdi => Sys2Proof.Machine.execBypass tdi s
  | .idcode => Sys2Proof.Machine.execIdcode s
  | .samplePreload data => Sys2Proof.Machine.execSamplePreload data s
  | .extest => Sys2Proof.Machine.execExtest s
  | .chiprd addr => Sys2Proof.Machine.execChiprd addr s
  | .otherFrame h kind opcode session seq => Sys2Proof.Machine.execOtherFrame h kind opcode session seq s
  | .pcsAligned h => Sys2Proof.Machine.execPcsAligned h s
  | .pcsAlignmentLost h => Sys2Proof.Machine.execPcsAlignmentLost h s
  | .journalEraseDone => Sys2Proof.Machine.execJournalEraseDone s
  | .inputReturnsInRange => Sys2Proof.Machine.execInputReturnsInRange s

end Sys2Proof.Machine
end

