-- ==== Sys2Proof/Machine/Spine.lean ====
section
/-! DEFINITION. The class-0 buckets of the spine segments (R374, R375, R389). Only class-0 packets wait for a
segment; other classes pass in no time of the model's (Assumption 93). -/

namespace Sys2Proof.Machine

def srcSpine (g : Fin 8) : BitVec 16 := BitVec.ofNat 16 (0x5000 + g.val)

/-- A bucket's size in bytes. -/
def Router.spineCap (r : Router) : Nat := 1024 * r.spineBurst.toNat

/-- What a bucket regains in a nanosecond: SHARE/64 of 2,048 bytes (R24) in each cycle of 1.75 GHz. -/
def Router.spineGain (r : Router) : Nat := 56 * r.spineShare.toNat

/-- EV_C0_CAP of a segment whose bucket is short, once per millisecond. -/
def State.spineWait (s : State) (g : Fin 8) : State :=
  let x := s.rte.spine[g]
  let due := match x.logged with
    | some t => decide (t.toNat + 1000000 ≤ s.time.toNat)
    | none => true
  if due then
    (s.modRte (fun r => { r with spine := r.spine.set g { x with logged := some s.time } })).log 0x0017 (srcSpine g)
      0 0 0 0
  else s

/-- A packet of `n` bytes commits the segments of its path as far as their buckets cover it; the segments it
still waits for are answered. -/
def State.commit (s : State) (n : Nat) : List (Fin 8) → List (Fin 8) × State
  | [] => ([], s)
  | g :: t =>
    let x := s.rte.spine[g]
    if x.used + n ≤ s.rte.spineCap then
      (s.modRte (fun r => { r with spine := r.spine.set g { x with used := x.used + n } })).commit n t
    else (g :: t, s.spineWait g)

/-- The packets on the spines go on, the longest waiting first. -/
def State.spineMoves (s : State) : List Moving → List Moving × State
  | [] => ([], s)
  | m :: t =>
    let (p, s) := s.commit (32 + 32 * m.pkt.length) m.path
    let (r, s) := s.spineMoves t
    ({ m with path := p } :: r, s)

/-- A nanosecond of the spines: the buckets regain, and waiting packets go on. -/
def State.spineStep (s : State) : State :=
  let s := if s.rte.spine.all (fun x => x.used == 0) then s else
    s.modRte (fun r => { r with spine := r.spine.map (fun x => { x with used := x.used - r.spineGain }) })
  if s.transit.all (fun m => m.path.isEmpty) then s
  else
    let (ms, s) := s.spineMoves s.transit
    { s with transit := ms }

end Sys2Proof.Machine
end

