-- ==== Sys2Proof/Machine/Sequencer.lean ====
section
/-! DEFINITION. What the block does by itself while no command waits (Assumptions 10 and 98): the queues of a
partition in a step present the instructions of their stores, first to last and with their loops (R102, R241,
R251, R255, R257), and accesses held behind an instruction at a bank group are served (R213). -/

namespace Sys2Proof.Machine

/-- The presentation of the word at a queue's head: its waits have lasted since the queue has shown them, and
the array's gap is a free value (R86). -/
def State.headIssue (s : State) (c : CoreId) (q : QueueId) (w : MWord) : Issue :=
  s.waitedNow q
    { core := c, qpos := BitVec.ofNat 16 ((s.core c).queue q).pos, hdr := headerOf w,
      stalled := s.stalledNow c q, gap := (Config.freeWord s.draws).toNat % 2 ^ 32 }

/-- The opcode is one of the queue's. -/
def opKnown (q : QueueId) (op : Nat) : Bool := (wordInstr { core := 0 } q.val (BitVec.ofNat 256 op)).isSome

/-- The instruction that a queue's word spells; the holds that meet a PASS are free values (R82). -/
def State.headInstr (s : State) (i : Issue) (q : QueueId) (w : MWord) : Option Instr :=
  match wordInstr i q.val w with
  | some (.pass i o _) => some (.pass i o (Config.freeHolds s.draws))
  | x => x

/-- Presents a word. One that no instruction spells is rejected at issue: with REASON 1 where the opcode is
foreign to the queue (R105, R127, R133), else 2 for a reserved bit (Assumption 40). -/
def State.presentWord (s : State) (c : CoreId) (q : QueueId) (w : MWord) : State :=
  let i := s.headIssue c q w
  let op := wordField w 0 8
  let t : State := { s with draws := s.draws + 1 }
  match s.headInstr i q w with
  | some x => match exec x t with
    | .next u => u
    | _ => s
  | none => t.present q (BitVec.ofNat 8 op) i (fun _ => .reject (if opKnown q op then 2 else 1))

/-- The queue's head is held at a bank group that is ON, behind another access that arrived before it. -/
def State.heldBehind (s : State) (c : CoreId) (q : QueueId) : Bool :=
  (coresOf (partOf c)).any (fun x =>
    let m := (s.core x).memory
    (List.finRange 8).any (fun g =>
      let h : Held := .instr c q g.val
      m.bgState[g] == 0 && m.held.contains h && m.held.find? (Held.inGroup g.val) != some h))

/-- One queue: a body of COUNT 0 is passed over, or the head is presented. -/
def State.stepQueue (s : State) (c : CoreId) (q : QueueId) : State :=
  let k := (s.core c).queue q
  match k.skip, k.word with
  | some k', _ => s.modQueue c q (fun _ => k')
  | none, none => s
  | none, some w => if s.canPresent c q && !s.heldBehind c q then s.presentWord c q w else s

/-- Every queue of a partition in a step, once. -/
def State.stepQueues (s : State) (p : PartId) : State :=
  if (s.part p).stepping then
    (s.ranks p).foldl (fun s c => (List.finRange 10).foldl (fun s q => s.stepQueue c q) s) s
  else s

/-- Accesses that an instruction has left behind at groups that are ON (R213). -/
def State.serveCore (s : State) (c : CoreId) : State :=
  (List.finRange 8).foldl (fun s g =>
    let m := (s.core c).memory
    if m.bgState[g] = 0 ∧ m.held.any (Held.inGroup g.val) then s.serveGroup c g else s) s

def State.serveCores (s : State) : State :=
  (List.finRange 96).foldl (fun s c => if (s.core c).memory.held.isEmpty then s else s.serveCore c) s

/-- With no command in the queue: frames that wait and find room are taken up again, else the queues of
partitions in a step and the packets on the spines go on and a nanosecond passes (Assumptions 10 and 98). -/
def State.idle (s : State) : State :=
  if (s.port 0).ready then s.resume 0 else if (s.port 1).ready then s.resume 1
  else ((((List.finRange 12).foldl State.stepQueues s).serveCores).spineStep).tick

end Sys2Proof.Machine
end

