-- ==== Sys2Proof/Machine/Encode.lean ====
section
/-! DEFINITION. The word of the instruction store that an engine's instruction is written as: the opcode
(R66, R104, R133, R214, R235), the common header (R256) and the instruction's own fields, each at its bits.
Every bit that no field names is 0. -/

namespace Sys2Proof.Machine

/-- The common header (R256). -/
def headerPlaces (h : Header) : List (Nat × Nat × Nat) :=
  [(58, 6, h.slack.toNat), (53, 5, h.i1ctr.toNat), (52, 1, h.i1en.toNat), (47, 5, h.i0ctr.toNat),
   (46, 1, h.i0en.toNat), (34, 12, h.w1tgt.toNat), (29, 5, h.w1ctr.toNat), (28, 1, h.w1en.toNat),
   (16, 12, h.w0tgt.toNat), (11, 5, h.w0ctr.toNat), (10, 1, h.w0en.toNat), (9, 1, h.bar.toNat),
   (8, 1, h.kend.toNat)]

/-- R67. -/
def passPlaces (o : PassOp) : List (Nat × Nat × Nat) :=
  [(156, 20, o.cntAddr.toNat), (155, 1, o.lenInd.toNat), (147, 6, o.fwdStream.toNat),
   (127, 20, o.ascale.toNat), (125, 2, o.fwdFmt.toNat), (124, 1, o.fwd.toNat), (123, 1, o.swap.toNat),
   (121, 2, o.accMode.toNat), (109, 12, o.accBase.toNat), (97, 12, o.len.toNat), (95, 2, o.sparse.toNat),
   (91, 4, o.wfmt.toNat), (87, 4, o.afmt.toNat), (84, 3, o.asel.toNat), (64, 20, o.aaddr.toNat)]

/-- R70. -/
def accoutPlaces (o : AccoutOp) : List (Nat × Nat × Nat) :=
  [(172, 1, o.srcInt.toNat), (140, 32, o.seed.toNat), (120, 20, o.dscale.toNat), (119, 1, o.clear.toNat),
   (118, 1, o.sat.toNat), (115, 3, o.rnd.toNat), (111, 4, o.dfmt.toNat), (108, 3, o.dsel.toNat),
   (88, 20, o.daddr.toNat), (76, 12, o.count.toNat), (64, 12, o.accBase.toNat)]

/-- R71. -/
def ewisePlaces (o : EwiseOp) : List (Nat × Nat × Nat) :=
  [(181, 3, o.bsel.toNat), (178, 3, o.asel.toNat), (158, 20, o.bscale.toNat), (138, 20, o.ascale.toNat),
   (126, 12, o.count.toNat), (114, 12, o.accBase.toNat), (112, 2, o.op.toNat), (108, 4, o.bfmt.toNat),
   (104, 4, o.afmt.toNat), (84, 20, o.baddr.toNat), (64, 20, o.aaddr.toNat)]

/-- R107. -/
def vMemPlaces (o : VMemOp) : List (Nat × Nat × Nat) :=
  [(176, 32, o.seed.toNat), (156, 20, o.eimm.toNat), (152, 4, o.soff.toNat), (150, 2, o.scm.toNat),
   (149, 1, o.sat.toNat), (146, 3, o.rnd.toNat), (142, 4, o.et.toNat), (138, 4, o.mfmt.toNat),
   (118, 20, o.saddr.toNat), (98, 20, o.addr.toNat), (97, 1, o.mz.toNat), (94, 3, o.pm.toNat),
   (91, 3, o.msel.toNat), (86, 5, o.vr.toNat)]

/-- R106. -/
def vRegPlaces (o : VOp) : List (Nat × Nat × Nat) :=
  [(128, 32, o.imm.toNat), (124, 4, o.srct.toNat), (122, 2, o.part.toNat), (118, 4, o.sd.toNat),
   (114, 4, o.sb.toNat), (113, 1, o.bs.toNat), (110, 3, o.pd.toNat), (106, 4, o.fn.toNat),
   (105, 1, o.sat.toNat), (102, 3, o.rnd.toNat), (98, 4, o.et.toNat), (97, 1, o.mz.toNat),
   (94, 3, o.pm.toNat), (89, 5, o.vc.toNat), (84, 5, o.vb.toNat), (79, 5, o.va.toNat), (74, 5, o.vd.toNat)]

/-- R136. -/
def normPlaces (o : NormOp) : List (Nat × Nat × Nat) :=
  [(224, 32, o.scale.toNat), (204, 20, o.flagAddr.toNat), (184, 20, o.maddr.toNat),
   (168, 16, o.cbase.toNat), (166, 2, o.mmode.toNat), (164, 2, o.nmode.toNat), (161, 3, o.rnd.toNat),
   (160, 1, o.sat.toNat), (156, 4, o.ofmt.toNat), (152, 4, o.ifmt.toNat), (140, 12, o.rows.toNat),
   (124, 16, o.len.toNat), (121, 3, o.osel.toNat), (118, 3, o.isel.toNat), (98, 20, o.oaddr.toNat),
   (78, 20, o.iaddr.toNat)]

/-- R140. -/
def tilePlaces (o : TileOp) : List (Nat × Nat × Nat) :=
  [(236, 20, o.cmaddr.toNat), (235, 1, o.cmpct.toNat), (215, 20, o.bmaddr.toNat), (201, 14, o.bmidx.toNat),
   (200, 1, o.bmen.toNat), (180, 20, o.mdaddr.toNat), (160, 20, o.saddr.toNat), (158, 2, o.sparse.toNat),
   (154, 4, o.wfmt.toNat), (151, 3, o.wsel.toNat), (131, 20, o.waddr.toNat), (115, 16, o.cmbase.toNat),
   (99, 16, o.cmlen.toNat)]

/-- R145. -/
def dispPlaces (o : DispOp) : List (Nat × Nat × Nat) :=
  [(236, 20, o.iaddr.toNat), (220, 16, o.nrows.toNat), (208, 12, o.count.toNat), (196, 12, o.roww.toNat),
   (193, 3, o.ssel.toNat), (173, 20, o.saddr.toNat), (170, 3, o.dsel.toNat), (150, 20, o.daddr.toNat),
   (149, 1, o.cntInd.toNat), (129, 20, o.cntAddr.toNat), (127, 2, o.empty.toNat)]

/-- R147. -/
def dslotPlaces (o : DslotOp) : List (Nat × Nat × Nat) :=
  [(236, 20, o.caddr.toNat), (216, 20, o.sladdr.toNat), (196, 20, o.fladdr.toNat),
   (176, 20, o.cbaddr.toNat), (164, 12, o.tokens.toNat), (154, 10, o.e.toNat), (148, 6, o.k.toNat),
   (144, 4, o.alt.toNat), (132, 12, o.cap.toNat), (120, 12, o.ocap.toNat), (118, 2, o.policy.toNat)]

/-- R150. -/
def adapterPlaces (o : AdapterOp) : List (Nat × Nat × Nat) :=
  [(236, 20, o.diraddr.toNat), (216, 20, o.idaddr.toNat), (196, 20, o.xaddr.toNat),
   (176, 20, o.xscale.toNat), (156, 20, o.uaddr.toNat), (152, 4, o.xfmt.toNat), (149, 3, o.xsel.toNat),
   (133, 16, o.klen.toNat), (121, 12, o.cols.toNat), (109, 12, o.rows.toNat), (97, 12, o.accBase.toNat),
   (85, 12, o.bcol.toNat)]

/-- R154. -/
def kvPlaces (o : KvOp) : List (Nat × Nat × Nat) :=
  [(240, 16, o.desc.toNat), (224, 16, o.parent.toNat), (204, 20, o.dtaddr.toNat),
   (184, 20, o.ixaddr.toNat), (179, 5, o.ixbits.toNat), (159, 20, o.srcaddr.toNat),
   (139, 20, o.tokaddr.toNat), (119, 20, o.cntaddr.toNat), (107, 12, o.roww.toNat), (100, 7, o.n.toNat),
   (99, 1, o.cntInd.toNat), (83, 16, o.delta.toNat), (80, 3, o.ssel.toNat), (79, 1, o.direct.toNat)]

/-- R157. -/
def xferPlaces (o : XferOp) : List (Nat × Nat × Nat) :=
  [(242, 14, o.chip.toNat), (238, 4, o.part.toNat), (230, 8, o.win.toNat), (210, 20, o.woff.toNat),
   (190, 20, o.laddr.toNat), (187, 3, o.lsel.toNat), (167, 20, o.daddr.toNat), (164, 3, o.dsel.toNat),
   (144, 20, o.len.toNat), (142, 2, o.cls.toNat), (140, 2, o.wmode.toNat), (120, 20, o.arrv.toNat),
   (115, 5, o.acnt.toNat), (114, 1, o.acen.toNat), (113, 1, o.ack.toNat), (112, 1, o.wsrc.toNat)]

/-- R161. -/
def streamPlaces (o : StreamOp) : List (Nat × Nat × Nat) :=
  [(242, 14, o.chip.toNat), (238, 4, o.part.toNat), (230, 8, o.win.toNat), (224, 6, o.stream.toNat),
   (222, 2, o.cls.toNat), (202, 20, o.ridxaddr.toNat), (182, 20, o.rscaddr.toNat), (181, 1, o.rscen.toNat),
   (169, 12, o.passes.toNat)]

/-- R163. -/
def reducePlaces (o : ReduceOp) : List (Nat × Nat × Nat) :=
  [(248, 8, o.win.toNat), (236, 12, o.accBase.toNat), (224, 12, o.rows.toNat), (216, 8, o.sources.toNat),
   (196, 20, o.srclist.toNat), (195, 1, o.init.toNat)]

/-- R165. -/
def msendPlaces (o : MsendOp) : List (Nat × Nat × Nat) :=
  [(250, 6, o.stream.toNat), (249, 1, o.src.toNat), (237, 12, o.accBase.toNat), (225, 12, o.count.toNat),
   (205, 20, o.maddr.toNat), (202, 3, o.msel.toNat), (200, 2, o.fmt.toNat), (198, 2, o.w.toNat)]

/-- R214. -/
def bankPlaces (o : BankOp) : List (Nat × Nat × Nat) :=
  [(224, 32, o.opnd.toNat), (192, 32, o.cmpv.toNat), (172, 20, o.raddr.toNat), (152, 20, o.baddr.toNat),
   (149, 3, o.bsel.toNat), (129, 20, o.len.toNat), (126, 3, o.cond.toNat), (125, 1, o.et.toNat),
   (121, 4, o.aop.toNat), (118, 3, o.elem.toNat), (115, 3, o.asel.toNat), (95, 20, o.addr.toNat)]

/-- A word from an opcode, a header and fields. -/
def engineWord (op : Nat) (i : Issue) (fs : List (Nat × Nat × Nat)) : MWord :=
  setFields 0 ((0, 8, op) :: (headerPlaces i.hdr ++ fs))

/-- The presentation, the queue (R251) and the word of an engine's instruction; none for a command that is no
instruction. The holds that met a pass stand in no word. -/
def encodeWord : Instr → Option (Issue × Nat × MWord)
  | .pass i o h => if h = {} then some (i, 8, engineWord 0x20 i (passPlaces o)) else none
  | .accout i o => some (i, 8, engineWord 0x21 i (accoutPlaces o))
  | .ewise i o => some (i, 8, engineWord 0x22 i (ewisePlaces o))
  | .ffence i => some (i, 8, engineWord 0x23 i [])
  | .vld i o => some (i, 9, engineWord 0x40 i (vMemPlaces o))
  | .vst i o => some (i, 9, engineWord 0x41 i (vMemPlaces o))
  | .vxld i o => some (i, 9, engineWord 0x42 i (vMemPlaces o))
  | .vcst i o => some (i, 9, engineWord 0x43 i (vMemPlaces o))
  | .mld i o => some (i, 9, engineWord 0x44 i (vMemPlaces o))
  | .mst i o => some (i, 9, engineWord 0x45 i (vMemPlaces o))
  | .vadd i o => some (i, 9, engineWord 0x48 i (vRegPlaces o))
  | .vsub i o => some (i, 9, engineWord 0x49 i (vRegPlaces o))
  | .vmul i o => some (i, 9, engineWord 0x4A i (vRegPlaces o))
  | .vfma i o => some (i, 9, engineWord 0x4B i (vRegPlaces o))
  | .vmax i o => some (i, 9, engineWord 0x4C i (vRegPlaces o))
  | .vmin i o => some (i, 9, engineWord 0x4D i (vRegPlaces o))
  | .vsplat i o => some (i, 9, engineWord 0x4F i (vRegPlaces o))
  | .vand i o => some (i, 9, engineWord 0x50 i (vRegPlaces o))
  | .vor i o => some (i, 9, engineWord 0x51 i (vRegPlaces o))
  | .vxor i o => some (i, 9, engineWord 0x52 i (vRegPlaces o))
  | .vshl i o => some (i, 9, engineWord 0x53 i (vRegPlaces o))
  | .vshr i o => some (i, 9, engineWord 0x54 i (vRegPlaces o))
  | .vsra i o => some (i, 9, engineWord 0x55 i (vRegPlaces o))
  | .vcmp i o => some (i, 9, engineWord 0x58 i (vRegPlaces o))
  | .vsel i o => some (i, 9, engineWord 0x59 i (vRegPlaces o))
  | .vcvt i o => some (i, 9, engineWord 0x5C i (vRegPlaces o))
  | .vsfu i o => some (i, 9, engineWord 0x5D i (vRegPlaces o))
  | .vred i o => some (i, 9, engineWord 0x5E i (vRegPlaces o))
  | .vcomp i o => some (i, 9, engineWord 0x68 i (vRegPlaces o))
  | .vexpd i o => some (i, 9, engineWord 0x69 i (vRegPlaces o))
  | .mop i o => some (i, 9, engineWord 0x6C i (vRegPlaces o))
  | .sop i o => some (i, 9, engineWord 0x6E i (vRegPlaces o))
  | .nsmax i o => some (i, 0, engineWord 0x80 i (normPlaces o))
  | .nnorm i o => some (i, 0, engineWord 0x81 i (normPlaces o))
  | .dgather i o => some (i, 1, engineWord 0x90 i (dispPlaces o))
  | .dscatter i o => some (i, 1, engineWord 0x91 i (dispPlaces o))
  | .dslot i o => some (i, 1, engineWord 0x92 i (dslotPlaces o))
  | .tile i o => some (i, 2, engineWord 0xA0 i (tilePlaces o))
  | .adown i o => some (i, 3, engineWord 0xB0 i (adapterPlaces o))
  | .aup i o => some (i, 3, engineWord 0xB1 i (adapterPlaces o))
  | .kappend i o => some (i, 4, engineWord 0xC0 i (kvPlaces o))
  | .kcommit i o => some (i, 4, engineWord 0xC1 i (kvPlaces o))
  | .kdiscard i o => some (i, 4, engineWord 0xC2 i (kvPlaces o))
  | .khash i o => some (i, 4, engineWord 0xC3 i (kvPlaces o))
  | .kfind i o => some (i, 4, engineWord 0xC4 i (kvPlaces o))
  | .kref i o => some (i, 4, engineWord 0xC5 i (kvPlaces o))
  | .tcopy i o => some (i, 5, engineWord 0xD0 i (xferPlaces o))
  | .tsend i o => some (i, 5, engineWord 0xD1 i (xferPlaces o))
  | .tget i o => some (i, 5, engineWord 0xD2 i (xferPlaces o))
  | .twin i o => some (i, 5, engineWord 0xD3 i (xferPlaces o))
  | .tdrain i o => some (i, 5, engineWord 0xD4 i (xferPlaces o))
  | .mstream i o => some (i, 6, engineWord 0xE0 i (streamPlaces o))
  | .mreduce i o => some (i, 6, engineWord 0xE1 i (reducePlaces o))
  | .msend i o => some (i, 6, engineWord 0xE2 i (msendPlaces o))
  | .batom i o => some (i, 7, engineWord 0xF0 i (bankPlaces o))
  | .bcount i o => some (i, 7, engineWord 0xF1 i (bankPlaces o))
  | .bcmp i o => some (i, 7, engineWord 0xF2 i (bankPlaces o))
  | _ => none

end Sys2Proof.Machine
end

