-- ==== Sys2Proof/Safety.lean ====
section
/-! DEFINITION. What counts as a safe run: every step answers a next state, and the states keep what holds of
every state that the block can be in. -/

namespace Sys2Proof.Machine

/-- The block goes on for `n` steps without a fault or a refusal. -/
def State.goesOn : Nat → State → Prop
  | 0, _ => True
  | n + 1, s => ∃ t, step s = .next t ∧ t.goesOn n

/-- Every core's memory is in its canonical form. -/
def State.memoriesWf (s : State) : Prop := ∀ c : CoreId, (s.core c).memory.wf = true

/-- The event queue holds at most 1,024 events (R491). -/
def State.eventsFit (s : State) : Prop := s.evlog.queue.length ≤ 1024

/-- The state of every partition is one of those of R363: EMPTY, STOPPED, WAITING, RUNNING and STOPPING. -/
def State.partsLegal (s : State) : Prop := ∀ p : PartId, (s.part p).state.toNat ≤ 4

/-! Frames: what a command leaves as it was. -/

/-- Everything beside the cores and the event log is as it was (the count of free values drawn, which is no
state of the block, may differ). -/
def State.sameOutside (s t : State) : Prop :=
  { t with cores := s.cores, evlog := s.evlog, draws := s.draws } = s

/-- Every word of every core's memory reads as it did. -/
def State.sameWords (s t : State) : Prop := ∀ (c : CoreId) (a : Nat), t.peek c a = s.peek c a

/-- What a queue holds of the loaded image: its instructions and loops. -/
def Queue.loaded (k : Queue) : Queue := { store := k.store, loops := k.loops }

/-- A core without what the issue of any instruction may change: the status of its queues, the instructions in
flight, slip, the marks of the step, the vector engine's counts, the record of corrected reads, and what is
held at its bank groups. -/
def Core.settled (k : Core) : Core :=
  { k with
    queues := k.queues.map Queue.loaded, inflight := [], slip := 0, marks := {},
    vec := { k.vec with issue := 0, stall := 0 },
    memory := { k.memory with
      held := [], eccCorr := 0, logSyms := 0, logPos := 0, logScrub := false, logAddr := 0, writeback := [] } }

/-- A core without what an issue may change and without its memory's words. -/
def Core.besideWords (k : Core) : Core :=
  { k.settled with memory := { k.settled.memory with mem := [], flips := [] } }

/-- Every core but `c` is as it was, but for what an issue may change. -/
def State.otherCores (s t : State) (c : CoreId) : Prop :=
  ∀ x : CoreId, x ≠ c → (t.core x).settled = (s.core x).settled

/-- The writes of a list are made, and every other word is as it was (R205, R210, R237). -/
def State.stored (s t : State) (ws : List Wr) : Prop :=
  (∀ w ∈ ws, t.peek w.core w.addr = (s.peek w.core w.addr &&& ~~~w.mask) ||| (w.data &&& w.mask)) ∧
  (∀ (c : CoreId) (a : Nat), (c, a) ∉ wrWords ws → t.peek c a = s.peek c a)

/-- Every group that a list of words touches is ON (R212). -/
def State.groupsOn (s : State) (ws : List (CoreId × Nat)) : Prop :=
  ∀ x ∈ ws, (s.core x.1).memory.bgState[(s.core x.1).memory.group x.2] = 0

/-- No word of a list is uncorrectable (R207). -/
def State.readable (s : State) (ws : List (CoreId × Nat)) : Prop :=
  ∀ x ∈ ws, (s.core x.1).memory.check x.2 ≠ .bad

end Sys2Proof.Machine
end

