-- ==== Sys2Proof/Certificates/Slice0/Obligations.lean ====
section
/-! DEFINITION. The statements about the model, each a rule of the manual or what several of them give. -/

open Sys2Proof Sys2Proof.Machine

/-! ### The queue of commands and the whole machine -/

namespace Sys2Proof.Machine.Claims

/-- Every accumulator memory is in its canonical form. -/
def accsWf (s : State) : Prop := ∀ c : CoreId, smWf (s.core c).array.acc = true

/-- The write-combine buffer of a core holds at most 64 entries, each word once (R229). -/
def wcOk (k : Core) : Prop := k.wc.length ≤ 64 ∧ (k.wc.map (fun e => (e.core, e.addr))).Nodup

/-- Memories, accumulators, routing tables and the event log are in their canonical form, and no write-combine buffer
holds more than 64 entries or a word twice. -/
def canonical (s : State) : Prop :=
  s.memoriesWf ∧ accsWf s ∧ (∀ c : CoreId, wcOk (s.core c)) ∧
  (∀ b : Fin 2, smWf s.rte.table[b] = true) ∧ smWf s.evlog.entries = true

end Sys2Proof.Machine.Claims

open Sys2Proof.Machine.Claims

/-- A step takes the command at the front of the queue and executes it on the state with the queue's rest. -/
def Obligations.StepRunsFrontCommand : Prop :=
  ∀ (c : Instr) (rest : List Instr) (s : State), s.pending = c :: rest → step s = exec c { s with pending := rest }

/-- On an empty queue the block goes on by itself (the model's own choice, Assumptions 10 and 98): frames that wait
at a port with room are taken up again; otherwise the queues of partitions in a step, the accesses held at groups
that are ON and the packets on the spines go on and a nanosecond of module time passes, one in 10,000 more or less
under a slew. Where no step runs, nothing is held and no spine bucket is short, nothing else changes. -/
def Obligations.EmptyQueueIdles : Prop :=
  ∀ s : State, s.pending = [] →
    (∀ h : PortId, (s.port h).ready = true → (∀ h' : PortId, h' < h → (s.port h').ready = false) →
      ∃ t, step s = .next t ∧ t.pending = (s.port h).ingress.map (·.2) ∧ (t.port h).ingress = [] ∧ t.time = s.time) ∧
    ((∀ h : PortId, (s.port h).ready = false) → (∀ p : PartId, (s.part p).stepping = false) →
      (∀ c : CoreId, (s.core c).memory.held = []) → (∀ m ∈ s.transit, m.path = []) →
      (∀ g : Fin 8, (s.rte.spine[g]).used = 0) →
      ∃ t, step s = .next t ∧ t = { s with time := t.time, work := t.work } ∧
        (s.work.slew = 0 → t.time = s.time + 1 ∧ t.work = s.work)) ∧
    ((∀ h : PortId, (s.port h).ready = false) → s.work.slew = 0 →
      ∃ t, step s = .next t ∧ t.pending = [] ∧ t.time = s.time + 1)

/-- Right after reset: no command waits, every partition is EMPTY, every link is DISABLED, bank 0 of the
routing tables is ACTIVE and bank 1 STAGING, the chip ID is 0x3FFF, SAFETY is 0, every core's memory reads as zero
with its groups ON, the vector registers and ready counters are zero, and the event log is empty. (The contents
of memory and of the registers of a module without power are the model's choice, Assumptions 1 and 2.) The three
invariants below hold. -/
def Obligations.StateAfterReset : Prop :=
  State.reset.pending = [] ∧ State.reset.chipId = 0x3FFF ∧ State.reset.safety = false ∧
  (∀ p : PartId, (State.reset.part p).state = 0 ∧ (State.reset.part p).prog = none) ∧
  (∀ l : LinkId, (State.reset.link l).state = 0 ∧ (State.reset.link l).enable = false) ∧
  State.reset.rte.bank[0] = 2 ∧ State.reset.rte.bank[1] = 0 ∧
  (∀ (c : CoreId) (a : Nat), State.reset.peek c a = 0) ∧
  (∀ (c : CoreId) (g : Fin 8), (State.reset.core c).memory.bgState[g] = 0) ∧
  (∀ (c : CoreId) (n : BitVec 5), (State.reset.core c).vec.vreg n = 0) ∧
  (∀ (c : CoreId) (n : BitVec 5), ((State.reset.core c).counter n).count = 0) ∧
  State.reset.evlog.queue = [] ∧ State.reset.evlog.entries = [] ∧
  canonical State.reset ∧ State.reset.partsLegal ∧ State.reset.eventsFit

/-- Every step keeps memories, accumulators, routing tables and the event log in their canonical form, so that equal
ones are equal data, and write-combine buffers within their 64 words (R229). -/
def Obligations.MemoriesStayCanonical : Prop :=
  ∀ s t : State, canonical s → step s = .next t → canonical t

/-- A partition is always in one of the states of R363: no step of any command leaves them. -/
def Obligations.PartitionStatesStayLegal : Prop :=
  ∀ s t : State, s.partsLegal → step s = .next t → t.partsLegal

/-- The event queue never holds more than 1,024 events (R491). -/
def Obligations.EventQueueStaysBounded : Prop :=
  ∀ s t : State, s.eventsFit → step s = .next t → t.eventsFit

/-- Every engine's instruction, with every header and every value of its fields, is read back from the word
that it is written as: the same instruction in its queue, and the same header. -/
def Obligations.EngineWordsDecodeToTheirInstruction : Prop :=
  ∀ (x : Instr) (i : Issue) (q : Nat) (w : MWord), encodeWord x = some (i, q, w) →
    wordInstr i q w = some x ∧ headerOf w = i.hdr

/-! ### The issue of engine instructions -/

namespace Sys2Proof.Machine.Claims

/-- The queue, the opcode (R104, R135), the presentation and the plan of every engine's instruction. -/
def planOf : Instr → Option (QueueId × BitVec 8 × Issue × (State → Todo))
  | .pass i o h => some (qArray, 0x20, i, State.passPlan i o h)
  | .accout i o => some (qArray, 0x21, i, State.accoutPlan i o)
  | .ewise i o => some (qArray, 0x22, i, State.ewisePlan i o)
  | .ffence i => some (qArray, 0x23, i, State.ffencePlan i)
  | .vld i o => some (qVec, 0x40, i, State.vldPlan i o)
  | .vst i o => some (qVec, 0x41, i, State.vstPlan i o)
  | .vxld i o => some (qVec, 0x42, i, State.vxldPlan i o)
  | .vcst i o => some (qVec, 0x43, i, State.vcstPlan i o)
  | .mld i o => some (qVec, 0x44, i, State.mldPlan i o)
  | .mst i o => some (qVec, 0x45, i, State.mstPlan i o)
  | .vadd i o => some (qVec, 0x48, i, fun _ => vopTodo o i [] (elementwise o (vAddSub false o)))
  | .vsub i o => some (qVec, 0x49, i, fun _ => vopTodo o i [] (elementwise o (vAddSub true o)))
  | .vmul i o => some (qVec, 0x4A, i, fun _ => vopTodo o i [] (elementwise o (vMul o)))
  | .vfma i o => some (qVec, 0x4B, i, fun _ => vopTodo o i [] (elementwise o (vFma o)))
  | .vmax i o => some (qVec, 0x4C, i, fun _ => vopTodo o i [] (elementwise o (vMaxMin true o)))
  | .vmin i o => some (qVec, 0x4D, i, fun _ => vopTodo o i [] (elementwise o (vMaxMin false o)))
  | .vsplat i o => some (qVec, 0x4F, i, fun _ => vopTodo o i [] (vSplat o))
  | .vand i o => some (qVec, 0x50, i, fun _ => vopTodo o i [] (elementwise o (vBits 0)))
  | .vor i o => some (qVec, 0x51, i, fun _ => vopTodo o i [] (elementwise o (vBits 1)))
  | .vxor i o => some (qVec, 0x52, i, fun _ => vopTodo o i [] (elementwise o (vBits 2)))
  | .vshl i o => some (qVec, 0x53, i, fun _ => vopTodo o i (shiftRej o) (elementwise o (vShift 0 o)))
  | .vshr i o => some (qVec, 0x54, i, fun _ => vopTodo o i (shiftRej o) (elementwise o (vShift 1 o)))
  | .vsra i o => some (qVec, 0x55, i, fun _ => vopTodo o i (shiftRej o) (elementwise o (vShift 2 o)))
  | .vcmp i o => some (qVec, 0x58, i, fun _ => vopTodo o i (vcmpRej o) (vCmp o))
  | .vsel i o => some (qVec, 0x59, i, fun _ => vopTodo o i [] (vSel o))
  | .vcvt i o => some (qVec, 0x5C, i, fun _ => vopTodo o i (vcvtRej o) (vCvt o (cvtSrc o)))
  | .vsfu i o => some (qVec, 0x5D, i, fun _ => vopTodo o i (vsfuRej o) (elementwise o (vSfu o)))
  | .vred i o => some (qVec, 0x5E, i, fun _ => vopTodo o i (vredRej o) (vRed o))
  | .vcomp i o => some (qVec, 0x68, i, fun _ => vopTodo o i [] (vComp o))
  | .vexpd i o => some (qVec, 0x69, i, fun _ => vopTodo o i [] (vExpd o))
  | .mop i o => some (qVec, 0x6C, i, fun _ => vopTodo o i (mopRej o) (vMop o))
  | .sop i o => some (qVec, 0x6E, i, fun _ => vopTodo o i (sopRej o) (vSop o))
  | .nsmax i o => some (qNorm, 0x80, i, State.nsmaxPlan i o)
  | .nnorm i o => some (qNorm, 0x81, i, State.nnormPlan i o)
  | .dgather i o => some (qDisp, 0x90, i, State.gatherPlan i o)
  | .dscatter i o => some (qDisp, 0x91, i, State.scatterPlan i o)
  | .dslot i o => some (qDisp, 0x92, i, State.dslotTodo i o)
  | .tile i o => some (qInfl, 0xA0, i, State.tilePlan i o)
  | .adown i o => some (qAdapt, 0xB0, i, State.adownPlan i o)
  | .aup i o => some (qAdapt, 0xB1, i, State.aupPlan i o)
  | .kappend i o => some (qKv, 0xC0, i, State.kappendPlan i o)
  | .kcommit i o => some (qKv, 0xC1, i, State.kcommitPlan i o)
  | .kdiscard i o => some (qKv, 0xC2, i, State.kdiscardPlan i o)
  | .khash i o => some (qKv, 0xC3, i, State.khashPlan i o)
  | .kfind i o => some (qKv, 0xC4, i, State.kfindPlan i o)
  | .kref i o => some (qKv, 0xC5, i, State.krefPlan i o)
  | .tcopy i o => some (qXfer, 0xD0, i, State.tcopyPlan i o)
  | .tsend i o => some (qXfer, 0xD1, i, State.tsendPlan i o)
  | .tget i o => some (qXfer, 0xD2, i, State.tgetPlan i o)
  | .twin i o => some (qXfer, 0xD3, i, State.twinPlan i o)
  | .tdrain i o => some (qXfer, 0xD4, i, State.tdrainPlan i o)
  | .mstream i o => some (qMule, 0xE0, i, State.mstreamPlan i o)
  | .mreduce i o => some (qMule, 0xE1, i, State.mreducePlan i o)
  | .msend i o => some (qMule, 0xE2, i, State.msendPlan i o)
  | .batom i o => some (qBank, 0xF0, i, State.batomPlan i o)
  | .bcount i o => some (qBank, 0xF1, i, State.bcountPlan i o)
  | .bcmp i o => some (qBank, 0xF2, i, State.bcmpPlan i o)
  | _ => none

/-- An event stands in the queue, unless the queue was full (R491). -/
def logged (s t : State) (code : Nat) (src : BitVec 16) (p0 p1 p2 p3 : Nat) : Prop :=
  s.evlog.queue.length < 1024 →
    ({ code := BitVec.ofNat 16 code, source := src, p0 := BitVec.ofNat 32 p0, p1 := BitVec.ofNat 32 p1,
       p2 := BitVec.ofNat 32 p2, p3 := BitVec.ofNat 32 p3 } : Ev) ∈ t.evlog.queue

/-- An event stands in the queue, unless that had little room: what the issue itself logs comes before it. -/
def loggedAfter (s t : State) (code : Nat) (src : BitVec 16) (p0 p1 p2 p3 : Nat) : Prop :=
  s.evlog.queue.length < 960 →
    ({ code := BitVec.ofNat 16 code, source := src, p0 := BitVec.ofNat 32 p0, p1 := BitVec.ofNat 32 p1,
       p2 := BitVec.ofNat 32 p2, p3 := BitVec.ofNat 32 p3 } : Ev) ∈ t.evlog.queue

/-- A step is in progress in a partition that is RUNNING or STOPPING (R363). -/
def running (s : State) (p : PartId) : Prop :=
  (s.part p).stepping = true ∧ ((s.part p).state = 3 ∨ (s.part p).state = 4)

/-- The step of a partition has stopped with a CAUSE, and its requests, ACTIVE or CANCELLING, are DONE with a
status (R209, R363, R409). -/
def stopped (s t : State) (p : PartId) (st cause : Nat) : Prop :=
  (t.part p).state = 1 ∧ (t.part p).cause = BitVec.ofNat 4 cause ∧ (t.part p).stepping = false ∧
  (∀ (n : Nat) (r : Request), (n, r) ∈ (s.part p).slots → r.state = .active ∨ r.state = .cancelling →
    ∃ r', alGet (t.part p).slots n = some r' ∧ r'.state = .done ∧ r'.status = st)

/-- No register, mask, scalar, accumulator or word of any core has changed. -/
def nothingComputed (s t : State) : Prop :=
  s.sameWords t ∧ ∀ x : CoreId, (t.core x).array.acc = (s.core x).array.acc ∧
    (t.core x).array.active = (s.core x).array.active ∧ (t.core x).array.shadow = (s.core x).array.shadow ∧
    (t.core x).vec.v = (s.core x).vec.v ∧ (t.core x).vec.p = (s.core x).vec.p ∧ (t.core x).vec.r = (s.core x).vec.r ∧
    (t.core x).counters = (s.core x).counters ∧ (t.core x).flags = (s.core x).flags

end Sys2Proof.Machine.Claims

open Sys2Proof.Machine.Claims

/-- R262's comparison: a wait with target T on a counter holds while (COUNT − (BASE + T)) mod 4,096 is 2,048 or more.
An instruction issues only when both enabled waits are satisfied: otherwise it stays at the head of its queue and
nothing else happens; and in a queue that may not issue (no step in progress, or the queue stopped) nothing
happens at all. -/
def Obligations.WaitsHoldTheirQueueUntilMet : Prop :=
  (∀ (k : Counter) (t : BitVec 12),
     k.met t = true ↔ ((k.count.toNat : Int) - (k.base.toNat + t.toNat)) % 4096 < 2048) ∧
  (∀ (c : Instr) (q : QueueId) (op : BitVec 8) (i : Issue) (plan : State → Todo) (s : State),
     planOf c = some (q, op, i, plan) →
     (s.canPresent i.core q = false → exec c s = .next s) ∧
     (s.canPresent i.core q = true → (s.core i.core).waits i.hdr = false →
       ∃ t, exec c s = .next t ∧ s.sameOutside t ∧ t.evlog = s.evlog ∧
         (∀ x : CoreId, (t.core x).settled = (s.core x).settled) ∧
         (t.core i.core).inflight = (s.core i.core).inflight ∧ (t.core i.core).slip = (s.core i.core).slip ∧
         ((t.core i.core).queue q).waiting = some i ∧ ((t.core i.core).queue q).waitOp = op ∧
         ((t.core i.core).queue q).qpos = i.qpos ∧
         (q ≠ qArray → ((t.core i.core).queue q).state = 2)))

/-- A rejection at issue with BOUNDS: the queue stops (STATE 5, of the array 7 with BOUNDS_STOP), the record and
EV_BOUNDS say why, the partition stops its step with CAUSE 3 and its requests complete with BOUNDS; no register,
mask, scalar, accumulator or word changes. What the rejection depends on is read first (R134), so that the
words it comes from are ready and correctable. -/
def Obligations.BoundsRejectionStopsTheStep : Prop :=
  ∀ (c : Instr) (q : QueueId) (op : BitVec 8) (i : Issue) (plan : State → Todo) (s : State) (r : Nat),
    planOf c = some (q, op, i, plan) → s.Ready q i → running s (partOf i.core) →
    s.groupsOn (plan s).first → s.readable (plan s).first → (plan s).last = .reject r →
    ∃ t, exec c s = .next t ∧ nothingComputed s t ∧ stopped s t (partOf i.core) stBOUNDS 3 ∧
      loggedAfter s t 0x0007 (srcCore i.core) q.val i.qpos.toNat r 0 ∧
      (q = qArray → (t.core i.core).array.state = 7 ∧ (t.core i.core).array.boundsStop = true) ∧
      (q ≠ qArray → ((t.core i.core).queue q).state = 5 ∧ ((t.core i.core).queue q).rejValid = true ∧
        ((t.core i.core).queue q).rejReason = BitVec.ofNat 3 r ∧ ((t.core i.core).queue q).rejQpos = i.qpos)

/-- A read that finds an uncorrectable word, whether it decides what follows or is the instruction's operand: the
engine stops before it consumes the word (STATE 4, of the array 7), the owner's CORE_ECC_UNCORR keeps the first
such word and EV_ECC_UNCORR is logged, the partition stops its step with CAUSE 2 and its requests complete with
FAULT; the word reaches no register, accumulator or word. -/
def Obligations.UncorrectableWordIsContained : Prop :=
  ∀ (c : Instr) (q : QueueId) (op : BitVec 8) (i : Issue) (plan : State → Todo) (s : State) (x : CoreId × Nat),
    planOf c = some (q, op, i, plan) → s.Ready q i → running s (partOf i.core) → s.groupsOn (plan s).first →
    (s.firstBad (plan s).first = some x ∨
      (s.readable (plan s).first ∧ ∃ reads writes due eff, (plan s).last = .run reads writes due eff ∧
        s.groupsOn (reads ++ writes) ∧ s.firstBad (reads ++ (plan s).soft) = some x)) →
    partOf x.1 = partOf i.core →
    ∃ t, exec c s = .next t ∧ nothingComputed s t ∧ stopped s t (partOf i.core) stFAULT 2 ∧
      loggedAfter s t 0x0002 (srcCore x.1) x.2 (if x.1 = i.core then q.val else 10) i.core.val 0 ∧
      (t.core x.1).memory.unValid = true ∧
      ((s.core x.1).memory.unValid = false → (t.core x.1).memory.unAddr = BitVec.ofNat 20 x.2 ∧
        (t.core x.1).memory.unScrub = false) ∧
      (q = qArray → (t.core i.core).array.state = 7 ∧ (t.core i.core).array.boundsStop = false) ∧
      (q ≠ qArray → ((t.core i.core).queue q).state = 4)

/-- An instruction that touches a bank group that is not ON does not issue: the first access starts the group's
wake and is held, and the instruction waits at the head of its queue. -/
def Obligations.SleepingGroupHoldsTheInstruction : Prop :=
  ∀ (c : Instr) (q : QueueId) (op : BitVec 8) (i : Issue) (plan : State → Todo) (s : State) (x : CoreId × Nat),
    planOf c = some (q, op, i, plan) → s.Ready q i → s.readable (plan s).first →
    (s.asleep (plan s).first = some x ∨
      (s.groupsOn (plan s).first ∧ ∃ reads writes due eff, (plan s).last = .run reads writes due eff ∧
        s.asleep (reads ++ writes) = some x)) →
    ∃ t, exec c s = .next t ∧ nothingComputed s t ∧ s.sameOutside t ∧
      (t.core x.1).memory.bgState[(s.core x.1).memory.group x.2] = 3 ∧
      Held.instr i.core q ((s.core x.1).memory.group x.2).val ∈ (t.core x.1).memory.held ∧
      ((t.core i.core).queue q).waiting = some i ∧ (q ≠ qArray → ((t.core i.core).queue q).state = 3)

/-! ### The vector engine -/

namespace Sys2Proof.Machine.Claims

/-- An instruction has issued and had its effect: its core is `k`, and every other core and everything beside
the cores and the event log is as it was, but for what the issue of any instruction may change. -/
def coreBecomes (s t : State) (c : CoreId) (k : Core) : Prop :=
  s.sameOutside t ∧ s.otherCores t c ∧ (t.core c).settled = k.settled

/-- The element-wise instructions: the presentation, the fields, and the result and flags of element `e` from its
three operands. -/
def laneRule : Instr → Option (Issue × VOp × (Nat → Nat → Nat → Nat → Nat × FmtFlags))
  | .vadd i o => some (i, o, vAddSub false o)
  | .vsub i o => some (i, o, vAddSub true o)
  | .vmul i o => some (i, o, vMul o)
  | .vfma i o => some (i, o, vFma o)
  | .vmax i o => some (i, o, vMaxMin true o)
  | .vmin i o => some (i, o, vMaxMin false o)
  | .vand i o => some (i, o, fun _ a b _ => (a &&& b, 0))
  | .vor i o => some (i, o, fun _ a b _ => (a ||| b, 0))
  | .vxor i o => some (i, o, fun _ a b _ => (a ^^^ b, 0))
  | .vshl i o => some (i, o, vShift 0 o)
  | .vshr i o => some (i, o, vShift 1 o)
  | .vsra i o => some (i, o, vShift 2 o)
  | .vsfu i o => some (i, o, vSfu o)
  | _ => none

/-- The types and functions an element-wise instruction takes: shifts are integer (R115), special functions are
float with FN 0 to 8 (R121), and RND is 0 to 5 (R45). -/
def laneTakes (c : Instr) (o : VOp) (t : Fmt) : Prop :=
  o.rnd.toNat < 6 ∧ regType o.et = some t ∧
  match c with
  | .vshl _ _ | .vshr _ _ | .vsra _ _ => t.isInt = true
  | .vsfu _ _ => t.isInt = false ∧ o.fn.toNat < 9
  | _ => True

/-- Signed integer operands and result of an element of an INT8 or INT32 operation as R115's table has them: the
exact result, and whether the operation clamps (or wraps, which SAT = 1 does not change for the last ones). -/
def intExact (c : Instr) (w a b d : Nat) : Option Int :=
  match c with
  | .vadd _ _ => some (signedVal w a + signedVal w b)
  | .vsub _ _ => some (signedVal w a - signedVal w b)
  | .vmul _ _ => some (signedVal w a * signedVal w b)
  | .vfma _ _ => some (signedVal w a * signedVal w b + signedVal w d)
  | .vshl _ _ => some (signedVal w a * 2 ^ (b % 256))
  | _ => none

/-- The signed comparison, the logical and the arithmetic right shift of R115. -/
def intPlain (c : Instr) (w a b : Nat) : Option Int :=
  match c with
  | .vmax _ _ => some (max (signedVal w a) (signedVal w b))
  | .vmin _ _ => some (min (signedVal w a) (signedVal w b))
  | .vshr _ _ => some ((a : Int) / 2 ^ (b % 256))
  | .vsra _ _ => some (signedVal w a / 2 ^ (b % 256))
  | _ => none

/-- The limits of a signed type of `w` bits. -/
def clamped (w : Nat) (x : Int) : Int := max (-(2 ^ (w - 1))) (min (2 ^ (w - 1) - 1) x)

end Sys2Proof.Machine.Claims

/-- An element-wise instruction whose waits are met issues and completes: an active element of VD is the result of
the instruction's rule on the elements of VA, B (VB, or S[SB] under BS) and VC, an inactive one keeps its value or
becomes zero under MZ, the flags of active elements are set, and nothing else changes (R99 to R101, R106, R113 to
R115, R121). -/
def Obligations.ElementwiseInstructionsWriteTheirLanes : Prop :=
  ∀ (c : Instr) (i : Issue) (o : VOp) (f : Nat → Nat → Nat → Nat → Nat × FmtFlags) (ty : Fmt) (s : State),
    laneRule c = some (i, o, f) → s.Ready qVec i → laneTakes c o ty →
    ∃ t, exec c s = .next t ∧
      let k := s.core i.core
      let u := k.vec
      let r := fun e => f e (elemOf (u.vreg o.va) ty.bits e)
        (if o.bs then (u.scalar o.sb).toNat % 2 ^ ty.bits else elemOf (u.vreg o.vb) ty.bits e)
        (elemOf (u.vreg o.vc) ty.bits e)
      coreBecomes s t i.core { k with
        vec := u.setV o.vd ((t.core i.core).vec.vreg o.vd),
        flags := k.flags ||| activeFlags ty.lanes (u.mask o.pm) (fun e => (r e).2) } ∧
      ∀ e < ty.lanes, elemOf ((t.core i.core).vec.vreg o.vd) ty.bits e =
        if (u.mask o.pm).getLsbD e then (r e).1 % 2 ^ ty.bits
        else if o.mz then 0 else elemOf (u.vreg o.vd) ty.bits e

/-- R115's table on INT8 and INT32: VADD, VSUB, VMUL, VFMA and VSHL wrap under SAT = 0 and clamp under SAT = 1, with
OVERFLOW exactly where they clamp; VMAX and VMIN compare signed, VSHR is logical and VSRA arithmetic, with no flag;
shifts of a float type are rejected with BOUNDS, and VAND, VOR and VXOR work on the bits of any type. -/
def Obligations.IntegerLanesFollowTheirTable : Prop :=
  (∀ (c : Instr) (i : Issue) (o : VOp) (f : Nat → Nat → Nat → Nat → Nat × FmtFlags) (ty : Fmt) (e a b d : Nat),
    laneRule c = some (i, o, f) → laneTakes c o ty → ty.isInt = true →
    a < 2 ^ ty.bits → b < 2 ^ ty.bits → d < 2 ^ ty.bits →
    (∀ x, intExact c ty.bits a b d = some x →
      (o.sat = false → ((f e a b d).1 : Int) = x % 2 ^ ty.bits ∧ (f e a b d).2 = 0) ∧
      (o.sat = true → ((f e a b d).1 : Int) = clamped ty.bits x % 2 ^ ty.bits ∧
        (f e a b d).2 = if clamped ty.bits x = x then 0 else flOverflow)) ∧
    (∀ x, intPlain c ty.bits a b = some x → ((f e a b d).1 : Int) = x % 2 ^ ty.bits ∧ (f e a b d).2 = 0)) ∧
  (∀ (i : Issue) (o : VOp) (ty : Fmt) (s : State), s.Ready qVec i → regType o.et = some ty → o.rnd.toNat < 6 →
    ty.isInt = false → ∀ c ∈ [Instr.vshl i o, .vshr i o, .vsra i o],
    exec c s = .next ((s.begun qVec i).rejectAt qVec i 2)) ∧
  (∀ (i : Issue) (o : VOp) (ty : Fmt) (s : State), s.Ready qVec i → regType o.et = some ty → o.rnd.toNat < 6 →
    ∀ c ∈ [Instr.vand i o, .vor i o, .vxor i o], ∃ t, exec c s = .next t ∧
      ∀ b < 2048, ((s.core i.core).vec.mask o.pm).getLsbD (b / ty.bits) = true → o.bs = false →
        ((t.core i.core).vec.vreg o.vd).getLsbD b =
          (let x := ((s.core i.core).vec.vreg o.va).getLsbD b
           let y := ((s.core i.core).vec.vreg o.vb).getLsbD b
           match c with
           | .vand _ _ => x && y
           | .vor _ _ => x || y
           | _ => x ^^ y))

/-- The special operands of R113 and R114 on every float register type: a NaN operand gives the canonical NaN and
no flag (except 0 × ∞ + NaN), ∞ − ∞ and 0 × ∞ give NaN with INVALID, and VMAX and VMIN return one operand
unchanged, the larger or the smaller one, order −0 below +0, and give NaN for NaN. -/
def Obligations.FloatSpecialsFollowTheirTable : Prop :=
  ∀ (o : VOp) (ty : Fmt) (e a b d : Nat), regType o.et = some ty → ty.isInt = false →
    let nan := (ty.elem.encode 0 false 0 .nan).1
    let x := ty.elem.decode a
    let y := ty.elem.decode b
    let z := ty.elem.decode d
    ((x.isNaN ∨ y.isNaN) →
      vAddSub false o e a b d = (nan, 0) ∧ vAddSub true o e a b d = (nan, 0) ∧ vMul o e a b d = (nan, 0) ∧
      vFma o e a b d = (nan, 0) ∧ vMaxMin true o e a b d = (nan, 0) ∧ vMaxMin false o e a b d = (nan, 0)) ∧
    (∀ g : Bool, x = .inf g → y = .inf (!g) → vAddSub false o e a b d = (nan, flInvalid)) ∧
    (∀ g : Bool, x = .inf g → y = .inf g → vAddSub true o e a b d = (nan, flInvalid)) ∧
    (∀ g g' : Bool, ∀ k : Int, x = .inf g → y = .fin g' 0 k →
      vMul o e a b d = (nan, flInvalid) ∧ vMul o e b a d = (nan, flInvalid) ∧
      vFma o e a b d = (nan, flInvalid)) ∧
    (x.isNaN = false → y.isNaN = false → z.isNaN = true → (x.mul y).1.isNaN = false → vFma o e a b d = (nan, 0)) ∧
    (x.isNaN = false → y.isNaN = false →
      (vMaxMin true o e a b d = (a, 0) ∨ vMaxMin true o e a b d = (b, 0)) ∧
      (vMaxMin false o e a b d = (a, 0) ∨ vMaxMin false o e a b d = (b, 0)) ∧
      (Sys2Proof.Machine.Num.cmp false x y < 0 ∨ (∃ k k' : Int, x = .fin true 0 k ∧ y = .fin false 0 k') →
        vMaxMin true o e a b d = (b, 0) ∧ vMaxMin false o e a b d = (a, 0)) ∧
      (0 < Sys2Proof.Machine.Num.cmp false x y ∨ (∃ k k' : Int, x = .fin false 0 k ∧ y = .fin true 0 k') →
        vMaxMin true o e a b d = (a, 0) ∧ vMaxMin false o e a b d = (b, 0)))

namespace Sys2Proof.Machine.Claims

/-- A register operation that writes VD alone: element `e` of it is `r e`, the flags `fl` are set, and nothing
else changes. -/
def vdBecomes (s t : State) (i : Issue) (o : VOp) (ty : Fmt) (fl : FmtFlags) (r : Nat → Nat) : Prop :=
  coreBecomes s t i.core { s.core i.core with
    vec := (s.core i.core).vec.setV o.vd ((t.core i.core).vec.vreg o.vd),
    flags := (s.core i.core).flags ||| fl } ∧
  ∀ e < ty.lanes, elemOf ((t.core i.core).vec.vreg o.vd) ty.bits e = r e

/-- What every register operation takes: RND 0 to 5 (R45) and a register type (R99). -/
def vopTakes (o : VOp) (ty : Fmt) : Prop := o.rnd.toNat < 6 ∧ regType o.et = some ty

/-- The fixed pairwise tree over element index: level `n + 1` combines results 2e and 2e + 1 of level `n`; a node
with one operand missing passes the other on, and a node with both missing is missing (R123, R124). -/
def pairTree {α : Type} (f : α → α → α) (leaf : Nat → Option α) : Nat → Nat → Option α
  | 0, e => leaf e
  | n + 1, e =>
    match pairTree f leaf n (2 * e), pairTree f leaf n (2 * e + 1) with
    | some x, some y => some (f x y)
    | some x, none => some x
    | none, y => y

/-- Where VCVT takes source element and puts destination element, by R120's table: the PARTs, the count, the first
source and the first destination element. -/
def cvtPlaces (src dst part : Nat) : Nat × Nat × Nat × Nat :=
  if src = dst then (1, 2048 / src, 0, 0)
  else if dst < src then (src / dst, 2048 / src, 0, part * (2048 / src))
  else (dst / src, 2048 / dst, part * (2048 / dst), 0)

end Sys2Proof.Machine.Claims

/-- VSPLAT, VSEL, VEXPD and VCOMP move bits unchanged (R116, R125), and VCVT converts each element once, or copies
it where the types are equal (R120): the elements they place, the count that VCOMP writes to S[SD], and nothing
else. -/
def Obligations.VectorMovesPlaceTheirElements : Prop :=
  ∀ (i : Issue) (o : VOp) (ty : Fmt) (s : State), s.Ready qVec i → vopTakes o ty →
    let u := (s.core i.core).vec
    let m := u.mask o.pm
    let n := (activeList ty.lanes m).length
    let inactive := fun e => if o.mz then 0 else elemOf (u.vreg o.vd) ty.bits e
    (∃ t, exec (.vsplat i o) s = .next t ∧ vdBecomes s t i o ty 0 (fun e =>
      if m.getLsbD e then (if o.bs then u.scalar o.sb else o.imm).toNat % 2 ^ ty.bits else inactive e)) ∧
    (∃ t, exec (.vsel i o) s = .next t ∧ vdBecomes s t i o ty 0 (fun e =>
      if m.getLsbD e then elemOf (u.vreg o.va) ty.bits e
      else if o.bs then (u.scalar o.sb).toNat % 2 ^ ty.bits else elemOf (u.vreg o.vb) ty.bits e)) ∧
    (∃ t, exec (.vexpd i o) s = .next t ∧ vdBecomes s t i o ty 0 (fun e =>
      if m.getLsbD e then elemOf (u.vreg o.va) ty.bits ((activeList e m).length) else inactive e)) ∧
    (∃ t, exec (.vcomp i o) s = .next t ∧
      coreBecomes s t i.core { s.core i.core with
        vec := (u.setV o.vd ((t.core i.core).vec.vreg o.vd)).setS o.sd (BitVec.ofNat 32 n) } ∧
      ∀ e < ty.lanes, elemOf ((t.core i.core).vec.vreg o.vd) ty.bits e =
        match (activeList ty.lanes m)[e]? with
        | some k => elemOf (u.vreg o.va) ty.bits k
        | none => inactive e) ∧
    (∀ src : Fmt, regType o.srct = some src →
      let p := cvtPlaces src.bits ty.bits o.part.toNat
      o.part.toNat < p.1 →
      ∃ t fl, exec (.vcvt i o) s = .next t ∧ vdBecomes s t i o ty fl (fun e =>
        if e < p.2.2.2 ∨ p.2.2.2 + p.2.1 ≤ e then elemOf (u.vreg o.vd) ty.bits e
        else if m.getLsbD e then
          (if src = ty then elemOf (u.vreg o.va) ty.bits (p.2.2.1 + (e - p.2.2.2))
           else (ty.elem.encode o.rnd.toNat o.sat (laneRand o.imm ty.bits e)
             (src.elem.decode (elemOf (u.vreg o.va) src.bits (p.2.2.1 + (e - p.2.2.2))))).1 % 2 ^ ty.bits)
        else inactive e))

/-- VCMP writes bit e of P[PD] from the comparison of element e, 0 where inactive and above N (R100, R117); MOP
writes all 256 bits (R118); neither takes another FN, and none a type that is no register type (R99); SOP writes S[SD] (R119); VRED writes the value of the fixed
pairwise tree over the active elements to element 0 of VD as FP32 or INT32 and zeros above it (R123, R124). Nothing else
changes. -/
def Obligations.MasksScalarsAndReductionsAreWritten : Prop :=
  ∀ (i : Issue) (o : VOp) (s : State), s.Ready qVec i → o.rnd.toNat < 6 →
    let k := s.core i.core
    let u := k.vec
    let m := u.mask o.pm
    (∀ ty : Fmt, regType o.et = some ty → o.fn.toNat < 8 → o.pd ≠ 0 →
      ∃ t, exec (.vcmp i o) s = .next t ∧
        coreBecomes s t i.core { k with vec := u.setP o.pd ((t.core i.core).vec.mask o.pd) } ∧
        ∀ e < 256, ((t.core i.core).vec.mask o.pd).getLsbD e =
          (decide (e < ty.lanes) && m.getLsbD e &&
            (let a := elemOf (u.vreg o.va) ty.bits e
             let b := if o.bs then (u.scalar o.sb).toNat % 2 ^ ty.bits else elemOf (u.vreg o.vb) ty.bits e
             if ty.isInt then condOf o.fn.toNat (signedVal ty.bits a - signedVal ty.bits b)
             else if (ty.elem.decode a).isNaN || (ty.elem.decode b).isNaN then o.fn == 1 || o.fn == 7
             else condOf o.fn.toNat (Sys2Proof.Machine.Num.cmp false (ty.elem.decode a) (ty.elem.decode b))))) ∧
    (regType o.et = none → ∀ c ∈ [Instr.vcmp i o, .mop i o, .sop i o, .vred i o],
      exec c s = .next ((s.begun qVec i).rejectAt qVec i 2)) ∧
    (∀ ty : Fmt, regType o.et = some ty → 8 ≤ o.fn.toNat → exec (.vcmp i o) s = .next ((s.begun qVec i).rejectAt qVec i 2)) ∧
    (7 ≤ o.fn.toNat → exec (.mop i o) s = .next ((s.begun qVec i).rejectAt qVec i 2)) ∧
    (o.fn.toNat < 7 → o.pd ≠ 0 → regType o.et ≠ none →
      let a := u.mask (o.va.setWidth 3)
      let b := u.mask (o.vb.setWidth 3)
      let r := [a &&& b, a ||| b, a ^^^ b, a &&& ~~~b, ~~~a, BitVec.allOnes 256, 0].getD o.fn.toNat 0
      ∃ t, exec (.mop i o) s = .next t ∧ coreBecomes s t i.core { k with vec := u.setP o.pd r }) ∧
    (o.sd ≠ 0 → regType o.et ≠ none →
      (o.fn = 0 → ∃ t, exec (.sop i o) s = .next t ∧ coreBecomes s t i.core { k with vec := u.setS o.sd o.imm }) ∧
      (o.fn = 1 → ∃ t, exec (.sop i o) s = .next t ∧
        coreBecomes s t i.core { k with vec := u.setS o.sd (u.scalar o.sb + o.imm) }) ∧
      (∀ ty : Fmt, regType o.et = some ty →
        (o.fn = 2 → o.imm.toNat < ty.lanes → ∃ t, exec (.sop i o) s = .next t ∧ coreBecomes s t i.core { k with
          vec := u.setS o.sd (BitVec.ofNat 32 (elemOf (u.vreg o.va) ty.bits o.imm.toNat)) }) ∧
        (o.fn = 3 → ∃ t, exec (.sop i o) s = .next t ∧ coreBecomes s t i.core { k with
          vec := u.setS o.sd (BitVec.ofNat 32 (activeList ty.lanes m).length) }))) ∧
    (∀ ty : Fmt, regType o.et = some ty → o.fn.toNat < 3 →
      ∃ t, exec (.vred i o) s = .next t ∧
        let leaf := fun e => if m.getLsbD e then
          some ((if ty.isInt then BitVec.ofInt 32 (signedVal ty.bits (elemOf (u.vreg o.va) ty.bits e))
                 else widen ty (elemOf (u.vreg o.va) ty.bits e)), (0 : FmtFlags)) else none
        let node := if ty.isInt then redIntNode o.fn.toNat o.sat else redFloat o.fn.toNat
        let none' : BitVec 32 := if o.fn = 0 then 0
          else if ty.isInt then (if o.fn = 1 then 0x80000000 else 0x7FFFFFFF)
          else if o.fn = 1 then 0xFF800000 else 0x7F800000
        let r := (pairTree node leaf (Nat.log2 ty.lanes) 0).getD (none', 0)
        coreBecomes s t i.core { k with vec := u.setV o.vd (r.1.setWidth 2048), flags := k.flags ||| r.2 })

/-- P0 always reads as all ones and S0 as 0, whatever is written; VCMP, MOP and MLD under P0 and SOP under S0 as
the destination are rejected with BOUNDS; VCOMP with SD = 0 is accepted and its count discarded (R98, R100, R125). -/
def Obligations.HardwiredRegistersKeepTheirValues : Prop :=
  (∀ (u : VectorUnit) (n : BitVec 3) (x : BitVec 256), u.mask 0 = BitVec.allOnes 256 ∧ (u.setP n x).mask 0 = BitVec.allOnes 256 ∧
    (∀ m : BitVec 3, m ≠ 0 → (u.setP n x).mask m = if m = n then x else u.mask m)) ∧
  (∀ (u : VectorUnit) (n : BitVec 4) (x : BitVec 32), u.scalar 0 = 0 ∧ (u.setS n x).scalar 0 = 0 ∧
    (∀ m : BitVec 4, m ≠ 0 → (u.setS n x).scalar m = if m = n then x else u.scalar m)) ∧
  (∀ (i : Issue) (o : VOp) (ty : Fmt) (s : State), s.Ready qVec i → vopTakes o ty →
    (o.pd = 0 → o.fn.toNat < 7 → exec (.vcmp i o) s = .next ((s.begun qVec i).rejectAt qVec i 5) ∧
      exec (.mop i o) s = .next ((s.begun qVec i).rejectAt qVec i 5)) ∧
    (o.sd = 0 → o.fn.toNat < 4 → (o.fn = 2 → o.imm.toNat < ty.lanes) →
      exec (.sop i o) s = .next ((s.begun qVec i).rejectAt qVec i 5)) ∧
    (o.sd = 0 → ∃ t, exec (.vcomp i o) s = .next t ∧ (t.core i.core).vec.r = (s.core i.core).vec.r)) ∧
  (∀ (i : Issue) (o : VMemOp) (s : State), s.Ready qVec i → o.msel = 0 → o.rnd.toNat < 6 →
    regType o.et ≠ none → Fmt.ofCode o.mfmt ≠ none →
    o.addr.toNat + (s.core i.core).vec.eoff o < 2 ^ 20 → o.vr.setWidth 3 = (0 : BitVec 3) →
    exec (.mld i o) s = .next ((s.begun qVec i).rejectAt qVec i 5))

namespace Sys2Proof.Machine.Claims

/-- What a vector load or store of elements takes (R45, R66, R99, R107, R110, R111): no reserved field, the selector
names a core of the partition, a block's offset is a multiple of 32 and INT4's of 2, and the `n` elements and their
scales lie within the memory. -/
def vmemTakes (s : State) (i : Issue) (o : VMemOp) (m : CoreId) (ty f : Fmt) (n : Nat) (scales : Bool) : Prop :=
  let e := (s.core i.core).vec.eoff o
  (o.msel = 0 ∨ 4 ≤ o.msel.toNat) ∧ o.rnd.toNat < 6 ∧ regType o.et = some ty ∧ Fmt.ofCode o.mfmt = some f ∧
  s.sel i.core o.msel = some m ∧ (f.isBlock = true → e % 32 = 0) ∧ (f = .int4 → e % 2 = 0) ∧
  (n ≠ 0 → elemEnd f o.addr.toNat e n ≤ 2 ^ 20) ∧
  (scales = true → n ≠ 0 → o.saddr.toNat + (e + n - 1) / 32 / 32 + 1 ≤ 2 ^ 20)

/-- An instruction of a core has stored a list of writes and nothing else in any memory; its core is otherwise `k`,
and every other core and everything beside the cores and the event log is as it was, but for what the issue of any
instruction may change. -/
def storesAnd (s t : State) (c : CoreId) (k : Core) (ws : List Wr) : Prop :=
  s.sameOutside t ∧ s.stored t ws ∧ (t.core c).besideWords = k.besideWords ∧
  ∀ x : CoreId, x ≠ c → (t.core x).besideWords = (s.core x).besideWords

/-- Every bank group of every core is ON, and no word of any core is uncorrectable (R207, R211). -/
def calm (s : State) : Prop :=
  ∀ c : CoreId, (∀ g : Fin 8, (s.core c).memory.bgState[g] = 0) ∧ ∀ a, (s.core c).memory.check a ≠ .bad

/-- Words that may be read and written: their groups are ON, and what is read of them is correctable. -/
def usable (s : State) (reads writes : List (CoreId × Nat)) : Prop :=
  s.groupsOn (reads ++ writes) ∧ s.readable reads

end Sys2Proof.Machine.Claims

/-- VLD writes each active element of VR from element EOFF + e of the region, its bits unchanged where MFMT is ET and
else converted once (R107, R108, R110); VXLD reads contiguous elements into the active positions and advances
S[SOFF] (R126); MLD loads a mask bit for bit (R112). The loads leave every word as it is. -/
def Obligations.VectorLoadsWriteTheirRegister : Prop :=
  ∀ (i : Issue) (o : VMemOp) (m : CoreId) (ty f : Fmt) (s : State), s.Ready qVec i →
    let k := s.core i.core
    let u := k.vec
    let a := o.addr.toNat
    let e0 := u.eoff o
    let act := u.mask o.pm
    let n := (activeList ty.lanes act).length
    let inactive := fun e => if o.mz then 0 else elemOf (u.vreg o.vr) ty.bits e
    let rd := s.peek m
    (vmemTakes s i o m ty f ty.lanes (loadScales o f) → (f.isBlock = true → o.scm.toNat < 2) →
      usable s ((elemWords f a e0 ty.lanes ++
        (if loadScales o f then scaleWords o.saddr.toNat e0 ty.lanes else [])).map (fun x => (m, x))) [] →
      ∃ t fl, exec (.vld i o) s = .next t ∧ (f = ty → fl = 0) ∧
        coreBecomes s t i.core { k with
          vec := u.setV o.vr ((t.core i.core).vec.vreg o.vr), flags := k.flags ||| fl,
          t2Bad := if f = .t2 then satAdd k.t2Bad (t2BadRange rd a (e0 / 32) (ty.lanes / 32)).1 else k.t2Bad } ∧
        ∀ e < ty.lanes, elemOf ((t.core i.core).vec.vreg o.vr) ty.bits e =
          if act.getLsbD e then
            (if f = ty then rdElem rd f a (e0 + e)
             else (ty.elem.encode o.rnd.toNat o.sat (laneRand o.seed ty.bits e)
               (rdNum rd f (o.scm == 1) a o.saddr.toNat (e0 + e))).1) % 2 ^ ty.bits
          else inactive e) ∧
    (vmemTakes s i o m ty ty n false → o.mfmt = o.et →
      usable s ((elemWords ty a e0 n).map (fun x => (m, x))) [] →
      ∃ t, exec (.vxld i o) s = .next t ∧
        (let u' := u.setV o.vr ((t.core i.core).vec.vreg o.vr)
         coreBecomes s t i.core { k with vec := if n = 0 then u' else u'.setS o.soff (BitVec.ofNat 32 (e0 + n)) }) ∧
        ∀ e < ty.lanes, elemOf ((t.core i.core).vec.vreg o.vr) ty.bits e =
          if act.getLsbD e then rdElem rd ty a (e0 + (activeList e act).length) % 2 ^ ty.bits else inactive e) ∧
    ((o.msel = 0 ∨ 4 ≤ o.msel.toNat) → o.rnd.toNat < 6 → regType o.et = some ty → Fmt.ofCode o.mfmt = some f → s.sel i.core o.msel = some m → a + e0 < 2 ^ 20 →
      o.vr.setWidth 3 ≠ (0 : BitVec 3) → usable s [(m, a + e0)] [] →
      ∃ t, exec (.mld i o) s = .next t ∧
        coreBecomes s t i.core { k with vec := u.setP (o.vr.setWidth 3) (rd (a + e0)) })

/-- VST stores the active elements, converted once where MFMT is not ET, and whole blocks with their scales under R50
(R109, R110); VCST stores the active elements contiguously and advances S[SOFF] (R126); MST stores a mask as one word
(R112). They store those words and bits and no others, and no register but S[SOFF] changes. They complete wherever
memory is calm, or at least the words that they touch are usable. -/
def Obligations.VectorStoresWriteTheirWords : Prop :=
  ∀ (i : Issue) (o : VMemOp) (m : CoreId) (ty f : Fmt) (s : State), s.Ready qVec i → s.memoriesWf →
    let k := s.core i.core
    let u := k.vec
    let a := o.addr.toNat
    let e0 := u.eoff o
    let n := (activeList ty.lanes (u.mask o.pm)).length
    (vmemTakes s i o m ty f ty.lanes (f.isBlock && (o.scm == 2 || (o.scm == 0 && f != .t2))) →
      (f.isBlock = true → o.scm.toNat < 3 ∧ o.pm = 0) →
      let ws := (s.vstWrites i.core m o ty f).1
      (calm s ∨ usable s (wrPartial ws ++ (vstScaleReads o f e0 ty.lanes).map (fun x => (m, x))) (wrWords ws)) →
      ∃ t fl, exec (.vst i o) s = .next t ∧ (f = ty → fl = 0) ∧
        storesAnd s t i.core { k with flags := k.flags ||| fl } ws) ∧
    (vmemTakes s i o m ty ty n false → o.mfmt = o.et →
      let ws := s.vcstWrites i.core m o ty
      (calm s ∨ usable s (wrPartial ws) (wrWords ws)) →
      ∃ t, exec (.vcst i o) s = .next t ∧
        storesAnd s t i.core
          { k with vec := if n = 0 then u else u.setS o.soff (BitVec.ofNat 32 (e0 + n)) } ws) ∧
    ((o.msel = 0 ∨ 4 ≤ o.msel.toNat) → o.rnd.toNat < 6 → regType o.et = some ty → Fmt.ofCode o.mfmt = some f → s.sel i.core o.msel = some m → a + e0 < 2 ^ 20 →
      (calm s ∨ usable s [] [(m, a + e0)]) →
      ∃ t, exec (.mst i o) s = .next t ∧
        storesAnd s t i.core k [{ core := m, addr := a + e0, data := u.mask (o.vr.setWidth 3) }])

/-! ### The matrix array -/

namespace Sys2Proof.Machine.Claims

/-- What a PASS takes, beside what forwarding asks for (R34, R63, R66 to R68): no reserved field, a pairing of
R63's table with `w` weights to a register, N:M modes only where the format has them, and ranges within the selected
memory. -/
def passTakes (s : State) (i : Issue) (o : PassOp) (src : CoreId) (wf af : Fmt) (w : Nat) (isInt : Bool) : Prop :=
  (o.asel = 0 ∨ 4 ≤ o.asel.toNat) ∧ o.accMode.toNat < 2 ∧ o.sparse ≠ 3 ∧ o.fwdFmt.toNat < 2 ∧
  Fmt.ofCode o.wfmt = some wf ∧ Fmt.ofCode o.afmt = some af ∧ pairing wf af = some (w, isInt) ∧
  (o.sparse ≠ 0 → wf.noSparse = false) ∧ s.sel i.core o.asel = some src ∧
  (let m := actElems ((s.core i.core).array.taken o).1 o.sparse
   pastMem o.aaddr.toNat (o.len.toNat * wordsFor m af.bits) = false ∧
   (af.isMX = true → pastMem o.ascale.toNat (wordsFor (o.len.toNat * (m / 32)) 8) = false)) ∧
  (o.swap = true → (s.core i.core).array.shadow ≠ none)

/-- The rows of a PASS that run (R69, R78, R143). -/
def rowsRun (s : State) (i : Issue) (o : PassOp) (src : CoreId) : Nat :=
  if ((s.core i.core).array.taken o).2 then 0 else (s.passLen i.core src o).1

/-- The array after a gap that a PASS or an EWISE of `n` rows has ended: what shows the ramp and counts dummy
operation (R86, R97) is that of `b`. With no row nothing of the ramp changes (R78). -/
def gapEnded (a b : ArrayUnit) (n : Nat) : ArrayUnit :=
  { a with
    ready := false, dummy := b.dummy,
    upFrom := if n = 0 then a.upFrom else b.upFrom, upAt := if n = 0 then a.upAt else b.upAt,
    upGap := if n = 0 then a.upGap else b.upGap,
    rampStep := if n = 0 ∨ a.ready = true then a.rampStep else 0,
    state := if n = 0 ∨ a.ready = true then a.state else 4 }

/-- Activation element `k` of row `r`, decoded exactly, as the feeders see it: a word they hold from a PASS of the
same key, or the bank's (R41, R68, R233, R234). -/
def actOf (s : State) (i : Issue) (o : PassOp) (src : CoreId) (af : Fmt) (r k : Nat) : Num :=
  let a := (s.core i.core).array
  let m := actElems (a.taken o).1 o.sparse
  let rd := s.feedWord src (if a.heldKey = some (heldKeyOf o) then a.held else [])
  if m ≤ k then .fin false 0 0 else
  let x := rdElem rd af (o.aaddr.toNat + r * wordsFor m af.bits) k
  if af.isMX then decodeScaled af.elem x (rdBits rd o.ascale.toNat (8 * (r * (m / 32) + k / 32)) 8)
  else af.elem.decode x

end Sys2Proof.Machine.Claims

/-- PASS without forwarding takes the shadow tile under SWAP and runs its rows: value c of row r becomes the sum, by
row groups in ascending order with one rounding each, on the accumulator's value or on zero; every other
accumulator value, word and register is as it was (R54, R62, R67 to R69, R74, R76 to R78). Weights that are zero
add nothing: with finite activations, a column of a tile without a listed cell keeps its starting value, so a
PASS that runs before any tile was taken writes +0 in overwrite mode and leaves the accumulators in accumulate
mode (R54, R62). What a PASS makes of a tile of another format or sparse mode is left open (Assumption 11). A
group that sleeps under an activation word does not hold the PASS at issue: it begins to wake (R84). -/
def Obligations.PassAccumulatesItsRows : Prop :=
  (∀ (i : Issue) (o : PassOp) (h : PassHolds) (src : CoreId) (wf af : Fmt) (w : Nat) (isInt : Bool) (s : State),
     s.Ready qArray i → accsWf s → passTakes s i o src wf af w isInt → o.fwd = false →
     (o.len ≠ 0 → o.accBase.toNat + o.len.toNat * w ≤ 4096) →
     let k := s.core i.core
     let a := k.array
     let tile := (a.taken o).1
     let n := rowsRun s i o src
     usable s (s.passReads i.core o ++ s.passFeeds i.core o) [] →
     ∃ t fl, exec (.pass i o h) s = .next t ∧
       (let a' := (t.core i.core).array
        coreBecomes s t i.core { k with flags := k.flags ||| fl, array := { gapEnded a a' n with
          active := tile, shadow := if o.swap then none else a.shadow, acc := a'.acc, count := none,
          passAt := s.time, passHolds := h,
          rowCount := satAdd a.rowCount n, heldKey := some (heldKeyOf o), held := a'.held, reuse := a'.reuse,
          frozen := a'.frozen, feedStall := a'.feedStall, drainStall := a'.drainStall } } ∧
        (h = {} → a'.frozen = a.frozen ∧ a'.feedStall = a.feedStall ∧ a'.drainStall = a.drainStall) ∧
        (n = 0 → h = {} → a'.dummy = a.dummy) ∧
        ((tile.fmt = o.wfmt ∧ tile.sparse = o.sparse ∨ tile.cells = []) → ∀ r < n, ∀ c < 128 * w,
          a'.accAt (o.accBase.toNat + r * w + c / 128) (c % 128) =
            ((if isInt then columnI else columnF) (actOf s i o src af r) tile wf (c / w) (c % w)
              (if o.accMode = 1 then a.accAt (o.accBase.toNat + r * w + c / 128) (c % 128) else 0)).1) ∧
        (∀ x, (x < 128 * o.accBase.toNat ∨ 128 * (o.accBase.toNat + n * w) ≤ x) → smGet a'.acc x = smGet a.acc x))) ∧
  (∀ (i : Issue) (o : PassOp) (h : PassHolds) (src : CoreId) (wf af : Fmt) (w : Nat) (isInt : Bool) (s : State),
     s.Ready qArray i → passTakes s i o src wf af w isInt → o.fwd = false →
     (o.len ≠ 0 → o.accBase.toNat + o.len.toNat * w ≤ 4096) →
     usable s (s.passReads i.core o) [] → s.readable (s.passFeeds i.core o) →
     ∃ t, exec (.pass i o h) s = .next t ∧
       (∃ f ∈ (t.core i.core).inflight, f.q = qArray ∧ f.op = 0x20 ∧ f.qpos = i.qpos ∧ f.due = .pass) ∧
       ∀ x ∈ s.passFeeds i.core o,
         (t.core x.1).memory.bgState[(s.core x.1).memory.group x.2] ≠ 1 ∧
         (t.core x.1).memory.bgState[(s.core x.1).memory.group x.2] ≠ 2) ∧
  (∀ (acts : Nat → Sys2Proof.Machine.Num) (t : Tile) (wf af : Fmt) (w n u : Nat) (isInt : Bool) (start : BitVec 32),
     pairing wf af = some (w, isInt) → t.cells = [] → t.scales = [] → u < w →
     (∀ k, ∃ (g : Bool) (m : Nat) (e : Int), acts k = .fin g m e) →
     (columnF acts t wf n u start).1 = start ∧ (columnI acts t wf n u start).1 = start)

/-- R83's combination of holds: one hold of L cycles costs L cycles of slip, L − 8 of freeze and L of stall; holds
apart add, and holds that overlap, three of them where two fall within the first, cost only the longest, stalling
from the first to the last cycle. ACCOUT
converts COUNT accumulator rows and stores them, clears them under CLEAR, and changes no other value; EWISE
writes COUNT × 128 values, each formed exactly and rounded once, and no word; FFENCE discards every held word
(R70, R71, R74, R234, R235). -/
def Obligations.HoldsAccoutEwiseAndFfenceAct : Prop :=
  ((∀ (a : ArrayUnit) (x : Hold), 0 < x.len →
     slipOf { feed := [x] } = x.len ∧ a.holds { feed := [x] } = { a with
       frozen := satAdd a.frozen (x.len - 8), feedStall := satAdd a.feedStall x.len,
       dummy := satAdd a.dummy (if x.unit = 0 then min 192 x.len else min 192 (x.len - 8)) }) ∧
   (∀ (a : ArrayUnit) (x y : Hold), 0 < x.len → 0 < y.len → x.start + x.len ≤ y.start →
     slipOf { feed := [x, y] } = x.len + y.len ∧ a.holds { feed := [x, y] } = { a with
       frozen := satAdd a.frozen ((x.len - 8) + (y.len - 8)), feedStall := satAdd a.feedStall (x.len + y.len),
       dummy := satAdd a.dummy (passGaps { feed := [x, y] }) }) ∧
   (∀ (a : ArrayUnit) (x y : Hold), 0 < x.len → 0 < y.len → x.start ≤ y.start → y.start < x.start + x.len →
     slipOf { feed := [x, y] } = max x.len y.len ∧ a.holds { feed := [x, y] } = { a with
       frozen := satAdd a.frozen (max x.len y.len - 8),
       feedStall := satAdd a.feedStall (max (x.start + x.len) (y.start + y.len) - x.start),
       dummy := satAdd a.dummy (passGaps { feed := [x, y] }) } ∧
     slipOf { feed := [x], drain := [y] } = max x.len y.len) ∧
   (∀ (x y z : Hold), 0 < x.len → 0 < y.len → 0 < z.len → x.start ≤ y.start → y.start ≤ z.start →
     z.start < x.start + x.len →
     slipOf { feed := [x, y, z] } = max (max x.len y.len) z.len ∧
     slipOf { feed := [z, x], drain := [y] } = max (max x.len y.len) z.len)) ∧
  (∀ (i : Issue) (s : State), s.Ready qArray i → s.memoriesWf → accsWf s →
     let k := s.core i.core
     let a := k.array
     (∀ (o : AccoutOp) (d : CoreId) (f : Fmt), (o.dsel = 0 ∨ 4 ≤ o.dsel.toNat) → o.rnd.toNat < 6 →
       Fmt.ofCode o.dfmt = some f → s.sel i.core o.dsel = some d →
       pastMem o.daddr.toNat (o.count.toNat * wordsFor 128 f.bits) = false →
       (f.isMX = true → pastMem o.dscale.toNat (wordsFor (4 * o.count.toNat) 8) = false) →
       (o.count ≠ 0 → o.accBase.toNat + o.count.toNat ≤ 4096) →
       let ws := (s.accoutWrites i.core d o f).1
       (calm s ∨ usable s (wrPartial ws) (wrWords ws)) →
       ∃ t fl, exec (.accout i o) s = .next t ∧
         (let a' := (t.core i.core).array
          storesAnd s t i.core { k with flags := k.flags ||| fl, array := { a with
            acc := a'.acc, held := a'.held } } ws ∧
          (∀ x ∈ a'.held, x ∈ a.held) ∧
          ∀ x, smGet a'.acc x =
            if o.clear = true ∧ 128 * o.accBase.toNat ≤ x ∧ x < 128 * (o.accBase.toNat + o.count.toNat) then 0
            else smGet a.acc x)) ∧
     (∀ (o : EwiseOp) (fa fb : Fmt) (ca cb : CoreId), (o.asel = 0 ∨ 4 ≤ o.asel.toNat) → (o.bsel = 0 ∨ 4 ≤ o.bsel.toNat) →
       o.op ≠ 3 → Fmt.ofCode o.afmt = some fa → Fmt.ofCode o.bfmt = some fb → fa.ewiseA = true → fb.ewiseB = true →
       s.sel i.core o.asel = some ca → s.sel i.core o.bsel = some cb →
       (let n := 128 * o.count.toNat
        pastMem o.aaddr.toNat (wordsFor n fa.bits) = false ∧ pastMem o.baddr.toNat (wordsFor n fb.bits) = false ∧
        (fa.isMX = true → pastMem o.ascale.toNat (wordsFor (4 * o.count.toNat) 8) = false) ∧
        (fb.isMX = true → pastMem o.bscale.toNat (wordsFor (4 * o.count.toNat) 8) = false)) →
       (o.count ≠ 0 → o.accBase.toNat + o.count.toNat ≤ 4096) → usable s (State.ewiseReads ca cb o fa fb) [] →
       ∃ t fl n, exec (.ewise i o) s = .next t ∧
         (let a' := (t.core i.core).array
          coreBecomes s t i.core { k with flags := k.flags ||| fl, t2Bad := satAdd k.t2Bad n, array := { gapEnded a a' o.count.toNat with
            ready := if o.count = 0 then a.ready else false, acc := a'.acc } } ∧
          (fb ≠ .t2 → n = 0) ∧
          (∀ e < 128 * o.count.toNat, smGet a'.acc (128 * o.accBase.toNat + e) =
            (ewiseOne o.op.toNat (fa.isInt && fb.isInt) (smGet a.acc (128 * o.accBase.toNat + e))
              (rdNum (s.peek ca) fa false o.aaddr.toNat o.ascale.toNat e)
              (rdNum (s.peek cb) fb false o.baddr.toNat o.bscale.toNat e)).1) ∧
          ∀ x, (x < 128 * o.accBase.toNat ∨ 128 * (o.accBase.toNat + o.count.toNat) ≤ x) →
            smGet a'.acc x = smGet a.acc x)) ∧
     (∃ t, exec (.ffence i) s = .next t ∧
       coreBecomes s t i.core { k with array := { a with held := [], heldKey := none } }))
/-! ### The engines round the core memory -/

namespace Sys2Proof.Machine.Claims

/-- What NSMAX and NNORM take of their selectors, formats, modes and ranges (R134, R136); `more` says what the
ranges beside the rows must be. An instruction without rows or entries checks no range (R268). -/
def normTakes (s : State) (i : Issue) (o : NormOp) (fi fo : Fmt) (mi mo : CoreId) (more : Bool) : Prop :=
  (o.isel = 0 ∨ 4 ≤ o.isel.toNat) ∧ (o.osel = 0 ∨ 4 ≤ o.osel.toNat) ∧ o.rnd.toNat < 6 ∧
  normFmt o.ifmt = some fi ∧ normFmt o.ofmt = some fo ∧ s.sel i.core o.isel = some mi ∧ s.sel i.core o.osel = some mo ∧
  (o.len ≠ 0 → o.rows ≠ 0 → pastMem o.iaddr.toNat (o.rows.toNat * NormRow o fi) = false ∧
    pastMem o.oaddr.toNat (o.rows.toNat * NormRow o fo) = false ∧ more = false)

/-- What DGATHER and DSCATTER take of their fields (R134, R145). -/
def dispNames (s : State) (i : Issue) (o : DispOp) (a b : CoreId) : Prop :=
  (o.ssel = 0 ∨ 4 ≤ o.ssel.toNat) ∧ (o.dsel = 0 ∨ 4 ≤ o.dsel.toNat) ∧ o.empty.toNat < 2 ∧
  s.sel i.core o.ssel = some a ∧ s.sel i.core o.dsel = some b

/-- What DGATHER and DSCATTER with rows take (R134, R145, R146). -/
def dispTakes (s : State) (i : Issue) (o : DispOp) (a b : CoreId) (gather : Bool) : Prop :=
  let n := s.dispCount i.core o
  let w := o.roww.toNat
  let tab := if n = 0 then 0 else o.nrows.toNat * w
  dispNames s i o a b ∧ o.count ≠ 0 ∧ o.roww ≠ 0 ∧ o.nrows ≠ 0 ∧ pastMem o.iaddr.toNat (wordsFor n 32) = false ∧
  pastMem o.saddr.toNat (if gather then tab else n * w) = false ∧
  pastMem o.daddr.toNat (if gather then n * w else tab) = false ∧
  (∀ x ∈ s.dispIdx i.core o, x ≠ 0xFFFFFFFF → x.toNat < o.nrows.toNat)

end Sys2Proof.Machine.Claims

/-- R57's table for a row of unmasked and masked entries, in its order: a NaN makes every unmasked output NaN; no
unmasked entry, or only −∞, makes every output +0 and sets the row's flag; k entries of +∞ take 1/k formed exactly and
rounded once, and the others +0; masked outputs are +0 in every case, and −∞ gives +0. -/
def Obligations.SoftmaxRowsFollowTheirTable : Prop :=
  ∀ (o : NormOp) (f : Fmt) (g : FFmt) (r : Nat) (row : List (Bool × BitVec 32)), f.elem = .flt g →
    let out := fun j => (((smRow o f r row).1.map (·.1))[j]?).getD 0
    let un := (row.filter (fun e => !e.1)).map (·.2)
    (smRow o f r row).1.length = row.length ∧
    (∀ j x, row[j]? = some (true, x) → out j = 0) ∧
    ((∃ x ∈ un, (f32 x).isNaN = true) → (smRow o f r row).2 = false ∧
      ∀ j x, row[j]? = some (false, x) → out j = g.nanBits) ∧
    ((∀ x ∈ un, x = f32Inf true) → (smRow o f r row).2 = true ∧ ∀ j < row.length, out j = 0) ∧
    ((∀ x ∈ un, (f32 x).isNaN = false) → (∃ x ∈ un, x = f32Inf false) → (smRow o f r row).2 = false ∧
      ∀ j x, row[j]? = some (false, x) → out j = if x = f32Inf false then
        (divTo g o.rnd.toNat o.sat (normRand o.len.toNat r j) (.fin false 1 0)
          (.fin false (un.filter (· == f32Inf false)).length 0)).1 else 0)

/-- NSMAX and NNORM store their rows and NSMAX its row flags, and nothing else; without rows or entries they store
nothing (R17, R57, R136 to R138). They complete wherever memory is calm, or at least the words that they touch are
usable. -/
def Obligations.NormalisationStoresItsRows : Prop :=
  ∀ (i : Issue) (o : NormOp) (fi fo : Fmt) (mi mo : CoreId) (s : State), s.Ready qNorm i → s.memoriesWf →
    let k := s.core i.core
    (o.mmode ≠ 3 → normTakes s i o fi fo mi mo (pastMem o.flagAddr.toNat (wordsFor o.rows.toNat 1) ||
        (o.mmode == 2 && pastMem o.maddr.toNat (o.rows.toNat * wordsFor o.len.toNat 1))) →
      let w := s.nsmaxWrites mi mo o fi fo
      (calm s ∨ usable s (normReads mi o fi (if o.mmode = 2 then
        wordsAt mi o.maddr.toNat (o.rows.toNat * wordsFor o.len.toNat 1) else []) ++ wrPartial w.1) (wrWords w.1)) →
      (o.len = 0 ∨ o.rows = 0 → w = ([], 0)) ∧
      ∃ t, exec (.nsmax i o) s = .next t ∧ storesAnd s t i.core { k with flags := k.flags ||| w.2 } w.1 ∧
        (o.len ≠ 0 → ∀ r < o.rows.toNat,
          (t.peek mo (o.flagAddr.toNat + r / 256)).getLsbD (r % 256) = (smRow o fo r (s.smEntries mi o fi r).1).2)) ∧
    (o.mmode = 0 → o.nmode ≠ 3 → normTakes s i o fi fo mi mo (pastMem o.maddr.toNat (wordsFor o.len.toNat 16) ||
        (o.nmode == 1 && pastMem o.flagAddr.toNat (wordsFor o.len.toNat 16))) →
      let w := s.nnormWrites mi mo o fi fo
      (calm s ∨ usable s (normReads mi o fi (wordsAt mi o.maddr.toNat (wordsFor o.len.toNat 16) ++
        (if o.nmode = 1 then wordsAt mi o.flagAddr.toNat (wordsFor o.len.toNat 16) else [])) ++ wrPartial w.1)
        (wrWords w.1)) →
      (o.len = 0 ∨ o.rows = 0 → w = ([], 0)) ∧
      ∃ t, exec (.nnorm i o) s = .next t ∧ storesAnd s t i.core { k with flags := k.flags ||| w.2 } w.1)

/-- DGATHER leaves in destination row i source row IDX[i], a zero row or the row as it was for the empty index by
EMPTY; DSCATTER leaves in row r the source row of the largest i with IDX[i] = r. No other word changes (R145, R146; the
source rows lie outside the destination). Without entries, without words in a row or without rows in the table both do
nothing, whatever the list holds (R17, R268; of a table without rows Assumption 99). -/
def Obligations.DispatchMovesItsRows : Prop :=
  ∀ (i : Issue) (o : DispOp) (a b : CoreId) (s : State), s.Ready qDisp i → s.memoriesWf →
    let l := s.dispIdx i.core o
    let w := o.roww.toNat
    (dispNames s i o a b → o.count = 0 ∨ o.roww = 0 ∨ o.nrows = 0 →
      (∃ t, exec (.dgather i o) s = .next t ∧ storesAnd s t i.core (s.core i.core) []) ∧
      ∃ t, exec (.dscatter i o) s = .next t ∧ storesAnd s t i.core (s.core i.core) []) ∧
    (dispTakes s i o a b true →
      (a ≠ b ∨ o.saddr.toNat + o.nrows.toNat * w ≤ o.daddr.toNat ∨ o.daddr.toNat + l.length * w ≤ o.saddr.toNat) →
      (calm s ∨ usable s (s.dispLists i.core o ++ l.zipIdx.flatMap (fun x =>
          if x.1 = noIndex then [] else wordsAt a (o.saddr.toNat + x.1.toNat * w) w))
        (l.zipIdx.flatMap (fun x => if x.1 = noIndex ∧ o.empty = 0 then [] else wordsAt b (o.daddr.toNat + x.2 * w) w))) →
      ∃ t, exec (.dgather i o) s = .next t ∧ s.sameOutside t ∧
        (∀ x : CoreId, (t.core x).besideWords = (s.core x).besideWords) ∧
        (∀ (r : Nat) (x : BitVec 32), l[r]? = some x → ∀ j < w, t.peek b (o.daddr.toNat + r * w + j) =
          if x ≠ noIndex then s.peek a (o.saddr.toNat + x.toNat * w + j)
          else if o.empty = 1 then 0 else s.peek b (o.daddr.toNat + r * w + j)) ∧
        (∀ (c : CoreId) (y : Nat), (c ≠ b ∨ y < o.daddr.toNat ∨ o.daddr.toNat + l.length * w ≤ y) →
          t.peek c y = s.peek c y)) ∧
    (dispTakes s i o a b false →
      (a ≠ b ∨ o.saddr.toNat + l.length * w ≤ o.daddr.toNat ∨ o.daddr.toNat + o.nrows.toNat * w ≤ o.saddr.toNat) →
      (calm s ∨ usable s (s.dispLists i.core o ++ l.zipIdx.flatMap (fun x =>
          if x.1 = noIndex then [] else wordsAt a (o.saddr.toNat + x.2 * w) w))
        (l.zipIdx.flatMap (fun x => if x.1 = noIndex then [] else wordsAt b (o.daddr.toNat + x.1.toNat * w) w))) →
      ∃ t, exec (.dscatter i o) s = .next t ∧ s.sameOutside t ∧
        (∀ x : CoreId, (t.core x).besideWords = (s.core x).besideWords) ∧
        (∀ (r : Nat) (x : BitVec 32), l[r]? = some x → x ≠ noIndex → x ∉ l.drop (r + 1) → ∀ j < w,
          t.peek b (o.daddr.toNat + x.toNat * w + j) = s.peek a (o.saddr.toNat + r * w + j)) ∧
        (∀ (c : CoreId) (y : Nat), (c ≠ b ∨ ∀ x ∈ l, x ≠ noIndex →
            (y < o.daddr.toNat + x.toNat * w ∨ o.daddr.toNat + x.toNat * w + w ≤ y)) → t.peek c y = s.peek c y))

/-- R148's placing, for any choices: no expert's regular fill exceeds CAP nor its overflow fill OCAP, every slot lies
within CAP + OCAP and holds one token, and every choice has exactly one entry in the combine list. DSLOT stores
the slot table, the fills and the combine list of R148's plan, and counts the overflow and residual choices;
without tokens, experts or choices it changes nothing (R147, R148, R196, R197). -/
def Obligations.DslotStoresAPlanWithinCapacities : Prop :=
  (∀ (o : DslotOp) (ch : Nat → Nat → Choice),
     let p := dslotPlan o ch
     (∀ e, fillOf p.fill e ≤ o.cap.toNat ∧ fillOf p.ofill e ≤ o.ocap.toNat) ∧
     (∀ x ∈ p.slots, x.2.1 < o.cap.toNat + o.ocap.toNat) ∧
     (p.slots.map (fun x => (x.1, x.2.1))).Nodup ∧
     (∀ t r, t < o.tokens.toNat → r < o.k.toNat → (p.comb.filter (fun x => x.1 == t && x.2.1 == r)).length = 1) ∧
     ((∀ t j, (ch t j).expert < o.e.toNat) →
       p.nres = (p.comb.filter (fun x => x.2.2.1 == 0xFFFF)).length ∧
       p.nover = (p.slots.filter (fun x => decide (o.cap.toNat ≤ x.2.1))).length)) ∧
  (∀ (i : Issue) (o : DslotOp) (s : State), s.Ready qDisp i → s.memoriesWf → o.policy ≠ 3 →
     let k := s.core i.core
     (dslotEmpty o = true → ∃ t, exec (.dslot i o) s = .next t ∧ storesAnd s t i.core k []) ∧
     (dslotEmpty o = false →
       pastMem o.caddr.toNat (wordsFor (o.tokens.toNat * (o.k.toNat + o.alt.toNat)) 64) = false →
       pastMem o.sladdr.toNat (wordsFor (o.e.toNat * (o.cap.toNat + o.ocap.toNat)) 32) = false →
       pastMem o.fladdr.toNat (2 * o.e.toNat) = false →
       pastMem o.cbaddr.toNat (wordsFor (o.tokens.toNat * o.k.toNat) 64) = false →
       (∀ t < o.tokens.toNat, ∀ j < o.k.toNat + o.alt.toNat, (s.choice i.core o t j).expert < o.e.toNat) →
       let p := dslotPlan o (s.choice i.core o)
       let ws := dslotWrites i.core o p
       (calm s ∨ usable s (wordsAt i.core o.caddr.toNat (wordsFor (o.tokens.toNat * (o.k.toNat + o.alt.toNat)) 64) ++
         wrPartial ws) (wrWords ws)) →
       ∃ t, exec (.dslot i o) s = .next t ∧ storesAnd s t i.core { k with
         dispOverflow := satAdd k.dispOverflow p.nover, dispResid := satAdd k.dispResid p.nres } ws))
namespace Sys2Proof.Machine.Claims

/-- What a TILE takes (R68, R134, R140, R142, R177, R183). -/
def tileTakes (s : State) (i : Issue) (o : TileOp) (f : Fmt) (m : CoreId) : Prop :=
  let tiles := if (s.core i.core).compacts o then (o.cmlen.toNat + 127) / 128 else 1
  (o.wsel = 0 ∨ 4 ≤ o.wsel.toNat) ∧ o.sparse ≠ 3 ∧ Fmt.ofCode o.wfmt = some f ∧ (o.cmpct = true → o.sparse = 0) ∧
  f.isWeight = true ∧ (o.sparse ≠ 0 → f.noSparse = false) ∧ s.sel i.core o.wsel = some m ∧
  pastMem o.waddr.toNat (tiles * tileWords f) = false ∧
  (f.isMX = true → pastMem o.saddr.toNat (wordsFor (tiles * tileScaleBytes f o.sparse) 8) = false) ∧
  (o.sparse ≠ 0 → pastMem o.mdaddr.toNat 128 = false) ∧
  (o.bmen = true → pastMem (o.bmaddr.toNat + o.bmidx.toNat / 256) 1 = false) ∧
  ((s.core i.core).compacts o = true → pastMem o.cmaddr.toNat (wordsFor o.cmlen.toNat 1) = false) ∧
  (s.tileSkipped m o = false → s.badIndices m o = false) ∧ (s.core i.core).array.shadow = none

/-- The words that an instruction's plan reads and writes are usable. -/
def planUsable (s : State) (t : Todo) : Prop :=
  ∃ reads writes due eff, t.last = .run reads writes due eff ∧ usable s (t.first ++ t.soft ++ reads) writes

/-- The rejections of ADOWN and AUP that look at the rows' slots and directory entries (R149, R152). -/
def adapterEntriesOk (s : State) (c : CoreId) (o : AdapterOp) (down : Bool) : Prop :=
  ∀ x ∈ s.adRows c o, x.2 < 1024 ∧
    (let e := s.adEntry c o x.2
     adValid e = true ∧ 4 ≤ adRank e ∧ adRank e ≤ 64 ∧ ∃ f, adFmt e = some f ∧
     (down = true → (f = .mxE4m3 → o.klen.toNat % 32 = 0) ∧
       pastMem (adA e) (wordsFor (adRank e * o.klen.toNat) f.bits) = false ∧
       (f.isMX = true → pastMem (adScale e) (wordsFor (adRank e * o.klen.toNat / 32) 8) = false)) ∧
     (down = false → pastMem (adB e) (wordsFor ((o.bcol.toNat + o.cols.toNat) * adRank e) 16) = false))

end Sys2Proof.Machine.Claims

/-- TILE hands the array a skip mark where the bitmap or the channel mask leaves nothing, and counts it; else a tile
whose cell (k, n) holds the w weights of row k and columns w·n to w·n + w − 1 of the stored blocks, with its scales and
indices; a compacting TILE takes the selected rows in ascending order and moves the cursor. It writes no word and no
other register (R81, R140 to R144, R176 to R179). It completes wherever memory is calm, or at least the words that it reads
are usable. -/
def Obligations.TileFillsTheShadow : Prop :=
  ∀ (i : Issue) (o : TileOp) (f : Fmt) (m : CoreId) (s : State), s.Ready qInfl i → tileTakes s i o f m →
    (calm s ∨ usable s (s.tileReads i.core m o f) []) →
    let k := s.core i.core
    let a := k.array
    let cm := k.compacts o
    let rows := s.cmRows m o (k.cmStart o)
    (s.tileSkipped m o = true → ∃ t, exec (.tile i o) s = .next t ∧ coreBecomes s t i.core { k with
      array := { a with shadow := some .skip }, inflSkip := satAdd k.inflSkip 1 }) ∧
    (s.tileSkipped m o = false → cm = true → rows.1 = [] → ∃ t, exec (.tile i o) s = .next t ∧
      coreBecomes s t i.core { k with
        array := { a with shadow := some .skip }, inflSkip := satAdd k.inflSkip 1,
        cursor := BitVec.ofNat 16 rows.2 }) ∧
    (s.tileSkipped m o = false → (cm = true → rows.1 ≠ []) → ∃ t fl n tile, exec (.tile i o) s = .next t ∧
      coreBecomes s t i.core { k with
        array := { a with shadow := some (.tile tile) }, flags := k.flags ||| fl,
        t2Bad := satAdd k.t2Bad n, cursor := if cm then BitVec.ofNat 16 rows.2 else k.cursor } ∧
      (f ≠ .t2 → n = 0) ∧ tile.fmt = o.wfmt ∧ tile.sparse = o.sparse ∧
      (cm = false → tile.rows = none ∧
        (∀ x < 128, ∀ y < 128, ∀ u < f.perReg,
          let b := x / groupRows o.sparse * (128 * f.perReg) + (f.perReg * y + u)
          (smGet tile.cells (128 * x + y)).toNat >>> (u * f.bits) % 2 ^ f.bits =
            rdElem (s.peek m) f o.waddr.toNat (b * groupRows o.sparse + x % groupRows o.sparse) % 2 ^ f.bits) ∧
        (o.sparse ≠ 0 → ∀ x < 128, ∀ y < 128,
          smGet tile.index (128 * x + y) = BitVec.ofNat 2 (s.nmIndex m o x y)) ∧
        (f.isBlock = true → ∀ b < 128 / groupRows o.sparse * 128 * f.perReg,
          smGet tile.scales b = BitVec.ofNat 8 (rdScale (s.peek m) f o.waddr.toNat o.saddr.toNat b))) ∧
      (cm = true → tile.rows = some rows.1 ∧ tile.klen = o.cmlen.toNat ∧ rows.1.length ≤ 128 ∧
        (∀ r ∈ rows.1, k.cmStart o ≤ r ∧ r < o.cmlen.toNat ∧ rdBits (s.peek m) o.cmaddr.toNat r 1 = 1)))

/-- ADOWN writes the eight words of u for every row that names an adapter, zeros beyond its RANK; AUP adds
ALPHA · B u to that row's accumulator values, one rounding each, and writes no word. Rows with slot 0xFFFF are
untouched by both, and without rows both change nothing (R17, R149 to R152). They complete wherever memory is calm, or
at least the words that they touch are usable. -/
def Obligations.AdaptersAddTheirLowRankProduct : Prop :=
  ∀ (i : Issue) (o : AdapterOp) (s : State), s.Ready qAdapt i → s.memoriesWf → accsWf s →
    let c := i.core
    let k := s.core c
    let rows := s.adRows c o
    (∀ (xf : Fmt) (m : CoreId), (o.xsel = 0 ∨ 4 ≤ o.xsel.toNat) → adXFmt o = some xf →
      (o.xfmt = 5 → o.klen.toNat % 32 = 0) → s.sel c o.xsel = some m →
      (adDownEmpty o = true → ∃ t, exec (.adown i o) s = .next t ∧ storesAnd s t c k []) ∧
      (adDownEmpty o = false → pastMem o.idaddr.toNat (wordsFor o.rows.toNat 16) = false →
        pastMem o.xaddr.toNat (o.rows.toNat * wordsFor o.klen.toNat xf.bits) = false →
        (xf.isMX = true → pastMem o.xscale.toNat (wordsFor (o.rows.toNat * (o.klen.toNat / 32)) 8) = false) →
        pastMem o.uaddr.toNat (8 * o.rows.toNat) = false → adapterEntriesOk s c o true →
        (calm s ∨ planUsable s (s.adownPlan i o)) →
        ∃ t fl, exec (.adown i o) s = .next t ∧
          storesAnd s t c { k with flags := k.flags ||| fl } (rows.flatMap (fun x => (s.adURow c m o xf x).1)) ∧
          ∀ x ∈ rows, ∀ j < 64, t.u32At c (o.uaddr.toNat + 8 * x.1) j =
            if j < adRank (s.adEntry c o x.2) then (s.adU c m o xf x.1 j (s.adEntry c o x.2)).1 else 0)) ∧
    ((o.xsel = 0 ∨ 4 ≤ o.xsel.toNat) → adXFmt o ≠ none → s.sel c o.xsel ≠ none →
     (adUpEmpty o = true → ∃ t, exec (.aup i o) s = .next t ∧ coreBecomes s t c k) ∧
     (adUpEmpty o = false → pastMem o.idaddr.toNat (wordsFor o.rows.toNat 16) = false →
        pastMem o.uaddr.toNat (8 * o.rows.toNat) = false →
        o.accBase.toNat + o.rows.toNat * ((o.cols.toNat + 127) / 128) ≤ 4096 → adapterEntriesOk s c o false →
        (calm s ∨ planUsable s (s.aupPlan i o)) →
        ∃ t fl, exec (.aup i o) s = .next t ∧
          (let a' := (t.core c).array
           coreBecomes s t c { k with flags := k.flags ||| fl, array := { k.array with acc := a'.acc } } ∧
           ∀ row < o.rows.toNat, ∀ col < o.cols.toNat,
             let per := (o.cols.toNat + 127) / 128
             let v := 128 * (o.accBase.toNat + row * per + col / 128) + col % 128
             smGet a'.acc v =
               if s.adSlot c o row = 0xFFFF then smGet k.array.acc v
               else (toF32 ((f32 (smGet k.array.acc v)).add false
                 (s.adDelta c o row col (s.adEntry c o (s.adSlot c o row))).1).1).1)))

namespace Sys2Proof.Machine.Claims

/-- What all six take of SSEL, of IXBITS and of DESC, which names a descriptor in memory (R134, R153, R154). -/
def kvFieldsOk (s : State) (c : CoreId) (o : KvOp) : Prop :=
  (o.ssel = 0 ∨ 4 ≤ o.ssel.toNat) ∧ s.sel c o.ssel ≠ none ∧ o.ixbits ≠ 0 ∧ o.ixbits.toNat ≤ 16 ∧
  o.desc ≠ 0xFFFF ∧ dAddr o o.desc.toNat < 2 ^ 20

/-- The NEXT of DESC, where there is one, lies in memory (R153). -/
def kvNextOk (s : State) (c : CoreId) (o : KvOp) : Prop :=
  Machine.dNext (s.desc c o o.desc.toNat) ≠ 0xFFFF → dAddr o (Machine.dNext (s.desc c o o.desc.toNat)) < 2 ^ 20

/-- Each index entry that KFIND compares names a descriptor and a block in memory (R134, R153). -/
def kvCandsOk (s : State) (c : CoreId) (o : KvOp) (cand : List Nat) : Prop :=
  ∀ d ∈ cand, d ≠ 0xFFFF ∧ dAddr o d < 2 ^ 20 ∧ dBase (s.desc c o d) + 8 ≤ 2 ^ 20

/-- The fields of a descriptor that appending and committing leave as they were. -/
def kvSameBeside (w w' : MWord) : Prop :=
  dHash w' = dHash w ∧ dBase w' = dBase w ∧ Machine.dNext w' = Machine.dNext w ∧ dRefs w' = dRefs w ∧
  dHashed w' = dHashed w ∧ dSpace w' = dSpace w

/-- What KHASH, KFIND and KREF take of the index (R134, R153, R154). -/
def kvIndexOk (s : State) (c : CoreId) (o : KvOp) : Prop :=
  kvFieldsOk s c o ∧ o.ixaddr.toNat + 2 ^ o.ixbits.toNat ≤ 2 ^ 20

end Sys2Proof.Machine.Claims

/-- KAPPEND writes n rows and token IDs at positions CLEN onward of DESC and from 0 of NEXT, and both TLENs (and
commits under DIRECT); KCOMMIT commits the smaller of its count and the tentative entries, first of DESC, then of NEXT,
clears both TLENs, sets FULL at 64 and logs EV_KV_COUNT where it clamped; KDISCARD clears both TLENs. Each stores only
those words, and no other field of a descriptor changes (R153 to R155). A count of 0 changes nothing (R17, R268; of
KCOMMIT the model's choice, Assumption 25). They complete wherever memory is calm, or at least the words that they
touch are usable. -/
def Obligations.KvBlocksAppendAndCommit : Prop :=
  (∀ (w : MWord) (n : Nat), dClen w + n ≤ 64 →
    dClen (dCommit w n) = dClen w + n ∧ dTlen (dCommit w n) = 0 ∧
    dFull (dCommit w n) = (dFull w || decide (dClen w + n = 64)) ∧ kvSameBeside w (dCommit w n) ∧
    dTlen (dSetTlen w n) = n ∧ dClen (dSetTlen w n) = dClen w ∧ dFull (dSetTlen w n) = dFull w ∧
    kvSameBeside w (dSetTlen w n)) ∧
  (∀ (i : Issue) (o : KvOp) (s : State), s.Ready qKv i → s.memoriesWf → kvFieldsOk s i.core o →
    let c := i.core
    let k := s.core c
    let d := s.desc c o o.desc.toNat
    let n := s.kvCount c o
    ((o.cntInd = false → o.n.toNat ≤ 64) → n = 0 → (calm s ∨ usable s (kvCountRead c o) []) →
      (∃ t, exec (.kappend i o) s = .next t ∧ storesAnd s t c k []) ∧
      ∃ t, exec (.kcommit i o) s = .next t ∧ storesAnd s t c k []) ∧
    (∀ m : CoreId, s.sel c o.ssel = some m → (o.cntInd = false → o.n.toNat ≤ 64) →
      (kvNextOk s c o → n ≠ 0 → dClen d < 64 → n ≤ 128 - dClen d → (64 - dClen d < n → Machine.dNext d ≠ 0xFFFF) →
        (Machine.dNext d ≠ 0xFFFF → dClen (s.desc c o (Machine.dNext d)) = 0) →
        pastMem o.srcaddr.toNat (n * o.roww.toNat) = false → pastMem o.tokaddr.toNat (wordsFor n 32) = false →
        kvAreaBad o d (dClen d) (min n (64 - dClen d)) = false →
        (Machine.dNext d ≠ 0xFFFF → kvAreaBad o (s.desc c o (Machine.dNext d)) 0 (n - min n (64 - dClen d)) = false) →
        let ws := s.kappendWrites c m o n
        (calm s ∨ usable s (kvCountRead c o ++ s.kvDescReads c o ++ wordsAt m o.srcaddr.toNat (n * o.roww.toNat) ++
          wordsAt m o.tokaddr.toNat (wordsFor n 32) ++ wrPartial ws) (wrWords ws)) →
        ∃ t, exec (.kappend i o) s = .next t ∧ storesAnd s t c k ws)) ∧
    (kvNextOk s c o → (o.cntInd = false → o.n.toNat ≤ 64) → n ≠ 0 →
      let ws := s.kcommitWrites c o n
      (calm s ∨ usable s (kvCountRead c o ++ s.kvDescReads c o) (wrWords ws)) →
      ∃ t, exec (.kcommit i o) s = .next t ∧
        (Machine.dNext d ≠ o.desc.toNat → storesAnd s t c k ws ∧
          t.desc c o o.desc.toNat = dCommit d (min n (dTlen d))) ∧
        (Machine.dNext d ≠ 0xFFFF → t.desc c o (Machine.dNext d) =
          dCommit (s.desc c o (Machine.dNext d)) (min (n - min n (dTlen d)) (dTlen (s.desc c o (Machine.dNext d))))) ∧
        (∀ (x : CoreId) (a : Nat), (x, a) ∉ wrWords ws → t.peek x a = s.peek x a) ∧
        (s.kvTentative c o < n → loggedAfter s t 0x000C (srcCore c) o.desc.toNat n 0 0)) ∧
    (kvNextOk s c o →
      let ws := s.kdiscardWrites c o
      (calm s ∨ usable s (s.kvDescReads c o) (wrWords ws)) →
      ∃ t, exec (.kdiscard i o) s = .next t ∧ storesAnd s t c k ws ∧
        t.desc c o o.desc.toNat = dSetTlen d 0 ∧
        (Machine.dNext d ≠ 0xFFFF → t.desc c o (Machine.dNext d) = dSetTlen (s.desc c o (Machine.dNext d)) 0)))

/-- KHASH of a FULL block without a hash sets HASH and HASHED and puts its entry into the first of eight probes that is
empty or dead, or counts that none was; KFIND answers the first live entry of equal hash and namespace whose 64 IDs are
equal, adding to its REFS, or none, and counts the false matches; KREF moves REFS within 0 to 65,535 and at 0 takes
HASHED away, marks the index entry dead and answers DESC (R153, R155, R156). -/
def Obligations.KvIndexHashesFindsAndCounts : Prop :=
  ∀ (i : Issue) (o : KvOp) (s : State), s.Ready qKv i → s.memoriesWf → kvIndexOk s i.core o →
    let c := i.core
    let k := s.core c
    let d := s.desc c o o.desc.toNat
    let h := kvHash (s.kvParent c o) (dSpace d) (s.kvTokens c (dBase d))
    ((o.parent ≠ 0xFFFF → dAddr o o.parent.toNat < 2 ^ 20) →
      (dFull d = false ∨ dHashed d = true → (calm s ∨ usable s [(c, dAddr o o.desc.toNat)] []) →
        ∃ t, exec (.khash i o) s = .next t ∧ storesAnd s t c k []) ∧
      (dFull d = true → dHashed d = false → (o.parent ≠ 0xFFFF → dHashed (s.desc c o o.parent.toNat) = true) →
        dBase d + 8 ≤ 2 ^ 20 →
        (calm s ∨ usable s ([(c, dAddr o o.desc.toNat)] ++ kvParentRead c o ++ wordsAt c (dBase d) 8 ++
          (List.range 8).map (fun x => (c, kvProbe o h x))) [(c, dAddr o o.desc.toNat)]) →
        (∀ x < 8, kvProbe o h x ≠ dAddr o o.desc.toNat) →
        ∃ t, exec (.khash i o) s = .next t ∧ s.sameOutside t ∧
          (∀ x : CoreId, (t.core x).besideWords = (if x = c ∧ s.kvFree c o h = none then
            { k with indexFull := satAdd k.indexFull 1 }.besideWords else (s.core x).besideWords)) ∧
          dHash (t.desc c o o.desc.toNat) = h ∧ dHashed (t.desc c o o.desc.toNat) = true ∧
          (∀ a, s.kvFree c o h = some a → t.peek c a = ixEntry h o.desc.toNat (dSpace d)) ∧
          (s.kvFree c o h = none → loggedAfter s t 0x000D (srcCore c) o.desc.toNat 0 0 0) ∧
          (∀ (x : CoreId) (a : Nat), (x, a) ≠ (c, dAddr o o.desc.toNat) → (x = c → s.kvFree c o h ≠ some a) →
            t.peek x a = s.peek x a))) ∧
    (∀ m : CoreId, s.sel c o.ssel = some m →
      (o.parent ≠ 0xFFFF → dAddr o o.parent.toNat < 2 ^ 20) → o.srcaddr.toNat + 8 ≤ 2 ^ 20 →
      (let ns := (wordLane (s.peek c o.cntaddr.toNat) 1).toNat
       kvCandsOk s c o (s.kvCandidates c o (kvHash (s.kvParent c o) ns (s.kvTokens m o.srcaddr.toNat)) ns)) →
      (calm s ∨ planUsable s (s.kfindPlan i o)) →
      let found := s.kvFound c m o
      let res : Wr := { core := c, addr := o.cntaddr.toNat, mask := 0xFFFFFFFF,
                        data := BitVec.ofNat 256 (found.2.getD 0xFFFFFFFF) }
      ∃ t, exec (.kfind i o) s = .next t ∧
        (found.2 = none → storesAnd s t c { k with hashFalse := satAdd k.hashFalse found.1 } [res]) ∧
        (∀ n, found.2 = some n → dAddr o n ≠ o.cntaddr.toNat →
          storesAnd s t c { k with hashFalse := satAdd k.hashFalse found.1 }
            [{ core := c, addr := dAddr o n, data := dSetRefs (s.desc c o n) (min 65535 (dRefs (s.desc c o n) + 1)) },
             res])) ∧
    (let r := max 0 (min 65535 ((dRefs d : Int) + o.delta.toInt))
     let dead := if dHashed d then s.kvEntryOf c o d else none
     (calm s ∨ usable s ([(c, dAddr o o.desc.toNat), (c, o.cntaddr.toNat)] ++
        (if kvRefSum o d ≤ 0 ∧ dHashed d then (List.range 8).map (fun x => (c, kvProbe o (dHash d) x)) else []))
        [(c, dAddr o o.desc.toNat), (c, o.cntaddr.toNat)]) →
      dAddr o o.desc.toNat ≠ o.cntaddr.toNat →
      ∃ t, exec (.kref i o) s = .next t ∧
        ((dRefs d : Int) + o.delta.toInt < 0 → loggedAfter s t 0x000C (srcCore c) o.desc.toNat
          (BitVec.ofInt 32 o.delta.toInt).toNat 0 0) ∧
        (r ≠ 0 → storesAnd s t c k [{ core := c, addr := dAddr o o.desc.toNat, data := dSetRefs d r.toNat },
          { core := c, addr := o.cntaddr.toNat, mask := 0xFFFFFFFF, data := 0xFFFFFFFF }]) ∧
        (r = 0 → (∀ a, dead = some a → a ≠ dAddr o o.desc.toNat ∧ a ≠ o.cntaddr.toNat) →
          storesAnd s t c k ([{ core := c, addr := dAddr o o.desc.toNat, data := dSetHashed (dSetRefs d 0) false },
            { core := c, addr := o.cntaddr.toNat, mask := 0xFFFFFFFF, data := BitVec.ofNat 256 o.desc.toNat }] ++
            (match dead with
             | some a => [{ core := c, addr := a, data := wordSetField (s.peek c a) 144 8 2 }]
             | none => []))))

/-- BATOM writes the new value of its operation into the element and the old one, with CAS's mark, into RADDR; BCOUNT
and BCMP write their count and first index into RADDR, and with LEN = 0 nothing. No register changes (R214 to R217). -/
def Obligations.BankOperationsWriteTheirResults : Prop :=
  ∀ (i : Issue) (o : BankOp) (m : CoreId) (s : State), s.Ready qBank i → s.memoriesWf →
    (o.asel = 0 ∨ 4 ≤ o.asel.toNat) → s.sel i.core o.asel = some m →
    let c := i.core
    let k := s.core c
    let old := wordLane (s.peek m o.addr.toNat) o.elem.toNat
    let new : BitVec 32 := [old, o.opnd, if old = o.cmpv then o.opnd else old, old + o.opnd,
      BitVec.ofInt 32 (clamped 32 (old.toInt + o.opnd.toInt)), BitVec.ofInt 32 (max old.toInt o.opnd.toInt),
      BitVec.ofInt 32 (min old.toInt o.opnd.toInt), old &&& o.opnd, old ||| o.opnd, old ^^^ o.opnd].getD o.aop.toNat 0
    (o.aop.toNat < 10 → (m, o.addr.toNat) ≠ (c, o.raddr.toNat) →
      (calm s ∨ usable s [(m, o.addr.toNat)] [(m, o.addr.toNat), (c, o.raddr.toNat)]) →
      ∃ t, exec (.batom i o) s = .next t ∧ s.sameOutside t ∧
        (∀ x : CoreId, (t.core x).besideWords = (s.core x).besideWords) ∧
        (∀ e < 8, wordLane (t.peek m o.addr.toNat) e =
          if e = o.elem.toNat then new else wordLane (s.peek m o.addr.toNat) e) ∧
        wordLane (t.peek c o.raddr.toNat) 0 = old ∧
        wordLane (t.peek c o.raddr.toNat) 1 = (if o.aop = 2 ∧ old = o.cmpv then 1 else 0) ∧
        (∀ e < 8, 2 ≤ e → wordLane (t.peek c o.raddr.toNat) e = 0) ∧
        (∀ (x : CoreId) (a : Nat), (x, a) ≠ (m, o.addr.toNat) → (x, a) ≠ (c, o.raddr.toNat) →
          t.peek x a = s.peek x a)) ∧
    (o.cond.toNat < 5 → pastMem o.addr.toNat o.len.toNat = false →
      (o.len = 0 → ∃ t, exec (.bcount i o) s = .next t ∧ storesAnd s t c k []) ∧
      (o.len ≠ 0 → (calm s ∨ usable s (wordsAt m o.addr.toNat o.len.toNat) [(c, o.raddr.toNat)]) →
        ∃ t, exec (.bcount i o) s = .next t ∧
          storesAnd s t c k [{ core := c, addr := o.raddr.toNat, data := bankResult (s.bcountOf m o) }])) ∧
    (∀ b : CoreId, (o.bsel = 0 ∨ 4 ≤ o.bsel.toNat) → s.sel c o.bsel = some b →
      pastMem o.addr.toNat o.len.toNat = false → pastMem o.baddr.toNat o.len.toNat = false →
      (o.len = 0 → ∃ t, exec (.bcmp i o) s = .next t ∧ storesAnd s t c k []) ∧
      (o.len ≠ 0 → (calm s ∨ usable s (wordsAt m o.addr.toNat o.len.toNat ++ wordsAt b o.baddr.toNat o.len.toNat)
          [(c, o.raddr.toNat)]) →
        ∃ t, exec (.bcmp i o) s = .next t ∧
          storesAnd s t c k [{ core := c, addr := o.raddr.toNat, data := bankResult (s.bcmpOf m b o) }]))

/-! ### Transfers and the Mule -/

namespace Sys2Proof.Machine.Claims

/-- Packets have been put in motion on a virtual channel, each towards its route, or to this chip's own partitions;
a paired partition keeps their records (R484). Nothing else has changed beside the cores and the event log. -/
def inMotion (s t : State) (vc : Fin 8) (pkts : List Packet) : Prop :=
  s = { t with cores := s.cores, evlog := s.evlog, draws := s.draws, transit := s.transit, parts := s.parts } ∧
  t.transit.map (fun m => (m.vc, m.pkt)) = s.transit.map (fun m => (m.vc, m.pkt)) ++ pkts.map (fun p => (vc, p)) ∧
  (∀ m ∈ t.transit.drop s.transit.length, m.link = if s.isHere m.pkt then none else s.route vc m.pkt) ∧
  (∀ p : PartId, s.part p = { t.part p with ls := (s.part p).ls } ∧
    ((s.part p).ls.paired = false → t.part p = s.part p))

/-- Packets have been put in motion; the core is `k`, and no other core has changed but for what the issue of any
instruction may change. -/
def sentBy (s t : State) (c : CoreId) (k : Core) (vc : Fin 8) (pkts : List Packet) : Prop :=
  inMotion s t vc pkts ∧ s.otherCores t c ∧ (t.core c).settled = k.settled

/-- Every packet is for this chip or finds a route (R332). -/
def routed (s : State) (vc : Fin 8) (pkts : List Packet) : Prop :=
  ∀ p ∈ pkts, s.isHere p = true ∨ (s.route vc p).isSome = true

/-- A selector that is not reserved names a core of the partition (R66, R134). -/
def selNames (s : State) (c : CoreId) (sel : BitVec 3) : Prop := (sel = 0 ∨ 4 ≤ sel.toNat) ∧ s.sel c sel ≠ none

/-- What TSEND and TGET take (R134, R157). -/
def sendTakes (s : State) (i : Issue) (o : XferOp) (a : CoreId) : Prop :=
  (o.lsel = 0 ∨ 4 ≤ o.lsel.toNat) ∧ selNames s i.core o.dsel ∧ o.part.toNat < 12 ∧ s.sel i.core o.lsel = some a ∧
  pastMem o.laddr.toNat o.len.toNat = false ∧ pastMem o.woff.toNat o.len.toNat = false

/-- The words of a core's write-combine buffer. -/
def wcWords (k : Core) : List (CoreId × Nat) := k.wc.map (fun e => (e.core, e.addr))

/-- What a Mule stream's lists must hold for `n` more rows: they lie in memory, and every index is one of a row or
the empty one (R162, R166). -/
def streamTakes (s : State) (c : CoreId) (x : Stream) (n : Nat) : Prop :=
  (n ≠ 0 → pastMem x.ridx.toNat (wordsFor (x.rows + n) 32) = false ∧
    (x.rscen = true → pastMem x.rsc.toNat (wordsFor (x.rows + n) 32) = false)) ∧
  ∀ y ∈ s.ridx c x x.rows n, y ≠ 0xFFFFFFFF → y.toNat < 4096

end Sys2Proof.Machine.Claims

/-- TCOPY copies LEN words as if all were read before any is written: the transfer engine then reads them at DADDR
and every other word as before, its buffer holds at most 64 entries, no bank's word outside the destination and the
buffer has changed, and a tag is held (R158, R159, R225, R229); with LEN = 0 nothing changes. TDRAIN puts the
buffered words of its range into their banks, and waits for no earlier copy that overlaps it (R230). (What sleeping
groups hold back of the buffer's writes is R213's.) -/
def Obligations.CopiesAndDrainsMoveTheirWords : Prop :=
  ∀ (i : Issue) (o : XferOp) (a b : CoreId) (s : State), s.Ready qXfer i → s.memoriesWf → wcOk (s.core i.core) →
    (o.lsel = 0 ∨ 4 ≤ o.lsel.toNat) → s.sel i.core o.lsel = some a → pastMem o.laddr.toNat o.len.toNat = false →
    let c := i.core
    let k := s.core c
    let n := o.len.toNat
    (o.dsel = 0 ∨ 4 ≤ o.dsel.toNat) → s.sel c o.dsel = some b →
    (pastMem o.daddr.toNat n = false →
      (n = 0 → ∃ t, exec (.tcopy i o) s = .next t ∧ coreBecomes s t c k) ∧
      (n ≠ 0 → k.tags.length < 256 →
        s.getOverlaps c a o.laddr.toNat n = false → s.getOverlaps c b o.daddr.toNat n = false →
        (calm s ∨ usable s (s.xferReads c a o.laddr.toNat n) (wordsAt b o.daddr.toNat n)) →
        s.mustHold (wordsAt b o.daddr.toNat n ++ wcWords k) = none →
        ∃ t, exec (.tcopy i o) s = .next t ∧ s.sameOutside t ∧
          (∀ x : CoreId, x ≠ c → (t.core x).besideWords = (s.core x).besideWords) ∧
          (t.core c).besideWords = Core.besideWords { k with
            wc := (t.core c).wc, tags := k.tags ++
            [{ tag := k.freeTag, kind := 0, owed := n, lsel := o.dsel, laddr := o.daddr, len := n }] } ∧
          wcOk (t.core c) ∧
          (∀ j < n, t.xferWord c b (o.daddr.toNat + j) = s.xferWord c a (o.laddr.toNat + j)) ∧
          (∀ (x : CoreId) (y : Nat), (x ≠ b ∨ y < o.daddr.toNat ∨ o.daddr.toNat + n ≤ y) →
            t.xferWord c x y = s.xferWord c x y ∧
            (wcFind k.wc x y = none → t.peek x y = s.peek x y)))) ∧
    (s.copyOverlaps c a o.laddr.toNat n = false → s.mustHold (wcWords k) = none →
      ∃ t, exec (.tdrain i o) s = .next t ∧ s.sameOutside t ∧
        (∀ x : CoreId, x ≠ c → (t.core x).besideWords = (s.core x).besideWords) ∧
        (t.core c).besideWords = Core.besideWords { k with wc := k.wc.filter (fun e =>
          !(e.core == a && decide (o.laddr.toNat ≤ e.addr ∧ e.addr < o.laddr.toNat + n))) } ∧
        (∀ (x : CoreId) (y : Nat), t.xferWord c x y = s.xferWord c x y ∧
          t.peek x y = if x = a ∧ o.laddr.toNat ≤ y ∧ y < o.laddr.toNat + n then s.xferWord c x y else s.peek x y))

/-- TSEND and TGET hold the lowest free tag and put their packets in motion: up to 128 words each, at ascending
offsets, with the sender's chip, partition and rank, the class's request channel and the tag (R158, R159, R282, R323,
R324, R332); with LEN = 0 nothing changes. Where an earlier TGET has not written its words they wait (R225); the words
of its own range that the buffer holds are written before a TGET goes out (R225, R229). -/
def Obligations.SendsAndGetsPutTheirPacketsInMotion : Prop :=
  ∀ (i : Issue) (o : XferOp) (a : CoreId) (s : State), s.Ready qXfer i → sendTakes s i o a →
    let c := i.core
    let k := s.core c
    let vc := vcOf o.cls.toNat false
    let wr := s.sendPackets c a o k.freeTag
    let rq := s.getPackets c o k.freeTag
    (o.len = 0 → (∃ t, exec (.tsend i o) s = .next t ∧ coreBecomes s t c k) ∧
      ∃ t, exec (.tget i o) s = .next t ∧ coreBecomes s t c k) ∧
    (o.len ≠ 0 → s.tagFree c o.ack = true → s.getOverlaps c a o.laddr.toNat o.len.toNat = false →
      (calm s ∨ usable s (s.xferReads c a o.laddr.toNat o.len.toNat) []) → routed s vc wr →
      ∃ t, exec (.tsend i o) s = .next t ∧
        sentBy s t c { k with tags := k.tags ++ [sendTag o k.freeTag wr.length] } vc wr) ∧
    (o.len ≠ 0 → s.memoriesWf → s.tagFree c true = true → s.getOverlaps c a o.laddr.toNat o.len.toNat = false →
      s.mustHold (wcWords k) = none → routed s vc rq →
      let mine := fun (x : CoreId) (y : Nat) => x == a && decide (o.laddr.toNat ≤ y ∧ y < o.laddr.toNat + o.len.toNat)
      ∃ t, exec (.tget i o) s = .next t ∧ inMotion s t vc rq ∧
        (∀ x : CoreId, x ≠ c → (t.core x).besideWords = (s.core x).besideWords) ∧
        (t.core c).besideWords = Core.besideWords { k with
          wc := k.wc.filter (fun e => !mine e.core e.addr), tags := k.tags ++ [getTag o k.freeTag rq.length] } ∧
        ∀ (x : CoreId) (y : Nat), t.peek x y = if mine x y then s.xferWord c x y else s.peek x y) ∧
    (o.len ≠ 0 → s.getOverlaps c a o.laddr.toNat o.len.toNat = true →
      (∃ t, exec (.tsend i o) s = .next t ∧ t.transit = s.transit ∧ (t.core c).tags = k.tags ∧
        ((t.core c).queue qXfer).waiting = some i) ∧
      ∃ t, exec (.tget i o) s = .next t ∧ t.transit = s.transit ∧ (t.core c).tags = k.tags ∧
        ((t.core c).queue qXfer).waiting = some i) ∧
    (∀ (n : Nat) (p : Packet), (wr[n]? = some p ∨ rq[n]? = some p) →
      p.dstChip = o.chip.toNat ∧ p.dstPart = o.part.toNat ∧ p.srcChip = s.chipId.toNat ∧
      p.srcPart = (partOf c).val ∧ p.epoch = s.rte.stamp.toNat ∧ p.phase = 0 ∧ p.win = o.win.toNat ∧
      p.length = p.payload.length ∧ p.woff = (o.woff.toNat + 128 * n) % 2 ^ 20 ∧ p.tag = k.freeTag % 256) ∧
    (∀ (n : Nat) (p : Packet), wr[n]? = some p → p.kind = 0 ∧ p.kflags = o.ack.toNat ∧
      p.payload = s.xferWords c a (o.laddr.toNat + 128 * n) (min 128 (o.len.toNat - 128 * n))) ∧
    (∀ (n : Nat) (p : Packet), rq[n]? = some p → p.kind = 2 ∧ p.payload = [] ∧
      p.rlen = min 128 (o.len.toNat - 128 * n)) ∧
    wr.length = (o.len.toNat + 127) / 128 ∧ rq.length = (o.len.toNat + 127) / 128

/-- TWIN opens window WIN of the partition on LEN words of own memory, or closes it; opening with LEN = 0 and
closing a window that is not open change nothing; no word and no core's register changes (R157, R158). A packet held
for the window lands then (R160). -/
def Obligations.WindowsOpenAndClose : Prop :=
  ∀ (i : Issue) (o : XferOp) (s : State), s.Ready qXfer i → o.lsel = 0 → selNames s i.core o.dsel → o.wmode ≠ 3 →
    s.special (partOf i.core) o.win.toNat = false →
    let p := partOf i.core
    let k := s.part p
    (o.wmode = 0 → ∃ t, exec (.twin i o) s = .next t ∧ (∀ x : CoreId, (t.core x).settled = (s.core x).settled) ∧
      s = { t with cores := s.cores, evlog := s.evlog, draws := s.draws, parts := s.parts } ∧
      alGet (t.part p).windows o.win.toNat = none ∧
      (∀ n, n ≠ o.win.toNat → alGet (t.part p).windows n = alGet k.windows n) ∧
      k = { t.part p with windows := k.windows } ∧ ∀ x : PartId, x ≠ p → t.part x = s.part x) ∧
    (o.wmode ≠ 0 → (o.acen = true → o.arrv ≠ 0) → pastMem o.laddr.toNat o.len.toNat = false →
      (o.len = 0 → ∃ t, exec (.twin i o) s = .next t ∧ coreBecomes s t i.core (s.core i.core)) ∧
      (o.len ≠ 0 → s.windowTaken p o.win.toNat = false → k.heldPkts = [] →
        ∃ t, exec (.twin i o) s = .next t ∧ (∀ x : CoreId, (t.core x).settled = (s.core x).settled) ∧
          s = { t with cores := s.cores, evlog := s.evlog, draws := s.draws, parts := s.parts } ∧
          alGet (t.part p).windows o.win.toNat = some {
            wmode := o.wmode, core := i.core, laddr := o.laddr,
            len := o.len, arrv := o.arrv, acnt := o.acnt, acen := o.acen, wsrc := o.wsrc } ∧
          (∀ n, n ≠ o.win.toNat → alGet (t.part p).windows n = alGet k.windows n) ∧
          k = { t.part p with windows := k.windows } ∧ ∀ x : PartId, x ≠ p → t.part x = s.part x))

/-- MSTREAM configures a stream from row 0; MREDUCE opens its region, sets it to +0 under INIT and completes only with
the region; MSEND and a forwarding PASS send their rows of a stream, in order, as MULE_ROWS packets of at most 4,096
bytes, count them, and write no accumulator (R78, R88, R161 to R165, R324, R332). -/
def Obligations.StreamsAndRegionsCarryRows : Prop :=
  ∀ (i : Issue) (s : State), accsWf s →
    let c := i.core
    let k := s.core c
    (∀ o : StreamOp, s.Ready qMule i → o.passes ≠ 0 → o.part.toNat < 12 → ∃ t, exec (.mstream i o) s = .next t ∧
      coreBecomes s t c { k with streams := (t.core c).streams } ∧
      alGet (t.core c).streams o.stream.toNat = some {
        chip := o.chip, part := o.part, win := o.win, cls := o.cls,
        ridx := o.ridxaddr, rsc := o.rscaddr, rscen := o.rscen, passes := o.passes, rows := 0, done := 0 } ∧
      ∀ n, n ≠ o.stream.toNat → alGet (t.core c).streams n = alGet k.streams n) ∧
    (∀ o : ReduceOp, s.Ready qMule i → (o.rows = 0 ∨ o.sources = 0) →
      (k.fixedOrder = true → o.sources.toNat ≤ 128) → ∃ t, exec (.mreduce i o) s = .next t ∧ coreBecomes s t c k) ∧
    (∀ o : ReduceOp, s.Ready qMule i → o.rows ≠ 0 → o.sources ≠ 0 →
      (k.fixedOrder = true → k.reserved + o.sources.toNat ≤ 128) → o.accBase.toNat + o.rows.toNat ≤ 4096 →
      pastMem o.srclist.toNat (wordsFor o.sources.toNat 32) = false → ascending (s.srcList c o) = true →
      s.special (partOf c) o.win.toNat = false → s.windowTaken (partOf c) o.win.toNat = false →
      k.regions.length < 16 → (s.part (partOf c)).heldPkts = [] →
      (calm s ∨ usable s (wordsAt c o.srclist.toNat (wordsFor o.sources.toNat 32)) []) →
      ∃ t, exec (.mreduce i o) s = .next t ∧
        coreBecomes s t c { k with
          regions := k.regions ++ [{ win := o.win, accBase := o.accBase, rows := o.rows, sources := s.srcList c o }],
          array := { k.array with acc := (t.core c).array.acc } } ∧
        (∃ e : Bool, (t.core c).inflight = k.inflight ++
          [{ q := qMule, op := 0xE1, qpos := i.qpos, hdr := { i.hdr with kend := e }, due := .region o.win.toNat }]) ∧
        ∀ x, smGet (t.core c).array.acc x =
          if o.init = true ∧ 128 * o.accBase.toNat ≤ x ∧ x < 128 * (o.accBase.toNat + o.rows.toNat) then 0
          else smGet k.array.acc x) ∧
    (∀ (o : MsendOp) (m : CoreId) (x : Stream), s.Ready qMule i → o.fmt.toNat < 2 → o.w ≠ 3 →
      selNames s c o.msel → (o.src = true → s.sel c o.msel = some m) → (o.src = false → m = c) →
      alGet k.streams o.stream.toNat = some x →
      (o.src = false → o.count ≠ 0 → o.accBase.toNat + o.count.toNat * msendW o ≤ 4096) →
      (o.src = true → pastMem o.maddr.toNat (o.count.toNat * msendRowWords o) = false) →
      streamTakes s c x o.count.toNat →
      (o.count = 0 → ∃ t, exec (.msend i o) s = .next t ∧ coreBecomes s t c k) ∧
      (let n := o.count.toNat
       let rows := s.msendRows c m o
       let rs := s.muleRows c x (o.fmt == 1) rows
       let pkts := s.mulePackets c x (o.fmt == 1) (msendW o) rs.1
       n ≠ 0 → (calm s ∨ usable s ((listWords x.ridx.toNat x.rows n ++
           (if x.rscen then listWords x.rsc.toNat x.rows n else [])).map (fun y => (c, y)) ++
           (if o.src then wordsAt m o.maddr.toNat (n * msendRowWords o) else [])) []) →
       routed s (vcOf x.cls.toNat false) pkts →
       ∃ t, exec (.msend i o) s = .next t ∧
         sentBy s t c { k with flags := k.flags ||| rs.2, streams := (t.core c).streams }
           (vcOf x.cls.toNat false) pkts ∧
         alGet (t.core c).streams o.stream.toNat = some { x with
           rows := if x.done + 1 = x.passes.toNat then 0 else x.rows + n,
           done := if x.done + 1 = x.passes.toNat then 0 else x.done + 1 })) ∧
    (∀ (o : PassOp) (src : CoreId) (wf af : Fmt) (w : Nat) (x : Stream), s.Ready qArray i →
      passTakes s i o src wf af w false → o.fwd = true →
      (o.len ≠ 0 → o.accMode = 1 → o.accBase.toNat + o.len.toNat * w ≤ 4096) →
      alGet k.streams o.fwdStream.toNat = some x → streamTakes s c x (rowsRun s i o src) →
      (calm s ∨ usable s (s.passReads c o ++ s.passFeeds c o) []) →
      let n := rowsRun s i o src
      let tile := (k.array.taken o).1
      let res := (List.range n).map (fun r => (List.range (128 * w)).map (fun y =>
        (columnF (actOf s i o src af r) tile wf (y / w) (y % w)
          (if o.accMode = 1 then k.array.accAt (o.accBase.toNat + r * w + y / 128) (y % 128) else 0)).1))
      let pkts := s.mulePackets c x (o.fwdFmt == 1) w (s.muleRows c x (o.fwdFmt == 1) res).1
      (tile.fmt = o.wfmt ∧ tile.sparse = o.sparse ∨ tile.cells = []) → routed s (vcOf x.cls.toNat false) pkts →
      ∃ t fl, exec (.pass i o {}) s = .next t ∧
        (let a' := (t.core c).array
         sentBy s t c { k with
           flags := k.flags ||| fl, streams := (t.core c).streams, array := { gapEnded k.array a' n with
             active := tile, shadow := if o.swap then none else k.array.shadow, count := none,
             passAt := s.time, passHolds := {},
             rowCount := satAdd k.array.rowCount n, heldKey := some (heldKeyOf o), held := a'.held,
             reuse := a'.reuse } } (vcOf x.cls.toNat false) pkts) ∧
        alGet (t.core c).streams o.fwdStream.toNat = some { x with
          rows := if x.done + 1 = x.passes.toNat then 0 else x.rows + n,
          done := if x.done + 1 = x.passes.toNat then 0 else x.done + 1 })

/-! ### Completion, memory and its power states -/

namespace Sys2Proof.Machine.Claims

/-- Only core `c` differs, and it is `k`; what is logged is not said. -/
def onlyCore (s t : State) (c : CoreId) (k : Core) : Prop :=
  s.sameOutside t ∧ t.core c = k ∧ ∀ x : CoreId, x ≠ c → t.core x = s.core x

/-- What the two increments of a header add to a counter (R256). -/
def incOf (h : Header) (n : BitVec 5) : BitVec 12 :=
  (if h.i0en = true ∧ h.i0ctr = n then 1 else 0) + (if h.i1en = true ∧ h.i1ctr = n then 1 else 0)

end Sys2Proof.Machine.Claims

/-- An instruction completes once what it waits for has come, and a kernel end only after every earlier instruction of
its queue: it leaves the instructions in flight, its increments take effect, a PASS is counted, a TCOPY's or TSEND's
tag is released; the kernel end of the transfer queue empties the write-combine buffer into the banks, and that of the
array queue discards the held words. One that may not complete changes nothing (R92, R226, R231, R256). -/
def Obligations.CompletionTakesEffect : Prop :=
  ∀ (c : CoreId) (q : QueueId) (n : BitVec 16) (s : State) (b a : List InFlight) (f : InFlight),
    (s.core c).inflight = b ++ f :: a → f.q = q → f.qpos = n → (∀ x ∈ b, x.q ≠ q ∨ x.qpos ≠ n) →
    let k := s.core c
    let may := f.due.met = true ∧ (f.hdr.kend = true → ∀ x ∈ b, x.q ≠ q)
    (¬ may → exec (.instrComplete c q n) s = .next s) ∧
    (may → ∃ t, exec (.instrComplete c q n) s = .next t ∧ s.sameOutside t ∧
      (f.hdr.kend = false ∨ q ≠ qXfer ∨ s.mustHold (k.wc.map (fun e => (e.core, e.addr))) = none → t.evlog = s.evlog ∧
        ∀ x : CoreId, x ≠ c → (t.core x).besideWords = (s.core x).besideWords) ∧
      (t.core c).inflight = b ++ a ∧ (t.core c).vec = k.vec ∧ (t.core c).flags = k.flags ∧
      (∀ m : BitVec 5, (t.core c).counter m = { k.counter m with count := (k.counter m).count + incOf f.hdr m }) ∧
      (t.core c).array.acc = k.array.acc ∧ (t.core c).array.active = k.array.active ∧
      (t.core c).array.passCount = (if f.due = .pass then satAdd k.array.passCount 1 else k.array.passCount) ∧
      (t.core c).tags = (match f.due with
        | .release x => k.tags.filter (·.tag != x)
        | _ => k.tags) ∧
      (f.hdr.kend = true → q = qXfer → (t.core c).wc = []) ∧
      (f.hdr.kend = true → q = qArray → (t.core c).array.held = [] ∧ (t.core c).array.heldKey = none) ∧
      (f.hdr.kend = false ∨ q ≠ qXfer → (t.core c).wc = k.wc ∧ s.sameWords t) ∧
      (s.memoriesWf → (k.wc.map (fun e => (e.core, e.addr))).Nodup → f.hdr.kend = true → q = qXfer →
        s.mustHold (k.wc.map (fun e => (e.core, e.addr))) = none → ∀ (x : CoreId) (y : Nat), t.peek x y = s.xferWord c x y))

/-- One step of the array's ramp-down: dummy operation for 64 cc before the first and 8 cc before the others, up to
step 16, and for 8 cc after that one until the array is idle; it does not begin while a PASS or an EWISE whose waits
are met stands at the head, nor while one runs (R86, R97). -/
def Obligations.RampDownTakesOneStep : Prop :=
  ∀ (c : CoreId) (s : State),
    let a := (s.core c).array
    let held := (s.core c).arrayReady = true ∨ ∃ f ∈ (s.core c).inflight, f.q = qArray ∧ (f.op = 0x20 ∨ f.op = 0x22)
    ((held ∨ a.rampStep = 16 ∧ a.state ≠ 5) → exec (.arrayRampDown c) s = .next s) ∧
    (¬ held → a.rampStep.toNat < 16 →
      ∃ t, exec (.arrayRampDown c) s = .next t ∧ onlyCore s t c { s.core c with array := { a with
        rampStep := a.rampStep + 1, dummy := satAdd a.dummy (if a.rampStep = 0 then 64 else 8),
        state := if a.state = 7 then 7 else 5 } } ∧ t.evlog = s.evlog) ∧
    (¬ held → a.rampStep = 16 → a.state = 5 →
      ∃ t, exec (.arrayRampDown c) s = .next t ∧ onlyCore s t c { s.core c with array := { a with
        dummy := satAdd a.dummy 8, state := 0 } } ∧ t.evlog = s.evlog)

/-- SCRUB_READ moves to the bank's next row; a correctable word is counted and logged as a scrub's and its write-back
is pending, an uncorrectable one is recorded with UNC_SCRUB and logged, and no step stops. CORRECTED_WRITEBACK writes
the word as it was corrected, with fresh check bytes, if it is still pending. Neither changes what any word reads as,
as long as that word still reads as it was corrected (R207, R208, R222, R223). -/
def Obligations.ScrubbingFindsAndRepairs : Prop :=
  ∀ (c : CoreId) (s : State), s.memoriesWf →
    let k := s.core c
    let m := k.memory
    (∀ bank : Fin 64,
      let row := (smGet m.scrubRow bank.val).toNat
      let w := m.wordOf bank row
      (m.scrub = 0 ∨ m.groupOn w = false → exec (.scrubRead c bank) s = .next s) ∧
      (m.scrub ≠ 0 → m.groupOn w = true → s.domains[c.val]! = 0 →
        ∃ t, exec (.scrubRead c bank) s = .next t ∧ s.sameOutside t ∧ s.sameWords t ∧
          (∀ x : CoreId, x ≠ c → t.core x = s.core x) ∧
          (m.check w = .good → t.core c = { k with memory := { m with
            scrubRow := smSet m.scrubRow bank.val (BitVec.ofNat 14 (row + 1)) } } ∧ t.evlog = s.evlog) ∧
          (∀ syms, m.check w = .corrected syms → (t.core c).memory.eccCorr = satAdd m.eccCorr 1 ∧
            (t.core c).memory.logScrub = true ∧ (t.core c).memory.logAddr = BitVec.ofNat 20 w ∧
            (∃ x ∈ (t.core c).memory.writeback, x.1 = w) ∧
            ((∀ x ∈ m.writeback, x.1 ≠ w) → (w, m.peek w) ∈ (t.core c).memory.writeback) ∧
            (k.marks.eccCorr = false → logged s t 0x0001 (srcCore c) w syms.length 0 0)) ∧
          (m.check w = .bad → (t.core c).memory.unValid = true ∧
            (m.unValid = false → (t.core c).memory.unAddr = BitVec.ofNat 20 w ∧ (t.core c).memory.unScrub = true) ∧
            logged s t 0x0003 (srcCore c) w 0 0 0))) ∧
    (∀ a : BitVec 20,
      (((∀ x ∈ m.writeback, x.1 ≠ a.toNat) ∨ m.groupOn a.toNat = false) → exec (.correctedWriteback c a) s = .next s) ∧
      (∀ v, m.writeback.find? (·.1 == a.toNat) = some (a.toNat, v) → m.groupOn a.toNat = true →
        ∃ t, exec (.correctedWriteback c a) s = .next t ∧
          onlyCore s t c { k with memory := m.write a.toNat v } ∧ t.evlog = s.evlog ∧
          t.peek c a.toNat = v ∧ (m.peek a.toNat = v → s.sameWords t) ∧ (t.core c).memory.check a.toNat = .good))

/-- A bank group's requests: a request for ON starts the wake of a sleeping group and cancels one that waits,
requests for retention and off wait for the group to be free; code 3 and, under ILV 0, groups above 0 take none,
and the safety partition keeps its memory ON (R212, R213, R219, R371). A group enters the state of its request
when no access to it is outstanding: its words keep their values in retention, and read as zero from then on that it
is off. The end of a wake turns it ON, and ZEROED shows a wake from off; a control block's write that was held is
made, and an instruction that is held stays so until its queue presents it (R211 to R213, R220; the partition is not
RUNNING). -/
def Obligations.BankGroupsSleepWakeAndHold : Prop :=
  (∀ (c : CoreId) (g : Fin 8) (s : State),
     let k := s.core c
     let m := k.memory
     (m.ilv = false → g ≠ 0 → ∀ i ∈ [Instr.bgReqOn c g, .bgReqRetention c g, .bgReqOff c g],
       ∃ t, exec i s = .next t ∧ onlyCore s t c k) ∧
     (s.safety = true → partOf c = 0 → exec (.bgReqRetention c g) s = .next s ∧ exec (.bgReqOff c g) s = .next s) ∧
     (m.ilv = true ∨ g = 0 →
       (m.bgState[g] = 1 ∨ m.bgState[g] = 2 → ∃ t, exec (.bgReqOn c g) s = .next t ∧
         onlyCore s t c { k with memory := { m with
           bgState := m.bgState.set g 3, bgFromOff := m.bgFromOff.set g (m.bgState[g] == 2),
           bgReq := m.bgReq.set g 0 } }) ∧
       (m.bgState[g] = 0 ∨ m.bgState[g] = 3 → ∃ t, exec (.bgReqOn c g) s = .next t ∧
         onlyCore s t c { k with memory := { m with bgReq := m.bgReq.set g 0 } }) ∧
       (¬ (s.safety = true ∧ partOf c = 0) →
         (∃ t, exec (.bgReqRetention c g) s = .next t ∧
           onlyCore s t c { k with memory := { m with bgReq := m.bgReq.set g 1 } }) ∧
         (∃ t, exec (.bgReqOff c g) s = .next t ∧
           onlyCore s t c { k with memory := { m with bgReq := m.bgReq.set g 2 } })))) ∧
  (∀ (c : CoreId) (g : Fin 8) (s : State),
     let k := s.core c
     let m := k.memory
     (s.groupBusy c g = true → exec (.bgEnterState c g) s = .next s) ∧
     (s.groupBusy c g = false →
       let e := if m.ilv = false ∧ g ≠ 0 then m.bgState[g]
         else if m.bgState[g] = 0 then m.bgReq[g]
         else if m.bgState[g] = 1 ∧ m.bgReq[g] = 2 then 2 else m.bgState[g]
       ∃ t, exec (.bgEnterState c g) s = .next t ∧
         (let m' := (t.core c).memory
          onlyCore s t c { k with memory := { m with
            bgState := m.bgState.set g e, mem := m'.mem, flips := m'.flips, writeback := m'.writeback } }) ∧
         (e ≠ 2 → s.sameWords t ∧ (t.core c).memory.writeback = m.writeback) ∧
         (s.memoriesWf → e = 2 → ∀ a, t.peek c a = if m.group a = g then 0 else s.peek c a)) ∧
     ((s.part (partOf c)).state ≠ 3 →
       (m.bgState[g] ≠ 3 → exec (.bgWakeDone c g) s = .next s) ∧
       (∀ (b : List Held) (ws : List (Nat × MWord)) (src : Nat), m.bgState[g] = 3 →
         m.held.filter (Held.inGroup g.val) = ws.map (fun x => .write x.1 x.2 (~~~0) src g.val) ++ b →
         (∀ h ∈ b, ∃ y q, h = .instr y q g.val) → (ws.map (·.1)).Nodup →
         ∃ t, exec (.bgWakeDone c g) s = .next t ∧ s.sameOutside t ∧ (∀ x : CoreId, x ≠ c → t.core x = s.core x) ∧
           (t.core c).memory.bgState = m.bgState.set g 0 ∧
           (t.core c).memory.held = b ++ m.held.filter (fun h => !(Held.inGroup g.val h)) ∧
           (t.core c).vec = k.vec ∧ (t.core c).array = k.array ∧
           (∀ x ∈ ws, t.peek c x.1 = x.2) ∧ (∀ a, (∀ x ∈ ws, x.1 ≠ a) → t.peek c a = s.peek c a) ∧
           (m.bgFromOff[g] = false → (t.core c).memory.zeroed = m.zeroed) ∧
           (m.bgFromOff[g] = true → m.ilv = true → (t.core c).memory.zeroed = m.zeroed ||| (1#8 <<< g.val)) ∧
           (m.bgFromOff[g] = true → m.ilv = false → (t.core c).memory.zeroed = 0xFF))))
/-! ### Packets at their partition and core -/

namespace Sys2Proof.Machine.Claims

/-- A well-formed packet of a kind for a partition whose cores are ON (R323, R325, R476). -/
def packetFor (s : State) (q : Packet) (kind : Nat) (p : PartId) : Prop :=
  q.kind = kind ∧ Packet.bad q = false ∧ q.dstPart = p.val ∧ (s.part p).sleepState = 0

/-- The state when the packet has left the spines. -/
def arrived (s : State) (q : Packet) : State := (s.arrive q).2

/-- The channel that a request's answer takes: the response channel of its class (R282). -/
def answerVc (s : State) (q : Packet) : Fin 8 := vcOf ((s.arrive q).1.val / 2) true

/-- The packets in motion once the packet has left them and an answer has been sent, where it has a route. -/
def answeredWith (s t : State) (q a : Packet) : Prop :=
  t.transit = (arrived s q).transit ++
    (if s.isHere a then [{ vc := answerVc s q, pkt := a, path := ownPath (answerVc s q) a none }]
     else match s.route (answerVc s q) a with
       | some l => [{ vc := answerVc s q, pkt := a, link := some l, path := ownPath (answerVc s q) a (some l) }]
       | none => [])

/-- The WRITE_ACK of a WRITE (R324). -/
def ackOf (s : State) (p : PartId) (q : Packet) (status : Nat) : Packet :=
  mkPacket s p 0 q.srcChip q.srcPart 1 0 0 [(64, 4, status), (68, 3, q.srcRank), (84, 8, q.tag)] []

/-- The READ_RESP of a READ_REQ, whose words lie `off` words into its TGET (R324). -/
def respOf (s : State) (p : PartId) (rank : Nat) (q : Packet) (status off : Nat) (ws : List MWord) : Packet :=
  mkPacket s p rank q.srcChip q.srcPart 3 0 0
    [(64, 4, status), (68, 3, q.srcRank), (84, 8, q.tag), (100, 20, off)] ws

/-- Accumulator value `y` once the rows of a packet have been added in order: row `i` covers the values of `w`
accumulator rows from row `base + i × w` (R164). -/
def rowsAdded (base w y : Nat) (v : BitVec 32) : List (Nat × List (BitVec 32)) → BitVec 32
  | [] => v
  | (i, vs) :: t =>
    let e := 128 * (base + i * w)
    rowsAdded base w y (if e ≤ y ∧ y < e + 128 * w then (f32Add v (vs.getD (y - e) 0)).1 else v) t

/-- A core once a tag has had its last answer, or one answer fewer is owed (R159). -/
def tagAnswered (k : Core) (x : Tag) : Core :=
  if x.owed ≤ 1 then
    { k with
      tags := k.tags.filter (fun y => y.tag != x.tag),
      inflight := k.inflight.map (fun f => if f.due = .tag x.tag then { f with due := .now } else f) }
  else { k with tags := k.tags.map (fun y => if y.tag = x.tag then { x with owed := x.owed - 1 } else y) }

end Sys2Proof.Machine.Claims

/-- A WRITE whose window is open and whose checks pass lands: its words from the window's base plus its offset, every
other word as before; its words count towards the window's arrivals, the counter grows by the arrivals' number, and a
WRITE with ACK is answered OK. A READ_REQ is answered with the words it names, at the offset that its tag gives where
the tag is this chip's, and changes none. A packet that fails a check is discarded, logged and answered (R158, R160,
R239; where the request of another chip lies in its TGET is left open, Assumption 21). -/
def Obligations.PacketsLandInTheirWindows : Prop :=
  ∀ (q : Packet) (p : PartId) (w : Window) (s : State), s.memoriesWf → s.special p q.win = false →
    alGet (s.part p).windows q.win = some w →
    let a := w.laddr.toNat + q.woff
    let k := s.part p
    let src := srcPart p
    (packetFor s q 0 p → s.windowStatus p w q q.length = 0 → s.mustHold (wordsAt w.core a q.length) = none →
      let n := if w.acen = true ∧ w.arrv ≠ 0 then (w.count + q.length) / w.arrv.toNat else 0
      let left := if w.acen = true ∧ w.arrv ≠ 0 then (w.count + q.length) % w.arrv.toNat else w.count
      ∃ t, exec (.rxWrite q) s = .next t ∧
        s = { t with cores := s.cores, parts := s.parts, transit := s.transit } ∧
        (∀ j < q.length, t.peek w.core (a + j) = q.payload.getD j 0) ∧
        (∀ (c : CoreId) (y : Nat), (c ≠ w.core ∨ y < a ∨ a + q.length ≤ y) → t.peek c y = s.peek c y) ∧
        (∀ c : CoreId, c ≠ w.core → t.core c = s.core c) ∧
        (t.core w.core).besideWords =
          Core.besideWords ({ s.core w.core with counters := (t.core w.core).counters }) ∧
        (∀ m : BitVec 5, (t.core w.core).counter m = { (s.core w.core).counter m with
          count := ((s.core w.core).counter m).count + (if m = w.acnt then BitVec.ofNat 12 n else 0) }) ∧
        alGet (t.part p).windows q.win = some { w with count := left } ∧
        (∀ x, x ≠ q.win → alGet (t.part p).windows x = alGet k.windows x) ∧
        k = { t.part p with windows := k.windows } ∧ (∀ x : PartId, x ≠ p → t.part x = s.part x) ∧
        (q.kflags % 2 = 1 → answeredWith s t q (ackOf s p q 0)) ∧
        (q.kflags % 2 = 0 → t.transit = (arrived s q).transit)) ∧
    (packetFor s q 2 p → s.windowStatus p w q q.rlen = 0 → 0 < q.rlen → q.rlen ≤ 128 →
      s.mustHold (wordsAt w.core a q.rlen) = none → s.readable (wordsAt w.core a q.rlen) →
      ∃ t off, exec (.rxReadReq q) s = .next t ∧
        s = { t with cores := s.cores, evlog := s.evlog, transit := s.transit, draws := s.draws } ∧ s.sameWords t ∧
        (∀ c : CoreId, (t.core c).settled = (s.core c).settled) ∧
        answeredWith s t q (respOf s p (s.rankOf w.core) q 0 off (s.peekMany w.core a q.rlen)) ∧
        (∀ (p' : PartId) (c : CoreId) (x : Tag), q.srcChip = s.chipId.toNat → q.srcPart = p'.val →
          s.coreOfRank p' q.srcRank = some c →
          (s.core c).tags.find? (fun y => y.tag == q.tag && y.kind == 2) = some x → off = q.woff - x.woff.toNat)) ∧
    (∀ st, (st = 1 ∨ st = 2) →
      (packetFor s q 0 p → s.windowStatus p w q q.length = st →
        ∃ t, exec (.rxWrite q) s = .next t ∧ s = { t with evlog := s.evlog, transit := s.transit } ∧
          logged s t 0x0009 src q.win q.srcChip q.srcPart (if st = 1 then stDENIED else stBOUNDS) ∧
          (q.kflags % 2 = 1 → answeredWith s t q (ackOf s p q st))) ∧
      (packetFor s q 2 p → s.windowStatus p w q q.rlen = st →
        ∃ t, exec (.rxReadReq q) s = .next t ∧ s = { t with evlog := s.evlog, transit := s.transit } ∧
          logged s t 0x0009 src q.win q.srcChip q.srcPart (if st = 1 then stDENIED else stBOUNDS) ∧
          answeredWith s t q (respOf s p 0 q st 0 [])))

/-- An answer reaches the core it names: a WRITE_ACK of a TSEND, or a READ_RESP of a TGET, whose words are written
where the TGET says. The tag is released with its last answer and its instruction may complete. An answer that is
DENIED or BOUNDS stops the queue and the step; one whose tag is not outstanding is counted and discarded (R159,
R344). A write into the safety partition's window 0xFF, by that partition, writes its register (R370). The rows
of a MULE_ROWS packet for an open region are added to its accumulator rows, one rounding per value and in the
packet's order; the region is closed once every source has ended, and its MREDUCE may complete. In fixed order a
row waits for the sources before its own. A row of an unlisted source is counted and discarded (R164, R166). -/
def Obligations.AnswersAndRowsReachTheirCores : Prop :=
  ((∀ (q : Packet) (p : PartId) (c : CoreId) (s : State), s.memoriesWf → Packet.bad q = false → q.dstPart = p.val →
     s.coreOfRank p q.dstRank = some c →
     let k := s.core c
     let u := arrived s q
     (q.kind = 1 → k.tagOf q.tag = none →
       ∃ t, exec (.rxWriteAck q) s = .next t ∧ onlyCore u t c { k with xferLate := satAdd k.xferLate 1 }) ∧
     (q.kind = 3 → k.tagOf q.tag = none →
       ∃ t, exec (.rxReadResp q) s = .next t ∧ onlyCore u t c { k with xferLate := satAdd k.xferLate 1 }) ∧
     (∀ x : Tag, k.tagOf q.tag = some x →
       (q.kind = 1 → x.kind = 1 → x.ack = true → q.status = 0 →
         ∃ t, exec (.rxWriteAck q) s = .next t ∧ onlyCore u t c (tagAnswered k x)) ∧
       (∀ m : CoreId, q.kind = 3 → x.kind = 2 → q.status = 0 → s.sel c x.lsel = some m →
         let a := x.laddr.toNat + q.roff
         s.mustHold (wordsAt m a q.length) = none →
         ∃ t, exec (.rxReadResp q) s = .next t ∧ u.sameOutside t ∧ t.evlog = s.evlog ∧
           (∀ j < q.length, t.peek m (a + j) = q.payload.getD j 0) ∧
           (∀ (y : CoreId) (z : Nat), (y ≠ m ∨ z < a ∨ a + q.length ≤ z) → t.peek y z = s.peek y z) ∧
           (∀ y : CoreId, y ≠ c → (t.core y).besideWords = (s.core y).besideWords) ∧
           (t.core c).besideWords = Core.besideWords (tagAnswered k x) ∧
           (t.core c).tags = (tagAnswered k x).tags ∧ (t.core c).inflight = (tagAnswered k x).inflight) ∧
       (running s p → q.status = 1 ∨ q.status = 2 → ∀ i ∈ [Instr.rxWriteAck q, .rxReadResp q],
         (i = .rxWriteAck q → q.kind = 1 ∧ x.kind = 1 ∧ x.ack = true) → (i = .rxReadResp q → q.kind = 3 ∧ x.kind = 2) →
         ∃ t, exec i s = .next t ∧ s.sameWords t ∧ (t.core c).tagOf q.tag = none ∧
           ((t.core c).queue qXfer).state = 4 ∧
           stopped s t p (if q.status = 1 then stDENIED else stBOUNDS) (if q.status = 1 then 6 else 3) ∧
           logged s t 0x0008 (srcCore c) x.tag (if q.status = 1 then stDENIED else stBOUNDS) 0 0))) ∧
   (∀ (q : Packet) (s : State), packetFor s q 0 0 → s.safety = true → q.win = 0xFF →
     let w := q.payload.headD 0
     let a := (wordLane w 0).toNat
     let u := arrived s q
     (q.srcChip = s.chipId.toNat → q.srcPart = 0 → q.length = 1 →
       (protectedBits a = 0 → ∃ t, exec (.sheepdogWrite q) s = .next t ∧
         s = { t with evlog := s.evlog, transit := s.transit } ∧ logged s t 0x0019 (srcPart 0) a 0 0 0 ∧
         (q.kflags % 2 = 1 → answeredWith s t q (ackOf s 0 q 0))) ∧
       (protectedBits a ≠ 0 → ∃ t, exec (.sheepdogWrite q) s = .next t ∧
         t = { (u.writeReg a (wordLane w 1) (wordLane w 2)).2 with transit := t.transit })) ∧
     (q.srcChip ≠ s.chipId.toNat ∨ q.srcPart ≠ 0 ∨ q.length ≠ 1 → ∃ t, exec (.sheepdogWrite q) s = .next t ∧
       s = { t with evlog := s.evlog, transit := s.transit } ∧
       logged s t 0x0009 (srcPart 0) q.win q.srcChip q.srcPart stDENIED))) ∧
  (∀ (q : Packet) (p : PartId) (c : CoreId) (r : Region) (s : State), packetFor s q 4 p → s.special p q.win = false →
     (s.part p).heldPkts = [] → s.regionAt p q.win = some (c, r) → q.field 46 2 ≠ 3 → r.held = [] → accsWf s →
     let k := s.core c
     let w := if q.field 46 2 = 0 then 1 else if q.field 46 2 = 1 then 2 else 4
     let fin := q.kflags % 2 = 1 ∧ q.source ∉ r.ended
     let ended := if fin then q.source :: r.ended else r.ended
     (q.source ∈ r.sources → k.fixedOrder = false → (∀ x ∈ q.rows, (x.1 + 1) * w ≤ r.rows.toNat) →
       ∃ t, exec (.rxMuleRows q) s = .next t ∧ (arrived s q).sameOutside t ∧ t.evlog = s.evlog ∧ s.sameWords t ∧
         (∀ x : CoreId, x ≠ c → t.core x = s.core x) ∧ (t.core c).vec = k.vec ∧ (t.core c).memory = k.memory ∧
         (∀ y, smGet (t.core c).array.acc y = rowsAdded r.accBase.toNat w y (smGet k.array.acc y) q.rows) ∧
         ((∃ x ∈ r.sources, x ∉ ended) → (t.core c).inflight = k.inflight ∧
           (t.core c).regions = k.regions.map (fun x => if x.win = r.win then { r with
             ended := ended, added := (q.rows.map (fun y => (q.source, y.1))).reverse ++ r.added } else x)) ∧
         ((∀ x ∈ r.sources, x ∈ ended) → (t.core c).regions = k.regions.filter (fun x => x.win != r.win) ∧
           (t.core c).inflight = k.inflight.map (fun f =>
             if f.due = .region r.win.toNat then { f with due := .now } else f))) ∧
     (∀ (i j : Nat) (vs : List (BitVec 32)), q.rows = [(i, vs)] → r.sources.findIdx? (· == q.source) = some j →
       k.fixedOrder = true → (∃ x ∈ r.sources.take j, x ∉ r.ended ∧ (x, i) ∉ r.added) → (i + 1) * w ≤ r.rows.toNat →
       q.length ≤ 128 → q.kflags % 2 = 0 →
       ∃ t, exec (.rxMuleRows q) s = .next t ∧ (arrived s q).sameOutside t ∧ (t.core c).array = k.array ∧
         (t.core c).regions = k.regions.map (fun x => if x.win = r.win then { r with
           held := [{ src := j, row := i, w := w, size := q.length * 32, vals := vs }] } else x)) ∧
     (q.source ∉ r.sources → (∃ x ∈ r.sources, x ∉ r.ended) →
       ∃ t, exec (.rxMuleRows q) s = .next t ∧ (arrived s q).sameOutside t ∧ s.sameWords t ∧
         (t.core c).array = k.array ∧ (t.core c).muleDiscard = satAdd k.muleDiscard q.rows.length ∧
         (k.marks.muleRow = false → ∀ x ∈ q.rows.head?, logged s t 0x000A (srcCore c) q.win q.source x.1 0)))
/-! ### Limits on waits -/

/-- A wait that lasts too long: a packet held for a closed window is discarded and answered DENIED (R160); a tag that
has no answer, a reduce region that no row reaches, a barrier wait and a wait of any other kind stop their queue and
the partition's step, with TIMEOUT (CAUSE 6, 6, 5) or STALL (CAUSE 4), each counted or logged (R166, R241, R265,
R344; the ring's wait for requests is not watched, R407); a ROUTE NOTICE stops the step of a partition that runs, with
ROUTE_BROKEN (CAUSE 7, R347). Whatever has nothing to stop changes nothing. No word of any memory changes. -/
def Obligations.WaitLimitsStopTheStep : Prop :=
  (∀ (p : PartId) (n : Nat) (s : State),
    ((s.part p).heldPkts.length ≤ n → exec (.windowHoldTimeout p n) s = .next s) ∧
    (∀ (vc : Fin 8) (q : Packet), (s.part p).heldPkts[n]? = some (vc, q) →
      (s.windowTaken p q.win = true → exec (.windowHoldTimeout p n) s = .next s) ∧
      (s.windowTaken p q.win = false → ∃ t, exec (.windowHoldTimeout p n) s = .next t ∧
        s = { t with parts := s.parts, evlog := s.evlog, transit := s.transit } ∧
        t.part p = { s.part p with heldPkts := (s.part p).heldPkts.eraseIdx n } ∧
        (∀ x : PartId, x ≠ p → t.part x = s.part x) ∧
        logged s t 0x0009 (srcPart p) q.win q.srcChip q.srcPart stDENIED ∧
        (q.kind = 0 → q.kflags % 2 = 1 →
          t.transit = (s.reply (vcOf (vc.val / 2) true) (ackOf s p q 1)).transit) ∧
        (q.kind = 2 → t.transit = (s.reply (vcOf (vc.val / 2) true) (respOf s p 0 q 1 0 [])).transit) ∧
        (q.kind ≠ 2 → (q.kind = 0 → q.kflags % 2 = 0) → t.transit = s.transit)))) ∧
  (∀ (c : CoreId) (s : State), running s (partOf c) →
    let k := s.core c
    let p := partOf c
    (∀ tag : BitVec 8,
      (k.tagOf tag.toNat = none → exec (.remoteTimeout c tag) s = .next s) ∧
      (∀ x, k.tagOf tag.toNat = some x → x.kind = 2 ∨ x.ack = true →
        ∃ t, exec (.remoteTimeout c tag) s = .next t ∧ s.sameWords t ∧ (t.core c).tagOf tag.toNat = none ∧
          ((t.core c).queue qXfer).state = 4 ∧ stopped s t p stTIMEOUT 6 ∧
          logged s t 0x0008 (srcCore c) tag.toNat stTIMEOUT 0 0)) ∧
    (∀ win : BitVec 8,
      ((∀ r ∈ k.regions, r.win ≠ win) → exec (.mreduceTimeout c win) s = .next s) ∧
      ((∃ r ∈ k.regions, r.win = win) → ∃ t, exec (.mreduceTimeout c win) s = .next t ∧ s.sameWords t ∧
        (t.core c).regions = k.regions.filter (fun r => r.win != win) ∧ (t.core c).array = k.array ∧
        ((t.core c).queue qMule).state = 4 ∧ stopped s t p stTIMEOUT 6)) ∧
    (∀ q : QueueId,
      ((k.queue q).waiting = none →
        exec (.barrierTimeout c q) s = .next s ∧ exec (.watchdogExpiry c q) s = .next s) ∧
      (∀ i : Issue, (k.queue q).waiting = some i →
        (i.hdr.bar = true → i.hdr.w0en = true → (k.counter i.hdr.w0ctr).met i.hdr.w0tgt = false →
          ∃ t, exec (.barrierTimeout c q) s = .next t ∧ s.sameWords t ∧ stopped s t p stTIMEOUT 5 ∧
            (t.part p).barExpired = satAdd (s.part p).barExpired 1 ∧
            (∀ g, (s.part p).prog = some g → loggedAfter s t 0x000E (srcCore c) g.flock.toNat q.val i.qpos.toNat 0)) ∧
        (i.hdr.bar = false ∨ i.hdr.w0en = false ∨ (k.counter i.hdr.w0ctr).met i.hdr.w0tgt = true →
          exec (.barrierTimeout c q) s = .next s) ∧
        (∀ n, k.watched (s.ringCore c) i.hdr = some n → ∃ t, exec (.watchdogExpiry c q) s = .next t ∧ s.sameWords t ∧
          stopped s t p stSTALL 4 ∧ (t.part p).wdExpired = satAdd (s.part p).wdExpired 1 ∧
          (q = qArray → (t.core c).array.state = 7) ∧ (q ≠ qArray → ((t.core c).queue q).state = 4) ∧
          loggedAfter s t 0x000F (srcCore c) q.val i.qpos.toNat n 0) ∧
        (s.ringCore c = true → (i.hdr.w0en = true → i.hdr.w0ctr = 31) → (i.hdr.w1en = true → i.hdr.w1ctr = 31) →
          k.watched (s.ringCore c) i.hdr = none) ∧
        (k.watched (s.ringCore c) i.hdr = none → q = qVec → (k.queue q).state = 3 →
          ∃ t, exec (.watchdogExpiry c q) s = .next t ∧ s.sameWords t ∧ stopped s t p stSTALL 4 ∧
            ((t.core c).queue q).state = 4 ∧ loggedAfter s t 0x000F (srcCore c) q.val i.qpos.toNat 0 0) ∧
        (k.watched (s.ringCore c) i.hdr = none → ¬ (q = qVec ∧ (k.queue q).state = 3) →
          exec (.watchdogExpiry c q) s = .next s)))) ∧
  (∀ (q : Packet) (p : PartId) (s : State), q.kind = 6 → Packet.bad q = false → q.dstPart = p.val →
    let u := arrived s q
    (running s p → ∃ t, exec (.rxNotice q) s = .next t ∧ s.sameWords t ∧ t.transit = u.transit ∧
      stopped s t p stBROKEN 7 ∧
      logged s t 0x0016 (srcPart p) 0xFFFFFFFF (q.field 64 14) (q.field 82 14) 0) ∧
    ((s.part p).state.toNat < 3 → exec (.rxNotice q) s = .next u))

/-! ### Partitions: steps, start, sleep and wake -/

namespace Sys2Proof.Machine.Claims

/-- A partition whose controller finds nothing to start: no serving mode, or batch mode with no request (R395). -/
def nothingWaits (k : Part) : Prop :=
  (k.ls.paired = false ∨ k.ls.follower = false) ∧
  (k.srvMode = 0 ∨ (k.srvMode = 1 ∧ k.runEmpty = false ∧ k.slots = [] ∧ k.endedNext = []))

/-- The partition's cores are in a state: 0 ON, 1 RETENTION, 2 OFF (R472, R474). -/
def domainsAre (s t : State) (p : PartId) (x : BitVec 2) : Prop :=
  (∀ c ∈ s.ranks p, t.domains[c.val]! = x) ∧ ∀ n, (∀ c ∈ s.ranks p, c.val ≠ n) → t.domains[n]! = s.domains[n]!

end Sys2Proof.Machine.Claims

/-- A step ends once every queue has presented its last instruction and none is in flight, as a kernel end of every
queue: write-combine buffers are
empty and no queue waits, the step is counted, and a counter that received fewer increments than its STRIDE is
logged. A partition that is STOPPING, or that has such a counter, is then STOPPED with CAUSE 1 or 8 and its
PART_STOPs complete. A result table with a fault stops the step with FAULT (R232, R263, R364, R395, R398). What a
result entry does to its ACTIVE request (R393, R398, R400, R401, R405): the tenant is charged the rows that ran;
the position moves by the prompt rows, or by the accepted drafts and one; the output takes the values up to what
MAXOUT leaves; a request that finished or has its output is DONE, LATE after its deadline, and any other stays
ACTIVE. A CANCELLING request is DONE with CANCELLED and keeps only what was released. -/
def Obligations.StepsEndAndMoveTheirRequests : Prop :=
  (∀ (p : PartId) (s : State),
     let k := s.part p
     (s.stepDone p = false → exec (.stepEnd p) s = .next s) ∧
     (s.stepDone p = true → k.srvMode = 0 → k.ls.paired = false →
       let short (c : CoreId) (n : BitVec 5) : Bool := ((s.core c).counter n).short
       let hold := k.strideHold || (s.ranks p).any (fun c => (List.range 32).any (fun n => short c (BitVec.ofNat 5 n)))
       (k.state = 4 ∨ hold = true) → (∀ n r, (n, r) ∈ k.slots → r.state = .done) →
       ∃ t, exec (.stepEnd p) s = .next t ∧
         (t.part p).state = 1 ∧ (t.part p).cause = (if hold then 8 else 1) ∧ (t.part p).stepping = false ∧
         (t.part p).steps = k.steps + 1 ∧ (t.part p).stops = [] ∧ (t.part p).strideHold = hold ∧
         t.ports = (s.respondAll 0x30 stOK [1] k.stops).ports ∧
         (∀ x : PartId, x ≠ p → t.part x = s.part x) ∧
         (∀ c ∈ s.ranks p, (t.core c).wc = [] ∧ (t.core c).array.held = [] ∧ (t.core c).array.acc = (s.core c).array.acc ∧
           (∀ q : QueueId, ((t.core c).queue q).state = 0 ∧ ((t.core c).queue q).waiting = none) ∧
           (t.core c).counters = (s.core c).counters ∧ (t.core c).vec = (s.core c).vec) ∧
         (s.memoriesWf → ∀ (x : CoreId) (y : Nat), (∀ c ∈ s.ranks p, wcFind (s.core c).wc x y = none) →
           t.peek x y = s.peek x y) ∧
         (s.memoriesWf → ∀ (c x : CoreId) (y : Nat), c ∈ s.ranks p → wcOk (s.core c) →
           (∀ d ∈ s.ranks p, d ≠ c → wcFind (s.core d).wc x y = none) → t.peek x y = s.xferWord c x y) ∧
         (∀ c ∈ s.ranks p, ∀ n : BitVec 5, short c n = true → s.evlog.queue = [] → ∃ e ∈ t.evlog.queue,
           e.code = 0x0010 ∧ e.source = srcCore c ∧ e.p0 = n.setWidth 32)) ∧
     (s.stepDone p = true → (k.srvMode = 1 ∨ (k.srvMode = 2 ∧ k.ringEntry ≠ none)) →
       let u := (s.endKernels p).modPart p (fun k => { k with steps := k.steps + 1 })
       (u.strideCheck p).2 = false →
       let x := ((u.strideCheck p).1.checkTable p (if k.srvMode = 2 then k.ringEntry.toList else k.entries)).1
       x.wait = none → x.bad = true → ∃ t, exec (.stepEnd p) s = .next t ∧ stopped s t p stFAULT 2) ∧
     (s.stepDone p = true ↔ k.stepping = true ∧ (k.state = 3 ∨ k.state = 4) ∧ ∀ c ∈ s.ranks p,
       (s.core c).inflight = [] ∧ ∀ q : QueueId,
         ((s.core c).queue q).ended = true ∧ ((s.core c).queue q).waiting = none)) ∧
  (∀ (now : BitVec 64) (k : Part) (e : Entry) (x : Result) (r : Request), k.reqOf e = some r →
     let k' := Part.applyResult now false false k (e, some x)
     let b := k.budget e.tenant
     let left := r.outLeft - x.vals.length
     let late := r.deadline ≠ 0 ∧ r.deadline.toNat < now.toNat
     (b.rate ≠ 0xFFFFFFFF → (k'.budget e.tenant) = { b with balance := b.balance - BitVec.ofNat 32 x.run }) ∧
     (b.rate = 0xFFFFFFFF → k'.budgets = k.budgets) ∧
     (∀ t : BitVec 16, t ≠ e.tenant → k'.budget t = k.budget t) ∧
     (∀ n, n ≠ e.slot → alGet k'.slots n = alGet k.slots n) ∧
     (r.state = .active → ¬ (r.dropLate = true ∧ late) → ∃ r', alGet k'.slots e.slot = some r' ∧
       r'.pos = r.pos + (if e.prompt then e.rows else x.acc + 1) ∧ r'.outLeft = left ∧
       r'.out = r.out ++ x.vals.take r.outLeft ∧ r'.vis = r'.out.length ∧
       (x.fin = true ∨ left = 0 → r'.state = .done ∧ r'.status = (if late then stLATE else stOK)) ∧
       (x.fin = false → left ≠ 0 → r'.state = .active)) ∧
     (r.state = .cancelling → ∃ r', alGet k'.slots e.slot = some r' ∧ r'.state = .done ∧ r'.status = stCANCELLED ∧
       r'.out = []) ∧
     (r.state = .queued ∨ r.state = .done → k'.slots = k.slots))

/-- A WAITING partition whose PLL is locked, whose cores are awake, whose ports are up, whose twin, if any, has
given its HELLO, and whose flock's partitions on this module are up, is RUNNING and its PART_STARTs complete OK;
otherwise it stays (R29, R365; a partition that has failed or sleeps does not hold its flock back, Assumption 100). A partition that has been idle goes to
sleep only in the cases of R475, and loses nothing by it in retention; a wake from OFF leaves zeros (R365, R474 to
R477). -/
def Obligations.PartitionsStartSleepAndWake : Prop :=
  ∀ (p : PartId) (s : State),
    let k := s.part p
    let ready := k.state = 2 ∧ s.chip.partLock.getLsbD p.val = true ∧ k.sleepState = 0 ∧
      (∀ n < 24, k.portNeed.getLsbD n = true → s.members n ≠ []) ∧ (k.ls.paired = true → k.ls.helloSeen = true) ∧
      (∀ q : PartId, (s.part q).flock ≠ 0xFFF → (s.part q).flock = k.flock →
        s.chip.failedParts.getLsbD q.val = true ∨ s.chip.partLock.getLsbD q.val = true ∨ (s.part q).sleepState ≠ 0)
    (¬ ready → exec (.waitingToRunning p) s = .next s) ∧
    (ready → nothingWaits k → ∃ t, exec (.waitingToRunning p) s = .next t ∧ s = { t with parts := s.parts, ports := s.ports } ∧
      t.part p = { k with state := 3, first := true, starts := [], ls := { k.ls with helloSeen := false } } ∧
      (∀ x : PartId, x ≠ p → t.part x = s.part x) ∧ t.ports = (s.respondAll 0x31 stOK [3] k.starts).ports) ∧
    ((k.state = 2 ∨ k.state = 4 ∨ (k.state = 3 ∧ (k.stepping = true ∨ k.srvMode ≠ 1)) ∨ (p = 0 ∧ s.safety = true) ∨
        (s.work.recording.held = true ∧ s.work.recording.buffer = p) ∨ s.atRest p = false ∨
        (k.state = 0 ∧ k.sleepOff = false) ∨ (k.state = 1 ∧ k.sleepRet = false)) →
      exec (.partitionIdleSleep p) s = .next s) ∧
    (∀ x : BitVec 2, ((x = 2 ∧ k.state = 0 ∧ k.sleepOff = true) ∨ (x = 1 ∧ k.sleepRet = true ∧
        (k.state = 1 ∨ (k.state = 3 ∧ k.srvMode = 1 ∧ k.stepping = false ∧ k.ls.await = false)))) →
      ¬ (p = 0 ∧ s.safety = true) → ¬ (s.work.recording.held = true ∧ s.work.recording.buffer = p) →
      s.atRest p = true → k.sleepState = 0 → s.chip.partLock.getLsbD p.val = true →
      ∃ t, exec (.partitionIdleSleep p) s = .next t ∧
        s = { t with parts := s.parts, domains := s.domains, chip := s.chip } ∧
        t.part p = { k with sleepState := x, waking := false } ∧ (∀ y : PartId, y ≠ p → t.part y = s.part y) ∧
        domainsAre s t p x ∧ s.chip = { t.chip with partLock := s.chip.partLock } ∧
        (∀ n, t.chip.partLock.getLsbD n = (s.chip.partLock.getLsbD n && n != p.val))) ∧
    (∀ ns : Nat,
      (k.waking = false → exec (.partitionWakeDone p ns) s = .next s) ∧
      (k.waking = true → k.loads = [] → k.heldPkts = [] → (k.state ≠ 3 ∨ nothingWaits k) →
        ∃ t, exec (.partitionWakeDone p ns) s = .next t ∧
          s = { t with parts := s.parts, domains := s.domains, chip := s.chip, cores := s.cores } ∧
          t.part p = { k with sleepState := 0, waking := false, stepWaits := false,
                              slip := if k.stepWaits then satAdd k.slip ns else k.slip } ∧
          (∀ y : PartId, y ≠ p → t.part y = s.part y) ∧ domainsAre s t p 0 ∧
          (∀ n < 12, t.chip.partLock.getLsbD n = (s.chip.partLock.getLsbD n || n == p.val)) ∧
          (k.sleepState ≠ 2 → t.cores = s.cores) ∧
          (k.sleepState = 2 → (∀ c, c ∉ s.ranks p → t.core c = s.core c) ∧ ∀ c ∈ s.ranks p,
            (∀ a, t.peek c a = 0) ∧ (∀ y, smGet (t.core c).array.acc y = 0) ∧ (∀ n, (t.core c).vec.vreg n = 0) ∧
            (∀ n : BitVec 5, ((t.core c).counter n).count = 0) ∧ (t.core c).tags = [] ∧
            (t.core c).flags = (s.core c).flags ∧ (t.core c).slip = (s.core c).slip)))

/-! ### Clock points and heat -/

namespace Sys2Proof.Machine.Claims

/-- The clock points, rails and event log may differ, and nothing else. -/
def onlyPoints (s t : State) : Prop :=
  s = { t with parts := s.parts, power := s.power, evlog := s.evlog } ∧
  ∀ p : PartId, s.part p = { t.part p with active := (s.part p).active, cap := (s.part p).cap, point := (s.part p).point }

/-- Some sensor reads at least a limit. -/
def hotAt (v : Vector (BitVec 8) 16) (n : Nat) : Prop := ∃ i : Fin 16, n ≤ (v[i]).toNat

end Sys2Proof.Machine.Claims

/-- POINT is written and ACTIVE follows the slower of POINT and CAP, CAP not for the safety partition and point 3 for
all in EMERGENCY: at once where that is slower or the rail suffices, else when the rail has ramped. The rail
takes the voltage of the fastest point wanted in its field, and then every partition of the field that is ON runs
at the point it wants; a field without a partition that is ON keeps its voltage (R478, R479). Readings of the
sensors and of the power move the level: each condition begins at its limit and ends 5 °C, or 50 W, below it;
EMERGENCY and TRIP stay. A change of level is logged. While THROTTLE's condition holds every CAP goes one point
down per millisecond, after it one point up per 10 ms. EMERGENCY ends once every sensor has been cool enough. A
trip stops every step with FAULT, switches every domain but 146 and 147 OFF and takes the links out of traffic
(R480). -/
def Obligations.ClocksAndHeatFollowTheirRules : Prop :=
  ((∀ (p : PartId) (x : BitVec 2) (s : State),
     let k := s.part p
     let w := if s.power.emg then 3 else if p = 0 ∧ s.safety = true then x.toNat else max x.toNat k.cap.toNat
     ∃ t, exec (.dvfsPointWrite p x) s = .next t ∧ s = { t with parts := s.parts } ∧
       (∀ y : PartId, y ≠ p → t.part y = s.part y) ∧
       t.part p = { k with point := x, active :=
         if k.active.toNat ≤ w ∨ (s.power.rail[fieldOf p]).toNat ≤ w then BitVec.ofNat 2 w else k.active }) ∧
   (∀ (f : Fin 4) (s : State),
     ((∀ p : PartId, fieldOf p = f → (s.part p).sleepState ≠ 0) → exec (.railRampDone f) s = .next s) ∧
     (∀ n, (∃ p : PartId, fieldOf p = f ∧ (s.part p).sleepState = 0 ∧ s.wanted p = n) →
       (∀ p : PartId, fieldOf p = f → (s.part p).sleepState = 0 → n ≤ s.wanted p) →
       ∃ t, exec (.railRampDone f) s = .next t ∧ onlyPoints s t ∧ t.evlog = s.evlog ∧
         t.power = { s.power with rail := s.power.rail.set f (BitVec.ofNat 2 n) } ∧
         (∀ p : PartId, (t.part p).point = (s.part p).point ∧ (t.part p).cap = (s.part p).cap) ∧
         (∀ p : PartId, fieldOf p = f → (s.part p).sleepState = 0 → (t.part p).active.toNat = s.wanted p)))) ∧
  ((∀ (v : Vector (BitVec 8) 16) (pw : BitVec 12) (ms : Bool) (s : State),
     let w := s.power
     ∃ t, exec (.thermalLevelChange v pw ms) s = .next t ∧ t.power.sensors = v ∧ t.power.power = pw ∧
       (t.power.warn = true ↔ hotAt v (if w.warn then w.warnT.toNat - 5 else w.warnT.toNat)) ∧
       (t.power.thr = true ↔ hotAt v (if w.thr then w.throttleT.toNat - 5 else w.throttleT.toNat) ∨
         (if w.thr then w.limit.toNat ≤ pw.toNat + 50 else ms = true ∧ w.limit.toNat < pw.toNat)) ∧
       (t.power.emg = true ↔ w.emg = true ∨ hotAt v w.emergT.toNat) ∧
       (t.power.trip = true ↔ w.trip = true ∨ hotAt v 110) ∧
       (t.power.level ≠ w.level → hotAt v w.throttleT.toNat →
         logged s t 0x001F srcChip t.power.level (hottest v).1 (hottest v).2 0) ∧
       (t.power.trip = false ∨ w.trip = true → onlyPoints s t ∧
         (∀ p : PartId, (t.part p).point = (s.part p).point ∧ (t.part p).cap = (s.part p).cap) ∧
         (t.power.emg = true → ∀ p : PartId, (t.part p).active = 3) ∧
         (t.power.level = w.level → t.evlog = s.evlog)) ∧
       (t.power.trip = true → w.trip = false →
         (∀ p : PartId, running s p → stopped s t p stFAULT 2) ∧ (∀ p : PartId, (t.part p).sleepState = 2) ∧
         (∀ l : LinkId, (t.link l).state = 0 ∧ (t.link l).enable = false) ∧ s.sameWords t ∧
         (∀ n, n < 146 → t.domains[n]! = 2) ∧ t.domains[146]! = s.domains[146]! ∧ t.domains[147]! = s.domains[147]!)) ∧
   (∀ s : State,
     let w := s.power
     (w.thr = false → w.cool = false → exec .throttleCapStep s = .next s) ∧
     (w.thr = true ∨ w.cool = true → ∃ t, exec .throttleCapStep s = .next t ∧ onlyPoints s t ∧ t.evlog = s.evlog ∧
       (∀ p : PartId, (t.part p).point = (s.part p).point ∧ (t.part p).cap.toNat =
         if w.thr then min 3 ((s.part p).cap.toNat + 1) else (s.part p).cap.toNat - 1) ∧
       (∀ p : PartId, w.thr = true → w.emg = false → ¬ (p = 0 ∧ s.safety = true) →
         (t.part p).cap.toNat ≤ (t.part p).active.toNat ∨ (t.part p).active = (s.part p).active)) ∧
     (w.emg = false ∨ w.trip = true ∨ hotAt w.sensors (w.emergT.toNat - 5) → exec .emergencyExit s = .next s) ∧
     (w.emg = true → w.trip = false → ¬ hotAt w.sensors (w.emergT.toNat - 5) →
       ∃ t, exec .emergencyExit s = .next t ∧ onlyPoints s t ∧
         t.power = { w with emg := false, thr := true, cool := false } ∧
         (∀ p : PartId, (t.part p).point = (s.part p).point ∧ (t.part p).cap = (s.part p).cap))))
/-! ### Flits -/

namespace Sys2Proof.Machine.Claims

/-- Only links, and what is logged, may differ; link `l` is the only link that does. -/
def onlyLink (s t : State) (l : LinkId) : Prop :=
  s = { t with links := s.links, evlog := s.evlog } ∧ ∀ m : LinkId, m ≠ l → t.link m = s.link m

/-- A link with the counts of a received flit (R283, R320, R321). -/
def counted (k : Link) (r : Rx) (good : Bool) : Link :=
  { k with fecCorr := satAdd k.fecCorr r.fecCorr, fecUncorr := satAdd k.fecUncorr r.fecUncorr,
           badFlit := if good then k.badFlit else satAdd k.badFlit 1 }

/-- A received flit is good (R283). -/
def goodFlit : Instr → Bool
  | .rxDataFlit _ r h body => r.good 1 h body
  | .rxIdleFlit _ r h => r.goodIdle h
  | .rxNak _ r h seqs => r.goodCtl h (.nak seqs)
  | .rxGoback _ r h q => r.goodCtl h (.goback q)
  | .rxParam _ r h m _ => r.goodCtl h (.param m)
  | .rxResetFlit _ r h w why => r.goodCtl h (.reset w why)
  | .rxLeave _ r h => r.goodCtl h .leave
  | .rxDown _ r h why => r.goodCtl h (.down why)
  | .rxHold _ r h why => r.goodCtl h (.hold why)
  | _ => true

/-- Flits that a header newly acknowledges (R297). -/
def newlyAcked (k : Link) (h : FlitHdr) : Nat := (h.ackSeq - (k.nextSeq - BitVec.ofNat 16 k.replay.length)).toNat

/-- The header acknowledges no flit that was never sent and grants no more credit than the peer's pool holds. -/
def hdrOk (k : Link) (h : FlitHdr) : Prop :=
  newlyAcked k h ≤ k.replay.length ∧
  (32767 < (h.credit - k.limit[h.csel]).toNat ∨
   (h.credit - k.used[h.csel]).toNat ≤ ((k.peer.map (fun m => (peerPool m h.csel).toNat)).getD 0))

/-- The replay memory without the flits that the header acknowledges. -/
def replayAfter (k : Link) (h : FlitHdr) : List TxFlit := k.replay.drop (newlyAcked k h)

/-- The link has taken what every good flit's header says: acknowledged flits leave the replay memory and the credit
limit of one pool moves forward (R294, R297). -/
def hdrTaken (k t : Link) (h : FlitHdr) : Prop :=
  t.replay = replayAfter k h ∧
  t.limit = (if 32767 < (h.credit - k.limit[h.csel]).toNat then k.limit else k.limit.set h.csel h.credit)

/-- The link has gone down with a reason (R305, R306). -/
def wentDown (s t : State) (l : LinkId) (reason : Nat) (st : BitVec 4) : Prop :=
  (t.link l).state = st ∧ (t.link l).reason = BitVec.ofNat 4 reason ∧
  (t.link l).downs = satAdd (s.link l).downs 1 ∧ (t.link l).replay = [] ∧ (t.link l).staging = [] ∧
  (∀ m ∈ t.transit, m.link ≠ some l) ∧
  logged s t 0x0012 (srcLink l) reason 0 0 0

end Sys2Proof.Machine.Claims

/-- One flit leaves in every slot of a link that carries traffic, formed with its CRC, with the receiver's next SEQ as
ACK and one pool's credit: first what control is due, then the IDLE due after 4,095 others, then a retransmission, then the next flit of a
staged packet under a new SEQ, kept for replay; else IDLE. A packet that waits enters the staging buffer of its VC where
R293's credit allows. A flit that is not acknowledged in time is sent again at most REPLAY_LIMIT times, or the link goes
down; a hole that was last named NAK_REPEAT ago is named again (R281, R293, R296, R298 to R302, R331). -/
def Obligations.SlotsSendTheirFlits : Prop :=
  ∀ (l : LinkId) (s : State),
    let k := s.link l
    ((k.state = 5 ∨ k.state = 6) → ∃ (t : State) (o : OutFlit), exec (.txFlitSlot l) s = .next t ∧ onlyLink s t l ∧
      (t.link l).sent = some o ∧ o.formed = o ∧ o.hdr.ackSeq = k.expect ∧ o.hdr.csel = k.csel ∧
      o.hdr.credit = k.rxLimit[k.csel] ∧ (t.link l).csel = k.csel + 1 ∧
      (k.controls ≠ [] → o.kind = 2 ∧ (t.link l).nextSeq = k.nextSeq ∧ (t.link l).replay = k.replay ∧
        ∃ c ∈ k.controls, o.ctl = some c ∧ (∀ d ∈ k.controls, c.rank ≤ d.rank) ∧
          (t.link l).controls = k.controls.erase c) ∧
      (k.controls = [] → 4095 ≤ k.sinceIdle → o.kind = 0 ∧ (t.link l).nextSeq = k.nextSeq) ∧
      (k.controls = [] → k.sinceIdle < 4095 →
        (∀ q rest f, k.resend = q :: rest → k.replay.find? (fun f => f.seq == q) = some f →
          o.kind = 1 ∧ o.body = f.body ∧ o.hdr.seq = q ∧ o.hdr.retx = true ∧ o.hdr.vc = f.vc ∧ o.hdr.sop = f.sop ∧
          o.hdr.eop = f.eop ∧ (t.link l).resend = rest ∧ (t.link l).replayCount = satAdd k.replayCount 1 ∧
          (t.link l).nextSeq = k.nextSeq) ∧
        (k.resend = [] → 4096 ≤ k.replay.length ∨ k.staging = [] →
          o.kind = 0 ∧ (t.link l).nextSeq = k.nextSeq ∧ (t.link l).replay = k.replay) ∧
        (k.resend = [] → k.replay.length < 4096 → (∃ m ∈ k.staging, m.begun = true ∧ m.fl ≠ []) →
          o.kind = 1 ∧ o.hdr.seq = k.nextSeq ∧ o.hdr.retx = false ∧ (t.link l).nextSeq = k.nextSeq + 1 ∧
          ∃ f, (t.link l).replay = k.replay ++ [f] ∧ f.seq = k.nextSeq ∧ f.body = o.body ∧ f.vc = o.hdr.vc))) ∧
    (k.state = 3 → ∃ t, exec (.txFlitSlot l) s = .next t ∧ onlyLink s t l ∧ t.link l = { k with
      before := [], sent := some (OutFlit.formed { kind := 0, hdr := k.baseHdr }), csel := k.csel + 1,
      sinceIdle := 0 }) ∧
    (k.state.toNat < 3 ∨ 8 ≤ k.state.toNat → k.controls = [] →
      ∃ t, exec (.txFlitSlot l) s = .next t ∧ onlyLink s t l ∧ t.link l = { k with before := [], sent := none }) ∧
    (∀ vc : Fin 8,
      (k.takes vc = false ∨ (∃ x ∈ k.staging, x.vc = vc) ∨ (∀ m ∈ s.transit, s.waitsAt l vc m = false) →
        exec (.stagingBufferEnter l vc) s = .next s) ∧
      (∀ (a b : List Moving) (m : Moving), s.transit = a ++ m :: b → s.waitsAt l vc m = true →
        (∀ x ∈ a, s.waitsAt l vc x = false) → k.takes vc = true → (∀ x ∈ k.staging, x.vc ≠ vc) →
        (k.sopCredit vc m.pkt.flits 0 0 = false → exec (.stagingBufferEnter l vc) s = .next s) ∧
        (k.sopCredit vc m.pkt.flits 0 0 = true → m.inp = none → ∃ t, exec (.stagingBufferEnter l vc) s = .next t ∧
          s = { t with links := s.links, transit := s.transit, cores := s.cores } ∧ t.transit = a ++ b ∧
          (∀ x : LinkId, x ≠ l → t.link x = s.link x) ∧
          (∀ c : CoreId, s.core c = { t.core c with tags := (s.core c).tags }) ∧
          t.link l = { k with staging := k.staging ++ [{
            vc := vc, pkt := m.pkt, inp := none, fl := packetBodies m.pkt, fin := m.fin }] }))) ∧
    ((k.state ≠ 5 ∧ k.state ≠ 6) ∨ k.replay = [] → exec (.replayTimeout l) s = .next s) ∧
    ((k.state = 5 ∨ k.state = 6) → ∀ f rest, k.replay = f :: rest → f.seq ∉ k.resend →
      (f.resent < k.replayLimit.toNat → ∃ t, exec (.replayTimeout l) s = .next t ∧ onlyLink s t l ∧
        t.link l = { k with resend := k.resend ++ [f.seq] }) ∧
      (k.replayLimit.toNat ≤ f.resent → ∃ t, exec (.replayTimeout l) s = .next t ∧ wentDown s t l 2 8)) ∧
    (k.hears = false → exec (.nakRepeatTimer l) s = .next s) ∧
    (k.hears = true → k.goSeq = none → k.controls = [] →
      let old := fun (x : BitVec 64) => x.toNat + 8 * k.nakRepeat.toNat ≤ s.time.toNat
      let due := (k.holes.filter (fun h => decide (old h.at_) && k.openHoles.contains h.seq)).map Hole.seq
      ∃ t, exec (.nakRepeatTimer l) s = .next t ∧ onlyLink s t l ∧ t.evlog = s.evlog ∧
        (due = [] ∨ (k.level ≠ 2 ∧ ¬ old k.goTime) → t.link l = k) ∧
        (due ≠ [] → due.length ≤ 120 → k.level = 2 → t.link l = { k with controls := [.nak due] }) ∧
        (due ≠ [] → k.level ≠ 2 → old k.goTime → t.link l = { k with controls := [.goback k.expect] }))

/-- A flit is good if its CRC holds, no codeword of it is uncorrectable and its TYPE is not 3. One that is not good is
counted and has no other effect. A good one of a link that carries traffic
acknowledges and grants credit; DATA is delivered in order of SEQ, a duplicate is counted, and at level 2 one out of
order is held; NAK and GOBACK have their flits sent again; RESET, LEAVE, DOWN and HOLD take the link down. In PARAM the
peer's message is kept, the round trip measured, and the plan decides whether the link is ACTIVE, STANDBY or HELD (R283
to R287, R290, R294, R297 to R300, R304, R306 to R308, R341, R342). -/
def Obligations.GoodFlitsAreTaken : Prop :=
  ∀ (l : LinkId) (r : Rx) (h : FlitHdr) (s : State),
    let k := s.link l
    (∀ (ty : Nat) (msg : List Byte), r.good ty h msg = true ↔ r.type3 = false ∧ r.fecUncorr = 0 ∧
      r.crc = crc32c (leBytes 8 (hdrWord h ty).toNat ++ toBody (msg ++ r.rest))) ∧
    (∀ (body : List Byte) (seqs : List (BitVec 16)) (q : BitVec 16) (m : ParamMsg) (tm : BitVec 32)
      (w : Byte) (why : BitVec 4), body.length = 244 → seqs.length ≤ 120 → Rx.idleOk r = true →
      ∀ i ∈ [Instr.rxDataFlit l r h body, .rxIdleFlit l r h, .rxNak l r h seqs, .rxGoback l r h q, .rxParam l r h m tm,
        .rxResetFlit l r h w why, .rxLeave l r h, .rxDown l r h why, .rxHold l r h why],
        goodFlit i = false →
        ∃ t, exec i s = .next t ∧ onlyLink s t l ∧ t.evlog = s.evlog ∧ t.link l = counted k r false) ∧
    (k.hears = true → hdrOk k h →
      (Rx.idleOk r = true → r.goodIdle h = true → ∃ t, exec (.rxIdleFlit l r h) s = .next t ∧ onlyLink s t l ∧ t.evlog = s.evlog ∧ hdrTaken k (t.link l) h ∧
        (t.link l).expect = k.expect ∧ (t.link l).reorder = k.reorder) ∧
      (∀ body : List Byte, body.length = 244 → r.good 1 h body = true →
        let d := (h.seq - k.expect).toNat
        let q := packetOfBytes body
        (32768 ≤ d → ∃ t, exec (.rxDataFlit l r h body) s = .next t ∧ onlyLink s t l ∧ hdrTaken k (t.link l) h ∧
          (t.link l).expect = k.expect ∧ (t.link l).dup = satAdd k.dup 1 ∧ (t.link l).reorder = k.reorder) ∧
        (0 < d → d ≤ 4095 → k.level = 2 → (∀ g ∈ k.reorder, g.seq ≠ h.seq) → k.reorder.length < 1024 →
          ∃ t, exec (.rxDataFlit l r h body) s = .next t ∧ onlyLink s t l ∧ hdrTaken k (t.link l) h ∧
            (t.link l).expect = k.expect ∧ (t.link l).reorder = k.reorder ++ [{
              seq := h.seq, vc := h.vc, sop := h.sop, eop := h.eop, abort := h.abort && h.eop, body := body }]) ∧
        (0 < d → d ≤ 4095 → k.level = 2 → (∃ g ∈ k.reorder, g.seq = h.seq) →
          ∃ t, exec (.rxDataFlit l r h body) s = .next t ∧ onlyLink s t l ∧ hdrTaken k (t.link l) h ∧
            (t.link l).expect = k.expect ∧ (t.link l).reorder = k.reorder ∧ (t.link l).dup = satAdd k.dup 1) ∧
        (d = 0 → k.reorder = [] → h.sop = true → h.eop = true → h.abort = false → q.flits = 1 →
          s.isHere q = true → Packet.bad q = false → q.kind ≠ 5 →
          ∃ t, exec (.rxDataFlit l r h body) s = .next t ∧
            s = { t with links := s.links, transit := s.transit } ∧ hdrTaken k (t.link l) h ∧
            t.transit = s.transit ++ [{
              vc := h.vc, pkt := q, inp := some l, path := spineNeeds h.vc q (fieldOfLink l) (fieldOf (partOfNat q.dstPart)) }] ∧
            (t.link l).expect = k.expect + 1 ∧
            (t.link l).rxLimit[poolData h.vc] = k.rxLimit[poolData h.vc] + 1 ∧
            (t.link l).rxLimit[poolHdr h.vc] = k.rxLimit[poolHdr h.vc] + 1)) ∧
      ((∀ f ∈ k.replay, f.resent < k.replayLimit.toNat) →
        (∀ seqs : List (BitVec 16), seqs.length ≤ 120 → r.goodCtl h (.nak seqs) = true → ∃ t, exec (.rxNak l r h seqs) s = .next t ∧ onlyLink s t l ∧
          hdrTaken k (t.link l) h ∧ ∀ f ∈ replayAfter k h, f.seq ∈ seqs → f.seq ∈ (t.link l).resend) ∧
        (∀ q : BitVec 16, r.goodCtl h (.goback q) = true → ∃ t, exec (.rxGoback l r h q) s = .next t ∧ onlyLink s t l ∧ hdrTaken k (t.link l) h ∧
          ∀ f ∈ replayAfter k h, (f.seq - q).toNat < 4096 → f.seq ∈ (t.link l).resend)) ∧
      (∀ (w : Byte) (why : BitVec 4),
        (r.goodCtl h (.reset w why) = true →
          ∃ t, exec (.rxResetFlit l r h w why) s = .next t ∧ wentDown s t l 6 8 ∧ (t.link l).asked = widthCode w) ∧
        (r.goodCtl h .leave = true → ∃ t, exec (.rxLeave l r h) s = .next t ∧ wentDown s t l 7 8) ∧
        (r.goodCtl h (.down why) = true → ∃ t, exec (.rxDown l r h why) s = .next t ∧ wentDown s t l 4 8))) ∧
    (k.hears = true → ∀ why : BitVec 4, r.goodCtl h (.hold why) = true →
      ∃ t, exec (.rxHold l r h why) s = .next t ∧ wentDown s t l 4 8) ∧
    (k.state = 4 → ∀ (m : ParamMsg) (tm : BitVec 32), r.goodCtl h (.param m) = true →
      (k.locked = false → ∃ t, exec (.rxParam l r h m tm) s = .next t ∧ onlyLink s t l ∧ t.evlog = s.evlog ∧
        t.link l = counted k r true) ∧
      (k.locked = true →
      let rtt := if m.peerSeen then BitVec.ofNat 10 (min (tm - m.tsEcho - m.tsHold).toNat 1023) else k.rtt
      (m.peerSeen = false ∨ k.paramSent = false → ∃ t, exec (.rxParam l r h m tm) s = .next t ∧ onlyLink s t l ∧
        t.evlog = s.evlog ∧ t.link l = { counted k r true with
          peer := some m, lastTs := some (m.ts, tm), level := BitVec.ofNat 2 (min 2 m.levelMax.toNat), rtt := rtt }) ∧
      (m.peerSeen = true → k.paramSent = true →
        let lv := min 2 m.levelMax.toNat
        let o := s.planOutcome l m
        ∃ t, exec (.rxParam l r h m tm) s = .next t ∧
          (lv < 1 ∨ lv < m.levelMin.toNat → (t.link l).state = 7 ∧ (t.link l).reason = 10) ∧
          (1 ≤ lv → m.levelMin.toNat ≤ lv → 625 < rtt.toNat → (t.link l).state = 7 ∧ (t.link l).reason = 11) ∧
          (1 ≤ lv → m.levelMin.toNat ≤ lv → rtt.toNat ≤ 625 →
            (t.link l).state = (if o = 1 ∨ o = 2 then 5 else if o = 3 ∨ o = 4 then 6 else 7) ∧
            (t.rte.plans[l]).outcome = BitVec.ofNat 4 o ∧ (t.rte.plans[l]).dChip = m.chip))))

/-! ### Links, routing tables and host ports -/

/-- A link's states: DETECT, TRAIN on the widest lanes that both directions pass, ALIGN and PARAM, each given up at
its time limit and FAILED after TRAIN_RETRY; a loss of lock ends the link only where it lasts; ENABLE, DISABLE, a
graceful reset or leave at the end of its drain, and the retrain timer do as R287, R304 to R309 and R311 say; no link
trains before the start has taken its last step (R29), and a new rate of the group stands from its relocking on. A
planned link that is not ACTIVE in time is PLAN MISSING (R343). -/
def Obligations.LinksTrainAndGoDown : Prop :=
  ∀ (l : LinkId) (s : State),
    let k := s.link l
    let up := k.state = 5 ∨ k.state = 6
    let listens := 4 ≤ k.state.toNat ∧ k.state.toNat ≤ 7
    let g := groupOf l
    let locked := s.chip.groupLock.getLsbD g.val
    let mayTrain := locked = true ∧ s.chip.step = 12 ∧ (s.link (headOf g)).rateTo = none
    (listens → ∃ t, exec (.lockLost l) s = .next t ∧ onlyLink s t l ∧ t.link l = { k with locked := false }) ∧
    (¬ listens → exec (.lockLost l) s = .next s) ∧
    (listens → k.locked = false →
      ∃ t, exec (.lockRegained l) s = .next t ∧ onlyLink s t l ∧
        t.link l = { k with locked := true, lockLoss := satAdd k.lockLoss 1 }) ∧
    (¬ listens ∨ k.locked = true → exec (.lockRegained l) s = .next s) ∧
    (up → k.locked = false → ∃ t, exec (.lockDownTimeout l) s = .next t ∧ wentDown s t l 1 8) ∧
    (¬ up ∨ k.locked = true → exec (.lockDownTimeout l) s = .next s) ∧
    (k.state = 1 → ∃ t, exec (.linkDetectPeer l) s = .next t ∧ onlyLink s t l ∧ t.link l = { k with state := 2 }) ∧
    (k.state ≠ 1 → exec (.linkDetectPeer l) s = .next s) ∧
    (∀ (pass : BitVec 8) (peer : BitVec 2),
      let least := max (max k.targetWidth.toNat k.asked.toNat) (min peer.toNat 2)
      let fits (w m : Nat) : Prop := least ≤ w ∧ w ≤ 2 ∧ m ∈ laneSets w ∧ pass.toNat &&& m = m
      (k.state ≠ 2 ∨ (∀ w m, ¬ fits w m) → exec (.linkTrainDone l pass peer) s = .next s) ∧
      (k.state = 2 → (∃ w m, fits w m) → ∃ (t : State) (w m : Nat), exec (.linkTrainDone l pass peer) s = .next t ∧
        onlyLink s t l ∧ fits w m ∧ (∀ w' m', fits w' m' → w ≤ w') ∧
        t.link l = { k with state := 3, width := BitVec.ofNat 2 w, lanes := BitVec.ofNat 8 m })) ∧
    (k.state = 3 → ∃ t, exec (.linkAlignDone l) s = .next t ∧ onlyLink s t l ∧ t.link l = { k with
      state := 4, peer := none, lastTs := none, paramSent := false, ctlTime := none, locked := true }) ∧
    (k.state ≠ 3 → exec (.linkAlignDone l) s = .next s) ∧
    (k.state = 2 ∨ k.state = 3 ∨ k.state = 4 → ∃ t, exec (.linkStateTimeout l) s = .next t ∧ onlyLink s t l ∧
      t.link l = { k with fails := k.fails + 1, width := 3, lanes := 0, level := 0,
                          state := if k.trainRetry.toNat ≤ k.fails + 1 then 9 else 1 } ∧
      (k.trainRetry.toNat ≤ k.fails + 1 → logged s t 0x0013 (srcLink l) k.state.toNat 0 0 0)) ∧
    (k.state = 8 → k.leaving = false → k.autoRetrain = true ∨ k.afterReset = true → k.enable = true → mayTrain →
      ∃ t, exec (.downRetrainTimer l) s = .next t ∧ onlyLink s t l ∧
        (t.link l).state = 1 ∧ (t.link l).afterReset = false) ∧
    (k.state ≠ 8 ∨ k.leaving = true ∨ (k.autoRetrain = false ∧ k.afterReset = false) ∨ ¬ mayTrain →
      exec (.downRetrainTimer l) s = .next s) ∧
    (let e := s.rte.plans[l]
     (e.valid = false ∨ k.state = 5 → exec (.planMissingTimeout l) s = .next s) ∧
     (e.valid = true → k.state ≠ 5 → ∃ t, exec (.planMissingTimeout l) s = .next t ∧
       s = { t with rte := s.rte, evlog := s.evlog } ∧
       t.rte = { s.rte with plans := s.rte.plans.set l { e with outcome := 10 } } ∧
       logged s t 0x0014 (srcLink l) 10 e.dChip.toNat e.dLink.toNat 0)) ∧
    (k.graceful = false → exec (.gracefulDrainDone l) s = .next s) ∧
    (k.graceful = true → up → ∃ t, exec (.gracefulDrainDone l) s = .next t ∧
      (k.leaving = true → wentDown s t l 7 8 ∧ .leave ∈ (t.link l).controls ∧ (t.link l).leaving = true) ∧
      (k.leaving = false → wentDown s t l k.resetWhy.toNat 8 ∧
        .reset (k.resetTo.getD 8) k.resetWhy ∈ (t.link l).controls)) ∧
    (let head := s.link (headOf g)
     (s.groupOn g = false ∨ locked = true ∨ s.chip.failedGroups.getLsbD g.val = true ∨ s.chip.step ≠ 12 →
       exec (.groupPllLocked g) s = .next s) ∧
     (s.groupOn g = true → locked = false → s.chip.failedGroups.getLsbD g.val = false → s.chip.step = 12 →
       ∃ t, exec (.groupPllLocked g) s = .next t ∧ s = { t with links := s.links, chip := s.chip } ∧
         t.chip = { s.chip with groupLock := s.chip.groupLock ||| (1#8 <<< g.val) } ∧
         (t.link l).rate = (if head.rated then head.rateTo.getD head.rate else head.groupRate) ∧
         (t.link (headOf g)).rated = true ∧ (t.link (headOf g)).rateTo = none ∧
         (k.enable = true → k.state = 0 ∨ (k.state = 8 ∧ k.afterReset = true ∧ k.leaving = false) →
           (t.link l).state = 1) ∧
         (∀ m : LinkId, groupOf m ≠ g → t.link m = s.link m)) ∧
     (k.enable = false → k.state = 0 → ∃ t, exec (.linkEnable l) s = .next t ∧
       s = { t with links := s.links, chip := s.chip, domains := s.domains } ∧ (t.link l).enable = true ∧
       (mayTrain → (t.link l).state = 1) ∧ (¬ mayTrain → (t.link l).state = 0) ∧
       (∀ m : LinkId, m ≠ l → t.link m = s.link m) ∧
       t.domains[112 + l.val]! = 0 ∧ t.domains[136 + g.val]! = 0 ∧ t.chip = s.chip) ∧
     (∃ t, exec (.linkDisable l) s = .next t ∧ (t.link l).state = 0 ∧ (t.link l).enable = false ∧
       (t.link l).level = 0 ∧ (t.link l).leaving = false ∧
       t.domains[112 + l.val]! = 2 ∧ (up → wentDown s t l 9 0) ∧
       ((∀ m : LinkId, m ≠ l → groupOf m = g → (s.link m).enable = false) →
         t.domains[136 + g.val]! = 2 ∧ t.chip.groupLock.getLsbD g.val = false)))

/-- A plan write takes the fields that are in range and checks a STANDBY link again (R341, R355); a table write sets
two entries of a bank that is neither ACTIVE nor DRAINING (R326, R327, R357). A drain marker is counted, and the bank
is free once the last round has come in on every input (R329); one with a bad header is discarded and counted (R325). A host port takes MODE, ENABLE and PTP_EN, comes up and
goes down; PTP measures the offset and sets the time by a step above 1 µs (R417, R419, R441, R442). ARP and neighbour
requests for the port's own address are answered (R418). -/
def Obligations.TablesAndPortsTakeTheirValues : Prop :=
  (∀ (l : LinkId) (v : BitVec 32) (s : State),
    let e := s.rte.plans[l]
    let e' : Plan := { e with
      valid := v.getLsbD 31, remap := v.getLsbD 30, tier := if v.extractLsb' 28 2 = 3 then e.tier else v.extractLsb' 28 2,
      checkSlot := v.getLsbD 27, peerSlot := v.extractLsb' 22 5,
      peerLink := if 24 ≤ (v.extractLsb' 15 5).toNat then e.peerLink else v.extractLsb' 15 5,
      peerChip := if v.setWidth 14 = 0x3FFF then e.peerChip else v.setWidth 14 }
    let u := s.modRte (fun r => { r with plans := r.plans.set l e' })
    let k := s.link l
    ((k.state ≠ 6 ∧ k.state ≠ 7) ∨ k.peer = none → exec (.rtePlanWrite l v (~~~0)) s = .next u) ∧
    (exec (.rtePlanWrite l v 0) s = .next (s.writeRteReg (0x0400 + 8 * l.val) e.word)) ∧
    (∀ m, k.state = 6 ∨ k.state = 7 → k.peer = some m →
      let o := u.paramOutcome l m
      ∃ t, exec (.rtePlanWrite l v (~~~0)) s = .next t ∧
        (k.state = 6 → (t.link l).state = (if o = 1 ∨ o = 2 then 5 else if o = 3 ∨ o = 4 then 6 else 7)) ∧
        (k.state = 7 → 5 ≤ o → (t.link l).state = 7 ∧ (t.link l).reason = BitVec.ofNat 4 (heldReason o)) ∧
        (k.state = 7 → o ≤ 4 → k.enable = true → s.chip.groupLock.getLsbD (groupOf l).val = true →
          s.chip.step = 12 → (s.link (headOf (groupOf l))).rateTo = none → (t.link l).state = 1) ∧
        (t.rte.plans[l]).valid = e'.valid ∧ (t.rte.plans[l]).outcome = BitVec.ofNat 4 o)) ∧
  (∀ (b : Fin 2) (d : Fin 8192) (v : BitVec 32) (s : State),
    (2 ≤ (s.rte.bank[b]).toNat → exec (.rteTableWrite b d v (~~~0)) s = .next s) ∧
    ((s.rte.bank[b]).toNat < 2 → smWf s.rte.table[b] = true → ∃ t, exec (.rteTableWrite b d v (~~~0)) s = .next t ∧
      s = { t with rte := s.rte } ∧ s.rte = { t.rte with table := s.rte.table } ∧
      (∀ x : Nat, t.rte.entry b.val x = if x = 2 * d.val then v.setWidth 8 &&& 0xDF
        else if x = 2 * d.val + 1 then v.extractLsb' 16 8 &&& 0xDF else s.rte.entry b.val x) ∧
      (∀ c : Fin 2, c ≠ b → t.rte.table[c] = s.rte.table[c]))) ∧
  (∀ (l : LinkId) (vc : Fin 8) (q : Packet) (s : State), q.kind = 5 →
    let u := (arrived s q).modRte (fun r => { r with marks := r.marks ++ [(l.val, vc.val, q.win)] })
    (q.bad = true → exec (.rxDrain l vc q) s = .next (arrived s q).badHeader) ∧
    (q.bad = false → s.rte.draining = false → exec (.rxDrain l vc q) s = .next u) ∧
    (q.bad = false → s.rte.draining = true → u.roundDone (s.rte.round.toNat + 1) = true → s.rte.rounds.toNat ≤ s.rte.round.toNat + 1 →
      ∃ t, exec (.rxDrain l vc q) s = .next t ∧ t.rte.round = 0 ∧ t.rte.draining = false ∧
        (∀ b : Fin 2, t.rte.bank[b] = if s.rte.bank[b] = 3 then 0 else s.rte.bank[b]) ∧
        t.rte.table = s.rte.table ∧ t.transit = u.transit)) ∧
  (∀ (h : PortId) (s : State),
    let k := s.port h
    let others (t : State) : Prop := ∀ x : PortId, x ≠ h → t.port x = s.port x
    let onlyPort (t : State) : Prop := s = { t with ports := s.ports } ∧ others t
    (∀ m : BitVec 2, ∃ t, exec (.hostModeWrite h m) s = .next t ∧ onlyPort t ∧
      t.port h = if m = 3 ∨ m = k.mode then k else { k with mode := m, linkUp := false, modeActive := 3 }) ∧
    (∃ t, exec (.hostPtpEnWrite h) s = .next t ∧ s = { t with ports := s.ports } ∧
      t.port h = { k with ptpEn := true } ∧ ∀ x : PortId, x ≠ h → (t.port x).ptpEn = false ∧ (t.port x).ptpLock = false) ∧
    (∀ en : Bool, ∃ t, exec (.hostEnableWrite h en) s = .next t ∧ others t ∧
      s = { t with ports := s.ports, domains := s.domains, chip := s.chip } ∧ (t.port h).enable = en ∧
      (t.port h).linkUp = (k.linkUp && en && k.enable) ∧ t.domains[144 + h.val]! = (if en then 0 else 2) ∧
      t.chip.hostLock.getLsbD h.val = en) ∧
    (k.enable = true → s.domains[144 + h.val]! = 0 → ∃ t, exec (.pcsAligned h) s = .next t ∧ onlyPort t ∧
      t.port h = { k with linkUp := true, modeActive := k.mode }) ∧
    (∃ t, exec (.pcsAlignmentLost h) s = .next t ∧ onlyPort t ∧ t.port h = { k with linkUp := false }) ∧
    (∀ ip : BitVec 32, k.enable = true → k.linkUp = true → ip ≠ 0 → ip = s.ip4 h →
      ∃ t, exec (.arpRequest h ip) s = .next t ∧ onlyPort t ∧ t.port h = { k with sent := some (.arp (s.mac h) ip) }) ∧
    (∀ ip : BitVec 32, k.enable = true → k.linkUp = true → ip = 0 ∨ ip ≠ s.ip4 h →
      exec (.arpRequest h ip) s = .next (s.setPort h { k with dropFormat := satAdd k.dropFormat 1 })) ∧
    (∀ ip : BitVec 128, k.enable = true → k.linkUp = true → ip = 0 ∨ ip ≠ s.ip6 h →
      exec (.neighbourSolicit h ip) s = .next (s.setPort h { k with dropFormat := satAdd k.dropFormat 1 })) ∧
    (∀ ip : BitVec 128, k.enable = true → k.linkUp = true → ip ≠ 0 → ip = s.ip6 h →
      ∃ t, exec (.neighbourSolicit h ip) s = .next t ∧ onlyPort t ∧
        t.port h = { k with sent := some (.neighbour (s.mac h) ip) }) ∧
    (∀ (two : Bool) (seq : BitVec 16) (t1 t2 t3 t4 : BitVec 64), k.enable = true → k.linkUp = true → k.ptpEn = true →
      (∃ t, exec (.ptpSync h k.domain two seq t1 t2) s = .next t ∧ onlyPort t ∧
        t.port h = if two then { k with ptpSync := some (seq, t2) }
                   else { k with ptpSync := none, ptpT1T2 := some (t1, t2) }) ∧
      (k.ptpSync = some (seq, t2) → ∃ t, exec (.ptpFollowUp h k.domain seq t1) s = .next t ∧ onlyPort t ∧
        t.port h = { k with ptpSync := none, ptpT1T2 := some (t1, t2) }) ∧
      (k.ptpT1T2 = some (t1, t2) →
        let off := (((t2.toNat : Int) - t1.toNat) - ((t4.toNat : Int) - t3.toNat)) / 2
        ∃ t, exec (.ptpDelayResp h k.domain t3 t4) s = .next t ∧ others t ∧
          t.port h = { k with ptpLock := true, ptpOffset := clamp32 off, ptpT1T2 := none } ∧
          t.work.lockedOnce = true ∧
          t.time = (if 1000 < off.natAbs then s.time - BitVec.ofInt 64 off else s.time) ∧
          t.work.slew = (if 1000 < off.natAbs then 0 else off))) ∧
    (∃ t, exec .ptpSyncTimeout s = .next t ∧ s = { t with ports := s.ports } ∧ (t.port h) = { k with ptpLock := false }))

/-! ### Sessions and the acceptance of commands -/

namespace Sys2Proof.Machine.Claims

/-- A port's last frame sent is a SETUP_REPLY (R425). -/
def setupAnswer (t : State) (f : Setup) (op st : Nat) (body : List Byte) : Prop :=
  (t.port f.port).sent = some (.sct {
    carrier := f.carrier, ftype := 5, op := BitVec.ofNat 16 op, seq := f.seq, status := st, body := body })

/-- Only one port, and the count of free values drawn, may differ. -/
def onlyPort (s t : State) (h : PortId) : Prop :=
  s = { t with ports := s.ports, draws := s.draws } ∧ ∀ x : PortId, x ≠ h → t.port x = s.port x

/-- The frame, the rule (opcode, class 0, range, authority, protection), the body, and what is recorded of the body, of
every command of a session (R434 to R440). -/
def hostRule (s : State) : Instr → Option (Frame × Rule × List Byte × List Byte)
  | .regRead f a n => let b := leBytes 4 a.toNat ++ leBytes 2 n.toNat; some (f, { op := 0x10 }, b, b)
  | .regWrite f a v m =>
    let b := leBytes 4 a.toNat ++ leBytes 4 v.toNat ++ leBytes 4 m.toNat
    some (f, { op := 0x11, auth := writeAuth a.toNat, guard := s.guarded a.toNat m }, b, b)
  | .cfgStage f r =>
    let b := leBytes 2 (recFn r) ++ leBytes 2 (cfgBytes r).length ++ cfgBytes r
    some (f, { op := 0x20, auth := .admin, guard := recGuarded r }, b, b)
  | .cfgCommit f fn d => let b := leBytes 2 fn.toNat ++ leBytes 1 d.toNat; some (f, { op := 0x21, auth := .admin }, b, b)
  | .partStop f p m => some (f, ownerRule 0x30 false true p.toNat, [p, m], [p, m])
  | .partStart f p => some (f, ownerRule 0x31 false true p.toNat, [p], [p])
  | .progLoad f h bs =>
    some (f, { ownerRule 0x32 false true h.part.toNat with
      denied := ({ step := 1, status := stDENIED } : LoadErr).body }, loadHdrBytes h ++ bs, loadHdrBytes h)
  | .progPatch f p l =>
    let b := [p, 0] ++ leBytes 2 l.length ++ l.flatMap (fun x => leBytes 4 x.1.toNat ++ leBytes 4 x.2.toNat)
    some (f, ownerRule 0x33 false true p.toNat, b, b)
  | .submit f h l =>
    let b := submitHdrBytes h ++ l.flatMap (fun t => leBytes 4 t.toNat)
    some (f, ownerRule 0x40 true false h.part.toNat, b, b)
  | .cancel f q => let b := leBytes 4 q.toNat; some (f, ownerRule 0x41 true false (reqPart q), b, b)
  | .query f q kind ten p =>
    let b := leBytes 4 q.toNat ++ [kind] ++ leBytes 2 ten.toNat ++ [p]
    let r := ownerRule 0x42 true false (if kind = 0 then reqPart q else p.toNat)
    some (f, { r with bad := r.bad || decide (1 < kind.toNat) }, b, b)
  | .results f q off n rel =>
    let b := leBytes 4 q.toNat ++ leBytes 4 off.toNat ++ leBytes 2 n.toNat ++ leBytes 1 rel.toNat
    some (f, ownerRule 0x43 true false (reqPart q), b, b)
  | .budgetSet f p sel ten bal rate cap ns =>
    let b := [p, sel.setWidth 8] ++ leBytes 2 ten.toNat ++ leBytes 4 bal.toNat ++ leBytes 4 rate.toNat ++
      leBytes 4 cap.toNat ++ leBytes 4 ns.toNat
    some (f, ownerRule 0x44 false true p.toNat, b, b)
  | .adapterLoad f h bs => some (f, ownerRule 0x45 false true h.part.toNat, loadHdrBytes h ++ bs, loadHdrBytes h)
  | .routeStage f first last l =>
    let b := leBytes 2 first.toNat ++ leBytes 2 l.length ++ leBytes 4 last.toNat ++ l.flatMap (fun e => leBytes 2 e.toNat)
    some (f, { op := 0x50, auth := .admin }, b, b)
  | .routeSwitch f => some (f, { op := 0x51, auth := .admin }, [], [])
  | .linkReset f l w r g => let b := [l, w, r] ++ leBytes 1 g.toNat; some (f, { op := 0x60, auth := .admin }, b, b)
  | .linkLeave f m => let b := leBytes 4 m.toNat; some (f, { op := 0x61, auth := .admin }, b, b)
  | .hotplugPrepare f m => let b := leBytes 1 m.toNat; some (f, { op := 0x62, auth := .admin }, b, b)
  | .lockstepPair f m tw role en hold =>
    let b := leBytes 2 m.toNat ++ leBytes 2 tw.toNat ++ [role] ++ leBytes 1 (en.toNat + 2 * hold.toNat)
    some (f, { op := 0x70, auth := .admin }, b, b)
  | .recordStart f m buf wrap batch =>
    let b := leBytes 2 m.toNat ++ [buf] ++ leBytes 1 (wrap.toNat + 2 * batch.toNat)
    some (f, { op := 0x71, auth := .admin }, b, b)
  | .recordStop f stop rel off n =>
    let b := leBytes 4 (stop.toNat + 2 * rel.toNat) ++ leBytes 4 off.toNat ++ leBytes 2 n.toNat
    some (f, { op := 0x72, auth := .admin }, b, b)
  | _ => none

/-- The frame of a command is well formed, in a carrier that the port takes, and has the tag of its session (R421 to
R423). -/
def tagged (s : State) (f : Frame) (op : Nat) (body : List Byte) (x : Session) : Prop :=
  (s.port f.port).enable = true ∧ (s.port f.port).linkUp = true ∧ s.carries f.port f.carrier = true ∧
  frameBad f true body = false ∧
  s.session f = some x ∧ frameGood f x.skey 0 op body = true

/-- The session, once its RACK is heard, has room for the frame's SEQ, which is new (R427), and the port has room for the
command and no earlier frame waiting (R428, R430). -/
def fresh (s : State) (f : Frame) (x : Session) : Prop :=
  let y := x.hear f.rack
  y.rack.toNat ≤ f.seq.toNat ∧ f.seq.toNat < y.rack.toNat + 4096 ∧ y.seen.contains f.seq = false ∧
  y.rack.toNat ≤ 0xFFFFF000 ∧ ((s.port f.port).setSession y).accepts = true

/-- The state in which an accepted command is checked: its SEQ is seen and it is running. -/
def accepted (s : State) (f : Frame) (x : Session) : State :=
  let y := x.hear f.rack
  s.modPort f.port (fun k => (k.setSession y).setSession { y with
    seen := y.seen ++ [f.seq], running := y.running ++ [f.seq], via := y.via ++ [(f.seq, f.carrier)] })

/-- No recording covers the command (R489). -/
def unrecorded (s : State) (r : Rule) : Prop :=
  s.work.recording.running = false ∨ r.bad = true ∨ ∀ p, r.auth = .owner p → s.work.recording.mask.getLsbD p.val = false

/-- The command is accepted and nothing refuses it (R427, R428, R434): `u` is the state it runs in. A class-0 command
has taken a token (R376). -/
def taken (s u : State) (c : Instr) : Prop :=
  ∃ (f : Frame) (r : Rule) (body keep : List Byte) (x : Session), hostRule s c = some (f, r, body, keep) ∧
    tagged s f r.op body x ∧ fresh s f x ∧
    let v := (accepted s f x).recorded f r keep
    v.refusal f r body = none ∧ v.token f r = some u

end Sys2Proof.Machine.Claims

/-- A COMMAND of a session is accepted once. A frame in a carrier that the port does not take, or that is ill-formed, or
that has no session or a wrong tag, or a SEQ outside the window, is counted and dropped; a SEQ seen before is answered from the kept responses, or with PROGRESS; a
port without room keeps the frame. An accepted command of the wrong class, range or authority is answered with BOUNDS
or DENIED; a class-0 command without a token waits. None of these runs the command (R421 to R424, R427, R428, R430,
R434, R376). -/
def Obligations.CommandsAreAcceptedOnce : Prop :=
  ∀ (c : Instr) (f : Frame) (r : Rule) (body keep : List Byte) (s : State), hostRule s c = some (f, r, body, keep) →
    let k := s.port f.port
    let op : BitVec 16 := BitVec.ofNat 16 r.op
    (k.enable = false ∨ k.linkUp = false → exec c s = .next s) ∧
    (k.enable = true → k.linkUp = true →
      (s.carries f.port f.carrier = false ∨ frameBad f true body = true →
        exec c s = .next (s.setPort f.port { k with dropFormat := satAdd k.dropFormat 1 })) ∧
      (s.carries f.port f.carrier = true → frameBad f true body = false → s.session f = none →
        exec c s = .next (s.setPort f.port { k with dropTag := satAdd k.dropTag 1 }))) ∧
    (∀ x : Session, s.session f = some x →
      (k.enable = true → k.linkUp = true → s.carries f.port f.carrier = true → frameBad f true body = false →
          frameGood f x.skey 0 r.op body = false →
        exec c s = .next (s.setPort f.port { k with dropTag := satAdd k.dropTag 1 })) ∧
      (tagged s f r.op body x →
        let y := x.hear f.rack
        let k' := k.setSession y
        (f.seq.toNat < y.rack.toNat ∨ y.rack.toNat + 4096 ≤ f.seq.toNat →
          exec c s = .next (s.setPort f.port { k' with dropSeq := satAdd k.dropSeq 1 })) ∧
        (y.rack.toNat ≤ f.seq.toNat → f.seq.toNat < y.rack.toNat + 4096 → y.seen.contains f.seq = true →
          (∀ p, y.kept.find? (fun p => p.seq == f.seq) = some p →
            exec c s = .next (s.setPort f.port { k' with
              sent := some (.sct (y.frame { p.sent true with carrier := f.carrier })) })) ∧
          ((∀ p ∈ y.kept, p.seq ≠ f.seq) → exec c s = .next (s.setPort f.port { k' with
            sent := some (.sct (y.frame { carrier := f.carrier, ftype := 3, op := op, seq := f.seq })) }))) ∧
        (y.rack.toNat ≤ f.seq.toNat → f.seq.toNat < y.rack.toNat + 4096 → y.seen.contains f.seq = false →
          y.rack.toNat ≤ 0xFFFFF000 → k'.accepts = false →
          (k.ingress.map (·.1)).sum + frameSize f body ≤ 16 * 2 ^ 20 →
          exec c s = .next (s.setPort f.port { k' with ingress := k.ingress ++ [(frameSize f body, c)] })) ∧
        (fresh s f x → unrecorded s r →
          let u := accepted s f x
          ((f.cls = 0 ∧ r.class0 = false) ∨ r.bad = true → exec c s = .next (u.answer f r.op stBOUNDS [])) ∧
          (¬ (f.cls = 0 ∧ r.class0 = false) → r.bad = false →
            (r.auth = .admin → (∀ hk, s.hostKey x.key.toNat = some hk → hk.admin = false) →
              exec c s = .next (u.answer f r.op stDENIED r.denied)) ∧
            (∀ p, r.auth = .owner p → (s.part p).owner ≠ x.key →
              exec c s = .next (u.answer f r.op stDENIED r.denied)) ∧
            (∀ p, r.auth = .owner p → (s.part p).owner = x.key → f.cls = 0 → (s.safety = false ∨ p = 0) →
              r.guard = false → (s.part p).c0Tokens = 0 →
              ∃ t, exec c s = .next t ∧ (t.port f.port).waitC0 = k.waitC0 ++ [(c, s.time)] ∧ t.parts = s.parts ∧
                logged s t 0x0017 (srcPort f.port) p.val 0 0 0)))))

/-- SETUP frames: IDENTIFY gives the module's identity and a fresh nonce; ATTEST a signed report; SESSION_OPEN, with a
live nonce and a signature of the key it names, opens a session, or resumes one of the same key under a new session
key, and uses the nonce up. Frames of other kinds are counted or answered VERSION; a frame with RACK alone drops the
responses it acknowledges. Sessions, loads and prompts that nothing reaches any more end (R418, R422, R424 to R429,
R434, R436, R439, R462). -/
def Obligations.SetupFramesOpenSessions : Prop :=
  (∀ (f : Setup) (s : State),
    let h := f.port
    let k := s.port h
    let small (n : Nat) : Prop := f.ver = 1 ∧ (f.sig = [] ∨ n + (sigBlock f.sig).length ≤ 8192)
    k.enable = true → k.linkUp = true →
    (s.carries f.port f.carrier = false →
      exec (.identify f) s = .next (s.setPort h { k with dropFormat := satAdd k.dropFormat 1 })) ∧
    (s.carries f.port f.carrier = true →
    (f.ver ≠ 1 → ∃ t, exec (.identify f) s = .next t ∧ onlyPort s t h ∧ setupAnswer t f 1 stVERSION []) ∧
    (small 0 → ∃ (t : State) (nm : BitVec 256), exec (.identify f) s = .next t ∧ onlyPort s t h ∧
      setupAnswer t f 1 stOK (s.vendor.partNumber ++ leBytes 12 s.coreMap ++ leBytes 2 s.chipId.toNat ++
        leBytes 1 s.chip.slotId.toNat ++ [3] ++ leBytes 4 Config.romVersion.toNat ++ shake256 deviceKey 64 ++
        bytesOfWord nm ++ leBytes 6 (s.mac h).toNat ++ leBytes 4 (s.ip4 h).toNat ++ leBytes 16 (s.ip6 h).toNat) ∧
      (t.port h).sessions = k.sessions ∧ (nm, s.time) ∈ (t.port h).nonces) ∧
    (∀ (nonce : BitVec 256) (mask : BitVec 16), small 34 →
      (4096 ≤ mask.toNat → ∃ t, exec (.attest f nonce mask) s = .next t ∧ onlyPort s t h ∧
        setupAnswer t f 2 stBOUNDS []) ∧
      (mask.toNat < 4096 → ∃ t, exec (.attest f nonce mask) s = .next t ∧ onlyPort s t h ∧
        setupAnswer t f 2 stOK (s.report nonce mask ++ deviceSig (s.report nonce mask)))) ∧
    (∀ (key : Byte) (resume : BitVec 32) (nm nh : BitVec 256), small 72 →
      let left := k.nonces.filter (fun x => x.1 != nm)
      let msg := leBytes 2 s.chipId.toNat ++ bytesOfWord nm ++ bytesOfWord nh ++ [key] ++ leBytes 4 resume.toNat
      ((∀ x ∈ k.nonces, x.1 = nm → x.2.toNat + 10000000000 < s.time.toNat) ∨ s.hostKey key.toNat = none →
        ∃ t, exec (.sessionOpen f key resume nm nh) s = .next t ∧ onlyPort s t h ∧ setupAnswer t f 3 stDENIED [] ∧
          (t.port h).sessions = k.sessions) ∧
      (∀ hk, (∃ x ∈ k.nonces, x.1 = nm ∧ s.time.toNat ≤ x.2.toNat + 10000000000) → s.hostKey key.toNat = some hk →
        ∃ t, exec (.sessionOpen f key resume nm nh) s = .next t ∧ onlyPort s t h ∧ (t.port h).nonces = left ∧
          (Config.falconVerify hk.pub msg f.sig = false →
            setupAnswer t f 3 stBADSIG [] ∧ (t.port h).sessions = k.sessions) ∧
          (Config.falconVerify hk.pub msg f.sig = true →
            (resume = 0 → 64 ≤ k.sessions.length → setupAnswer t f 3 stNOSPACE [] ∧
              (t.port h).sessions = k.sessions) ∧
            (resume = 0 → k.sessions.length < 64 → ∃ id : BitVec 32,
              (t.port h).sessions = k.sessions ++
                [{ id := id, key := key, skey := sessionKey (s.commandKey hk) nm nh id }] ∧
              ((∀ x : PortId, (s.port x).sessions.length ≤ 64 ∧ (s.port x).orphans.length ≤ 4096) → id ≠ 0 ∧
                ∀ (x : PortId) (y : Session), y ∈ (s.port x).sessions → y.id ≠ id)) ∧
            (∀ x, resume ≠ 0 → k.session resume = some x →
              (x.key ≠ key → setupAnswer t f 3 stDENIED [] ∧ (t.port h).sessions = k.sessions) ∧
              (x.key = key → (t.port h).sessions =
                (k.setSession { x with skey := sessionKey (s.commandKey hk) nm nh resume }).sessions))))))) ∧
  (∀ (h : PortId) (op : BitVec 16) (id seq : BitVec 32) (s : State),
    let k := s.port h
    k.enable = true → k.linkUp = true →
    (∀ n : Fin 6, n.val < 2 → exec (.otherFrame h n op id seq) s =
      .next (s.setPort h { k with dropFormat := satAdd k.dropFormat 1 })) ∧
    (exec (.otherFrame h 2 op id seq) s = .next (s.setPort h { k with dropTag := satAdd k.dropTag 1 })) ∧
    (exec (.otherFrame h 3 op id seq) s = .next (s.setPort h { k with dropSeq := satAdd k.dropSeq 1 })) ∧
    (∀ x, k.session id = some x → listedOps.contains op.toNat = false → x.rack.toNat ≤ seq.toNat →
      seq.toNat < x.rack.toNat + 4096 → x.rack.toNat ≤ 0xFFFFF000 → x.seen.contains seq = false →
      (k.setSession x).accepts = true →
      ∃ (t : State) (y : Session), exec (.otherFrame h 4 op id seq) s = .next t ∧ onlyPort s t h ∧
        y ∈ (t.port h).sessions ∧ y.id = id ∧ { seq := seq, op := op, status := stVERSION } ∈ y.kept) ∧
    (∃ t, exec (.otherFrame h 5 op id seq) s = .next t ∧ onlyPort s t h ∧
      setupAnswer t { port := h, seq := seq } op.toNat stVERSION [])) ∧
  (∀ (f : Frame) (x : Session) (s : State),
    let k := s.port f.port
    k.enable = true → k.linkUp = true →
    (s.carries f.port f.carrier = false → exec (.sctAckFrame f) s =
      .next (s.setPort f.port { k with dropFormat := satAdd k.dropFormat 1 })) ∧
    (s.carries f.port f.carrier = true → frameBad f false [] = false → s.session f = some x →
    (frameGood f x.skey 2 0 [] = false →
      exec (.sctAckFrame f) s = .next (s.setPort f.port { k with dropTag := satAdd k.dropTag 1 })) ∧
    (frameGood f x.skey 2 0 [] = true → x.rack.toNat < f.rack.toNat → f.rack.toNat ≤ x.highest + 1 →
      exec (.sctAckFrame f) s = .next (s.setPort f.port (k.setSession { x with
        rack := f.rack, seen := x.seen.filter (fun n => decide (f.rack.toNat ≤ n.toNat)),
        kept := x.kept.filter (fun r => decide (f.rack.toNat ≤ r.seq.toNat)) }))) ∧
    (frameGood f x.skey 2 0 [] = true → f.rack.toNat ≤ x.rack.toNat ∨ x.highest + 1 < f.rack.toNat →
      exec (.sctAckFrame f) s = .next (s.setPort f.port (k.setSession x))))) ∧
  (∀ (h : PortId) (id seq : BitVec 32) (s : State),
    (∃ t, exec (.sessionIdleTimeout h id) s = .next t ∧ s = { t with ports := s.ports, store := s.store } ∧
      (t.port h).sessions = (s.port h).sessions.filter (fun x => x.id != id) ∧
      (t.port h).outstanding = (s.port h).outstanding ∧
      (∀ x : PortId, x ≠ h → t.port x = s.port x) ∧ t.store.cfg = s.store.cfg ∧ t.store.journal = s.store.journal ∧
      t.store.stagings = s.store.stagings.filter (fun x => !(x.who.port == h && x.who.session == id))) ∧
    (∃ t, exec .loadObjectTimeout s = .next t ∧ s = { t with work := s.work } ∧
      t.work = { s.work with load := none }) ∧
    (∃ t, exec (.promptPartTimeout id seq) s = .next t ∧ s = { t with work := s.work } ∧
      t.work = { s.work with prompts := s.work.prompts.filter (fun x => !(x.session == id && x.seq == seq)) }))

/-! ### Host commands -/

/-- REG_READ answers the values of registers, lowest address first, and clears what a read clears; an address without a
register makes the whole read BOUNDS. REG_WRITE writes under its mask and answers the register's value after it. CFG_STAGE
keeps a record in the journal and changes no setting; CFG_COMMIT puts the staged records in force, or discards them
(R12, R13, R366, R434, R435, R455, R457, R458, R460). -/
def Obligations.RegistersAndConfigurationAreWritten : Prop :=
  ∀ (f : Frame) (s u : State),
    (∀ (a : BitVec 32) (n : BitVec 16), taken s u (.regRead f a n) →
      (n = 0 ∨ 64 < n.toNat ∨ (∃ i < n.toNat, u.reg (a.toNat + 4 * i) = none) →
        exec (.regRead f a n) s = .next (u.answer f 0x10 stBOUNDS [])) ∧
      (∀ v, n = 1 → a ≠ 0x400040C → u.reg a.toNat = some v →
        exec (.regRead f a n) s = .next ((u.readClear a.toNat).answer f 0x10 stOK (leBytes 4 v.toNat))) ∧
      (0 < n.toNat → n.toNat ≤ 64 → (∀ i < n.toNat, u.reg (a.toNat + 4 * i) ≠ none) →
        ∃ (w : State) (b : List Byte), exec (.regRead f a n) s = .next (w.answer f 0x10 stOK b) ∧
          b.length = 4 * n.toNat ∧ (∀ (x : CoreId) (y : Nat), w.peek x y = u.peek x y) ∧
          (∀ p : PartId, (w.part p).state = (u.part p).state))) ∧
    (∀ (a v m : BitVec 32), taken s u (.regWrite f a v m) →
      (u.reg a.toNat = none → exec (.regWrite f a v m) s = .next (u.answer f 0x11 stBOUNDS [])) ∧
      (∀ old, u.reg a.toNat = some old →
        (u.busyWrite a.toNat m = true → exec (.regWrite f a v m) s = .next (u.answer f 0x11 stBUSY [])) ∧
        (u.busyWrite a.toNat m = false →
          let w := u.writeAt a.toNat old v m
          exec (.regWrite f a v m) s = .next (w.answer f 0x11 stOK (leBytes 4 ((w.reg a.toNat).getD 0).toNat)) ∧
          (a = 0x4000408 → m = ~~~0 → w = { u with power := { u.power with
            limit := if 400 ≤ (v.setWidth 12).toNat ∧ (v.setWidth 12).toNat ≤ 1600 then v.setWidth 12 else
              u.power.limit } })))) ∧
    (∀ r : CfgRecord, taken s u (.cfgStage f r) →
      let k := u.store
      let busy := k.compacting = true ∨ k.erasePending = true ∨ k.taken (recFn r) f = true
      (∀ st, u.recStatus r = some st → exec (.cfgStage f r) s = .next (u.answer f 0x20 st [])) ∧
      (u.recStatus r = none → busy → exec (.cfgStage f r) s = .next (u.answer f 0x20 stBUSY [])) ∧
      (u.recStatus r = none → ¬ busy → recFn r ≠ 9 →
        k.used + recordSize (cfgBytes (sealRec (((u.session f).map (·.skey)).getD 0) r)).length ≤ journalBytes →
        ∃ (w : State) (n : Nat), exec (.cfgStage f r) s = .next (w.answer f 0x20 stOK (leBytes 4 n)) ∧
          u = { w with store := u.store } ∧ w.store.cfg = k.cfg ∧ w.store.nextSeq = k.nextSeq + 1 ∧
          (∃ e, w.store.journal = k.journal ++ [e] ∧ e.seq = k.nextSeq ∧ e.torn = false ∧ e.body = .edit (BitVec.ofNat 16 (recFn r))
            (sealRec (((u.session f).map (·.skey)).getD 0) r)) ∧
          (∃ g, w.store.staging (recFn r) = some g ∧ g.recs.length = n ∧
            g.recs = ((k.staging (recFn r)).map (·.recs)).getD [] ++ [sealRec (((u.session f).map (·.skey)).getD 0) r])) ∧
      (∀ off bs, r = .image off bs → u.recStatus r = none → ¬ busy → ∃ (w : State) (n : Nat),
        exec (.cfgStage f r) s = .next (w.answer f 0x20 stOK (leBytes 4 n)) ∧ u = { w with store := u.store } ∧
        w.store.cfg = k.cfg ∧ w.store.journal = k.journal ∧ w.store.activeHalf = k.activeHalf ∧
        n = ((k.staging 9).map (·.count)).getD 0 + 1)) ∧
    (∀ (fn : BitVec 16) (d : Bool), taken s u (.cfgCommit f fn d) →
      let k := u.store
      let busy := k.compacting = true ∨ k.erasePending = true ∨ k.taken fn.toNat f = true
      let recs := ((k.staging fn.toNat).map (·.recs)).getD []
      (fn = 0 ∨ 9 < fn.toNat → exec (.cfgCommit f fn d) s = .next (u.answer f 0x21 stBOUNDS [])) ∧
      (0 < fn.toNat → fn.toNat ≤ 9 → busy → exec (.cfgCommit f fn d) s = .next (u.answer f 0x21 stBUSY [])) ∧
      (0 < fn.toNat → fn.toNat ≤ 9 → ¬ busy → d = true →
        ∃ w : State, exec (.cfgCommit f fn d) s = .next (w.answer f 0x21 stOK [0, 0, 0, 0]) ∧
          u = { w with store := u.store } ∧ w.store.cfg = k.cfg ∧ w.store.staging fn.toNat = none) ∧
      (0 < fn.toNat → fn.toNat ≤ 9 → ¬ busy → d = false → (∃ r ∈ recs, u.recBusy r = true) →
        exec (.cfgCommit f fn d) s = .next (u.answer f 0x21 stBUSY [])) ∧
      (0 < fn.toNat → fn.toNat < 9 → ¬ busy → d = false → (∀ r ∈ recs, u.recBusy r = false ∧ u.recDenied r = false) →
        k.used + 144 ≤ journalBytes → ∃ t, exec (.cfgCommit f fn d) s = .next t ∧
          t.store.cfg = recs.foldl OwnerCfg.apply k.cfg ∧ t.store.lastCommit = k.nextSeq ∧
          t.store.staging fn.toNat = none ∧
          (∃ e, t.store.journal = k.journal ++ [e] ∧ e.seq = k.nextSeq ∧ e.torn = false) ∧ s.sameWords u ∧
          ((u.part 0).sleepState = 0 ∨ .safety true ∉ recs → u.sameWords t) ∧
          (.safety true ∈ recs → (∀ r ∈ recs, recFn r = 5) → (t.part 0).sleepState = 0 ∨ t.safety = false) ∧
          (∀ id a b, recs = [.chip id a b] → t.chipId = id) ∧ (∀ on, recs = [.safety on] → t.safety = on) ∧
          (∀ p fl o g n c kv, recs = [.part p fl o g n c kv] → (t.part (partOfNat p.toNat)).owner = o ∧
            (t.part (partOfNat p.toNat)).flock = fl ∧ (t.part (partOfNat p.toNat)).senders = g ∧
            (t.part (partOfNat p.toNat)).portNeed = n)))

/-- PART_STOP stops a partition at once, or lets its step end; PART_START makes it WAITING, to run once it may;
PROG_LOAD keeps its parts until the object is complete and then loads it, or says why not; PROG_PATCH rebuilds what the
chip map decides (R258, R261, R363 to R365, R435 to R437). -/
def Obligations.PartitionsAreStoppedStartedAndLoaded : Prop :=
  ∀ (f : Frame) (part : Byte) (s u : State), part.toNat < 12 →
    let p := partOfNat part.toNat
    let k := u.part p
    let me := (f.port, f.session, f.seq)
    (∀ mode : Byte, taken s u (.partStop f part mode) →
      (1 < mode.toNat → exec (.partStop f part mode) s = .next (u.answer f 0x30 stBOUNDS [])) ∧
      (mode.toNat ≤ 1 →
        (k.state = 0 ∨ k.state = 1 → exec (.partStop f part mode) s =
          .next (u.answer f 0x30 stOK [BitVec.ofNat 8 k.state.toNat])) ∧
        (k.state = 2 → ∃ w : State, exec (.partStop f part mode) s = .next (w.answer f 0x30 stOK [1]) ∧
          (w.part p) = { k with state := 1, cause := 1, starts := [] } ∧
          w.ports = (u.respondAll 0x31 stCANCELLED [1] k.starts).ports) ∧
        (running u p → mode = 1 → ∃ w : State, exec (.partStop f part mode) s = .next (w.answer f 0x30 stOK [1]) ∧
          stopped u w p stCANCELLED 1 ∧ u.sameWords w) ∧
        (running u p → mode = 0 → ∃ t, exec (.partStop f part mode) s = .next t ∧ u = { t with parts := u.parts } ∧
          t.part p = { k with state := 4, stops := k.stops ++ [me] } ∧ ∀ x : PartId, x ≠ p → t.part x = u.part x))) ∧
    (taken s u (.partStart f part) → k.loads = [] →
      (k.state = 0 → exec (.partStart f part) s = .next (u.answer f 0x31 stDENIED [0])) ∧
      (k.state = 3 ∨ k.state = 4 → exec (.partStart f part) s =
        .next (u.answer f 0x31 stBUSY [BitVec.ofNat 8 k.state.toNat])) ∧
      (k.state = 1 → k.regionsOk = false → exec (.partStart f part) s = .next (u.answer f 0x31 stBOUNDS [1])) ∧
      (k.state = 1 → k.regionsOk = true → k.ls.paired = false → u.portsReady p = true →
        ∃ t, exec (.partStart f part) s = .next t ∧ u = { t with parts := u.parts, domains := u.domains } ∧
          (t.part p).state = 2 ∧ (t.part p).strideHold = false ∧ (t.part p).starts = k.starts ++ [me] ∧
          (k.sleepState ≠ 0 → u.chip.failedParts.getLsbD p.val = false → (t.part p).waking = true) ∧
          ∀ x : PartId, x ≠ p → t.part x = u.part x)) ∧
    (∀ (h : LoadHdr) (bs : List Byte), h.part = part → taken s u (.progLoad f h bs) → h.remove = false → h.adapter = 0 →
      h.tenant = 0 → h.slot = 0 →
      (partFits h bs = false → exec (.progLoad f h bs) s = .next (u.answer f 0x32 stBOUNDS [])) ∧
      (partFits h bs = true → u.work.load = none → h.offset.toNat + bs.length < h.total.toNat → h.offset = 0 →
        ∃ w : State, exec (.progLoad f h bs) s = .next (w.answer f 0x32 stOK (leBytes 4 bs.length)) ∧
          u = { w with work := u.work } ∧ ∃ o, w.work.load = some o ∧ o.data = bs) ∧
      (partFits h bs = true → u.work.load = none → h.total.toNat = bs.length →
        let v : State := { u with work := { u.work with load := none } }
        (2 ≤ k.state.toNat → exec (.progLoad f h bs) s =
          .next (v.answer f 0x32 stBUSY ({ step := 1, status := stBUSY } : LoadErr).body)) ∧
        (k.state.toNat < 2 → k.loads = [] → k.sleepState = 0 → u.work.recording.held = false →
          exec (.progLoad f h bs) s = .next (match v.loadImage p bs bs.length with
            | .ok w => (w.dropAdapters p).answer f 0x32 stOK (leBytes 4 bs.length)
            | .error e => (v.loadFailed p).answer f 0x32 e.status e.body) ∧
          (match v.loadImage p bs bs.length with
           | .ok w => (w.part p).state = 1 ∧ (w.part p).cause = 0 ∧ (w.part p).windows = [] ∧ (w.part p).stepNo = 0 ∧
              (∃ g, (w.part p).prog = some g ∧ g.digest = (bs.drop 32).take 64) ∧
              (∀ x : PartId, x ≠ p → w.part x = u.part x) ∧
              (∀ c ∈ u.ranks p, (w.core c).inflight = [] ∧ (w.core c).regions = [] ∧ (w.core c).flags = 0 ∧
                (∀ y, smGet (w.core c).array.acc y = 0) ∧ (∀ n, (w.core c).vec.vreg n = 0)) ∧
              (∀ c, c ∉ u.ranks p → w.core c = u.core c)
           | .error _ => (v.loadFailed p).part p = { k with state := 0, prog := none, ls := k.ls.unpair })))) ∧
    (∀ l : List (BitVec 32 × BitVec 32), taken s u (.progPatch f part l) →
      (l = [] ∨ (if f.sig.isSome then 863 else 1023) < l.length →
        exec (.progPatch f part l) s = .next (u.answer f 0x33 stBOUNDS [])) ∧
      (l ≠ [] → l.length ≤ 863 →
        (2 ≤ k.state.toNat ∨ k.loads ≠ [] → exec (.progPatch f part l) s = .next (u.answer f 0x33 stBUSY [])) ∧
        (∀ (g : Program) (m : List (BitVec 32)), k.state.toNat < 2 → k.loads = [] → k.prog = some g →
          (patchMap g l g.chipmap = none → exec (.progPatch f part l) s = .next (u.answer f 0x33 stBOUNDS [])) ∧
          (patchMap g l g.chipmap = some m → (∀ x ∈ g.patches, x.fits m = true) →
            (∀ c ∈ u.ranks p, (g.patches.foldl (fun s x => s.patchOne p m x) u).badInstr c (fun _ _ => true) = none) →
            ∃ w : State, exec (.progPatch f part l) s = .next (w.answer f 0x33 stOK (leBytes 4 g.patches.length)) ∧
              w.part p = { k with prog := some { g with chipmap := m } } ∧ (g.patches = [] → u.sameWords w) ∧
              (∀ x : PartId, x ≠ p → w.part x = u.part x) ∧
              (∀ x c, g.patches = [x] → x.queue = none → u.coreOfRank p x.rank = some c → x.lobit + x.width ≤ 256 →
                u.mustHold [(c, x.index)] = none → (u.core c).memory.check x.index ≠ .bad → u.memoriesWf →
                x.value m = some (wordField (w.peek c x.index) x.lobit x.width))))))

/-! ### Requests, budgets and adapters -/

namespace Sys2Proof.Machine.Claims

/-- The request that a SUBMIT makes (R390, R392): QUEUED, in the generation of its slot, behind every earlier one. -/
def queuedRequest (s : State) (k : Part) (f : Frame) (h : SubmitHdr) (n : Nat) (slot : BitVec 16)
    (tokens : List (BitVec 32)) : Request :=
  { state := .queued, gen := smGet k.gens n, session := f.session, tenant := h.tenant, cls := h.cls.setWidth 2,
    deadline := h.deadline, dropLate := h.dropLate, stream := h.stream, slot := slot, draft := h.draft.toNat,
    outLeft := h.maxout.toNat, prompt := tokens, ntok := h.ntok.toNat, order := k.accepted, arrive := s.time,
    rx := s.time }

/-- The state with another object being loaded. -/
def withLoad (s : State) (o : Option LoadObj) : State := { s with work := { s.work with load := o } }

/-- Every word of core memory can be reached at once: all groups ON, no word uncorrectable, no access held (R209,
R213). -/
def still (s : State) : Prop := calm s ∧ ∀ c : CoreId, (s.core c).memory.held = []

end Sys2Proof.Machine.Claims

/-- SUBMIT makes a QUEUED request, keeps a part of a prompt, or gives why not; CANCEL ends a QUEUED request at once and
lets an ACTIVE one run to the end of its step; QUERY answers a request's state or a tenant's budget; RESULTS answers
output values that are released and frees a DONE slot whose values have all been returned; a DONE slot is freed after
HOLD; a QUEUED DROP_LATE request ends CANCELLED after its deadline (R390 to R392, R401, R402, R404, R439, R440). -/
def Obligations.RequestsMoveThroughTheirStates : Prop :=
  (∀ (f : Frame) (h : SubmitHdr) (tokens : List (BitVec 32)) (s u : State), h.part.toNat < 12 →
    taken s u (.submit f h tokens) →
    let p := partOfNat h.part.toNat
    let k := u.part p
    let n := tokens.length
    let gives (st : Nat) (b : List Byte) : Prop := exec (.submit f h tokens) s = .next (u.answer f 0x40 st b)
    (k.srvMode = 0 ∨ u.chip.hpState ≠ 0 ∨ (k.ls.paired = true ∧ k.ls.follower = true) → gives stDENIED []) ∧
    (k.srvMode ≠ 0 → u.chip.hpState = 0 → k.ls.paired = false →
      (2 < h.cls.toNat ∨ 5 < h.draft.toNat ∨ 4095 < h.tenant.toNat ∨ h.maxout = 0 ∨ 262144 < h.maxout.toNat ∨
        262144 < h.ntok.toNat ∨ 2040 < n ∨ h.ntok.toNat < h.toff.toNat + n → gives stBOUNDS []) ∧
      (submitBad h n = false → (h.deadline = 0 ∨ u.work.lockedOnce = true) →
        (h.adapter ≠ 0xFFFF → (∀ a ∈ u.work.adapters, a.2.adapter = h.adapter → a.2.part ≠ p) → gives stBOUNDS []) ∧
        (h.adapter ≠ 0xFFFF → (∃ a ∈ u.work.adapters, a.2.adapter = h.adapter ∧ a.2.part = p) →
          (∀ a ∈ u.work.adapters, a.2.adapter = h.adapter → a.2.part = p →
            a.2.tenant ≠ h.tenant ∧ a.2.tenant ≠ 0xFFFF) → gives stDENIED []) ∧
        (h.adapter = 0xFFFF → h.cls = 0 → k.srvMode ≠ 2 → gives stDENIED []))) ∧
    (∀ slot, u.submitCheck p h n = .ok slot → h.first = 0 →
      (h.ntok = 0 → gives stOK [0xFF, 0xFF, 0xFF, 0xFF]) ∧
      (h.ntok ≠ 0 → 1048576 < k.stored + u.reserved p + h.ntok.toNat → gives stNOSPACE []) ∧
      (h.ntok ≠ 0 → k.stored + u.reserved p + h.ntok.toNat ≤ 1048576 →
        (n = h.ntok.toNat → (∀ i < 4096, alGet k.slots i ≠ none) → gives stNOSPACE []) ∧
        (∀ i, n = h.ntok.toNat → i < 4096 → alGet k.slots i = none → (∀ j < i, alGet k.slots j ≠ none) →
          let w := u.setPart p { k with
            slots := alSet k.slots i (queuedRequest u k f h i slot tokens), accepted := k.accepted + 1 }
          exec (.submit f h tokens) s =
            .next ((w.kick p).answer f 0x40 stOK (leBytes 4 (reqId p i (smGet k.gens i)))) ∧
          (k.state ≠ 3 → w.kick p = w)) ∧
        (n ≠ h.ntok.toNat → h.cls ≠ 0 → ∃ (w : State) (x : Prompt),
          exec (.submit f h tokens) s = .next (w.answer f 0x40 stOK [0xFF, 0xFF, 0xFF, 0xFF]) ∧
          u = { w with work := u.work } ∧ w.work = { u.work with prompts := u.work.prompts ++ [x] } ∧
          x.port = f.port ∧ x.session = f.session ∧ x.seq = f.seq ∧ x.hdr = h ∧
          ∀ i t, tokens[i]? = some t → smGet x.tokens (h.toff.toNat + i) = 0x100000000 ||| t.setWidth 33)))) ∧
  (∀ (f : Frame) (req : BitVec 32) (s u : State), taken s u (.cancel f req) →
    let p := partOfNat (reqPart req)
    let k := u.part p
    (k.request req = none → exec (.cancel f req) s = .next (u.answer f 0x41 stBOUNDS [])) ∧
    (∀ r, k.request req = some r →
      (r.state = .cancelling ∨ (r.state = .active ∧ r.pend ≠ none) ∨ r.state = .done →
        exec (.cancel f req) s = .next (u.answer f 0x41 stOK
          [if r.state = .cancelling then 3 else if r.state = .done then 4 else 2])) ∧
      (r.state = .active → r.pend = none → exec (.cancel f req) s = .next ((u.setPart p { k with
        slots := alSet k.slots (reqSlot req) { r with state := .cancelling } }).answer f 0x41 stOK [3])) ∧
      (r.state = .queued → exec (.cancel f req) s = .next ((u.setPart p { k with
        slots := alSet k.slots (reqSlot req) { r with
          state := .done, status := stCANCELLED, out := [], vis := r.out.length, prompt := [], pend := none,
          doneTime := u.time },
        doneCancel := satAdd k.doneCancel 1 }).answer f 0x41 stOK [4])))) ∧
  (∀ (f : Frame) (req : BitVec 32) (kind : Byte) (ten : BitVec 16) (part : Byte) (s u : State),
    taken s u (.query f req kind ten part) →
    let gives (st : Nat) (b : List Byte) : Prop := exec (.query f req kind ten part) s = .next (u.answer f 0x42 st b)
    (kind = 0 → (u.part (partOfNat (reqPart req))).request req = none → gives stBOUNDS []) ∧
    (∀ r, kind = 0 → (u.part (partOfNat (reqPart req))).request req = some r →
      gives stOK (leBytes 1 (stateCode r) ++ leBytes 3 (if r.state = .done then r.status else 0) ++ leBytes 4 r.pos ++
        leBytes 4 (min r.vis r.out.length))) ∧
    (kind ≠ 0 → 4095 < ten.toNat → gives stBOUNDS []) ∧
    (kind ≠ 0 → ten.toNat ≤ 4095 → let b := (u.part (partOfNat part.toNat)).budget ten
      gives stOK (leBytes 4 b.balance.toNat ++ leBytes 4 b.rate.toNat ++ leBytes 4 b.cap.toNat ++
        leBytes 4 b.nshare.toNat))) ∧
  (∀ (f : Frame) (req off : BitVec 32) (n : BitVec 16) (rel : Bool) (s u : State), taken s u (.results f req off n rel) →
    let p := partOfNat (reqPart req)
    let k := u.part p
    (k.request req = none → exec (.results f req off n rel) s = .next (u.answer f 0x43 stBOUNDS [])) ∧
    (∀ r, k.request req = some r →
      let held := min r.vis r.out.length
      (n = 0 ∨ 2040 < n.toNat ∨ held < off.toNat →
        exec (.results f req off n rel) s = .next (u.answer f 0x43 stBOUNDS [])) ∧
      (n ≠ 0 → n.toNat ≤ 2040 → off.toNat ≤ held →
        let vals := if r.state = .done ∨ r.stream = true then
          (r.out.drop off.toNat).take (min n.toNat (held - off.toNat)) else []
        let ret := if vals = [] then r.ret else r.ret ++ [(off.toNat, vals.length)]
        let free := rel = true ∧ r.state = .done ∧ ∀ i < held, ∃ x ∈ ret, x.1 ≤ i ∧ i < x.1 + x.2
        ∃ w : State, u = { w with parts := u.parts } ∧ (∀ x : PartId, x ≠ p → w.part x = u.part x) ∧
          (free → exec (.results f req off n rel) s = .next (w.answer f 0x43 stOK ([0] ++ leBytes 3 r.status ++
              leBytes 4 held ++ leBytes 8 vals.length ++ vals.flatMap (fun v => leBytes 4 v.toNat))) ∧
            alGet (w.part p).slots (reqSlot req) = none ∧
            (w.part p).gens = smSet k.gens (reqSlot req) (smGet k.gens (reqSlot req) + 1)) ∧
          (¬ free → exec (.results f req off n rel) s = .next (w.answer f 0x43 stOK (leBytes 1 (stateCode r) ++
              leBytes 3 (if r.state = .done then r.status else 0) ++
              leBytes 4 held ++ leBytes 8 vals.length ++ vals.flatMap (fun v => leBytes 4 v.toNat))) ∧
            (w.part p) = { k with slots := alSet k.slots (reqSlot req) { r with ret := ret } })))) ∧
  (∀ (p : PartId) (n : BitVec 12) (s : State),
    let k := s.part p
    let due (r : Request) : Prop := r.doneTime.toNat + k.hold.toNat * 10 ^ 9 ≤ s.time.toNat
    ((∀ r, alGet k.slots n.toNat = some r → r.state ≠ .done ∨ ¬ due r) → exec (.doneHoldExpiry p n) s = .next s) ∧
    (∀ r, alGet k.slots n.toNat = some r → r.state = .done → due r →
      ∃ t, exec (.doneHoldExpiry p n) s = .next t ∧ s = { t with parts := s.parts } ∧
        (∀ x : PartId, x ≠ p → t.part x = s.part x) ∧ alGet (t.part p).slots n.toNat = none ∧
        (∀ i, i ≠ n.toNat → alGet (t.part p).slots i = alGet k.slots i) ∧
        t.part p = { k with
          slots := (t.part p).slots, gens := smSet k.gens n.toNat (smGet k.gens n.toNat + 1),
          doneExpired := satAdd k.doneExpired 1 }) ∧
    (∀ r, alGet k.slots n.toNat = some r →
      (r.dropLate = false ∨ r.deadline = 0 ∨ s.time.toNat ≤ r.deadline.toNat ∨ r.state = .cancelling ∨ r.state = .done ∨
        (r.state = .active ∧ k.stepping = true) → exec (.dropLateDeadline p n) s = .next s) ∧
      (r.dropLate = true → r.deadline ≠ 0 → r.deadline.toNat < s.time.toNat → r.state = .queued →
        k.state ≠ 3 → ∃ t, exec (.dropLateDeadline p n) s = .next t ∧ s = { t with parts := s.parts } ∧
          (∀ x : PartId, x ≠ p → t.part x = s.part x) ∧
          (∀ i, i ≠ n.toNat → alGet (t.part p).slots i = alGet k.slots i) ∧
          ∃ r', alGet (t.part p).slots n.toNat = some r' ∧ r'.state = .done ∧ r'.status = stCANCELLED ∧ r'.out = [])))

/-- BUDGET_SET writes the fields of an entry that it selects; a millisecond adds RATE / 1,000 to a balance, with the
fraction carried, up to CAP; a period adds a class-0 token, up to BURST, which a waiting command takes. Admission gives
the rows of a step to requests that can pay, with new and distinct KV descriptors, and never more than MAX_ROWS.
ADAPTER_LOAD places the items of an adapter and writes their directory entries, or gives why not; REMOVE clears the
entries (R376, R395, R396, R399, R400, R404, R435, R436, R438). -/
def Obligations.BudgetsAdmissionAndAdaptersFollowTheirRules : Prop :=
  (∀ (f : Frame) (part : Byte) (sel : BitVec 4) (ten : BitVec 16) (bal rate cap ns : BitVec 32) (s u : State),
    part.toNat < 12 → taken s u (.budgetSet f part sel ten bal rate cap ns) →
    let p := partOfNat part.toNat
    let k := u.part p
    let old := k.budget ten
    (4095 < ten.toNat ∨ (ns ≠ 0 ∧ ns.toNat < 4096) →
      exec (.budgetSet f part sel ten bal rate cap ns) s = .next (u.answer f 0x44 stBOUNDS [])) ∧
    (ten.toNat ≤ 4095 → (ns = 0 ∨ 4096 ≤ ns.toNat) → ∃ b : Budget,
      exec (.budgetSet f part sel ten bal rate cap ns) s =
        .next (((u.setPart p { k with budgets := alSet k.budgets ten.toNat b }).kick p).answer f 0x44 stOK
          (leBytes 4 b.balance.toNat ++ leBytes 4 b.rate.toNat ++ leBytes 4 b.cap.toNat ++ leBytes 4 b.nshare.toNat)) ∧
      b.balance = (if sel.getLsbD 0 then bal else old.balance) ∧ b.rate = (if sel.getLsbD 1 then rate else old.rate) ∧
      b.cap = (if sel.getLsbD 2 then cap else old.cap) ∧ b.nshare = (if sel.getLsbD 3 then ns else old.nshare))) ∧
  (∀ s : State,
    let more (k : Part) : Part := { k with budgets := k.budgets.map (fun b => (b.1, b.2.refill)) }
    (∀ p : PartId, (s.part p).lifted (more (s.part p)) = false) →
      ∃ t, exec .budgetRefill s = .next t ∧ s = { t with parts := s.parts } ∧
        ∀ p : PartId, t.part p = more (s.part p)) ∧
  (∀ b : Budget,
    ((b.cap.toNat : Int) ≤ b.balance.toInt → b.refill = b) ∧
    (b.balance.toInt < b.cap.toNat → b.cap.toNat < 2 ^ 31 →
      b.refill.balance.toInt = min (b.balance.toInt + ((b.frac + b.rate.toNat) / 1000 : Nat)) b.cap.toNat ∧
      b.refill.frac = (b.frac + b.rate.toNat) % 1000)) ∧
  (∀ (p : PartId) (s : State),
    let k := s.part p
    let n := min (k.c0Tokens + 1) k.c0Burst.toNat
    ((∀ (h : PortId) (c : Instr × BitVec 64), c ∈ (s.port h).waitC0 → waitingPart c.1 ≠ some p) →
      exec (.hostC0TokenRefill p) s = .next (s.setPart p { k with c0Tokens := n })) ∧
    (∀ (f : Frame) (req : BitVec 32) (ten : BitVec 16) (part : Byte) (rx : BitVec 64) (r : Request), 0 < n →
      reqPart req = p.val → (s.port 0).waitC0 = [(.query f req 0 ten part, rx)] → k.request req = some r →
      ∃ (w : State), exec (.hostC0TokenRefill p) s = .next (w.answer f 0x42 stOK (leBytes 1 (stateCode r) ++
          leBytes 3 (if r.state = .done then r.status else 0) ++ leBytes 4 r.pos ++
          leBytes 4 (min r.vis r.out.length))) ∧
        (w.port 0).waitC0 = [] ∧ w.part p = { k with c0Tokens := n - 1 })) ∧
  (∀ k : Part, (k.slots.map (·.1)).Nodup → (∀ e ∈ k.endedNext, e.ended = true ∧ e.rows = 0) →
      (∀ x ∈ k.slots, x.2.pos < x.2.ntok → x.2.prompt.length = x.2.ntok - x.2.pos) →
    let b := k.admitBatch
    b.ents.length ≤ k.maxRows.toNat ∧ (b.ents.map (·.rows)).sum + b.left = k.maxRows.toNat ∧
    b.tokens.length = (b.ents.map (·.rows)).sum ∧
    b.allocs.Nodup ∧ (∀ i ∈ b.allocs, i < k.ndesc.toNat ∧ i ∉ k.used) ∧ b.k.used = k.used ++ b.allocs ∧
    (∀ e ∈ b.ents, e.ended = false → ∃ r, alGet k.slots e.slot = some r ∧ (r.state = .active ∨ r.state = .queued) ∧
      r.gen = e.gen ∧ r.tenant = e.tenant ∧ r.pos = e.pos ∧ (r.cls ≠ 0 → k.pay e.tenant = 0))) ∧
  (∀ (f : Frame) (h : LoadHdr) (bs : List Byte) (s u : State), h.part.toNat < 12 → taken s u (.adapterLoad f h bs) →
    let p := partOfNat h.part.toNat
    let k := u.part p
    let gives (w : State) (st : Nat) (b : List Byte) : Prop :=
      exec (.adapterLoad f h bs) s = .next (w.answer f 0x45 st b)
    (adapterBad h = true → gives u stBOUNDS []) ∧
    (adapterBad h = false → h.remove = true → bs = [] →
      (alGet u.work.adapters h.slot.toNat = none → gives u stBOUNDS []) ∧
      (∀ a, alGet u.work.adapters h.slot.toNat = some a →
        (a.part ≠ p → gives u stDENIED []) ∧
        (a.part = p → u.slotBusy p h.slot.toNat = true → gives u stBUSY []) ∧
        (a.part = p → u.slotBusy p h.slot.toNat = false →
          ∃ w : State, gives w stOK (leBytes 4 0 ++ leBytes 2 h.slot.toNat) ∧
            alGet w.work.adapters h.slot.toNat = none ∧
            (∀ i, i ≠ h.slot.toNat → alGet w.work.adapters i = alGet u.work.adapters i) ∧
            (still u → u.memoriesWf → w.parts = u.parts ∧ (∀ y ∈ a.places, wordField (w.peek (u.coreAt p y.rank) y.dir) 192 1 = 0) ∧
              ∀ (c : CoreId) (x : Nat), (∀ y ∈ a.places, ¬ (u.coreAt p y.rank = c ∧ y.dir = x)) →
                w.peek c x = u.peek c x)))) ∧
    (adapterBad h = false → h.remove = false →
      (partFits h bs = false → gives u stBOUNDS []) ∧
      (∀ o, partFits h bs = true → u.work.load = some o → o.session ≠ f.session → gives u stBUSY []) ∧
      (partFits h bs = true → u.work.load = none → h.offset = 0 → bs.length < h.total.toNat →
        ∃ o : LoadObj, gives (withLoad u (some o)) stOK (leBytes 4 bs.length) ∧ o.data = bs ∧ o.hdr = h) ∧
      (partFits h bs = true → u.work.load = none → h.total.toNat = bs.length →
        let v := withLoad u none
        (h.slot = 0xFFFF → (∀ i < 1024, alGet u.work.adapters i ≠ none) → gives v stNOSPACE []) ∧
        (h.slot ≠ 0xFFFF →
          let rest := alDel u.work.adapters h.slot.toNat
          let used := (rest.filter (fun a => a.2.part == p)).flatMap (fun a => a.2.places)
          (∀ a, k.prog ≠ none → alGet u.work.adapters h.slot.toNat = some a → a.part ≠ p → gives v stDENIED []) ∧
          (∀ a, k.prog ≠ none → alGet u.work.adapters h.slot.toNat = some a → a.part = p →
            u.slotBusy p h.slot.toNat = true → gives v stBUSY []) ∧
          (∀ g xs, k.prog = some g → alGet u.work.adapters h.slot.toNat = none →
            (adapterItems (bs.length + 1) bs = none → gives v stBOUNDS []) ∧
            (adapterItems (bs.length + 1) bs = some xs →
              (∀ e, placeItems g (u.ranks p).length h.slot.toNat used xs = .error e → gives v e []) ∧
              (∀ ys, placeItems g (u.ranks p).length h.slot.toNat used xs = .ok ys →
                ∃ w : State, gives w stOK (leBytes 4 h.total.toNat ++ leBytes 2 h.slot.toNat) ∧
                  (still u → w.parts = u.parts) ∧ alGet w.work.adapters h.slot.toNat =
                    some { adapter := h.adapter, tenant := h.tenant, part := p, places := ys.map (·.2) } ∧
                  (∀ x y, still u → u.memoriesWf → ys = [(x, y)] →
                    w.peek (u.coreAt p y.rank) y.dir = adapterEntry h.adapter x y ∧
                    (∀ i, i < x.words.length → y.addr + i ≠ y.dir →
                      w.peek (u.coreAt p y.rank) (y.addr + i) = x.words.getD i 0) ∧
                    (∀ (c : CoreId) (n : Nat), (c ≠ u.coreAt p y.rank ∨ (n ≠ y.dir ∧
                      (n < y.addr ∨ y.addr + x.words.length ≤ n))) → w.peek c n = u.peek c n)))))))))

/-! ### Commands on the module -/

namespace Sys2Proof.Machine.Claims

/-- A link carries traffic: ACTIVE or STANDBY. -/
def carries (s : State) (l : LinkId) : Prop := (s.link l).state = 5 ∨ (s.link l).state = 6

/-- Every partition is STOPPED or EMPTY, and every link that carries traffic has begun to leave (R464, steps 1 to 3). -/
def broughtToRest (s t : State) : Prop :=
  (∀ p : PartId, (t.part p).state.toNat < 2) ∧ ∀ l : LinkId, carries s l → (t.link l).leaving = true

end Sys2Proof.Machine.Claims

/-- ROUTE_STAGE writes entries of the bank that is not ACTIVE and makes it READY with its last part; ROUTE_SWITCH makes the
READY bank ACTIVE and drains the other. LINK_RESET takes a width and a rate and brings the link down, at once or after
its drain; LINK_LEAVE lets links drain and leave, and completes once all are down (R308, R309, R326 to R329, R435). -/
def Obligations.RoutesSwitchAndLinksResetAndLeave : Prop :=
  ∀ (f : Frame) (s u : State),
    (∀ (first : BitVec 16) (last : Bool) (es : List (BitVec 16)), taken s u (.routeStage f first last es) →
      let b : Fin 2 := if u.rte.bank[0] = 2 then 1 else 0
      let bad := es = [] ∨ 4000 < es.length ∨ 16384 < first.toNat + es.length
      (bad → exec (.routeStage f first last es) s = .next (u.answer f 0x50 stBOUNDS [])) ∧
      (¬ bad → u.rte.bank[b] = 3 → exec (.routeStage f first last es) s = .next (u.answer f 0x50 stBUSY [])) ∧
      (¬ bad → u.rte.bank[b] ≠ 3 → ∃ w : State,
        exec (.routeStage f first last es) s =
          .next (w.answer f 0x50 stOK [BitVec.ofNat 8 b.val, BitVec.ofNat 8 (w.rte.bank[b]).toNat]) ∧
        u = { w with rte := u.rte } ∧ u.rte = { w.rte with bank := u.rte.bank, table := u.rte.table } ∧
        w.rte.bank[b] = (if last then 1 else u.rte.bank[b]) ∧ (∀ x : Fin 2, x ≠ b →
          w.rte.bank[x] = u.rte.bank[x] ∧ w.rte.table[x] = u.rte.table[x]) ∧
        (smWf u.rte.table[b] = true → ∀ n : Nat, smGet w.rte.table[b] n =
          (if first.toNat ≤ n ∧ n < first.toNat + es.length then
            (es.getD (n - first.toNat) 0).setWidth 8 &&& 0xDF else smGet u.rte.table[b] n)))) ∧
    (taken s u (.routeSwitch f) →
      let b : Fin 2 := if u.rte.bank[0] = 2 then 1 else 0
      let other : Fin 2 := if b = 0 then 1 else 0
      (u.rte.bank[b] ≠ 1 → exec (.routeSwitch f) s = .next (u.answer f 0x51 stBUSY [])) ∧
      (u.rte.bank[b] = 1 → ∃ w : State,
        exec (.routeSwitch f) s = .next (w.answer f 0x51 stOK [BitVec.ofNat 8 b.val]) ∧
        u = { w with rte := u.rte, transit := u.transit } ∧ w.rte.bank[b] = 2 ∧ w.rte.stamp = (b == 1) ∧
        w.rte.table = u.rte.table ∧
        ((∀ l : LinkId, (u.link l).state ≠ 5) → w.rte.bank[other] = 0) ∧
        (∀ l : LinkId, u.rte.marks = [] → (u.link l).state = 5 → w.rte.bank[other] = 3 ∧
          ∀ vc : Fin 8, ∃ m ∈ w.transit, m.vc = vc ∧ m.link = some l ∧ m.pkt.kind = 5 ∧ m.pkt.win = 1))) ∧
    (∀ (link width rate : Byte) (g : Bool), taken s u (.linkReset f link width rate g) →
      let bad := 24 ≤ link.toNat ∨ (width ≠ 8 ∧ width ≠ 4 ∧ width ≠ 2 ∧ width ≠ 0) ∨ 3 < rate.toNat
      let l : LinkId := Fin.ofNat 24 link.toNat
      let k := u.link l
      let code : BitVec 2 := if width = 8 then 0 else if width = 4 then 1 else if width = 2 then 2 else k.targetWidth
      let head := headOf (groupOf l)
      (bad → exec (.linkReset f link width rate g) s = .next (u.answer f 0x60 stBOUNDS [])) ∧
      (¬ bad → u.groupResetting (groupOf l) = true →
        exec (.linkReset f link width rate g) s = .next (u.answer f 0x60 stBUSY [])) ∧
      (¬ bad → u.groupResetting (groupOf l) = false →
        (rate = 3 → g = true → carries u l → ∃ t, exec (.linkReset f link width rate g) s = .next t ∧
          u = { t with links := u.links, work := u.work } ∧
          t.work.resets = u.work.resets ++ [({ port := f.port, session := f.session, seq := f.seq }, l)] ∧
          t.link l = { k with
            targetWidth := code, graceful := true, resetTo := some (BitVec.ofNat 8 (lanesOf code)), resetWhy := 5 }) ∧
        (rate = 3 → g = false → u.work.leaves = [] → carries u l → ∃ w : State,
          exec (.linkReset f link width rate g) s = .next (w.answer f 0x60 stOK [8]) ∧ wentDown u w l 5 8 ∧
          .reset (BitVec.ofNat 8 (lanesOf code)) 5 ∈ (w.link l).controls ∧ (w.link l).targetWidth = code) ∧
        (rate = 3 → k.state = 0 → ∃ w : State,
          exec (.linkReset f link width rate g) s = .next (w.answer f 0x60 stOK [0]) ∧
          w.link l = { k with targetWidth := code } ∧ ∀ m : LinkId, m ≠ l → w.link m = u.link m) ∧
        (rate ≠ 3 → g = false → (u.link head).rate.toNat ≠ rate.toNat → ∃ t,
          exec (.linkReset f link width rate g) s = .next t ∧ (t.link head).groupRate.toNat = rate.toNat ∧
          t.chip.groupLock.getLsbD (groupOf l).val = false ∧
          ∀ m : LinkId, groupOf m = groupOf l → carries u m → (t.link m).state = 8))) ∧
    (∀ mask : BitVec 32, taken s u (.linkLeave f mask) →
      let m : BitVec 24 := mask.setWidth 24
      let busy := ∃ l : LinkId, m.getLsbD l.val = true ∧ u.groupResetting (groupOf l) = true
      (2 ^ 24 ≤ mask.toNat → exec (.linkLeave f mask) s = .next (u.answer f 0x61 stBOUNDS [])) ∧
      (mask.toNat < 2 ^ 24 → busy → exec (.linkLeave f mask) s = .next (u.answer f 0x61 stBUSY [])) ∧
      (mask.toNat < 2 ^ 24 → ¬ busy → u.work.leaves = [] →
        ((∀ l : LinkId, m.getLsbD l.val = true → (u.link l).state = 8) → ∃ w : State,
          exec (.linkLeave f mask) s = .next (w.answer f 0x61 stOK (leBytes 4 mask.toNat)) ∧
          (∀ l : LinkId, m.getLsbD l.val = true → (w.link l).state = 8 ∧ (w.link l).leaving = true) ∧
          ∀ l : LinkId, m.getLsbD l.val = false → w.link l = u.link l) ∧
        ((∃ l : LinkId, m.getLsbD l.val = true ∧ carries u l) → ∃ t, exec (.linkLeave f mask) s = .next t ∧
          t.work.leaves = [({ port := f.port, session := f.session, seq := f.seq }, m)] ∧ t.ports = u.ports ∧
          (∀ l : LinkId, m.getLsbD l.val = true → carries u l →
            t.link l = { u.link l with graceful := true, leaving := true }) ∧
          ∀ l : LinkId, m.getLsbD l.val = false → t.link l = u.link l)))

/-- A planned removal, begun by ATTN_N or HOTPLUG_PREPARE, stops every partition and lets every link leave, and is READY
once nothing runs and no link is up; its time limit turns a stop of MODE 0 into one of MODE 1. LOCKSTEP_PAIR pairs
STOPPED partitions with a twin; RECORD_START takes an EMPTY partition as its buffer; RECORD_STOP answers what is held
and ends or frees the recording (R464, R467, R482, R488, R490); that its status is FAULT where a word of the buffer is
uncorrectable is the model's choice (Assumption 99). -/
def Obligations.RemovalPairingAndRecordingFollowTheirCommands : Prop :=
  (∀ (f : Frame) (mode : Bool) (s u : State), taken s u (.hotplugPrepare f mode) →
    (u.chip.hpState ≠ 0 → exec (.hotplugPrepare f mode) s = .next (u.answer f 0x62 stBUSY [])) ∧
    (u.chip.hpState = 0 → ∃ t, exec (.hotplugPrepare f mode) s = .next t ∧ t.chip.hpState = 1 ∧
      t.chip.hpWait = [{ port := f.port, session := f.session, seq := f.seq }] ∧
      logged u t 0x001E srcChip 1 0 0 0 ∧ (∀ p : PartId, (t.part p).loads = []) ∧
      (mode = true → u.partsLegal → broughtToRest u t))) ∧
  (∀ s : State,
    (∃ t, exec .attnNLow s = .next t ∧ t.chip.attnLow = true ∧
      (s.chip.hpState ≠ 0 ∨ s.chip.step.toNat < 9 → t = { s with chip := { s.chip with attnLow := true } }) ∧
      (s.chip.hpState = 0 → s.chip.pwrGood = true → s.chip.resetLow = false → 9 ≤ s.chip.step.toNat →
        t.chip.hpState = 1 ∧ logged s t 0x001E srcChip 0 0 0 0 ∧
        (s.chip.attnMode = true → s.partsLegal → broughtToRest s t))) ∧
    (s.chip.hpState ≠ 1 → exec .hotplugStopTimeout s = .next s ∧ exec .hotplugReady s = .next s) ∧
    (s.chip.hpState = 1 → s.partsLegal → ∃ t, exec .hotplugStopTimeout s = .next t ∧ broughtToRest s t) ∧
    (s.chip.hpState = 1 → (∃ p : PartId, 2 ≤ (s.part p).state.toNat) → exec .hotplugReady s = .next s) ∧
    (s.chip.hpState = 1 → (∀ p : PartId, (s.part p).state.toNat < 2) →
      ((∃ l : LinkId, carries s l) → ∃ t, exec .hotplugReady s = .next t ∧ broughtToRest s t ∧ t.chip.hpState = 1) ∧
      ((∀ l : LinkId, ¬ carries s l) →
        let v : State := { s with chip := { s.chip with hpState := 2, hpWait := [] } }
        (s.chip.hpWait = [] → exec .hotplugReady s = .next v) ∧
        ∀ w : Waiter, s.chip.hpWait = [w] → exec .hotplugReady s =
          .next (v.respond w.port w.session { seq := w.seq, op := 0x62, status := stOK, body := [] })))) ∧
  (∀ (f : Frame) (mask twin : BitVec 16) (role : Byte) (en hold : Bool) (s u : State),
    taken s u (.lockstepPair f mask twin role en hold) →
    let named (p : PartId) : Prop := mask.getLsbD p.val = true
    let bad := 4096 ≤ mask.toNat ∨ 16383 ≤ twin.toNat ∨ twin.toNat = u.chipId.toNat ∨ 1 < role.toNat ∨
      ∃ p, named p ∧ (u.part p).state = 1 ∧ ∃ g, (u.part p).prog = some g ∧ g.fixedOrder = false
    (bad → exec (.lockstepPair f mask twin role en hold) s = .next (u.answer f 0x70 stBOUNDS [])) ∧
    (¬ bad → (∃ p, named p ∧ (u.part p).state ≠ 1) →
      exec (.lockstepPair f mask twin role en hold) s = .next (u.answer f 0x70 stBUSY [])) ∧
    (¬ bad → (∀ p, named p → (u.part p).state = 1) → ∃ w : State,
      exec (.lockstepPair f mask twin role en hold) s =
        .next (w.answer f 0x70 stOK [if mask = 0 then 0 else BitVec.ofNat 8 en.toNat]) ∧
      u = { w with parts := u.parts } ∧ (∀ p, ¬ named p → w.part p = u.part p) ∧
      ∀ p, named p → (w.part p).ls.paired = en ∧ u.part p = { w.part p with ls := (u.part p).ls } ∧
        (en = true → (w.part p).ls.follower = (role == 1) ∧ (w.part p).ls.hold = hold ∧
          (w.part p).ls.twinChip = twin.setWidth 14 ∧ (w.part p).ls.twinPart = BitVec.ofNat 4 p.val))) ∧
  (∀ (f : Frame) (mask : BitVec 16) (buf : Byte) (wrap batch : Bool) (s u : State),
    taken s u (.recordStart f mask buf wrap batch) →
    let gives (st : Nat) (b : List Byte) : Prop :=
      exec (.recordStart f mask buf wrap batch) s = .next (u.answer f 0x71 st b)
    (4096 ≤ mask.toNat ∨ (12 ≤ buf.toNat ∧ buf ≠ 0xFF) → gives stBOUNDS []) ∧
    (mask.toNat < 4096 → buf.toNat < 12 → mask.getLsbD buf.toNat = true → gives stBOUNDS []) ∧
    (mask.toNat < 4096 → buf.toNat < 12 → mask.getLsbD buf.toNat = false →
      let p := partOfNat buf.toNat
      (u.work.recording.held = true → gives stBUSY []) ∧
      (u.work.recording.held = false →
        ((u.part p).state ≠ 0 ∨ (u.part p).loads ≠ [] → gives stBUSY []) ∧
        ((u.part p).state = 0 → (u.part p).loads = [] → (u.part p).sleepState = 0 →
          exec (.recordStart f mask buf wrap batch) s = .next (State.answer { u with work := { u.work with
            recording := { running := true, held := true, wrap := wrap, batch := batch, buffer := p,
                           mask := mask.setWidth 12 } } } f 0x71 stOK [buf])))) ∧
    (mask.toNat < 4096 → buf = 0xFF → (∀ p : PartId, (u.part p).state ≠ 0) → u.work.recording.held = false →
      gives stNOSPACE [])) ∧
  (∀ (f : Frame) (stop rel : Bool) (off : BitVec 32) (n : BitVec 16) (s u : State),
    taken s u (.recordStop f stop rel off n) →
    let r := u.work.recording
    (8000 < n.toNat ∨ n.toNat % 32 ≠ 0 → exec (.recordStop f stop rel off n) s = .next (u.answer f 0x72 stBOUNDS [])) ∧
    (n.toNat ≤ 8000 → n.toNat % 32 = 0 →
      let reads := u.recWords off.toNat n.toNat
      (u.firstBad reads ≠ none → ∃ w : State, exec (.recordStop f stop rel off n) s = .next (w.answer f 0x72 stFAULT [])) ∧
      (u.firstBad reads = none → ∃ w : State,
        exec (.recordStop f stop rel off n) s = .next (w.answer f 0x72 stOK (leBytes 4 (r.words * 32) ++
          leBytes 12 r.dropped.toNat ++ u.recBytes off.toNat n.toNat)) ∧
        u.work = { w.work with recording := r } ∧ u.sameWords w ∧
        ((∀ x ∈ reads, (u.core x.1).memory.check x.2 = .good) → u.groupsOn reads → u = { w with work := u.work }) ∧
        w.work.recording = (if rel = true ∧ (r.running = false ∨ stop = true) then {}
          else { r with running := r.running && !stop }))))

/-! ### Lock-step pairs -/

namespace Sys2Proof.Machine.Claims

/-- One more packet for the twin, of class 3 for window 0xFE, is in motion, where it has a route (R483). -/
def sentTwin (s t : State) (p : PartId) (ws : List MWord) : Prop :=
  let a := mkPacket s p 0 (s.part p).ls.twinChip.toNat p.val 0 0 0xFE [] ws
  t.transit = s.transit ++
    (if s.isHere a = true then [{ vc := 6, pkt := a }]
     else match s.route 6 a with
       | some l => [{ vc := 6, pkt := a, link := some l }]
       | none => [])

/-- The twin's packet has left the spines and nothing else has changed. -/
def twinTaken (s : State) (p : PartId) : State := { s with transit := (takeTwin s p s.transit).getD s.transit }

/-- A pair's step has been halted (R487): the partition is STOPPED, and the register block says why and where. -/
def pairHalted (s t : State) (p : PartId) (why st cause : Nat) (stream : BitVec 16) (seq : BitVec 32) : Prop :=
  stopped s t p st cause ∧ (t.part p).ls.reason = BitVec.ofNat 2 why ∧ (t.part p).ls.stream = stream ∧
  (t.part p).ls.seq = seq.setWidth 16 ∧ (t.part p).ls.step = (s.part p).steps ∧ (t.part p).ls.own = [] ∧
  (t.part p).ls.twin = [] ∧ (t.part p).ls.unsent = [] ∧
  logged s t 0x0020 (srcPart p) why stream.toNat seq.toNat 0

/-- No two records of a list are of one stream and one sequence number. -/
def distinctRecords (l : List LsRecord) : Prop := l.Pairwise (fun a b => LsRecord.same a b = false)

end Sys2Proof.Machine.Claims

/-- A WAITING paired partition repeats its HELLO until the twin's has come, and is STOPPED with TIMEOUT where none comes;
a HELLO that differs is logged once. Records are paired by stream and sequence number: equal ones leave both lists, a
pair that differs halts both twins, and so do a HALT and a record that waits too long. A follower runs the leader's
tables, once it is awake and the table's bank groups are ON (R30, R483 to R487). -/
def Obligations.TwinsCompareAndHaltTogether : Prop :=
  (∀ own tw : List LsRecord, distinctRecords own → distinctRecords tw →
    ((∀ o ∈ own, ∀ x ∈ tw, LsRecord.same o x = true → x.check = o.check) →
      lsMatch own tw = (none, own.filter (fun o => !(tw.any (fun x => LsRecord.same o x))),
        tw.filter (fun x => !(own.any (fun o => LsRecord.same o x))))) ∧
    (∀ o ∈ own, ∀ x ∈ tw, LsRecord.same o x = true → x.check ≠ o.check →
      ∃ r, (lsMatch own tw).1 = some r ∧ r ∈ own ∧ ∃ y ∈ tw, LsRecord.same r y = true ∧ y.check ≠ r.check)) ∧
  (∀ (p : PartId) (s : State),
    let k := s.part p
    let waits := k.state = 2 ∧ k.ls.paired = true ∧ k.ls.helloSeen = false
    let why := if k.ls.helloBad = true then 3 else 2
    (¬ waits → exec (.helloResend p) s = .next s ∧ exec (.helloTimeout p) s = .next s) ∧
    (∀ g, waits → k.prog = some g → ∃ t, exec (.helloResend p) s = .next t ∧
      s = { t with parts := s.parts, transit := s.transit, links := s.links, rte := s.rte, evlog := s.evlog } ∧
      t.part p = { k with ls := { k.ls with helloSent := true } } ∧ (∀ x : PartId, x ≠ p → t.part x = s.part x) ∧
      sentTwin s t p [wordOfBytes (leBytes 2 0xFFFF ++ leBytes 2 0 ++ leBytes 4 1 ++ leBytes 8 0 ++
        leBytes 4 g.digestLow.toNat ++ leBytes 2 g.ncores.toNat ++ leBytes 2 g.flock.toNat)]) ∧
    (waits → ∃ t, exec (.helloTimeout p) s = .next t ∧ s.sameWords t ∧
      t.part p = { k with
        state := 1, cause := 10, starts := [], ls := { k.ls with reason := BitVec.ofNat 2 why } } ∧
      (∀ x : PartId, x ≠ p → t.part x = s.part x) ∧ t.ports = (s.respondAll 0x31 stTIMEOUT [1] k.starts).ports ∧
      logged s t 0x0020 (srcPart p) why 0 0 0) ∧
    (∀ (d : BitVec 32) (n : BitVec 4) (fl : BitVec 12),
      let v := twinTaken s p
      (k.ls.paired = false → exec (.rxLsHello p d n fl) s = .next s) ∧
      (k.ls.paired = true → k.prog = none ∨ k.state = 3 ∨ k.state = 4 → exec (.rxLsHello p d n fl) s = .next v) ∧
      (∀ g, k.ls.paired = true → k.prog = some g → k.state ≠ 3 → k.state ≠ 4 →
        let same := d = g.digestLow ∧ n = g.ncores ∧ fl = g.flock
        (same → exec (.rxLsHello p d n fl) s =
          .next (v.setPart p { k with ls := { k.ls with helloSeen := true } })) ∧
        (¬ same → k.state = 2 → k.ls.helloBad = false → ∃ t, exec (.rxLsHello p d n fl) s = .next t ∧
          t.part p = { k with ls := { k.ls with helloBad := true } } ∧ logged s t 0x0020 (srcPart p) 3 0 0 0 ∧
          v = { t with parts := v.parts, evlog := v.evlog }) ∧
        (¬ same → k.state ≠ 2 ∨ k.ls.helloBad = true → exec (.rxLsHello p d n fl) s = .next v)))) ∧
  (∀ (p : PartId) (recs : List LsRecord) (s : State),
    let k := s.part p
    let v := twinTaken s p
    let m := lsMatch k.ls.own (k.ls.twin ++ recs)
    let matched (o : List LsRecord) : Prop := ∀ r ∈ o, r.stream ≠ 0x000F
    (k.ls.paired = false → exec (.rxLsRecords p recs) s = .next s) ∧
    (k.ls.paired = true → k.state.toNat < 2 → exec (.rxLsRecords p recs) s = .next v) ∧
    (k.ls.paired = true → 2 ≤ k.state.toNat → m.1 = none → k.ls.await = false ∨ ¬ matched m.2.1 →
      exec (.rxLsRecords p recs) s = .next (v.setPart p { k with ls := { k.ls with own := m.2.1, twin := m.2.2 } })) ∧
    (∀ n r st, k.ls.paired = true → k.state = 4 → m.1 = none → k.ls.await = true → matched m.2.1 →
      k.slots = [(n, r)] → r.pend = some st → ∃ t, exec (.rxLsRecords p recs) s = .next t ∧
        (t.part p).state = 1 ∧ (t.part p).ls.await = false ∧ (t.part p).stops = [] ∧
        ∃ r', alGet (t.part p).slots n = some r' ∧ r'.state = .done ∧ r'.status = st ∧
          r'.out = (if r.pendDrop then [] else r.out) ∧ r'.vis = r.out.length) ∧
    (∀ r, k.ls.paired = true → running s p → m.1 = some r → ∃ t, exec (.rxLsRecords p recs) s = .next t ∧
      pairHalted s t p 1 stFAULT 9 r.stream r.seq ∧
      sentTwin v t p [wordOfBytes (leBytes 2 0xFFFF ++ leBytes 2 0 ++ leBytes 4 2 ++ leBytes 8 0 ++
        leBytes 2 r.stream.toNat ++ leBytes 2 0 ++ leBytes 4 r.seq.toNat)])) ∧
  (∀ (p : PartId) (stream : BitVec 16) (seq : BitVec 32) (s : State),
    let k := s.part p
    let there := ∃ r, (r ∈ k.ls.own ∨ r ∈ k.ls.twin) ∧ r.stream = stream ∧ r.seq = seq
    (k.ls.paired = false → exec (.rxLsHalt p stream seq) s = .next s) ∧
    (k.ls.paired = true → k.state ≠ 3 → k.state ≠ 4 → exec (.rxLsHalt p stream seq) s = .next (twinTaken s p)) ∧
    (k.ls.paired = true → running s p → ∃ t, exec (.rxLsHalt p stream seq) s = .next t ∧
      pairHalted s t p 1 stFAULT 9 stream seq) ∧
    (k.ls.paired = false ∨ (k.state ≠ 3 ∧ k.state ≠ 4) ∨ ¬ there → exec (.lsTimeout p stream seq) s = .next s) ∧
    (k.ls.paired = true → running s p → there → ∃ t, exec (.lsTimeout p stream seq) s = .next t ∧
      pairHalted s t p 2 stTIMEOUT 10 stream seq ∧
      sentTwin s t p [wordOfBytes (leBytes 2 0xFFFF ++ leBytes 2 0 ++ leBytes 4 2 ++ leBytes 8 0 ++
        leBytes 2 stream.toNat ++ leBytes 2 0 ++ leBytes 4 seq.toNat)])) ∧
  (∀ (p : PartId) (table : List MWord) (s : State),
    let k := s.part p
    (k.ls.paired = false ∨ k.ls.follower = false → exec (.rxLsBatch p table) s = .next s) ∧
    (k.ls.paired = true → k.ls.follower = true → k.state ≠ 3 → exec (.rxLsBatch p table) s =
      .next ((twinTaken s p).setPart p { k with ls := { k.ls with batches := k.ls.batches ++ [table] } })) ∧
    (k.ls.paired = true → k.ls.follower = true → k.state = 3 → k.ls.await = false → k.srvMode = 1 →
      k.stepping = false → k.ls.batches = [] → k.sleepState ≠ 0 → ∃ t, exec (.rxLsBatch p table) s = .next t ∧
        (t.part p).stepping = false ∧ (t.part p).stepWaits = true ∧ (t.part p).ls.batches = [table]) ∧
    (k.ls.paired = true → k.ls.follower = true → k.state = 3 → k.ls.await = false → k.srvMode = 1 →
      k.stepping = false → k.ls.batches = [] → k.sleepState = 0 →
      s.mustHold (wordsAt (s.rank0 p) (k.regionAddr 65520) (k.regionWords 65520)) = none →
      s.work.recording.running = false → ∃ t, exec (.rxLsBatch p table) s = .next t ∧ (t.part p).stepping = true ∧
        (t.part p).stepNo = k.stepNo + 1 ∧ (t.part p).ls.batches = [] ∧
        (t.part p).entries = ((table.drop 1).take (wordField (table.headD 0) 32 16)).map entryOfWord ∧
        (s.memoriesWf → t.peek (s.rank0 p) (k.regionAddr 65520) = table.headD 0)) ∧
    (k.ls.paired = false ∨ k.ls.unsent = [] → exec (.lsRecordFlush p) s = .next s) ∧
    (k.ls.paired = true → k.ls.unsent ≠ [] → k.ls.unsent.length ≤ 255 → ∃ t, exec (.lsRecordFlush p) s = .next t ∧
      t.part p = { k with ls := { k.ls with unsent := [] } } ∧ s.sameWords t ∧
      sentTwin s t p (wordsOfBytes (leBytes 2 0xFFFF ++ leBytes 2 0 ++ leBytes 4 0 ++ leBytes 8 0 ++
        k.ls.unsent.flatMap (fun r => leBytes 2 r.stream.toNat ++ leBytes 2 0 ++ leBytes 4 r.seq.toNat ++
          leBytes 8 r.check.toNat)))))

/-! ### Start, reset, power, the flash and the test ports -/

namespace Sys2Proof.Machine.Claims

/-- Nothing of an earlier run is left: partitions hold no image, memory reads as zero, links are DISABLED, nothing is in
motion, and no session is open. -/
def freshModule (t : State) : Prop :=
  (∀ p : PartId, (t.part p).state = 0 ∧ (t.part p).prog = none ∧ (t.part p).slots = []) ∧
  (∀ (c : CoreId) (a : Nat), t.peek c a = 0) ∧ (∀ l : LinkId, (t.link l).state = 0) ∧ t.transit = [] ∧
  (∀ h : PortId, (t.port h).sessions = []) ∧ t.work.load = none ∧ t.work.prompts = []

/-- The flash and the waiting commands are as they were: no start and no loss of power changes what is stored. -/
def sameFlash (s t : State) : Prop :=
  t.store.vendor = s.store.vendor ∧ t.store.slots = s.store.slots ∧ t.store.journal = s.store.journal ∧
  t.store.halves = s.store.halves ∧ t.pending = s.pending

/-- A start has reached its last step with the owner configuration that the flash holds, where that asks for no
register write and no autoload (R446, R453, R461). -/
def startedWith (s t : State) : Prop :=
  t.chip.step = 12 ∧ t.chip.fault = 0 ∧ t.chip.derived = true ∧ sameFlash s t ∧
  (s.store.pick = none → freshModule t ∧ t.chip.unclaimed = true ∧ t.chip.ownerSlot = 3 ∧ t.chipId = 0x3FFF ∧
    t.safety = false) ∧
  (∀ (i : Fin 2) (o : OwnerSlot), s.store.pick = some (i, o) → o.cfg.regs = [] → o.cfg.autoload = [] →
    (∀ r ∈ s.store.journal, r.seq.toNat ≤ o.lastSeq.toNat) → freshModule t ∧ t.chip.unclaimed = false ∧
      t.chip.ownerSlot = BitVec.ofNat 2 i.val ∧ t.store.cfg = o.cfg ∧ t.chipId = o.cfg.chipId ∧
      t.safety = o.cfg.safety) ∧
  ∀ p : PartId, s.store.pick = none → t.chip.failedParts.getLsbD p.val = false →
    t.chip.partLock.getLsbD p.val = true ∧ (t.part p).sleepState = 0 ∧ ∀ c ∈ t.ranks p, t.domains[c.val]! = 0

end Sys2Proof.Machine.Claims

/-- Power makes PWR_GOOD; its loss leaves the flash alone. A cold start runs to step 12, or stops with the fault of its
step; it takes the valid slot of the higher generation, or leaves the module unclaimed, and finds the partitions whose
cores failed. RESET_N after step 7 sends DOWN on every link that carries traffic and starts warm, keeping the time; before
step 7 the cold start begins again at its release (R348, R446 to R448, R450, R453, R470, R517, R518). -/
def Obligations.ModuleStartsAndStartsAgain : Prop :=
  ∀ s : State,
    (s.chip.powered = true → exec .powerApplied s = .next s ∧ exec .inputReturnsInRange s = .next s) ∧
    (s.chip.powered = false → ∃ t, exec .powerApplied s = .next t ∧ exec .inputReturnsInRange s = .next t ∧
      t.chip = { s.chip with powered := true, pwrGood := true, driven := true, resetLow := false, attnLow := false } ∧
      (∀ n : Nat, t.domains[n]! = if n = 146 ∨ n = 147 then 0 else s.domains[n]!) ∧
      s = { t with chip := s.chip, power := s.power, domains := s.domains }) ∧
    (∃ t, exec .powerLoss s = .next t ∧ freshModule t ∧ sameFlash s t ∧ t.chip.powered = false ∧
      t.chip.pwrGood = false ∧ t.chip.derived = false ∧ t.chip.step = 0 ∧ t.time = 0) ∧
    (∀ (okRom okPuf : Bool) (cs : List CoreId) (gs : List (Fin 8)),
      let a := s.store.vendor[0]
      let b := s.store.vendor[1]
      let ready := s.chip.pwrGood = true ∧ s.chip.resetLow = false ∧ s.chip.step = 0 ∧ s.chip.fault = 0
      let stoppedAt (n step : BitVec 4) : Prop := ∃ t, exec (.coldStart okRom okPuf cs gs) s = .next t ∧
        t.chip.fault = n ∧ t.chip.step = step ∧ (∀ h : PortId, (t.port h).enable = false) ∧ freshModule t ∧ sameFlash s t
      (¬ ready → exec (.coldStart okRom okPuf cs gs) s = .next s) ∧
      (ready → okRom = false → stoppedAt 1 1) ∧
      (ready → okRom = true → okPuf = false → stoppedAt 3 3) ∧
      (ready → okRom = true → okPuf = true → a.fault ≠ 0 → b.fault ≠ 0 →
        stoppedAt (BitVec.ofNat 4 (max a.fault b.fault)) 5) ∧
      (ready → okRom = true → okPuf = true → a.fault = 0 ∨ b.fault = 0 →
        let v := if a.fault = 0 then a else b
        ∃ t, exec (.coldStart okRom okPuf cs gs) s = .next t ∧ startedWith s t ∧ t.chip.warm = false ∧
          t.chip.vendorCopy = (if a.fault = 0 then 0 else 1) ∧
          ((∀ (i : Fin 2) (o : OwnerSlot), s.store.pick = some (i, o) → o.cfg.regs = []) →
            ∀ p : PartId, t.chip.failedParts.getLsbD p.val = true ↔ ∃ c ∈ cs, v.map.getLsbD c.val = true ∧ partOf c = p))) ∧
    (s.chip.pwrGood = false → exec .resetNAssert s = .next { s with chip := { s.chip with resetLow := true } }) ∧
    (s.chip.pwrGood = true → s.chip.derived = false → ∃ t, exec .resetNAssert s = .next t ∧ freshModule t ∧
      sameFlash s t ∧ t.chip.resetLow = true ∧ t.chip.step = 0 ∧ t.chip.fault = 0 ∧ t.chip.pwrGood = true) ∧
    (s.chip.pwrGood = true → s.chip.derived = true → s.store.vendor[0].fault = 0 →
      ∃ t, exec .resetNAssert s = .next t ∧ startedWith s t ∧ t.chip.warm = true ∧ t.time = s.time ∧
        t.chip.failedParts = s.chip.failedParts ∧
        ∀ l : LinkId, carries s l → ∃ x, (t.link l).sent = some x ∧ x.kind = 2 ∧ x.ctl = some (.down 9)) ∧
    exec .resetNRelease s = .next { s with chip := { s.chip with resetLow := !s.chip.powered } } ∧
    (∀ (k : Store) (i : Fin 2) (o : OwnerSlot), k.pick = some (i, o) → k.slots[i] = some o ∧ o.good = true ∧ o.cfg.root.isSome = true ∧
      ∀ (j : Fin 2) (x : OwnerSlot), k.slots[j] = some x → x.good = true → x.gen.toNat ≤ o.gen.toNat)

/-- A read over I2C or by CHIPRD answers a register's value, or 0xFFFF_FFFF with BOUNDS; BYPASS, IDCODE, SAMPLE/PRELOAD and
EXTEST shift out what R516 says (the boundary register's layout is the model's choice, Assumption 41). The oldest event
goes into the log under the next number; a compaction, unless a removal has stopped it, writes the configuration into the slot that is not in use and an
erase empties the journal; a flit whose body does not fill it is no flit (R297, R299, R459, R491, R492, R515, R516). -/
def Obligations.TestPortsEventLogAndJournalAct : Prop :=
  ∀ s : State,
    (∀ a : BitVec 32,
      let listed := a.toNat < 0x10000 ∨ (0x4000000 ≤ a.toNat ∧ a.toNat < 0x4001000)
      let i2c (v : State) (b : List Byte) : Prop :=
        exec (.i2cRead a) s = .next { v with chip := { v.chip with i2cOut := b } }
      let jtag (v : State) (b : List Byte) : Prop :=
        exec (.chiprd a) s = .next { v with chip := { v.chip with jtagOut := b } }
      (s.chip.pwrGood = false → exec (.i2cRead a) s = .next s) ∧
      (s.chip.powered = false → exec (.chiprd a) s = .next s) ∧
      (¬ listed → (s.chip.pwrGood = true → i2c s [0xFF, 0xFF, 0xFF, 0xFF, 4]) ∧
        (s.chip.powered = true → jtag s [0xFF, 0xFF, 0xFF, 0xFF, 4])) ∧
      (∀ v, listed → a ≠ 0x400040C → s.reg a.toNat = some v →
        (s.chip.pwrGood = true → i2c (s.readClear a.toNat) (leBytes 4 v.toNat ++ [0])) ∧
        (s.chip.powered = true → jtag (s.readClear a.toNat) (leBytes 4 v.toNat ++ [0])))) ∧
    (∀ (tdi : Bool) (data : BitVec 16),
      (s.chip.powered = false → exec (.bypass tdi) s = .next s ∧ exec .idcode s = .next s ∧
        exec (.samplePreload data) s = .next s ∧ exec .extest s = .next s) ∧
      (s.chip.powered = true →
        exec (.bypass tdi) s = .next { s with chip := { s.chip with
          jtagOut := [BitVec.ofNat 8 s.chip.jtagBypass.toNat], jtagBypass := tdi } } ∧
        exec .idcode s = .next { s with chip := { s.chip with
          jtagOut := if s.vendor.sx84 then [0xAB, 0x45, 0xA8, 0x05] else [0xAB, 0x65, 0xA9, 0x05] } } ∧
        ∃ pins : BitVec 16, pins.getLsbD 0 = s.chip.pwrGood ∧ pins.getLsbD 1 = decide (s.alertSrc = 0) ∧
          pins.getLsbD 2 = !s.chip.resetLow ∧ pins.getLsbD 3 = !s.chip.attnLow ∧ pins.extractLsb' 4 5 = s.chip.strap ∧
          exec (.samplePreload data) s = .next { s with chip := { s.chip with
            jtagOut := leBytes 2 pins.toNat, jtagBoundary := data } } ∧
          exec .extest s = .next { s with chip := { s.chip with
            jtagOut := leBytes 2 ((pins &&& 0xFFFC#16) ||| (s.chip.jtagBoundary &&& 3#16)).toNat } })) ∧
    (s.evlog.queue = [] → exec .eventLogEntry s = .next s) ∧
    (∀ e rest, s.evlog.queue = e :: rest → ∃ t, exec .eventLogEntry s = .next t ∧ s = { t with evlog := s.evlog } ∧
      t.evlog.queue = rest ∧ t.evlog.head = s.evlog.head + 1 ∧
      (smWf s.evlog.entries = true → ∀ n : Nat, smGet t.evlog.entries n =
        if n = s.evlog.head.toNat % 8192 then
          wordOfBytes (leBytes 4 s.evlog.head.toNat ++ leBytes 2 e.code.toNat ++ leBytes 2 e.source.toNat ++
            leBytes 8 s.time.toNat ++ leBytes 4 e.p0.toNat ++ leBytes 4 e.p1.toNat ++ leBytes 4 e.p2.toNat ++
            leBytes 4 e.p3.toNat)
        else smGet s.evlog.entries n) ∧
      t.evlog.dropped = (if smGet s.evlog.entries (s.evlog.head.toNat % 8192) = 0 then s.evlog.dropped
        else satAdd s.evlog.dropped 1)) ∧
    (let k := s.store
     let slot : Fin 2 := if k.cur = some 0 then 1 else 0
     (k.compacting = false ∨ s.chip.hpState ≠ 0 → exec .journalCompaction s = .next s) ∧
     (k.compacting = true → s.chip.hpState = 0 → ∃ t, exec .journalCompaction s = .next t ∧ s = { t with store := s.store } ∧
       t.store.journal = [] ∧ t.store.used = 0 ∧ t.store.compacting = false ∧ t.store.cfg = k.cfg ∧
       t.store.cur = some slot ∧ t.store.generation = k.generation + 1 ∧
       (∀ j : Fin 2, j ≠ slot → t.store.slots[j] = k.slots[j]) ∧
       ∃ o, t.store.slots[slot] = some o ∧ o.cfg = k.cfg ∧ o.gen = k.generation + 1 ∧ o.lastSeq = k.lastCommit ∧
         o.tgen = o.gen ∧ o.sealed = o.baseSeal) ∧
     (k.erasePending = false → exec .journalEraseDone s = .next s) ∧
     (k.erasePending = true → exec .journalEraseDone s =
       .next { s with store := { k with journal := [], used := 0, erasePending := false } })) ∧
    (∀ (l : LinkId) (r : Rx) (h : FlitHdr),
      (∀ body : List Byte, body.length ≠ 244 → exec (.rxDataFlit l r h body) s = .fault .malformedFlit) ∧
      (∀ seqs : List (BitVec 16), 120 < seqs.length → exec (.rxNak l r h seqs) s = .fault .malformedFlit))
end

