-- ==== Sys2Proof/Laws/Sparse.lean ====
section
/-! SUPPORT. The laws of sparse memories: reads after writes, and that every operation keeps the canonical
form. -/

namespace Sys2Proof.Machine

variable {w : Nat}

@[simp] theorem smGet_nil (a : Nat) : smGet ([] : SMap w) a = 0 := rfl

@[simp] theorem smWfFrom_nil (lo : Int) : smWfFrom lo ([] : SMap w) = true := rfl

@[simp] theorem smWf_nil : smWf ([] : SMap w) = true := rfl

theorem smWfFrom_cons (lo : Int) (k : Nat) (v : BitVec w) (t : SMap w) :
    smWfFrom lo ((k, v) :: t) = true ↔ lo < k ∧ v ≠ 0 ∧ smWfFrom k t = true := by
  simp [smWfFrom, and_assoc]

/-- A canonical memory above `lo` is one above any smaller bound. -/
theorem smWfFrom_mono {lo lo' : Int} (h : lo' ≤ lo) : ∀ {m : SMap w}, smWfFrom lo m = true → smWfFrom lo' m = true
  | [], _ => rfl
  | (k, v) :: t, hm => by
    rw [smWfFrom_cons] at hm ⊢
    exact ⟨by omega, hm.2⟩

/-- Nothing is listed at or below the bound. -/
theorem smGet_below {lo : Int} : ∀ {m : SMap w} {a : Nat}, smWfFrom lo m = true → (a : Int) ≤ lo → smGet m a = 0
  | [], _, _, _ => rfl
  | (k, v) :: t, a, hm, ha => by
    rw [smWfFrom_cons] at hm
    have hne : k ≠ a := by omega
    simp only [smGet, hne, if_false]
    exact smGet_below hm.2.2 (by omega)

/-- A write keeps the canonical form above a bound. -/
theorem smSet_wfFrom {lo : Int} {a : Nat} {v : BitVec w} :
    ∀ {m : SMap w}, smWfFrom lo m = true → lo < a → smWfFrom lo (smSet m a v) = true
  | [], _, ha => by
    unfold smSet
    split
    · rfl
    · rename_i hv
      exact (smWfFrom_cons ..).2 ⟨ha, hv, rfl⟩
  | (k, u) :: t, hm, ha => by
    obtain ⟨hk, hu, ht⟩ := (smWfFrom_cons ..).1 hm
    unfold smSet
    split
    · rename_i hak
      split
      · exact hm
      · rename_i hv
        exact (smWfFrom_cons ..).2 ⟨ha, hv, (smWfFrom_cons ..).2 ⟨by omega, hu, ht⟩⟩
    · split
      · split
        · exact smWfFrom_mono (le_of_lt hk) ht
        · rename_i hv
          exact (smWfFrom_cons ..).2 ⟨hk, hv, ht⟩
      · exact (smWfFrom_cons ..).2 ⟨hk, hu, smSet_wfFrom ht (by omega)⟩

theorem smSet_wf {m : SMap w} (h : smWf m = true) (a : Nat) (v : BitVec w) : smWf (smSet m a v) = true :=
  smSet_wfFrom h (by omega)

theorem smSetMany_wf : ∀ {vs : List (BitVec w)} {m : SMap w} (a : Nat),
    smWf m = true → smWf (smSetMany m a vs) = true
  | [], _, _, h => h
  | v :: t, _, a, h => smSetMany_wf (vs := t) (a + 1) (smSet_wf h a v)

theorem smFilter_wfFrom (p : Nat → Bool) :
    ∀ {m : SMap w} {lo : Int}, smWfFrom lo m = true → smWfFrom lo (smFilter p m) = true
  | [], _, _ => rfl
  | (k, v) :: t, lo, h => by
    obtain ⟨hk, hv, ht⟩ := (smWfFrom_cons ..).1 h
    have ih := smFilter_wfFrom p ht
    unfold smFilter at ih ⊢
    rw [List.filter_cons]
    split
    · exact (smWfFrom_cons ..).2 ⟨hk, hv, ih⟩
    · exact smWfFrom_mono (le_of_lt hk) ih

theorem smFilter_wf (p : Nat → Bool) {m : SMap w} (h : smWf m = true) : smWf (smFilter p m) = true :=
  smFilter_wfFrom p h

/-- A read of the address written gives the value written. -/
theorem smGet_smSet_same {lo : Int} {a : Nat} {v : BitVec w} :
    ∀ {m : SMap w}, smWfFrom lo m = true → smGet (smSet m a v) a = v
  | [], _ => by
    unfold smSet
    split
    · rename_i hv; simp [hv]
    · simp [smGet]
  | (k, u) :: t, hm => by
    obtain ⟨hk, hu, ht⟩ := (smWfFrom_cons ..).1 hm
    unfold smSet
    split
    · rename_i hak
      split
      · rename_i hv
        have hne : k ≠ a := by omega
        simp only [smGet, hne, if_false, hv]
        exact smGet_below ht (by omega)
      · simp [smGet]
    · split
      · rename_i hak
        split
        · rename_i hv
          rw [hv]
          exact smGet_below ht (by omega)
        · simp [smGet, hak]
      · rename_i h1 h2
        have hne : k ≠ a := fun h => h2 h.symm
        simp only [smGet, hne, if_false]
        exact smGet_smSet_same ht

/-- A write leaves every other address alone. -/
theorem smGet_smSet_other {lo : Int} {a b : Nat} {v : BitVec w} (h : b ≠ a) :
    ∀ {m : SMap w}, smWfFrom lo m = true → smGet (smSet m a v) b = smGet m b
  | [], _ => by
    unfold smSet
    split
    · rfl
    · simp [smGet, h.symm]
  | (k, u) :: t, hm => by
    obtain ⟨hk, hu, ht⟩ := (smWfFrom_cons ..).1 hm
    unfold smSet
    split
    · split
      · rfl
      · simp only [smGet, h.symm, if_false]
    · split
      · rename_i hak
        have hne : k ≠ b := fun e => h (by omega)
        split
        · simp [smGet, hne]
        · simp [smGet, hne]
      · simp only [smGet]
        split
        · rfl
        · exact smGet_smSet_other h ht

/-- The address read after a write, whichever it is. -/
theorem smGet_smSet {m : SMap w} (h : smWf m = true) (a b : Nat) (v : BitVec w) :
    smGet (smSet m a v) b = if b = a then v else smGet m b := by
  split
  · rename_i e; rw [e]; exact smGet_smSet_same h
  · rename_i e; exact smGet_smSet_other e h

end Sys2Proof.Machine
end

