-- ==== Sys2Proof/Laws/State.lean ====
section
/-! SUPPORT. One lemma per field per update of the state, true by definition, so that no later proof unfolds a
record update. -/

namespace Sys2Proof.Machine

variable (s : State)

/-! `State.setCore`. -/

@[simp] theorem State.setCore_pending (c : CoreId) (k : Core) : (s.setCore c k).pending = s.pending := rfl
@[simp] theorem State.setCore_time (c : CoreId) (k : Core) : (s.setCore c k).time = s.time := rfl
@[simp] theorem State.setCore_chipId (c : CoreId) (k : Core) : (s.setCore c k).chipId = s.chipId := rfl
@[simp] theorem State.setCore_safety (c : CoreId) (k : Core) : (s.setCore c k).safety = s.safety := rfl
@[simp] theorem State.setCore_parts (c : CoreId) (k : Core) : (s.setCore c k).parts = s.parts := rfl
@[simp] theorem State.setCore_ports (c : CoreId) (k : Core) : (s.setCore c k).ports = s.ports := rfl
@[simp] theorem State.setCore_transit (c : CoreId) (k : Core) : (s.setCore c k).transit = s.transit := rfl
@[simp] theorem State.setCore_links (c : CoreId) (k : Core) : (s.setCore c k).links = s.links := rfl
@[simp] theorem State.setCore_rte (c : CoreId) (k : Core) : (s.setCore c k).rte = s.rte := rfl
@[simp] theorem State.setCore_domains (c : CoreId) (k : Core) : (s.setCore c k).domains = s.domains := rfl
@[simp] theorem State.setCore_domOff (c : CoreId) (k : Core) : (s.setCore c k).domOff = s.domOff := rfl
@[simp] theorem State.setCore_evlog (c : CoreId) (k : Core) : (s.setCore c k).evlog = s.evlog := rfl
@[simp] theorem State.setCore_chip (c : CoreId) (k : Core) : (s.setCore c k).chip = s.chip := rfl
@[simp] theorem State.setCore_store (c : CoreId) (k : Core) : (s.setCore c k).store = s.store := rfl
@[simp] theorem State.setCore_power (c : CoreId) (k : Core) : (s.setCore c k).power = s.power := rfl
@[simp] theorem State.setCore_work (c : CoreId) (k : Core) : (s.setCore c k).work = s.work := rfl
@[simp] theorem State.setCore_draws (c : CoreId) (k : Core) : (s.setCore c k).draws = s.draws := rfl

@[simp] theorem State.core_setCore_self (c : CoreId) (k : Core) : (s.setCore c k).core c = k := by
  simp [State.setCore, State.core]

theorem State.core_setCore_ne (c : CoreId) (k : Core) (x : CoreId) (h' : x ≠ c) : (s.setCore c k).core x = s.core x := by
  have : c.val ≠ x.val := fun e => h' (Fin.ext e.symm)
  simp [State.setCore, State.core, Vector.getElem_set_ne, this]

theorem State.core_setCore (c : CoreId) (k : Core) (x : CoreId) :
    (s.setCore c k).core x = if x = c then k else s.core x := by
  split
  · rename_i e; rw [e, State.core_setCore_self]
  · rename_i e; exact s.core_setCore_ne c k x e

@[simp] theorem State.part_setCore (c : CoreId) (k : Core) (x : PartId) : (s.setCore c k).part x = s.part x := rfl
@[simp] theorem State.port_setCore (c : CoreId) (k : Core) (x : PortId) : (s.setCore c k).port x = s.port x := rfl
@[simp] theorem State.link_setCore (c : CoreId) (k : Core) (x : LinkId) : (s.setCore c k).link x = s.link x := rfl

/-! `State.setPart`. -/

@[simp] theorem State.setPart_pending (p : PartId) (k : Part) : (s.setPart p k).pending = s.pending := rfl
@[simp] theorem State.setPart_time (p : PartId) (k : Part) : (s.setPart p k).time = s.time := rfl
@[simp] theorem State.setPart_chipId (p : PartId) (k : Part) : (s.setPart p k).chipId = s.chipId := rfl
@[simp] theorem State.setPart_safety (p : PartId) (k : Part) : (s.setPart p k).safety = s.safety := rfl
@[simp] theorem State.setPart_cores (p : PartId) (k : Part) : (s.setPart p k).cores = s.cores := rfl
@[simp] theorem State.setPart_ports (p : PartId) (k : Part) : (s.setPart p k).ports = s.ports := rfl
@[simp] theorem State.setPart_transit (p : PartId) (k : Part) : (s.setPart p k).transit = s.transit := rfl
@[simp] theorem State.setPart_links (p : PartId) (k : Part) : (s.setPart p k).links = s.links := rfl
@[simp] theorem State.setPart_rte (p : PartId) (k : Part) : (s.setPart p k).rte = s.rte := rfl
@[simp] theorem State.setPart_domains (p : PartId) (k : Part) : (s.setPart p k).domains = s.domains := rfl
@[simp] theorem State.setPart_domOff (p : PartId) (k : Part) : (s.setPart p k).domOff = s.domOff := rfl
@[simp] theorem State.setPart_evlog (p : PartId) (k : Part) : (s.setPart p k).evlog = s.evlog := rfl
@[simp] theorem State.setPart_chip (p : PartId) (k : Part) : (s.setPart p k).chip = s.chip := rfl
@[simp] theorem State.setPart_store (p : PartId) (k : Part) : (s.setPart p k).store = s.store := rfl
@[simp] theorem State.setPart_power (p : PartId) (k : Part) : (s.setPart p k).power = s.power := rfl
@[simp] theorem State.setPart_work (p : PartId) (k : Part) : (s.setPart p k).work = s.work := rfl
@[simp] theorem State.setPart_draws (p : PartId) (k : Part) : (s.setPart p k).draws = s.draws := rfl

@[simp] theorem State.part_setPart_self (p : PartId) (k : Part) : (s.setPart p k).part p = k := by
  simp [State.setPart, State.part]

theorem State.part_setPart_ne (p : PartId) (k : Part) (x : PartId) (h' : x ≠ p) : (s.setPart p k).part x = s.part x := by
  have : p.val ≠ x.val := fun e => h' (Fin.ext e.symm)
  simp [State.setPart, State.part, Vector.getElem_set_ne, this]

theorem State.part_setPart (p : PartId) (k : Part) (x : PartId) :
    (s.setPart p k).part x = if x = p then k else s.part x := by
  split
  · rename_i e; rw [e, State.part_setPart_self]
  · rename_i e; exact s.part_setPart_ne p k x e

@[simp] theorem State.core_setPart (p : PartId) (k : Part) (x : CoreId) : (s.setPart p k).core x = s.core x := rfl
@[simp] theorem State.port_setPart (p : PartId) (k : Part) (x : PortId) : (s.setPart p k).port x = s.port x := rfl
@[simp] theorem State.link_setPart (p : PartId) (k : Part) (x : LinkId) : (s.setPart p k).link x = s.link x := rfl

/-! `State.setPort`. -/

@[simp] theorem State.setPort_pending (h : PortId) (k : HostPort) : (s.setPort h k).pending = s.pending := rfl
@[simp] theorem State.setPort_time (h : PortId) (k : HostPort) : (s.setPort h k).time = s.time := rfl
@[simp] theorem State.setPort_chipId (h : PortId) (k : HostPort) : (s.setPort h k).chipId = s.chipId := rfl
@[simp] theorem State.setPort_safety (h : PortId) (k : HostPort) : (s.setPort h k).safety = s.safety := rfl
@[simp] theorem State.setPort_cores (h : PortId) (k : HostPort) : (s.setPort h k).cores = s.cores := rfl
@[simp] theorem State.setPort_parts (h : PortId) (k : HostPort) : (s.setPort h k).parts = s.parts := rfl
@[simp] theorem State.setPort_transit (h : PortId) (k : HostPort) : (s.setPort h k).transit = s.transit := rfl
@[simp] theorem State.setPort_links (h : PortId) (k : HostPort) : (s.setPort h k).links = s.links := rfl
@[simp] theorem State.setPort_rte (h : PortId) (k : HostPort) : (s.setPort h k).rte = s.rte := rfl
@[simp] theorem State.setPort_domains (h : PortId) (k : HostPort) : (s.setPort h k).domains = s.domains := rfl
@[simp] theorem State.setPort_domOff (h : PortId) (k : HostPort) : (s.setPort h k).domOff = s.domOff := rfl
@[simp] theorem State.setPort_evlog (h : PortId) (k : HostPort) : (s.setPort h k).evlog = s.evlog := rfl
@[simp] theorem State.setPort_chip (h : PortId) (k : HostPort) : (s.setPort h k).chip = s.chip := rfl
@[simp] theorem State.setPort_store (h : PortId) (k : HostPort) : (s.setPort h k).store = s.store := rfl
@[simp] theorem State.setPort_power (h : PortId) (k : HostPort) : (s.setPort h k).power = s.power := rfl
@[simp] theorem State.setPort_work (h : PortId) (k : HostPort) : (s.setPort h k).work = s.work := rfl
@[simp] theorem State.setPort_draws (h : PortId) (k : HostPort) : (s.setPort h k).draws = s.draws := rfl

@[simp] theorem State.port_setPort_self (h : PortId) (k : HostPort) : (s.setPort h k).port h = k := by
  simp [State.setPort, State.port]

theorem State.port_setPort_ne (h : PortId) (k : HostPort) (x : PortId) (h' : x ≠ h) : (s.setPort h k).port x = s.port x := by
  have : h.val ≠ x.val := fun e => h' (Fin.ext e.symm)
  simp [State.setPort, State.port, Vector.getElem_set_ne, this]

theorem State.port_setPort (h : PortId) (k : HostPort) (x : PortId) :
    (s.setPort h k).port x = if x = h then k else s.port x := by
  split
  · rename_i e; rw [e, State.port_setPort_self]
  · rename_i e; exact s.port_setPort_ne h k x e

@[simp] theorem State.core_setPort (h : PortId) (k : HostPort) (x : CoreId) : (s.setPort h k).core x = s.core x := rfl
@[simp] theorem State.part_setPort (h : PortId) (k : HostPort) (x : PartId) : (s.setPort h k).part x = s.part x := rfl
@[simp] theorem State.link_setPort (h : PortId) (k : HostPort) (x : LinkId) : (s.setPort h k).link x = s.link x := rfl

/-! `State.setLink`. -/

@[simp] theorem State.setLink_pending (l : LinkId) (k : Link) : (s.setLink l k).pending = s.pending := rfl
@[simp] theorem State.setLink_time (l : LinkId) (k : Link) : (s.setLink l k).time = s.time := rfl
@[simp] theorem State.setLink_chipId (l : LinkId) (k : Link) : (s.setLink l k).chipId = s.chipId := rfl
@[simp] theorem State.setLink_safety (l : LinkId) (k : Link) : (s.setLink l k).safety = s.safety := rfl
@[simp] theorem State.setLink_cores (l : LinkId) (k : Link) : (s.setLink l k).cores = s.cores := rfl
@[simp] theorem State.setLink_parts (l : LinkId) (k : Link) : (s.setLink l k).parts = s.parts := rfl
@[simp] theorem State.setLink_ports (l : LinkId) (k : Link) : (s.setLink l k).ports = s.ports := rfl
@[simp] theorem State.setLink_transit (l : LinkId) (k : Link) : (s.setLink l k).transit = s.transit := rfl
@[simp] theorem State.setLink_rte (l : LinkId) (k : Link) : (s.setLink l k).rte = s.rte := rfl
@[simp] theorem State.setLink_domains (l : LinkId) (k : Link) : (s.setLink l k).domains = s.domains := rfl
@[simp] theorem State.setLink_domOff (l : LinkId) (k : Link) : (s.setLink l k).domOff = s.domOff := rfl
@[simp] theorem State.setLink_evlog (l : LinkId) (k : Link) : (s.setLink l k).evlog = s.evlog := rfl
@[simp] theorem State.setLink_chip (l : LinkId) (k : Link) : (s.setLink l k).chip = s.chip := rfl
@[simp] theorem State.setLink_store (l : LinkId) (k : Link) : (s.setLink l k).store = s.store := rfl
@[simp] theorem State.setLink_power (l : LinkId) (k : Link) : (s.setLink l k).power = s.power := rfl
@[simp] theorem State.setLink_work (l : LinkId) (k : Link) : (s.setLink l k).work = s.work := rfl
@[simp] theorem State.setLink_draws (l : LinkId) (k : Link) : (s.setLink l k).draws = s.draws := rfl

@[simp] theorem State.link_setLink_self (l : LinkId) (k : Link) : (s.setLink l k).link l = k := by
  simp [State.setLink, State.link]

theorem State.link_setLink_ne (l : LinkId) (k : Link) (x : LinkId) (h' : x ≠ l) : (s.setLink l k).link x = s.link x := by
  have : l.val ≠ x.val := fun e => h' (Fin.ext e.symm)
  simp [State.setLink, State.link, Vector.getElem_set_ne, this]

theorem State.link_setLink (l : LinkId) (k : Link) (x : LinkId) :
    (s.setLink l k).link x = if x = l then k else s.link x := by
  split
  · rename_i e; rw [e, State.link_setLink_self]
  · rename_i e; exact s.link_setLink_ne l k x e

@[simp] theorem State.core_setLink (l : LinkId) (k : Link) (x : CoreId) : (s.setLink l k).core x = s.core x := rfl
@[simp] theorem State.part_setLink (l : LinkId) (k : Link) (x : PartId) : (s.setLink l k).part x = s.part x := rfl
@[simp] theorem State.port_setLink (l : LinkId) (k : Link) (x : PortId) : (s.setLink l k).port x = s.port x := rfl

/-! The modifiers are the setters on what was there. -/

theorem State.modCore_eq (c : CoreId) (f : Core → Core) : s.modCore c f = s.setCore c (f (s.core c)) := rfl
theorem State.modPart_eq (p : PartId) (f : Part → Part) : s.modPart p f = s.setPart p (f (s.part p)) := rfl
theorem State.modPort_eq (h : PortId) (f : HostPort → HostPort) : s.modPort h f = s.setPort h (f (s.port h)) := rfl
theorem State.modLink_eq (l : LinkId) (f : Link → Link) : s.modLink l f = s.setLink l (f (s.link l)) := rfl

@[simp] theorem State.modCore_pending (c : CoreId) (f : Core → Core) : (s.modCore c f).pending = s.pending := rfl
@[simp] theorem State.modCore_time (c : CoreId) (f : Core → Core) : (s.modCore c f).time = s.time := rfl
@[simp] theorem State.modCore_chipId (c : CoreId) (f : Core → Core) : (s.modCore c f).chipId = s.chipId := rfl
@[simp] theorem State.modCore_safety (c : CoreId) (f : Core → Core) : (s.modCore c f).safety = s.safety := rfl
@[simp] theorem State.modCore_parts (c : CoreId) (f : Core → Core) : (s.modCore c f).parts = s.parts := rfl
@[simp] theorem State.modCore_ports (c : CoreId) (f : Core → Core) : (s.modCore c f).ports = s.ports := rfl
@[simp] theorem State.modCore_transit (c : CoreId) (f : Core → Core) : (s.modCore c f).transit = s.transit := rfl
@[simp] theorem State.modCore_links (c : CoreId) (f : Core → Core) : (s.modCore c f).links = s.links := rfl
@[simp] theorem State.modCore_rte (c : CoreId) (f : Core → Core) : (s.modCore c f).rte = s.rte := rfl
@[simp] theorem State.modCore_domains (c : CoreId) (f : Core → Core) : (s.modCore c f).domains = s.domains := rfl
@[simp] theorem State.modCore_domOff (c : CoreId) (f : Core → Core) : (s.modCore c f).domOff = s.domOff := rfl
@[simp] theorem State.modCore_evlog (c : CoreId) (f : Core → Core) : (s.modCore c f).evlog = s.evlog := rfl
@[simp] theorem State.modCore_chip (c : CoreId) (f : Core → Core) : (s.modCore c f).chip = s.chip := rfl
@[simp] theorem State.modCore_store (c : CoreId) (f : Core → Core) : (s.modCore c f).store = s.store := rfl
@[simp] theorem State.modCore_power (c : CoreId) (f : Core → Core) : (s.modCore c f).power = s.power := rfl
@[simp] theorem State.modCore_work (c : CoreId) (f : Core → Core) : (s.modCore c f).work = s.work := rfl
@[simp] theorem State.modCore_draws (c : CoreId) (f : Core → Core) : (s.modCore c f).draws = s.draws := rfl

@[simp] theorem State.core_modCore_self (c : CoreId) (f : Core → Core) : (s.modCore c f).core c = f (s.core c) := by
  rw [State.modCore_eq, State.core_setCore_self]

theorem State.core_modCore (c : CoreId) (f : Core → Core) (x : CoreId) :
    (s.modCore c f).core x = if x = c then f (s.core c) else s.core x := by
  rw [State.modCore_eq, State.core_setCore]

@[simp] theorem State.part_modCore (c : CoreId) (f : Core → Core) (x : PartId) : (s.modCore c f).part x = s.part x := rfl
@[simp] theorem State.port_modCore (c : CoreId) (f : Core → Core) (x : PortId) : (s.modCore c f).port x = s.port x := rfl
@[simp] theorem State.link_modCore (c : CoreId) (f : Core → Core) (x : LinkId) : (s.modCore c f).link x = s.link x := rfl

@[simp] theorem State.modPart_pending (p : PartId) (f : Part → Part) : (s.modPart p f).pending = s.pending := rfl
@[simp] theorem State.modPart_time (p : PartId) (f : Part → Part) : (s.modPart p f).time = s.time := rfl
@[simp] theorem State.modPart_chipId (p : PartId) (f : Part → Part) : (s.modPart p f).chipId = s.chipId := rfl
@[simp] theorem State.modPart_safety (p : PartId) (f : Part → Part) : (s.modPart p f).safety = s.safety := rfl
@[simp] theorem State.modPart_cores (p : PartId) (f : Part → Part) : (s.modPart p f).cores = s.cores := rfl
@[simp] theorem State.modPart_ports (p : PartId) (f : Part → Part) : (s.modPart p f).ports = s.ports := rfl
@[simp] theorem State.modPart_transit (p : PartId) (f : Part → Part) : (s.modPart p f).transit = s.transit := rfl
@[simp] theorem State.modPart_links (p : PartId) (f : Part → Part) : (s.modPart p f).links = s.links := rfl
@[simp] theorem State.modPart_rte (p : PartId) (f : Part → Part) : (s.modPart p f).rte = s.rte := rfl
@[simp] theorem State.modPart_domains (p : PartId) (f : Part → Part) : (s.modPart p f).domains = s.domains := rfl
@[simp] theorem State.modPart_domOff (p : PartId) (f : Part → Part) : (s.modPart p f).domOff = s.domOff := rfl
@[simp] theorem State.modPart_evlog (p : PartId) (f : Part → Part) : (s.modPart p f).evlog = s.evlog := rfl
@[simp] theorem State.modPart_chip (p : PartId) (f : Part → Part) : (s.modPart p f).chip = s.chip := rfl
@[simp] theorem State.modPart_store (p : PartId) (f : Part → Part) : (s.modPart p f).store = s.store := rfl
@[simp] theorem State.modPart_power (p : PartId) (f : Part → Part) : (s.modPart p f).power = s.power := rfl
@[simp] theorem State.modPart_work (p : PartId) (f : Part → Part) : (s.modPart p f).work = s.work := rfl
@[simp] theorem State.modPart_draws (p : PartId) (f : Part → Part) : (s.modPart p f).draws = s.draws := rfl

@[simp] theorem State.part_modPart_self (p : PartId) (f : Part → Part) : (s.modPart p f).part p = f (s.part p) := by
  rw [State.modPart_eq, State.part_setPart_self]

theorem State.part_modPart (p : PartId) (f : Part → Part) (x : PartId) :
    (s.modPart p f).part x = if x = p then f (s.part p) else s.part x := by
  rw [State.modPart_eq, State.part_setPart]

@[simp] theorem State.core_modPart (p : PartId) (f : Part → Part) (x : CoreId) : (s.modPart p f).core x = s.core x := rfl
@[simp] theorem State.port_modPart (p : PartId) (f : Part → Part) (x : PortId) : (s.modPart p f).port x = s.port x := rfl
@[simp] theorem State.link_modPart (p : PartId) (f : Part → Part) (x : LinkId) : (s.modPart p f).link x = s.link x := rfl

@[simp] theorem State.modPort_pending (h : PortId) (f : HostPort → HostPort) : (s.modPort h f).pending = s.pending := rfl
@[simp] theorem State.modPort_time (h : PortId) (f : HostPort → HostPort) : (s.modPort h f).time = s.time := rfl
@[simp] theorem State.modPort_chipId (h : PortId) (f : HostPort → HostPort) : (s.modPort h f).chipId = s.chipId := rfl
@[simp] theorem State.modPort_safety (h : PortId) (f : HostPort → HostPort) : (s.modPort h f).safety = s.safety := rfl
@[simp] theorem State.modPort_cores (h : PortId) (f : HostPort → HostPort) : (s.modPort h f).cores = s.cores := rfl
@[simp] theorem State.modPort_parts (h : PortId) (f : HostPort → HostPort) : (s.modPort h f).parts = s.parts := rfl
@[simp] theorem State.modPort_transit (h : PortId) (f : HostPort → HostPort) : (s.modPort h f).transit = s.transit := rfl
@[simp] theorem State.modPort_links (h : PortId) (f : HostPort → HostPort) : (s.modPort h f).links = s.links := rfl
@[simp] theorem State.modPort_rte (h : PortId) (f : HostPort → HostPort) : (s.modPort h f).rte = s.rte := rfl
@[simp] theorem State.modPort_domains (h : PortId) (f : HostPort → HostPort) : (s.modPort h f).domains = s.domains := rfl
@[simp] theorem State.modPort_domOff (h : PortId) (f : HostPort → HostPort) : (s.modPort h f).domOff = s.domOff := rfl
@[simp] theorem State.modPort_evlog (h : PortId) (f : HostPort → HostPort) : (s.modPort h f).evlog = s.evlog := rfl
@[simp] theorem State.modPort_chip (h : PortId) (f : HostPort → HostPort) : (s.modPort h f).chip = s.chip := rfl
@[simp] theorem State.modPort_store (h : PortId) (f : HostPort → HostPort) : (s.modPort h f).store = s.store := rfl
@[simp] theorem State.modPort_power (h : PortId) (f : HostPort → HostPort) : (s.modPort h f).power = s.power := rfl
@[simp] theorem State.modPort_work (h : PortId) (f : HostPort → HostPort) : (s.modPort h f).work = s.work := rfl
@[simp] theorem State.modPort_draws (h : PortId) (f : HostPort → HostPort) : (s.modPort h f).draws = s.draws := rfl

@[simp] theorem State.port_modPort_self (h : PortId) (f : HostPort → HostPort) : (s.modPort h f).port h = f (s.port h) := by
  rw [State.modPort_eq, State.port_setPort_self]

theorem State.port_modPort (h : PortId) (f : HostPort → HostPort) (x : PortId) :
    (s.modPort h f).port x = if x = h then f (s.port h) else s.port x := by
  rw [State.modPort_eq, State.port_setPort]

@[simp] theorem State.core_modPort (h : PortId) (f : HostPort → HostPort) (x : CoreId) : (s.modPort h f).core x = s.core x := rfl
@[simp] theorem State.part_modPort (h : PortId) (f : HostPort → HostPort) (x : PartId) : (s.modPort h f).part x = s.part x := rfl
@[simp] theorem State.link_modPort (h : PortId) (f : HostPort → HostPort) (x : LinkId) : (s.modPort h f).link x = s.link x := rfl

@[simp] theorem State.modLink_pending (l : LinkId) (f : Link → Link) : (s.modLink l f).pending = s.pending := rfl
@[simp] theorem State.modLink_time (l : LinkId) (f : Link → Link) : (s.modLink l f).time = s.time := rfl
@[simp] theorem State.modLink_chipId (l : LinkId) (f : Link → Link) : (s.modLink l f).chipId = s.chipId := rfl
@[simp] theorem State.modLink_safety (l : LinkId) (f : Link → Link) : (s.modLink l f).safety = s.safety := rfl
@[simp] theorem State.modLink_cores (l : LinkId) (f : Link → Link) : (s.modLink l f).cores = s.cores := rfl
@[simp] theorem State.modLink_parts (l : LinkId) (f : Link → Link) : (s.modLink l f).parts = s.parts := rfl
@[simp] theorem State.modLink_ports (l : LinkId) (f : Link → Link) : (s.modLink l f).ports = s.ports := rfl
@[simp] theorem State.modLink_transit (l : LinkId) (f : Link → Link) : (s.modLink l f).transit = s.transit := rfl
@[simp] theorem State.modLink_rte (l : LinkId) (f : Link → Link) : (s.modLink l f).rte = s.rte := rfl
@[simp] theorem State.modLink_domains (l : LinkId) (f : Link → Link) : (s.modLink l f).domains = s.domains := rfl
@[simp] theorem State.modLink_domOff (l : LinkId) (f : Link → Link) : (s.modLink l f).domOff = s.domOff := rfl
@[simp] theorem State.modLink_evlog (l : LinkId) (f : Link → Link) : (s.modLink l f).evlog = s.evlog := rfl
@[simp] theorem State.modLink_chip (l : LinkId) (f : Link → Link) : (s.modLink l f).chip = s.chip := rfl
@[simp] theorem State.modLink_store (l : LinkId) (f : Link → Link) : (s.modLink l f).store = s.store := rfl
@[simp] theorem State.modLink_power (l : LinkId) (f : Link → Link) : (s.modLink l f).power = s.power := rfl
@[simp] theorem State.modLink_work (l : LinkId) (f : Link → Link) : (s.modLink l f).work = s.work := rfl
@[simp] theorem State.modLink_draws (l : LinkId) (f : Link → Link) : (s.modLink l f).draws = s.draws := rfl

@[simp] theorem State.link_modLink_self (l : LinkId) (f : Link → Link) : (s.modLink l f).link l = f (s.link l) := by
  rw [State.modLink_eq, State.link_setLink_self]

theorem State.link_modLink (l : LinkId) (f : Link → Link) (x : LinkId) :
    (s.modLink l f).link x = if x = l then f (s.link l) else s.link x := by
  rw [State.modLink_eq, State.link_setLink]

@[simp] theorem State.core_modLink (l : LinkId) (f : Link → Link) (x : CoreId) : (s.modLink l f).core x = s.core x := rfl
@[simp] theorem State.part_modLink (l : LinkId) (f : Link → Link) (x : PartId) : (s.modLink l f).part x = s.part x := rfl
@[simp] theorem State.port_modLink (l : LinkId) (f : Link → Link) (x : PortId) : (s.modLink l f).port x = s.port x := rfl

end Sys2Proof.Machine
end

