-- ==== Sys2Proof/Laws/Ops.lean ====
section
/-! SUPPORT. What the shared operations of Machine/Ops.lean do and leave alone. -/

namespace Sys2Proof.Machine

variable (s : State)

/-! The event queue (R491). -/

theorem State.log_eq (code : Nat) (src : BitVec 16) (p0 p1 p2 p3 : Nat) :
    ∃ e : EventLog, s.log code src p0 p1 p2 p3 = { s with evlog := e } ∧
      (s.evlog.queue.length ≤ 1024 → e.queue.length ≤ 1024) := by
  unfold State.log
  split
  · refine ⟨_, rfl, fun _ => ?_⟩
    simp; omega
  · exact ⟨_, rfl, id⟩

@[simp] theorem State.log_pending (n : Nat) (src : BitVec 16) (a b c d : Nat) : (s.log n src a b c d).pending = s.pending := by
  unfold State.log; split <;> rfl
@[simp] theorem State.log_time (n : Nat) (src : BitVec 16) (a b c d : Nat) : (s.log n src a b c d).time = s.time := by
  unfold State.log; split <;> rfl
@[simp] theorem State.log_chipId (n : Nat) (src : BitVec 16) (a b c d : Nat) : (s.log n src a b c d).chipId = s.chipId := by
  unfold State.log; split <;> rfl
@[simp] theorem State.log_safety (n : Nat) (src : BitVec 16) (a b c d : Nat) : (s.log n src a b c d).safety = s.safety := by
  unfold State.log; split <;> rfl
@[simp] theorem State.log_cores (n : Nat) (src : BitVec 16) (a b c d : Nat) : (s.log n src a b c d).cores = s.cores := by
  unfold State.log; split <;> rfl
@[simp] theorem State.log_parts (n : Nat) (src : BitVec 16) (a b c d : Nat) : (s.log n src a b c d).parts = s.parts := by
  unfold State.log; split <;> rfl
@[simp] theorem State.log_ports (n : Nat) (src : BitVec 16) (a b c d : Nat) : (s.log n src a b c d).ports = s.ports := by
  unfold State.log; split <;> rfl
@[simp] theorem State.log_transit (n : Nat) (src : BitVec 16) (a b c d : Nat) : (s.log n src a b c d).transit = s.transit := by
  unfold State.log; split <;> rfl
@[simp] theorem State.log_links (n : Nat) (src : BitVec 16) (a b c d : Nat) : (s.log n src a b c d).links = s.links := by
  unfold State.log; split <;> rfl
@[simp] theorem State.log_rte (n : Nat) (src : BitVec 16) (a b c d : Nat) : (s.log n src a b c d).rte = s.rte := by
  unfold State.log; split <;> rfl
@[simp] theorem State.log_domains (n : Nat) (src : BitVec 16) (a b c d : Nat) : (s.log n src a b c d).domains = s.domains := by
  unfold State.log; split <;> rfl
@[simp] theorem State.log_domOff (n : Nat) (src : BitVec 16) (a b c d : Nat) : (s.log n src a b c d).domOff = s.domOff := by
  unfold State.log; split <;> rfl
@[simp] theorem State.log_chip (n : Nat) (src : BitVec 16) (a b c d : Nat) : (s.log n src a b c d).chip = s.chip := by
  unfold State.log; split <;> rfl
@[simp] theorem State.log_store (n : Nat) (src : BitVec 16) (a b c d : Nat) : (s.log n src a b c d).store = s.store := by
  unfold State.log; split <;> rfl
@[simp] theorem State.log_power (n : Nat) (src : BitVec 16) (a b c d : Nat) : (s.log n src a b c d).power = s.power := by
  unfold State.log; split <;> rfl
@[simp] theorem State.log_work (n : Nat) (src : BitVec 16) (a b c d : Nat) : (s.log n src a b c d).work = s.work := by
  unfold State.log; split <;> rfl
@[simp] theorem State.log_draws (n : Nat) (src : BitVec 16) (a b c d : Nat) : (s.log n src a b c d).draws = s.draws := by
  unfold State.log; split <;> rfl
@[simp] theorem State.core_log (n : Nat) (src : BitVec 16) (a b c d : Nat) (x : CoreId) :
    (s.log n src a b c d).core x = s.core x := by
  unfold State.log; split <;> rfl
@[simp] theorem State.part_log (n : Nat) (src : BitVec 16) (a b c d : Nat) (x : PartId) :
    (s.log n src a b c d).part x = s.part x := by
  unfold State.log; split <;> rfl
@[simp] theorem State.port_log (n : Nat) (src : BitVec 16) (a b c d : Nat) (x : PortId) :
    (s.log n src a b c d).port x = s.port x := by
  unfold State.log; split <;> rfl
@[simp] theorem State.link_log (n : Nat) (src : BitVec 16) (a b c d : Nat) (x : LinkId) :
    (s.log n src a b c d).link x = s.link x := by
  unfold State.log; split <;> rfl

/-! Modifiers of a part of a core. -/

theorem State.core_modMem (c x : CoreId) (f : Memory → Memory) :
    (s.modMem c f).core x = if x = c then { s.core c with memory := f (s.core c).memory } else s.core x :=
  s.core_modCore c _ x
@[simp] theorem State.modMem_pending (c : CoreId) (f : Memory → Memory) : (s.modMem c f).pending = s.pending := rfl
@[simp] theorem State.modMem_time (c : CoreId) (f : Memory → Memory) : (s.modMem c f).time = s.time := rfl
@[simp] theorem State.modMem_chipId (c : CoreId) (f : Memory → Memory) : (s.modMem c f).chipId = s.chipId := rfl
@[simp] theorem State.modMem_safety (c : CoreId) (f : Memory → Memory) : (s.modMem c f).safety = s.safety := rfl
@[simp] theorem State.modMem_parts (c : CoreId) (f : Memory → Memory) : (s.modMem c f).parts = s.parts := rfl
@[simp] theorem State.modMem_ports (c : CoreId) (f : Memory → Memory) : (s.modMem c f).ports = s.ports := rfl
@[simp] theorem State.modMem_transit (c : CoreId) (f : Memory → Memory) : (s.modMem c f).transit = s.transit := rfl
@[simp] theorem State.modMem_links (c : CoreId) (f : Memory → Memory) : (s.modMem c f).links = s.links := rfl
@[simp] theorem State.modMem_rte (c : CoreId) (f : Memory → Memory) : (s.modMem c f).rte = s.rte := rfl
@[simp] theorem State.modMem_domains (c : CoreId) (f : Memory → Memory) : (s.modMem c f).domains = s.domains := rfl
@[simp] theorem State.modMem_domOff (c : CoreId) (f : Memory → Memory) : (s.modMem c f).domOff = s.domOff := rfl
@[simp] theorem State.modMem_evlog (c : CoreId) (f : Memory → Memory) : (s.modMem c f).evlog = s.evlog := rfl
@[simp] theorem State.modMem_chip (c : CoreId) (f : Memory → Memory) : (s.modMem c f).chip = s.chip := rfl
@[simp] theorem State.modMem_store (c : CoreId) (f : Memory → Memory) : (s.modMem c f).store = s.store := rfl
@[simp] theorem State.modMem_power (c : CoreId) (f : Memory → Memory) : (s.modMem c f).power = s.power := rfl
@[simp] theorem State.modMem_work (c : CoreId) (f : Memory → Memory) : (s.modMem c f).work = s.work := rfl
@[simp] theorem State.modMem_draws (c : CoreId) (f : Memory → Memory) : (s.modMem c f).draws = s.draws := rfl
@[simp] theorem State.part_modMem (c : CoreId) (f : Memory → Memory) (x : PartId) : (s.modMem c f).part x = s.part x := rfl
@[simp] theorem State.port_modMem (c : CoreId) (f : Memory → Memory) (x : PortId) : (s.modMem c f).port x = s.port x := rfl
@[simp] theorem State.link_modMem (c : CoreId) (f : Memory → Memory) (x : LinkId) : (s.modMem c f).link x = s.link x := rfl

theorem State.core_modVec (c x : CoreId) (f : VectorUnit → VectorUnit) :
    (s.modVec c f).core x = if x = c then { s.core c with vec := f (s.core c).vec } else s.core x :=
  s.core_modCore c _ x
@[simp] theorem State.modVec_pending (c : CoreId) (f : VectorUnit → VectorUnit) : (s.modVec c f).pending = s.pending := rfl
@[simp] theorem State.modVec_time (c : CoreId) (f : VectorUnit → VectorUnit) : (s.modVec c f).time = s.time := rfl
@[simp] theorem State.modVec_chipId (c : CoreId) (f : VectorUnit → VectorUnit) : (s.modVec c f).chipId = s.chipId := rfl
@[simp] theorem State.modVec_safety (c : CoreId) (f : VectorUnit → VectorUnit) : (s.modVec c f).safety = s.safety := rfl
@[simp] theorem State.modVec_parts (c : CoreId) (f : VectorUnit → VectorUnit) : (s.modVec c f).parts = s.parts := rfl
@[simp] theorem State.modVec_ports (c : CoreId) (f : VectorUnit → VectorUnit) : (s.modVec c f).ports = s.ports := rfl
@[simp] theorem State.modVec_transit (c : CoreId) (f : VectorUnit → VectorUnit) : (s.modVec c f).transit = s.transit := rfl
@[simp] theorem State.modVec_links (c : CoreId) (f : VectorUnit → VectorUnit) : (s.modVec c f).links = s.links := rfl
@[simp] theorem State.modVec_rte (c : CoreId) (f : VectorUnit → VectorUnit) : (s.modVec c f).rte = s.rte := rfl
@[simp] theorem State.modVec_domains (c : CoreId) (f : VectorUnit → VectorUnit) : (s.modVec c f).domains = s.domains := rfl
@[simp] theorem State.modVec_domOff (c : CoreId) (f : VectorUnit → VectorUnit) : (s.modVec c f).domOff = s.domOff := rfl
@[simp] theorem State.modVec_evlog (c : CoreId) (f : VectorUnit → VectorUnit) : (s.modVec c f).evlog = s.evlog := rfl
@[simp] theorem State.modVec_chip (c : CoreId) (f : VectorUnit → VectorUnit) : (s.modVec c f).chip = s.chip := rfl
@[simp] theorem State.modVec_store (c : CoreId) (f : VectorUnit → VectorUnit) : (s.modVec c f).store = s.store := rfl
@[simp] theorem State.modVec_power (c : CoreId) (f : VectorUnit → VectorUnit) : (s.modVec c f).power = s.power := rfl
@[simp] theorem State.modVec_work (c : CoreId) (f : VectorUnit → VectorUnit) : (s.modVec c f).work = s.work := rfl
@[simp] theorem State.modVec_draws (c : CoreId) (f : VectorUnit → VectorUnit) : (s.modVec c f).draws = s.draws := rfl
@[simp] theorem State.part_modVec (c : CoreId) (f : VectorUnit → VectorUnit) (x : PartId) : (s.modVec c f).part x = s.part x := rfl
@[simp] theorem State.port_modVec (c : CoreId) (f : VectorUnit → VectorUnit) (x : PortId) : (s.modVec c f).port x = s.port x := rfl
@[simp] theorem State.link_modVec (c : CoreId) (f : VectorUnit → VectorUnit) (x : LinkId) : (s.modVec c f).link x = s.link x := rfl

theorem State.core_modArray (c x : CoreId) (f : ArrayUnit → ArrayUnit) :
    (s.modArray c f).core x = if x = c then { s.core c with array := f (s.core c).array } else s.core x :=
  s.core_modCore c _ x
@[simp] theorem State.modArray_pending (c : CoreId) (f : ArrayUnit → ArrayUnit) : (s.modArray c f).pending = s.pending := rfl
@[simp] theorem State.modArray_time (c : CoreId) (f : ArrayUnit → ArrayUnit) : (s.modArray c f).time = s.time := rfl
@[simp] theorem State.modArray_chipId (c : CoreId) (f : ArrayUnit → ArrayUnit) : (s.modArray c f).chipId = s.chipId := rfl
@[simp] theorem State.modArray_safety (c : CoreId) (f : ArrayUnit → ArrayUnit) : (s.modArray c f).safety = s.safety := rfl
@[simp] theorem State.modArray_parts (c : CoreId) (f : ArrayUnit → ArrayUnit) : (s.modArray c f).parts = s.parts := rfl
@[simp] theorem State.modArray_ports (c : CoreId) (f : ArrayUnit → ArrayUnit) : (s.modArray c f).ports = s.ports := rfl
@[simp] theorem State.modArray_transit (c : CoreId) (f : ArrayUnit → ArrayUnit) : (s.modArray c f).transit = s.transit := rfl
@[simp] theorem State.modArray_links (c : CoreId) (f : ArrayUnit → ArrayUnit) : (s.modArray c f).links = s.links := rfl
@[simp] theorem State.modArray_rte (c : CoreId) (f : ArrayUnit → ArrayUnit) : (s.modArray c f).rte = s.rte := rfl
@[simp] theorem State.modArray_domains (c : CoreId) (f : ArrayUnit → ArrayUnit) : (s.modArray c f).domains = s.domains := rfl
@[simp] theorem State.modArray_domOff (c : CoreId) (f : ArrayUnit → ArrayUnit) : (s.modArray c f).domOff = s.domOff := rfl
@[simp] theorem State.modArray_evlog (c : CoreId) (f : ArrayUnit → ArrayUnit) : (s.modArray c f).evlog = s.evlog := rfl
@[simp] theorem State.modArray_chip (c : CoreId) (f : ArrayUnit → ArrayUnit) : (s.modArray c f).chip = s.chip := rfl
@[simp] theorem State.modArray_store (c : CoreId) (f : ArrayUnit → ArrayUnit) : (s.modArray c f).store = s.store := rfl
@[simp] theorem State.modArray_power (c : CoreId) (f : ArrayUnit → ArrayUnit) : (s.modArray c f).power = s.power := rfl
@[simp] theorem State.modArray_work (c : CoreId) (f : ArrayUnit → ArrayUnit) : (s.modArray c f).work = s.work := rfl
@[simp] theorem State.modArray_draws (c : CoreId) (f : ArrayUnit → ArrayUnit) : (s.modArray c f).draws = s.draws := rfl
@[simp] theorem State.part_modArray (c : CoreId) (f : ArrayUnit → ArrayUnit) (x : PartId) : (s.modArray c f).part x = s.part x := rfl
@[simp] theorem State.port_modArray (c : CoreId) (f : ArrayUnit → ArrayUnit) (x : PortId) : (s.modArray c f).port x = s.port x := rfl
@[simp] theorem State.link_modArray (c : CoreId) (f : ArrayUnit → ArrayUnit) (x : LinkId) : (s.modArray c f).link x = s.link x := rfl

theorem State.core_modQueue (c x : CoreId) (q : QueueId) (f : Queue → Queue) :
    (s.modQueue c q f).core x =
      if x = c then { s.core c with queues := (s.core c).queues.set q (f ((s.core c).queue q)) } else s.core x :=
  s.core_modCore c _ x

theorem State.core_flag (c x : CoreId) (f : FmtFlags) :
    (s.flag c f).core x = if x = c then { s.core c with flags := (s.core c).flags ||| f } else s.core x :=
  s.core_modCore c _ x

/-! Words of core memory (R205, R207, R237). -/

theorem Memory.wf_iff (m : Memory) : m.wf = true ↔ smWf m.mem = true ∧ smWf m.flips = true := by
  simp [Memory.wf]

/-- Every write keeps the canonical form. -/
theorem Memory.write_wf {m : Memory} (h : m.wf = true) (a : Nat) (w : MWord) : (m.write a w).wf = true := by
  rw [Memory.wf_iff] at h ⊢
  exact ⟨smSet_wf h.1 a w, smSet_wf h.2 a 0⟩

/-- A word reads as it was last written. -/
theorem Memory.peek_write_same {m : Memory} (h : m.wf = true) (a : Nat) (w : MWord) : (m.write a w).peek a = w := by
  rw [Memory.wf_iff] at h
  unfold Memory.peek Memory.write
  simp only [smGet_smSet h.1, smGet_smSet h.2, if_true]

/-- A write leaves every other word alone. -/
theorem Memory.peek_write_other {m : Memory} (h : m.wf = true) {a b : Nat} (w : MWord) (hb : b ≠ a) :
    (m.write a w).peek b = m.peek b := by
  rw [Memory.wf_iff] at h
  unfold Memory.peek Memory.write
  simp only [smGet_smSet h.1, smGet_smSet h.2, hb, if_false]

theorem State.core_poke (c x : CoreId) (a : Nat) (w : MWord) :
    (s.poke c a w).core x = if x = c then { s.core c with memory := (s.core c).memory.write a w } else s.core x :=
  s.core_modMem c x _

theorem State.peek_poke_same (c : CoreId) (a : Nat) (w : MWord) (h : (s.core c).memory.wf = true) :
    (s.poke c a w).peek c a = w := by
  unfold State.peek
  rw [s.core_poke, if_pos rfl]
  exact Memory.peek_write_same h a w

theorem State.peek_poke_other (c x : CoreId) (a b : Nat) (w : MWord) (h : (s.core c).memory.wf = true)
    (hx : (x, b) ≠ (c, a)) : (s.poke c a w).peek x b = s.peek x b := by
  unfold State.peek
  rw [s.core_poke]
  split
  · rename_i e
    subst e
    exact Memory.peek_write_other h w (fun e => hx (by rw [e]))
  · rfl

theorem State.poke_memoriesWf {s : State} (h : s.memoriesWf) (c : CoreId) (a : Nat) (w : MWord) :
    (s.poke c a w).memoriesWf := by
  intro x
  rw [s.core_poke]
  split
  · exact Memory.write_wf (h c) a w
  · exact h x

theorem State.pokeMany_memoriesWf (c : CoreId) :
    ∀ (ws : List MWord) (s : State) (a : Nat), s.memoriesWf → (s.pokeMany c a ws).memoriesWf
  | [], _, _, h => h
  | w :: t, _, a, h => State.pokeMany_memoriesWf c t _ (a + 1) (State.poke_memoriesWf h c a w)

theorem State.wr_memoriesWf {s : State} (h : s.memoriesWf) (x : Wr) : (s.wr x).memoriesWf := by
  unfold State.wr
  split <;> exact State.poke_memoriesWf h _ _ _

theorem State.wrAll_memoriesWf {s : State} (h : s.memoriesWf) (xs : List Wr) : (s.wrAll xs).memoriesWf := by
  unfold State.wrAll
  induction xs generalizing s with
  | nil => exact h
  | cons x t ih => exact ih (State.wr_memoriesWf h x)

end Sys2Proof.Machine
end

