-- ==== Sys2Proof/Laws/Issue.lean ====
section
/-! SUPPORT. What presenting an instruction at the head of its queue can do, said once (R102, R128, R131, R209,
R213, R262, R266). -/

namespace Sys2Proof.Machine

variable {s : State} {q : QueueId} {op : BitVec 8} {i : Issue} {plan : State → Todo}

/-! Lists of words. -/

/-- Nothing to read and nothing to write: no group is asleep and no word is bad. -/
@[simp] theorem State.asleep_nil : s.asleep [] = none := rfl
@[simp] theorem State.firstBad_nil : s.firstBad [] = none := rfl
@[simp] theorem State.corrections_nil : s.corrections [] = s := rfl

/-- The groups of a list of words are all ON. -/
theorem State.asleep_eq_none {ws : List (CoreId × Nat)} :
    s.asleep ws = none ↔ ∀ x ∈ ws, (s.core x.1).memory.bgState[(s.core x.1).memory.group x.2] = 0 := by
  simp [State.asleep, List.find?_eq_none]

/-- No word of a list is uncorrectable. -/
theorem State.firstBad_eq_none {ws : List (CoreId × Nat)} :
    s.firstBad ws = none ↔ ∀ x ∈ ws, (s.core x.1).memory.check x.2 ≠ .bad := by
  simp [State.firstBad, List.find?_eq_none]

theorem State.asleep_append {a b : List (CoreId × Nat)} :
    s.asleep (a ++ b) = none ↔ s.asleep a = none ∧ s.asleep b = none := by
  simp only [State.asleep_eq_none, List.mem_append, or_imp, forall_and]

theorem State.firstBad_append {a b : List (CoreId × Nat)} :
    s.firstBad (a ++ b) = none ↔ s.firstBad a = none ∧ s.firstBad b = none := by
  simp only [State.firstBad_eq_none, List.mem_append, or_imp, forall_and]

/-! The account of the waits touches no memory. -/

theorem State.memory_modQueue (c x : CoreId) (f : Queue → Queue) :
    ((s.modQueue c q f).core x).memory = (s.core x).memory := by
  unfold State.modQueue
  rw [s.core_modCore]
  split
  · rename_i e; rw [e]
  · rfl

theorem State.memory_addStall (n : Nat) (x : CoreId) : ((s.addStall q i n).core x).memory = (s.core x).memory := by
  unfold State.addStall
  split
  · unfold State.modVec
    rw [s.core_modCore]
    split
    · rename_i e; rw [e]
    · rfl
  · rfl

theorem State.memory_addSlip (c : CoreId) (qpos : BitVec 16) (n : Nat) (limit : BitVec 16) (mark : Marks → Bool)
    (set : Marks → Marks) (x : CoreId) :
    ((s.addSlip c q qpos n limit mark set).core x).memory = (s.core x).memory := by
  unfold State.addSlip
  dsimp only
  split
  · rw [State.core_log, State.core_modCore]
    split
    · rename_i e; rw [e]; simp only [State.core_modCore, if_true]
    · rw [State.core_modCore]
      split
      · rename_i e' e; exact absurd e e'
      · rfl
  · rw [State.core_modCore]
    split
    · rename_i e; rw [e]
    · rfl

theorem State.memory_begun (x : CoreId) : ((s.begun q i).core x).memory = (s.core x).memory := by
  unfold State.begun State.waitsMet State.addWaitSlip
  split
  · exact s.memory_addStall ..
  · rw [State.memory_modQueue, State.memory_addSlip, State.memory_addStall]

@[simp] theorem State.asleep_begun (ws : List (CoreId × Nat)) : (s.begun q i).asleep ws = s.asleep ws := by
  simp only [State.asleep, State.memory_begun]

@[simp] theorem State.firstBad_begun (ws : List (CoreId × Nat)) : (s.begun q i).firstBad ws = s.firstBad ws := by
  simp only [State.firstBad, State.memory_begun]

/-! Plans. -/

/-- Words read first that are ready and correctable lead to the end of the plan. -/
theorem State.runPlanFrom_last : ∀ (t : Todo) (s : State) (seen soft : List (CoreId × Nat)),
    s.asleep t.first = none → s.firstBad t.first = none →
    State.runPlanFrom q op i seen soft t s = State.runPlanFrom q op i (seen ++ t.first) (soft ++ t.soft) t.last s
  | .need r t, s, seen, soft, ha, hb => by
    obtain ⟨ha1, ha2⟩ := State.asleep_append.1 ha
    obtain ⟨hb1, hb2⟩ := State.firstBad_append.1 hb
    rw [State.runPlanFrom, ha1]
    simp only [hb1]
    rw [State.runPlanFrom_last t s _ _ ha2 hb2]
    simp only [Todo.first, Todo.soft, Todo.last, List.append_assoc]
  | .stream r t, s, seen, soft, ha, hb => by
    rw [State.runPlanFrom, State.runPlanFrom_last t s _ _ ha hb]
    simp only [Todo.first, Todo.soft, Todo.last, List.append_assoc]
  | .reject r, s, seen, soft, _, _ => by simp only [Todo.first, Todo.soft, Todo.last, List.append_nil]
  | .wait f, s, seen, soft, _, _ => by simp only [Todo.first, Todo.soft, Todo.last, List.append_nil]
  | .run a b d e, s, seen, soft, _, _ => by simp only [Todo.first, Todo.soft, Todo.last, List.append_nil]

/-! Presentation. -/

/-- A queue that may not issue leaves everything as it is. -/
theorem State.present_blocked (h : s.canPresent i.core q = false) : s.present q op i plan = s := by
  simp [State.present, h]

/-- An unmet wait holds the instruction at the head (R262). -/
theorem State.present_waits (h : s.canPresent i.core q = true) (hw : (s.core i.core).waits i.hdr = false) :
    s.present q op i plan = (s.addStall q i i.stalled).headWaits q op i 2 := by
  simp [State.present, h, hw]

theorem State.present_ready (h : s.Ready q i) : s.present q op i plan = (s.begun q i).runPlan q op i (plan s) := by
  simp [State.present, h.1, h.2]

/-- Every outcome of a plan. -/
theorem State.runPlanFrom_cases : ∀ (t : Todo) (s : State) (seen soft : List (CoreId × Nat)),
    let r := State.runPlanFrom q op i seen soft t s
    (∃ ws n, r = (s.corrections ws).rejectAt q i n) ∨ (∃ noted : State → State, r = (noted s).headWaits q op i 3) ∨
    (∃ x, r = (s.holdAt (fun g => .instr i.core q g.val) x).headWaits q op i 3) ∨
    (∃ ws x, r = s.readFault q i ws x) ∨
    (∃ (reads soft : List (CoreId × Nat)) (due : State → Until) (eff : State → State), r =
      (let u := ((s.corrections (reads ++ soft)).wakeAll soft).unhold q i.core
       eff (u.issued q op i (due u)) : State))
  | .reject n, s, seen, _ => .inl ⟨seen, n, rfl⟩
  | .wait f, s, _, _ => .inr (.inl ⟨f, rfl⟩)
  | .need r t, s, seen, soft => by
    dsimp only
    rw [State.runPlanFrom]
    split
    · rename_i x _; exact .inr (.inr (.inl ⟨x, rfl⟩))
    · split
      · rename_i x _; exact .inr (.inr (.inr (.inl ⟨_, x, rfl⟩)))
      · exact State.runPlanFrom_cases t s _ _
  | .stream r t, s, seen, soft => State.runPlanFrom_cases t s _ _
  | .run reads writes due eff, s, _, soft => by
    dsimp only
    rw [State.runPlanFrom]
    split
    · rename_i x _; exact .inr (.inr (.inl ⟨x, rfl⟩))
    · split
      · rename_i x _; exact .inr (.inr (.inr (.inl ⟨_, x, rfl⟩)))
      · exact .inr (.inr (.inr (.inr ⟨reads, soft, due, eff, rfl⟩)))

/-- Every outcome of a presentation. -/
theorem State.present_cases :
    let r := s.present q op i plan
    let b := s.begun q i
    r = s ∨ r = (s.addStall q i i.stalled).headWaits q op i 2 ∨
    (∃ ws n, r = (b.corrections ws).rejectAt q i n) ∨ (∃ noted : State → State, r = (noted b).headWaits q op i 3) ∨
    (∃ x, r = (b.holdAt (fun g => .instr i.core q g.val) x).headWaits q op i 3) ∨
    (∃ ws x, r = b.readFault q i ws x) ∨
    (∃ (reads soft : List (CoreId × Nat)) (due : State → Until) (eff : State → State), r =
      (let u := ((b.corrections (reads ++ soft)).wakeAll soft).unhold q i.core
       eff (u.issued q op i (due u)) : State)) := by
  dsimp only
  unfold State.present
  split
  · exact .inl rfl
  · split
    · exact .inr (.inl rfl)
    · exact .inr (.inr (State.runPlanFrom_cases (plan s) (s.begun q i) [] []))

/-- The words that a plan reads before its end is known are ready and correctable. -/
theorem State.present_last (h : s.Ready q i) (ha : s.asleep (plan s).first = none)
    (hb : s.firstBad (plan s).first = none) :
    s.present q op i plan =
      State.runPlanFrom q op i (plan s).first (plan s).soft (plan s).last (s.begun q i) := by
  rw [State.present_ready h, State.runPlan, State.runPlanFrom_last _ _ _ _ (by simpa) (by simpa)]
  rfl

/-- A plan that rejects stops the queue (R128). -/
theorem State.present_reject (h : s.Ready q i) {r : Nat} (hp : plan s = .reject r) :
    s.present q op i plan = (s.begun q i).rejectAt q i r := by
  rw [State.present_ready h, hp]; rfl

/-- What a plan that runs does, after the corrections of its reads and the issue's own marks. -/
def State.ran (s : State) (q : QueueId) (op : BitVec 8) (i : Issue) (reads soft : List (CoreId × Nat))
    (due : State → Until) (eff : State → State) : State :=
  let u := (((s.begun q i).corrections (reads ++ soft)).wakeAll soft).unhold q i.core
  eff (u.issued q op i (due u))

/-- A plan that runs has its effect. -/
theorem State.present_runs (h : s.Ready q i) (ha : s.asleep (plan s).first = none)
    (hb : s.firstBad (plan s).first = none) {reads writes : List (CoreId × Nat)} {due : State → Until}
    {eff : State → State} (hp : (plan s).last = .run reads writes due eff) (ha' : s.asleep (reads ++ writes) = none)
    (hb' : s.firstBad (reads ++ (plan s).soft) = none) :
    s.present q op i plan = s.ran q op i reads (plan s).soft due eff := by
  rw [State.present_last h ha hb, hp, State.runPlanFrom]
  simp only [State.asleep_begun, ha', State.firstBad_begun, hb']
  rfl

/-- An uncorrectable word among the reads is contained (R209). -/
theorem State.present_bad (h : s.Ready q i) (ha : s.asleep (plan s).first = none)
    (hb : s.firstBad (plan s).first = none) {reads writes : List (CoreId × Nat)} {due : State → Until}
    {eff : State → State} (hp : (plan s).last = .run reads writes due eff) (ha' : s.asleep (reads ++ writes) = none)
    {x : CoreId × Nat} (hb' : s.firstBad (reads ++ (plan s).soft) = some x) :
    s.present q op i plan = (s.begun q i).readFault q i (reads ++ (plan s).soft) x := by
  rw [State.present_last h ha hb, hp, State.runPlanFrom]
  simp only [State.asleep_begun, ha', State.firstBad_begun, hb']

/-- A touched group that is not ON holds the instruction and wakes (R213). -/
theorem State.present_asleep (h : s.Ready q i) (ha : s.asleep (plan s).first = none)
    (hb : s.firstBad (plan s).first = none) {reads writes : List (CoreId × Nat)} {due : State → Until}
    {eff : State → State} (hp : (plan s).last = .run reads writes due eff) {x : CoreId × Nat}
    (ha' : s.asleep (reads ++ writes) = some x) :
    s.present q op i plan =
      ((s.begun q i).holdAt (fun g => .instr i.core q g.val) x).headWaits q op i 3 := by
  rw [State.present_last h ha hb, hp, State.runPlanFrom]
  simp only [State.asleep_begun, ha']

end Sys2Proof.Machine
end

