-- ==== Sys2Proof/Laws/Frame.lean ====
section
/-! SUPPORT. What the issue of an instruction leaves as it was: everything beside the cores and the event log,
every word of memory, and of each core all but `Core.settled` sets aside. -/

namespace Sys2Proof.Machine

variable {s t u : State}

theorem State.sameOutside_refl (s : State) : s.sameOutside s := rfl

theorem State.sameOutside.trans (h : s.sameOutside t) (h' : t.sameOutside u) : s.sameOutside u := by
  unfold State.sameOutside at *
  cases s; cases t; cases u
  simp_all

theorem State.sameWords.trans (h : s.sameWords t) (h' : t.sameWords u) : s.sameWords u :=
  fun c a => (h' c a).trans (h c a)

/-- What an issue keeps. -/
structure State.issueKeeps (s t : State) : Prop where
  outside : s.sameOutside t
  settled : ∀ x : CoreId, (t.core x).settled = (s.core x).settled
  draws : t.draws = s.draws

theorem State.issueKeeps.refl (s : State) : s.issueKeeps s := ⟨rfl, fun _ => rfl, rfl⟩

theorem State.issueKeeps.trans (h : s.issueKeeps t) (h' : t.issueKeeps u) : s.issueKeeps u :=
  ⟨h.outside.trans h'.outside, fun x => (h'.settled x).trans (h.settled x), h'.draws.trans h.draws⟩

theorem State.issueKeeps_modCore (s : State) (c : CoreId) (f : Core → Core)
    (h : (f (s.core c)).settled = (s.core c).settled) : s.issueKeeps (s.modCore c f) := by
  refine ⟨rfl, fun x => ?_, rfl⟩
  rw [s.core_modCore]
  split
  · rename_i e; rw [e, h]
  · rfl

theorem State.issueKeeps_modQueue (s : State) (c : CoreId) (q : QueueId) (f : Queue → Queue)
    (h : (f ((s.core c).queue q)).loaded = ((s.core c).queue q).loaded) : s.issueKeeps (s.modQueue c q f) := by
  refine s.issueKeeps_modCore c _ ?_
  have hq : ((s.core c).queues.set q (f ((s.core c).queue q))).map Queue.loaded = (s.core c).queues.map Queue.loaded := by
    ext n hn : 1
    simp only [Vector.getElem_map, Vector.getElem_set]
    split
    · rename_i e; subst e; exact h
    · rfl
  simp only [Core.settled, hq]

theorem State.issueKeeps_log (s : State) (n : Nat) (src : BitVec 16) (a b c d : Nat) :
    s.issueKeeps (s.log n src a b c d) := by
  refine ⟨?_, fun x => by simp, by simp⟩
  obtain ⟨e, he, _⟩ := s.log_eq n src a b c d
  rw [he]; rfl

theorem State.issueKeeps_addSlip (s : State) (c : CoreId) (q : QueueId) (qpos : BitVec 16) (n : Nat)
    (limit : BitVec 16) (mark : Marks → Bool) (set : Marks → Marks) :
    s.issueKeeps (s.addSlip c q qpos n limit mark set) := by
  unfold State.addSlip
  refine State.issueKeeps.trans (s.issueKeeps_modCore c (fun k => { k with slip := satAdd k.slip n }) rfl) ?_
  dsimp only
  split
  · exact State.issueKeeps.trans (State.issueKeeps_modCore _ c _ rfl) (State.issueKeeps_log _ ..)
  · exact .refl _

theorem Queue.loaded_arrive (k : Queue) (n : Nat) (f : MWord × Nat → Bool) : (k.arrive n f).loaded = k.loaded := by
  unfold Queue.arrive
  split <;> rfl

theorem Queue.loaded_pass (k : Queue) (n : Nat) : (k.pass n).loaded = k.loaded := by
  unfold Queue.pass
  split
  · exact k.loaded_arrive ..
  · rfl

/-- What the issue of an instruction marks leaves the settled state alone. -/
theorem State.issueKeeps_issued (s : State) (q : QueueId) (op : BitVec 8) (i : Issue) (due : Until) :
    s.issueKeeps (s.issued q op i due) := by
  unfold State.issued
  dsimp only
  refine State.issueKeeps.trans ?_ (State.issueKeeps_modCore _ i.core _ rfl)
  refine State.issueKeeps.trans ?_ (State.issueKeeps_modQueue _ _ _ _ (Queue.loaded_pass ..))
  split
  · exact State.issueKeeps_modCore _ i.core _ rfl
  · exact .refl _

theorem State.issueKeeps_addStall (s : State) (q : QueueId) (i : Issue) (n : Nat) :
    s.issueKeeps (s.addStall q i n) := by
  unfold State.addStall
  split
  · exact State.issueKeeps_modCore _ i.core _ rfl
  · exact .refl _

theorem State.issueKeeps_begun (s : State) (q : QueueId) (i : Issue) : s.issueKeeps (s.begun q i) := by
  have h := s.issueKeeps_addStall q i i.stalled
  unfold State.begun State.waitsMet State.addWaitSlip
  split
  · exact h
  · refine h.trans ?_
    exact State.issueKeeps.trans (State.issueKeeps_addSlip ..) (State.issueKeeps_modQueue _ _ _ _ rfl)

theorem State.issueKeeps_headWaits (s : State) (q : QueueId) (op : BitVec 8) (i : Issue) (st : BitVec 3) :
    s.issueKeeps (s.headWaits q op i st) := State.issueKeeps_modQueue _ _ _ _ rfl

theorem State.issueKeeps_foldl {α : Type} (f : State → α → State)
    (h : ∀ (s : State) (x : α), s.issueKeeps (f s x)) :
    ∀ (l : List α) (s : State), s.issueKeeps (l.foldl f s)
  | [], s => .refl s
  | x :: l, s => State.issueKeeps.trans (h s x) (State.issueKeeps_foldl f h l _)

theorem State.issueKeeps_unhold (s : State) (q : QueueId) (c : CoreId) : s.issueKeeps (s.unhold q c) := by
  unfold State.unhold
  refine State.issueKeeps_foldl _ (fun s x => ?_) _ s
  split
  · exact .refl _
  · exact State.issueKeeps_modCore s x _ rfl

theorem State.issueKeeps_corrected (s : State) (c : CoreId) (a : Nat) (syms : List (Nat × Nat)) (b : Bool) :
    s.issueKeeps (s.corrected c a syms b) := by
  unfold State.corrected
  dsimp only
  split
  · exact State.issueKeeps_modCore s c _ rfl
  · refine State.issueKeeps.trans (State.issueKeeps.trans ?_ (State.issueKeeps_modCore _ c _ rfl))
      (State.issueKeeps_log ..)
    exact State.issueKeeps_modCore s c _ rfl

theorem State.issueKeeps_corrections :
    ∀ (l : List (CoreId × Nat)) (s : State), s.issueKeeps (s.corrections l)
  | [], s => .refl s
  | (c, a) :: l, s => by
    unfold State.corrections
    refine State.issueKeeps.trans ?_ (State.issueKeeps_corrections l _)
    split
    · exact State.issueKeeps_corrected s c a _ false
    · exact .refl _

/-- The state on which an instruction has its effect: its waits, its corrections, its holds and its marks are
behind it. -/
def State.started (s : State) (q : QueueId) (op : BitVec 8) (i : Issue) (reads : List (CoreId × Nat))
    (due : State → Until) : State :=
  let u := ((s.begun q i).corrections reads).unhold q i.core
  u.issued q op i (due u)

theorem State.issueKeeps_started (s : State) (q : QueueId) (op : BitVec 8) (i : Issue) (reads : List (CoreId × Nat))
    (due : State → Until) : s.issueKeeps (s.started q op i reads due) :=
  State.issueKeeps.trans (s.issueKeeps_begun q i) (State.issueKeeps.trans (State.issueKeeps_corrections reads _)
    (State.issueKeeps.trans (State.issueKeeps_unhold _ q i.core) (State.issueKeeps_issued ..)))

/-! What the settled core shows. -/

theorem Core.settled_mem {k k' : Core} (h : k'.settled = k.settled) :
    k'.memory.mem = k.memory.mem ∧ k'.memory.flips = k.memory.flips ∧ k'.memory.cmode = k.memory.cmode := by
  have := congrArg Core.memory h
  simp only [Core.settled, Memory.mk.injEq] at this
  exact ⟨this.1, this.2.1, by tauto⟩

theorem Core.settled_array {k k' : Core} (h : k'.settled = k.settled) : k'.array = k.array := by
  have := congrArg Core.array h
  exact this

theorem Core.settled_peek {k k' : Core} (h : k'.settled = k.settled) (a : Nat) :
    k'.memory.peek a = k.memory.peek a := by
  obtain ⟨h1, h2, h3⟩ := Core.settled_mem h
  simp only [Memory.peek, h1, h2, h3]

theorem Core.settled_wf {k k' : Core} (h : k'.settled = k.settled) : k'.memory.wf = k.memory.wf := by
  obtain ⟨h1, h2, _⟩ := Core.settled_mem h
  simp only [Memory.wf, h1, h2]

theorem State.issueKeeps.peek (h : s.issueKeeps t) (c : CoreId) (a : Nat) : t.peek c a = s.peek c a :=
  Core.settled_peek (h.settled c) a

theorem State.issueKeeps.words (h : s.issueKeeps t) : s.sameWords t := fun c a => h.peek c a

theorem State.issueKeeps.memoriesWf (h : s.issueKeeps t) (w : s.memoriesWf) : t.memoriesWf :=
  fun c => (Core.settled_wf (h.settled c)).trans (w c)

theorem State.issueKeeps.part (h : s.issueKeeps t) (p : PartId) : t.part p = s.part p := by
  have := congrArg State.parts h.outside
  simp only at this
  simp only [State.part, this]

/-! A presentation that runs. -/

theorem State.groupsOn_asleep {ws : List (CoreId × Nat)} (h : s.groupsOn ws) : s.asleep ws = none :=
  State.asleep_eq_none.2 h

theorem State.readable_firstBad {ws : List (CoreId × Nat)} (h : s.readable ws) : s.firstBad ws = none :=
  State.firstBad_eq_none.2 h

/-- A presentation that nothing holds has its plan's effect on a state that keeps the settled state. -/
theorem State.present_started {q : QueueId} {op : BitVec 8} {i : Issue} {plan : State → Todo} (h : s.Ready q i)
    (hf : s.groupsOn (plan s).first) (hf' : s.readable (plan s).first) (hs : (plan s).soft = [])
    {reads writes : List (CoreId × Nat)} {due : State → Until} {eff : State → State}
    (hp : (plan s).last = .run reads writes due eff) (hg : s.groupsOn (reads ++ writes)) (hr : s.readable reads) :
    s.present q op i plan = eff (s.started q op i reads due) := by
  rw [State.present_runs h (State.groupsOn_asleep hf) (State.readable_firstBad hf') hp (State.groupsOn_asleep hg)
    (by simpa [hs] using State.readable_firstBad hr), hs]
  simp only [State.ran, List.append_nil, State.wakeAll]
  rfl

end Sys2Proof.Machine
end

