-- ==== Sys2Proof/Laws/Vector.lean ====
section
/-! SUPPORT. The laws of vector, mask and scalar registers (R98 to R101). -/

namespace Sys2Proof.Machine

/-! Elements of a register. -/

def packElems (w : Nat) (es : List Nat) : Nat := es.foldr (fun e acc => e % 2 ^ w + acc <<< w) 0

theorem packElems_elem (w : Nat) : ∀ (es : List Nat) (e : Nat),
    packElems w es >>> (w * e) % 2 ^ w = es.getD e 0 % 2 ^ w
  | [], e => by simp [packElems]
  | x :: t, 0 => by
    simp [packElems, Nat.shiftLeft_eq, Nat.add_mul_mod_self_right]
  | x :: t, e + 1 => by
    have h : packElems w (x :: t) >>> (w * (e + 1)) = packElems w t >>> (w * e) := by
      rw [Nat.mul_succ, Nat.add_comm, Nat.shiftRight_add]
      congr 1
      simp only [packElems, List.foldr_cons, Nat.shiftLeft_eq, Nat.shiftRight_eq_div_pow]
      rw [Nat.add_mul_div_right _ _ (Nat.two_pow_pos w), Nat.div_eq_of_lt (Nat.mod_lt _ (Nat.two_pow_pos w)),
        Nat.zero_add]
    rw [h, packElems_elem w t e]
    simp

/-- Element `e` of a register built from elements. -/
theorem elemOf_regOf {w : Nat} (es : List Nat) {e : Nat} (h : w * e + w ≤ 2048) :
    elemOf (regOf w es) w e = es.getD e 0 % 2 ^ w := by
  rw [← packElems_elem w es e]
  unfold elemOf regOf
  rw [BitVec.toNat_ofNat]
  generalize hx : (List.foldr (fun e acc => e % 2 ^ w + acc <<< w) 0 es) = x
  have hp : packElems w es = x := hx
  rw [hp]
  apply Nat.eq_of_testBit_eq
  intro i
  rw [Nat.testBit_mod_two_pow, Nat.testBit_mod_two_pow, Nat.testBit_shiftRight, Nat.testBit_shiftRight]
  by_cases hi : i < w
  · have : w * e + i < 2048 := by omega
    rw [Nat.testBit_mod_two_pow]
    simp [hi, this]
  · simp [hi]

theorem elemOf_lt (x : BitVec 2048) (w e : Nat) : elemOf x w e < 2 ^ w := Nat.mod_lt _ (Nat.two_pow_pos w)

/-- Element `e` of a merged register (R101). -/
theorem elemOf_merge {w : Nat} (old : BitVec 2048) (m : BitVec 256) (mz : Bool) (res : Nat → Nat) {e : Nat}
    (he : e < 2048 / w) : elemOf (merge old w m mz res) w e =
      if m.getLsbD e then res e % 2 ^ w else if mz then 0 else elemOf old w e := by
  have h : w * e + w ≤ 2048 := by
    have h1 : w * (e + 1) ≤ w * (2048 / w) := Nat.mul_le_mul_left w he
    have h2 : w * (2048 / w) ≤ 2048 := Nat.mul_div_le 2048 w
    calc w * e + w = w * (e + 1) := by ring
      _ ≤ 2048 := h1.trans h2
  unfold merge
  rw [elemOf_regOf _ h]
  simp only [List.getD_eq_getElem?_getD, List.getElem?_map, List.getElem?_range he, Option.map_some, Option.getD_some]
  split
  · rfl
  · split
    · simp
    · exact Nat.mod_eq_of_lt (elemOf_lt _ _ _)

/-! Registers. -/

@[simp] theorem VectorUnit.vreg_setV_self (u : VectorUnit) (n : BitVec 5) (x : BitVec 2048) :
    (u.setV n x).vreg n = x := by
  simp [VectorUnit.vreg, VectorUnit.setV]

theorem VectorUnit.vreg_setV_ne (u : VectorUnit) {n m : BitVec 5} (x : BitVec 2048) (h : m ≠ n) :
    (u.setV n x).vreg m = u.vreg m := by
  have : n.toNat ≠ m.toNat := fun e => h (BitVec.eq_of_toNat_eq e.symm)
  simp [VectorUnit.vreg, VectorUnit.setV, this]

@[simp] theorem VectorUnit.mask_setV (u : VectorUnit) (n : BitVec 5) (x : BitVec 2048) (m : BitVec 3) :
    (u.setV n x).mask m = u.mask m := rfl
@[simp] theorem VectorUnit.scalar_setV (u : VectorUnit) (n : BitVec 5) (x : BitVec 2048) (m : BitVec 4) :
    (u.setV n x).scalar m = u.scalar m := rfl

/-- P0 reads as all ones. -/
@[simp] theorem VectorUnit.mask_zero (u : VectorUnit) : u.mask 0 = BitVec.allOnes 256 := rfl
/-- S0 reads as 0. -/
@[simp] theorem VectorUnit.scalar_zero (u : VectorUnit) : u.scalar 0 = 0 := rfl
/-- P0 is never written. -/
@[simp] theorem VectorUnit.setP_zero (u : VectorUnit) (x : BitVec 256) : u.setP 0 x = u := rfl
/-- S0 is never written. -/
@[simp] theorem VectorUnit.setS_zero (u : VectorUnit) (x : BitVec 32) : u.setS 0 x = u := rfl

theorem VectorUnit.mask_setP_self (u : VectorUnit) {n : BitVec 3} (x : BitVec 256) (h : n ≠ 0) :
    (u.setP n x).mask n = x := by
  unfold VectorUnit.mask VectorUnit.setP
  rw [if_neg h, if_neg h]
  exact Vector.getElem_set_self ..

theorem VectorUnit.scalar_setS_self (u : VectorUnit) {n : BitVec 4} (x : BitVec 32) (h : n ≠ 0) :
    (u.setS n x).scalar n = x := by
  unfold VectorUnit.scalar VectorUnit.setS
  rw [if_neg h, if_neg h]
  exact Vector.getElem_set_self ..

end Sys2Proof.Machine
end

