-- ==== Sys2Proof/Laws/Engine.lean ====
section
/-! SUPPORT. What an engine's instruction does when nothing holds it, said once for each shape of plan. -/

namespace Sys2Proof.Machine

/-- What the settled core shows of the vector registers. -/
theorem Core.settled_vec {k k' : Core} (h : k'.settled = k.settled) :
    k'.vec.v = k.vec.v ∧ k'.vec.p = k.vec.p ∧ k'.vec.r = k.vec.r := by
  have := congrArg Core.vec h
  simp only [Core.settled, VectorUnit.mk.injEq] at this
  exact ⟨this.1, this.2.1, this.2.2.1⟩

theorem State.core_modVec_self (s : State) (c : CoreId) (f : VectorUnit → VectorUnit) :
    (s.modVec c f).core c = { s.core c with vec := f (s.core c).vec } := by
  simp [State.modVec]

/-- A register operation that is not rejected. -/
theorem State.present_vop {s : State} {op : BitVec 8} {i : Issue} {o : VOp} {rej} {eff : VectorUnit → VectorUnit × FmtFlags}
    (h : s.Ready qVec i) (hr : firstReason (vopCommon o ++ rej) = none) :
    ∃ t u', s.present qVec op i (fun _ => vopTodo o i rej eff) = t ∧
      u'.v = (s.core i.core).vec.v ∧ u'.p = (s.core i.core).vec.p ∧ u'.r = (s.core i.core).vec.r ∧
      s.sameOutside t ∧ s.otherCores t i.core ∧
      (t.core i.core).vec = (eff u').1 ∧
      (t.core i.core).settled =
        { s.core i.core with vec := (eff u').1, flags := (s.core i.core).flags ||| (eff u').2 : Core }.settled := by
  have hp : vopTodo o i rej eff = Todo.run [] [] (fun _ => .now) (fun s =>
      let (u, fl) := eff (s.core i.core).vec
      (s.modVec i.core (fun _ => u)).flag i.core fl) := by
    simp only [vopTodo, hr]
  rw [State.present_started (plan := fun _ => vopTodo o i rej eff) (reads := []) (writes := []) h
    (by rw [hp]; intro x hx; cases hx) (by rw [hp]; intro x hx; cases hx) (by rw [hp]; rfl) (by rw [hp]; rfl)
    (by intro x hx; cases hx) (by intro x hx; cases hx)]
  have hk := State.issueKeeps_started s qVec op i [] (fun _ => Until.now)
  generalize s.started qVec op i [] (fun _ => Until.now) = u at hk
  have hs := hk.settled i.core
  obtain ⟨h1, h2, h3⟩ := Core.settled_vec hs
  refine ⟨_, (u.core i.core).vec, rfl, h1, h2, h3, ?_, ?_, ?_, ?_⟩
  · exact hk.outside.trans rfl
  · intro x hx
    dsimp only
    simp only [State.flag, State.modVec, State.core_modCore, if_neg hx]
    exact hk.settled x
  · simp [State.flag, State.modVec]
  · simp only [State.flag, State.modVec, State.core_modCore, if_true]
    have := hs
    simp only [Core.settled, Core.mk.injEq] at this ⊢
    simp_all

end Sys2Proof.Machine
end

