-- ==== Sys2Proof/Laws/Fields.lean ====
section
/-! SUPPORT. The laws of words built from fields: a field that no other one meets reads as what was put into
it, and bits that no field names read as zero. -/

namespace Sys2Proof.Machine

theorem getLsbD_wordSetField (w : MWord) (lo n v k : Nat) :
    (wordSetField w lo n v).getLsbD k =
      (decide (k < 256) && (if lo ≤ k ∧ k < lo + n then v.testBit (k - lo) else w.getLsbD k)) := by
  unfold wordSetField
  by_cases hk : k < 256
  · simp only [BitVec.getLsbD_or, BitVec.getLsbD_and, BitVec.getLsbD_not, BitVec.getLsbD_shiftLeft,
      BitVec.getLsbD_ofNat, Nat.testBit_mod_two_pow, Nat.testBit_two_pow_sub_one]
    by_cases h1 : lo ≤ k
    · have h4 : k - lo < 256 := by omega
      have h5 : (k - lo < n) ↔ (k < lo + n) := by omega
      have h6 : ¬ k < lo := by omega
      by_cases h2 : k < lo + n <;> simp only [hk, h1, h2, h4, h5, h6] <;> simp
    · have h6 : k < lo := by omega
      simp only [hk, h1, h6]; simp
  · rw [BitVec.getLsbD_of_ge _ _ (Nat.le_of_not_lt hk)]; simp [hk]

/-- A bit that no later field covers keeps its value. -/
theorem getLsbD_setFields_free {k : Nat} (hk : k < 256) :
    ∀ (fs : List (Nat × Nat × Nat)) (w : MWord),
      (∀ f ∈ fs, ¬ (f.1 ≤ k ∧ k < f.1 + f.2.1)) → (setFields w fs).getLsbD k = w.getLsbD k
  | [], _, _ => rfl
  | (lo, n, v) :: t, w, h => by
    have h1 := h (lo, n, v) (List.mem_cons_self ..)
    rw [setFields, getLsbD_setFields_free hk t _ (fun f hf => h f (List.mem_cons_of_mem _ hf)),
      getLsbD_wordSetField]
    simp [hk, h1]

/-- Two fields share no bit. -/
def fieldsApart (a b : Nat × Nat) : Bool := decide (a.1 + a.2 ≤ b.1 ∨ b.1 + b.2 ≤ a.1)

/-- The fields of a list share no bit with one another, and lie in the word. -/
def placesApart : List (Nat × Nat) → Bool
  | [] => true
  | a :: t => t.all (fieldsApart a) && decide (a.1 + a.2 ≤ 256) && placesApart t

def placesOf (fs : List (Nat × Nat × Nat)) : List (Nat × Nat) := fs.map (fun f => (f.1, f.2.1))

/-- A bit of a field among fields that lie apart is that of its value. -/
theorem getLsbD_setFields_mem {lo n v k : Nat} (hk : lo ≤ k ∧ k < lo + n) :
    ∀ (fs : List (Nat × Nat × Nat)) (w : MWord), placesApart (placesOf fs) = true → (lo, n, v) ∈ fs →
      (setFields w fs).getLsbD k = v.testBit (k - lo)
  | [], _, _, h => by cases h
  | (lo', n', v') :: t, w, hp, hm => by
    simp only [placesOf, List.map_cons, placesApart, Bool.and_eq_true, List.all_eq_true, decide_eq_true_eq] at hp
    obtain ⟨⟨hall, hfit⟩, ht⟩ := hp
    rw [setFields]
    rcases List.mem_cons.1 hm with he | he
    · cases he
      have hfree : ∀ f ∈ t, ¬ (f.1 ≤ k ∧ k < f.1 + f.2.1) := by
        intro f hf hc
        have := hall (f.1, f.2.1) (List.mem_map.2 ⟨f, hf, rfl⟩)
        simp only [fieldsApart, decide_eq_true_eq] at this
        omega
      rw [getLsbD_setFields_free (by omega) t _ hfree, getLsbD_wordSetField]
      simp [hk, show k < 256 by omega]
    · exact getLsbD_setFields_mem hk t _ ht he

/-- A field reads as its value. -/
theorem extract_setFields {fs : List (Nat × Nat × Nat)} (hp : placesApart (placesOf fs) = true)
    {lo n : Nat} {x : BitVec n} (hm : (lo, n, x.toNat) ∈ fs) : (setFields 0 fs).extractLsb' lo n = x := by
  apply BitVec.eq_of_getLsbD_eq
  intro i hi
  rw [BitVec.getLsbD_extractLsb', getLsbD_setFields_mem (by omega) fs 0 hp hm]
  simp [hi, BitVec.getLsbD]

theorem getLsbD_setFields_bool {fs : List (Nat × Nat × Nat)} (hp : placesApart (placesOf fs) = true)
    {lo : Nat} {b : Bool} (hm : (lo, 1, b.toNat) ∈ fs) : (setFields 0 fs).getLsbD lo = b := by
  rw [getLsbD_setFields_mem (by omega) fs 0 hp hm]
  cases b <;> simp

/-- Bits that no field covers read as zero. -/
theorem wordField_setFields_free {fs : List (Nat × Nat × Nat)} {lo n : Nat} (hn : lo + n ≤ 256)
    (h : (placesOf fs).all (fieldsApart (lo, n)) = true) : wordField (setFields 0 fs) lo n = 0 := by
  unfold wordField
  apply Nat.eq_of_testBit_eq
  intro i
  rw [Nat.testBit_mod_two_pow, Nat.testBit_shiftRight, Nat.zero_testBit]
  by_cases hi : i < n
  · have hfree : ∀ f ∈ fs, ¬ (f.1 ≤ lo + i ∧ lo + i < f.1 + f.2.1) := by
      intro f hf hc
      have := (List.all_eq_true.1 h) (f.1, f.2.1) (List.mem_map.2 ⟨f, hf, rfl⟩)
      simp only [fieldsApart, decide_eq_true_eq] at this
      omega
    have := getLsbD_setFields_free (show lo + i < 256 by omega) fs 0 hfree
    simp only [BitVec.getLsbD] at this
    simpa [hi] using this
  · simp [hi]

/-- A field reads as its number. -/
theorem wordField_setFields {fs : List (Nat × Nat × Nat)} (hp : placesApart (placesOf fs) = true)
    {lo n v : Nat} (hv : v < 2 ^ n) (hm : (lo, n, v) ∈ fs) : wordField (setFields 0 fs) lo n = v := by
  unfold wordField
  apply Nat.eq_of_testBit_eq
  intro i
  rw [Nat.testBit_mod_two_pow, Nat.testBit_shiftRight]
  by_cases hi : i < n
  · have := getLsbD_setFields_mem (k := lo + i) (by omega) fs 0 hp hm
    simp only [BitVec.getLsbD, Nat.add_sub_cancel_left] at this
    simpa [hi] using this
  · have : v.testBit i = false := Nat.testBit_lt_two_pow (lt_of_lt_of_le hv (Nat.pow_le_pow_right (by omega) (by omega)))
    simp [hi, this]

end Sys2Proof.Machine
end

