-- ==== Sys2Proof/Laws/Stop.lean ====
section
/-! SUPPORT. The stop of a step (R209, R363, R409): what it does to its partition, to the partition's cores and
to the requests of the step, and what it leaves alone. -/

namespace Sys2Proof.Machine

/-! Lists of numbered things. -/

theorem alGet_alSet {α : Type} (l : List (Nat × α)) (n m : Nat) (v : α) :
    alGet (alSet l n v) m = if n = m then some v else alGet l m := by
  unfold alSet
  by_cases h : n = m
  · simp [alGet, h]
  · simp only [alGet, h, if_false, List.find?_cons, alDel, beq_eq_false_iff_ne.2 h, List.find?_filter]
    congr 2
    funext x
    by_cases hx : x.1 = m
    · simpa [hx] using fun e : m = n => h e.symm
    · simp [hx]

/-! Requests of a stopped step (R409). -/

/-- Whether a slot holds a request that ended with a status. -/
def Part.endedWith (k : Part) (n st : Nat) : Prop :=
  ∃ r, alGet k.slots n = some r ∧ r.state = .done ∧ r.status = st

theorem Part.done_endedWith (k : Part) (now : BitVec 64) (n : Nat) (r : Request) (st : Nat) (drop : Bool) :
    (k.done now n r st drop).endedWith n st := by
  refine ⟨{ r with state := .done, status := st, out := if drop then [] else r.out.take r.vis,
                   prompt := [], pend := none, doneTime := now }, ?_, rfl, rfl⟩
  simp only [Part.done, alGet_alSet, if_true]

theorem Part.endedWith_done {k : Part} {m st : Nat} (h : k.endedWith m st) (now : BitVec 64) (n : Nat) (r : Request)
    (drop : Bool) : (k.done now n r st drop).endedWith m st := by
  by_cases e : n = m
  · subst e; exact k.done_endedWith now n r st drop
  · obtain ⟨x, hx, h1, h2⟩ := h
    refine ⟨x, ?_, h1, h2⟩
    simp only [Part.done, alGet_alSet, e, if_false, hx]

theorem Part.finishAll_keeps (now : BitVec 64) (st m : Nat) :
    ∀ (l : List (Nat × Request)) (k : Part), k.endedWith m st → (k.finishAll now st l).endedWith m st
  | [], _, h => h
  | (n, r) :: t, k, h => by
    unfold Part.finishAll
    apply Part.finishAll_keeps now st m t
    split
    · exact Part.endedWith_done h now n r _
    · exact h

/-- Every ACTIVE or CANCELLING request of a list ends with the status. -/
theorem Part.finishAll_ends (now : BitVec 64) (st : Nat) {n : Nat} {r : Request}
    (hr : r.state = .active ∨ r.state = .cancelling) :
    ∀ (l : List (Nat × Request)) (k : Part), (n, r) ∈ l → (k.finishAll now st l).endedWith n st
  | [], _, h => by cases h
  | x :: t, k, h => by
    unfold Part.finishAll
    rcases List.mem_cons.1 h with e | e
    · subst e
      apply Part.finishAll_keeps
      simp only [hr, if_true]
      exact Part.done_endedWith ..
    · exact Part.finishAll_ends now st hr t _ e

theorem Part.done_state (k : Part) (now : BitVec 64) (n : Nat) (r : Request) (st : Nat) (drop : Bool) :
    (k.done now n r st drop) = { k with slots := (k.done now n r st drop).slots } := rfl

theorem Part.finishAll_eq (now : BitVec 64) (st : Nat) : ∀ (l : List (Nat × Request)) (k : Part),
    k.finishAll now st l = { k with slots := (k.finishAll now st l).slots }
  | [], _ => rfl
  | (n, r) :: t, k => by
    unfold Part.finishAll
    rw [Part.finishAll_eq now st t]
    split <;> rfl

theorem Part.charge_eq (k : Part) (t : BitVec 16) (n : Nat) :
    k.charge t n = { k with budgets := (k.charge t n).budgets } := by
  unfold Part.charge
  dsimp only
  split <;> rfl

theorem Part.chargeAll_eq : ∀ (l : List Entry) (k : Part), k.chargeAll l = { k with budgets := (k.chargeAll l).budgets }
  | [], _ => rfl
  | e :: t, k => by
    unfold Part.chargeAll
    rw [Part.chargeAll_eq t]
    split
    · rfl
    · rw [Part.charge_eq]

theorem Part.chargeAll_slots (l : List Entry) (k : Part) : (k.chargeAll l).slots = k.slots := by
  rw [Part.chargeAll_eq]

/-- The stop of a step in progress ends every request of the step with the status. -/
theorem Part.stop_ends (k : Part) (now : BitVec 64) (st cause : Nat) (hs : k.stepping = true) {n : Nat} {r : Request}
    (h : (n, r) ∈ k.slots) (hr : r.state = .active ∨ r.state = .cancelling) : (k.stop now st cause).endedWith n st := by
  unfold Part.stop
  simp only [hs, true_or, if_true, Part.abandon]
  exact Part.finishAll_ends now st hr k.slots (k.chargeAll k.stepEntries) h

/-- What the stop of a step leaves in the partition. -/
theorem Part.stop_fields (k : Part) (now : BitVec 64) (st cause : Nat) :
    (k.stop now st cause).state = 1 ∧ (k.stop now st cause).cause = BitVec.ofNat 4 cause ∧
    (k.stop now st cause).stepping = false := ⟨rfl, rfl, rfl⟩

/-! The cores of the partition. -/

theorem mem_coresOf {p : PartId} {c : CoreId} : c ∈ coresOf p ↔ partOf c = p := by
  simp [coresOf]

theorem State.core_halt_foldl (x : CoreId) : ∀ (l : List CoreId) (s : State), l.Nodup →
    ((l.foldl (fun s c => s.modCore c Core.halt) s).core x) = if x ∈ l then (s.core x).halt else s.core x
  | [], s, _ => by simp
  | c :: l, s, h => by
    obtain ⟨h1, h2⟩ := List.nodup_cons.1 h
    rw [List.foldl_cons, State.core_halt_foldl x l _ h2, s.core_modCore]
    by_cases e : x = c
    · subst e; simp [h1]
    · simp [e]

theorem State.halt_foldl_outside : ∀ (l : List CoreId) (s : State),
    (l.foldl (fun s c => s.modCore c Core.halt) s) =
      { s with cores := (l.foldl (fun s c => s.modCore c Core.halt) s).cores }
  | [], _ => rfl
  | c :: l, s => by
    rw [List.foldl_cons, State.halt_foldl_outside l]
    rfl

theorem State.respond_eq (s : State) (h : PortId) (x : BitVec 32) (r : Resp) :
    s.respond h x r = { s with ports := (s.respond h x r).ports } := rfl

theorem State.respondAll_eq (op : BitVec 16) (st : Nat) (b : List Byte) :
    ∀ (l : List (PortId × BitVec 32 × BitVec 32)) (s : State),
      s.respondAll op st b l = { s with ports := (s.respondAll op st b l).ports }
  | [], _ => rfl
  | (h, x, q) :: l, s => by
    unfold State.respondAll
    rw [State.respondAll_eq op st b l, State.respond_eq]

section
variable (op : BitVec 16) (st : Nat) (b : List Byte) (l : List (PortId × BitVec 32 × BitVec 32)) (s : State)

@[simp] theorem State.core_respondAll (x : CoreId) : (s.respondAll op st b l).core x = s.core x := by
  rw [State.respondAll_eq]; rfl
@[simp] theorem State.part_respondAll (x : PartId) : (s.respondAll op st b l).part x = s.part x := by
  rw [State.respondAll_eq]; rfl
@[simp] theorem State.respondAll_evlog : (s.respondAll op st b l).evlog = s.evlog := by
  rw [State.respondAll_eq]

end

theorem coresOf_nodup (p : PartId) : (coresOf p).Nodup := (List.nodup_finRange 96).filter _

/-- The cores of a partition, each halted. -/
def State.halted (s : State) (p : PartId) : State := (coresOf p).foldl (fun s c => s.modCore c Core.halt) s

theorem State.core_halted (s : State) (p : PartId) (x : CoreId) :
    (s.halted p).core x = if partOf x = p then (s.core x).halt else s.core x := by
  rw [State.halted, State.core_halt_foldl x _ s (coresOf_nodup p)]
  simp only [mem_coresOf]

theorem State.halted_eq (s : State) (p : PartId) : s.halted p = { s with cores := (s.halted p).cores } :=
  State.halt_foldl_outside _ s

@[simp] theorem State.part_halted (s : State) (p q : PartId) : (s.halted p).part q = s.part q := by
  rw [State.halted_eq]; rfl
@[simp] theorem State.halted_evlog (s : State) (p : PartId) : (s.halted p).evlog = s.evlog := by
  rw [State.halted_eq]

/-- The stop of a step in progress, as one expression. -/
theorem State.stopStep_active (s : State) (p : PartId) (st cause : Nat)
    (h : (s.part p).state = 3 ∨ (s.part p).state = 4) :
    s.stopStep p st cause =
      ((s.halted p).setPart p { (s.part p).stop s.time st cause with stops := [] }).respondAll 0x30 stOK [1]
        (s.part p).stops := by
  have ht : (s.halted p).time = s.time := by rw [State.halted_eq]
  unfold State.stopStep
  simp only [h, if_true]
  rw [State.halted] at ht
  rw [ht]
  rfl

theorem State.stopStep_idle (s : State) (p : PartId) (st cause : Nat)
    (h : ¬ ((s.part p).state = 3 ∨ (s.part p).state = 4)) : s.stopStep p st cause = s := by
  unfold State.stopStep
  simp only [h, if_false]

/-- The core after the stop of a step of its partition, or of another one. -/
theorem State.core_stopStep (s : State) (p : PartId) (st cause : Nat) (x : CoreId) :
    (s.stopStep p st cause).core x =
      if ((s.part p).state = 3 ∨ (s.part p).state = 4) ∧ partOf x = p then (s.core x).halt else s.core x := by
  by_cases h : (s.part p).state = 3 ∨ (s.part p).state = 4
  · rw [State.stopStep_active s p st cause h, State.core_respondAll, State.core_setPart, State.core_halted]
    simp only [h, true_and]
  · rw [State.stopStep_idle s p st cause h]
    simp only [h, false_and, if_false]

/-- A partition after the stop of a step. -/
theorem State.part_stopStep (s : State) (p q : PartId) (st cause : Nat)
    (h : (s.part p).state = 3 ∨ (s.part p).state = 4) :
    (s.stopStep p st cause).part q =
      if q = p then { (s.part p).stop s.time st cause with stops := [] } else s.part q := by
  rw [State.stopStep_active s p st cause h, State.part_respondAll, State.part_setPart, State.part_halted]

theorem State.stopStep_evlog (s : State) (p : PartId) (st cause : Nat) :
    (s.stopStep p st cause).evlog = s.evlog := by
  by_cases h : (s.part p).state = 3 ∨ (s.part p).state = 4
  · rw [State.stopStep_active s p st cause h, State.respondAll_evlog, State.setPart_evlog, State.halted_evlog]
  · rw [State.stopStep_idle s p st cause h]

/-- Words of memory are left alone. -/
theorem State.peek_stopStep (s : State) (p : PartId) (st cause : Nat) (c : CoreId) (a : Nat) :
    (s.stopStep p st cause).peek c a = s.peek c a := by
  unfold State.peek
  rw [State.core_stopStep]
  split <;> rfl

end Sys2Proof.Machine
end

