-- ==== Sys2Proof/Laws/Stores.lean ====
section
/-! SUPPORT. What a list of writes stores (R205, R210), and what the effect of a storing instruction leaves as it
was. -/

namespace Sys2Proof.Machine

variable {s t u : State}

theorem wrInsert_words : ∀ (l : List Wr) (x : Wr), wrWords (wrInsert l x) =
    if (x.core, x.addr) ∈ wrWords l then wrWords l else wrWords l ++ [(x.core, x.addr)]
  | [], x => by simp [wrInsert, wrWords]
  | y :: l, x => by
    unfold wrInsert
    by_cases h : y.core = x.core ∧ y.addr = x.addr
    · simp [h, wrWords]
    · rw [if_neg h]
      have hne : (x.core, x.addr) ≠ (y.core, y.addr) := fun e => h ⟨(Prod.mk.inj e).1.symm, (Prod.mk.inj e).2.symm⟩
      have ih := wrInsert_words l x
      unfold wrWords at ih ⊢
      rw [List.map_cons, ih, List.map_cons]
      by_cases hm : (x.core, x.addr) ∈ List.map (fun w => (w.core, w.addr)) l
      · rw [if_pos hm, if_pos (List.mem_cons_of_mem _ hm)]
      · rw [if_neg hm, if_neg (by rw [List.mem_cons]; rintro (e | e) <;> contradiction)]; rfl

theorem wrInsert_nodup {l : List Wr} (h : (wrWords l).Nodup) (x : Wr) : (wrWords (wrInsert l x)).Nodup := by
  rw [wrInsert_words]
  split
  · exact h
  · rename_i hx
    exact List.nodup_append.2 ⟨h, by simp, fun a ha b hb => by simp at hb; subst hb; rintro rfl; exact hx ha⟩

theorem foldl_wrInsert_nodup : ∀ (ws l : List Wr), (wrWords l).Nodup → (wrWords (ws.foldl wrInsert l)).Nodup
  | [], _, h => h
  | x :: ws, _, h => foldl_wrInsert_nodup ws _ (wrInsert_nodup h x)

/-- The writes of an instruction touch each word once. -/
theorem wrJoin_nodup (ws : List Wr) : (wrWords (wrJoin ws)).Nodup :=
  foldl_wrInsert_nodup ws [] (by simp [wrWords])

theorem State.wr_eq (s : State) (x : Wr) :
    s.wr x = s.poke x.core x.addr ((s.peek x.core x.addr &&& ~~~x.mask) ||| (x.data &&& x.mask)) := by
  unfold State.wr
  split
  · rename_i h
    have h0 : ~~~(~~~(0 : MWord)) = 0 := by decide
    have h1 : ∀ y : MWord, y &&& ~~~(0 : MWord) = y := fun y => BitVec.and_allOnes
    have h2 : ∀ y z : MWord, y &&& (0 : MWord) ||| z = z := fun y z => by
      rw [show y &&& (0 : MWord) = 0 from BitVec.and_zero]; exact BitVec.zero_or
    rw [h, h0, h1, h2]
  · rfl

theorem State.peek_wr_same (x : Wr) (h : s.memoriesWf) : (s.wr x).peek x.core x.addr =
    (s.peek x.core x.addr &&& ~~~x.mask) ||| (x.data &&& x.mask) := by
  rw [State.wr_eq, s.peek_poke_same _ _ _ (h _)]

theorem State.peek_wr_other (x : Wr) (h : s.memoriesWf) {c : CoreId} {a : Nat} (hx : (c, a) ≠ (x.core, x.addr)) :
    (s.wr x).peek c a = s.peek c a := by
  rw [State.wr_eq]
  exact s.peek_poke_other _ _ _ _ _ (h _) hx

theorem State.peek_wrAll_other : ∀ (ws : List Wr) (s : State), s.memoriesWf → ∀ (c : CoreId) (a : Nat),
    (c, a) ∉ wrWords ws → (s.wrAll ws).peek c a = s.peek c a
  | [], _, _, _, _, _ => rfl
  | x :: ws, s, h, c, a, hx => by
    simp only [wrWords, List.map_cons, List.mem_cons, not_or] at hx
    exact (State.peek_wrAll_other ws (s.wr x) (State.wr_memoriesWf h x) c a hx.2).trans
      (State.peek_wr_other x h hx.1)

/-- Writes to words that are all different are all made, and every other word is as it was. -/
theorem State.stored_wrAll : ∀ (ws : List Wr) (s : State), s.memoriesWf → (wrWords ws).Nodup → s.stored (s.wrAll ws) ws
  | [], s, _, _ => And.intro (fun _ hw => (by cases hw)) (fun _ _ _ => rfl)
  | x :: ws, s, h, hn => by
    simp only [wrWords, List.map_cons, List.nodup_cons] at hn
    obtain ⟨h1, h2⟩ := State.stored_wrAll ws (s.wr x) (State.wr_memoriesWf h x) hn.2
    refine ⟨fun w hw => ?_, fun c a hx => State.peek_wrAll_other (x :: ws) s h c a hx⟩
    rcases List.mem_cons.1 hw with rfl | hw
    · exact (State.peek_wrAll_other ws _ (State.wr_memoriesWf h w) _ _ hn.1).trans (State.peek_wr_same w h)
    · have hx : (w.core, w.addr) ≠ (x.core, x.addr) := fun e => hn.1 (e ▸ List.mem_map.2 ⟨w, hw, rfl⟩)
      exact (h1 w hw).trans (by rw [State.peek_wr_other x h hx])

/-- What a store keeps: everything beside the words of memories. -/
structure State.storeKeeps (s t : State) : Prop where
  outside : s.sameOutside t
  beside : ∀ x : CoreId, (t.core x).besideWords = (s.core x).besideWords

theorem State.storeKeeps.refl (s : State) : s.storeKeeps s := ⟨rfl, fun _ => rfl⟩

theorem State.storeKeeps.trans (h : s.storeKeeps t) (h' : t.storeKeeps u) : s.storeKeeps u :=
  ⟨h.outside.trans h'.outside, fun x => (h'.beside x).trans (h.beside x)⟩

theorem State.issueKeeps.storeKeeps (h : s.issueKeeps t) : s.storeKeeps t :=
  ⟨h.outside, fun x => by unfold Core.besideWords; rw [h.settled x]⟩

theorem State.storeKeeps_poke (s : State) (c : CoreId) (a : Nat) (w : MWord) : s.storeKeeps (s.poke c a w) := by
  refine ⟨rfl, fun x => ?_⟩
  rw [State.core_poke]
  split
  · rename_i e; rw [e]; rfl
  · rfl

theorem State.storeKeeps_wrAll : ∀ (ws : List Wr) (s : State), s.storeKeeps (s.wrAll ws)
  | [], s => .refl s
  | x :: ws, s => State.storeKeeps.trans (by rw [State.wr_eq]; exact State.storeKeeps_poke ..)
      (State.storeKeeps_wrAll ws (s.wr x))

theorem State.storeKeeps_pokeMany (c : CoreId) : ∀ (ws : List MWord) (a : Nat) (s : State),
    s.storeKeeps (s.pokeMany c a ws)
  | [], _, s => .refl s
  | w :: ws, a, s => State.storeKeeps.trans (State.storeKeeps_poke s c a w) (State.storeKeeps_pokeMany c ws (a + 1) _)

/-- Words written from an address upward read as they were written, and every other word as before. -/
theorem State.peek_pokeMany (c : CoreId) : ∀ (ws : List MWord) (a : Nat) (s : State), s.memoriesWf →
    ∀ (x : CoreId) (b : Nat), (s.pokeMany c a ws).peek x b =
      if x = c ∧ a ≤ b ∧ b < a + ws.length then ws.getD (b - a) 0 else s.peek x b
  | [], a, s, _, x, b => by
    rw [if_neg (by simp only [List.length_nil]; omega)]; rfl
  | w :: ws, a, s, h, x, b => by
    show ((s.poke c a w).pokeMany c (a + 1) ws).peek x b = _
    rw [State.peek_pokeMany c ws (a + 1) _ (State.poke_memoriesWf h c a w)]
    by_cases hx : x = c
    · subst hx
      by_cases hb : b = a
      · subst hb
        rw [if_neg (by omega), if_pos (by simp), s.peek_poke_same _ _ _ (h _)]
        simp
      · rw [s.peek_poke_other _ _ _ _ _ (h _) (by simp [hb])]
        by_cases h1 : a + 1 ≤ b ∧ b < a + 1 + ws.length
        · rw [if_pos ⟨rfl, h1⟩, if_pos ⟨rfl, by omega, by simp; omega⟩]
          have : b - a = (b - (a + 1)) + 1 := by omega
          rw [this]; simp
        · rw [if_neg (by simp; omega), if_neg (by simp; omega)]
    · rw [if_neg (by simp [hx]), if_neg (by simp [hx]), s.peek_poke_other _ _ _ _ _ (h _) (by simp [hx])]

end Sys2Proof.Machine
end

