-- ==== Sys2Proof/WellFormed.lean ====
section
/-! DEFINITION. The checks on a command's operands that their types do not make: a packet's payload is as
long as LENGTH says (R323) and its KIND is that of its row (R324), a flit's body is 244 bytes (R281), a
list is no longer than the frame that carries it, a name of a core or of a clock group stands once. What a
command answers with a status of R433 (a bad partition, an offset past an object) is no matter of form. -/

namespace Sys2Proof

/-- KIND of a packet's header is `k`, and LENGTH is the number of its payload words, at most 128 (R323,
R324). -/
def Packet.wellFormed (p : Packet) (k : Nat) : Bool :=
  decide (p.hdr.toNat >>> 41 % 8 = k) && decide (p.hdr.toNat >>> 56 % 256 = p.payload.length) &&
  decide (p.payload.length ≤ 128)

/-- A packet of a KIND that carries no payload (R324). -/
def Packet.wellFormedEmpty (p : Packet) (k : Nat) : Bool := p.wellFormed k && p.payload.isEmpty

/-- A list of 2-byte numbers whose count a body gives in 2 bytes. -/
def countFits {α : Type} (l : List α) : Bool := decide (l.length < 65536)

/-- The four pools of each kind in a PARAM flit, and a link number of R11 (R289). -/
def ParamMsg.wellFormed (m : ParamMsg) : Bool :=
  m.data.length == 4 && m.hdrs.length == 4 && decide (m.link.toNat < 24)

/-- A record of a configuration function keeps the form of R455: at most 256 triples, at most 8,180 image
bytes, and a count of entries that 2 bytes hold. -/
def CfgRecord.wellFormed (r : CfgRecord) : Bool :=
  match r with
  | .regs triples => decide (triples.length ≤ 256)
  | .route _ entries => countFits entries
  | .image _ bytes => decide (bytes.length ≤ 8180)
  | .owner _ _ _ _ _ => true
  | .hostKey _ _ => true
  | .chip _ _ _ => true
  | .part _ _ _ _ _ _ _ => true
  | .safety _ => true
  | .autoload _ _ _ => true

/-- The form of a command's operands. -/
def Instr.wellFormed (i : Instr) : Bool :=
  match i with
  | .pass _ _ h => h.feed.all (fun x => decide (0 < x.len)) && h.drain.all (fun x => decide (0 < x.len))
  | .accout _ _ | .ewise _ _ | .ffence _ => true
  | .vld _ _ | .vst _ _ | .vxld _ _ | .vcst _ _ | .mld _ _ | .mst _ _ => true
  | .vadd _ _ | .vsub _ _ | .vmul _ _ | .vfma _ _ | .vmax _ _ | .vmin _ _ | .vsplat _ _ => true
  | .vand _ _ | .vor _ _ | .vxor _ _ | .vshl _ _ | .vshr _ _ | .vsra _ _ | .vcmp _ _ | .vsel _ _ => true
  | .vcvt _ _ | .vsfu _ _ | .vred _ _ | .vcomp _ _ | .vexpd _ _ | .mop _ _ | .sop _ _ => true
  | .nsmax _ _ | .nnorm _ _ | .dgather _ _ | .dscatter _ _ | .dslot _ _ | .tile _ _ | .adown _ _ | .aup _ _ => true
  | .kappend _ _ | .kcommit _ _ | .kdiscard _ _ | .khash _ _ | .kfind _ _ | .kref _ _ => true
  | .tcopy _ _ | .tsend _ _ | .tget _ _ | .twin _ _ | .tdrain _ _ => true
  | .mstream _ _ | .mreduce _ _ | .msend _ _ | .batom _ _ | .bcount _ _ | .bcmp _ _ => true
  | .instrComplete _ _ _ | .arrayRampDown _ | .scrubRead _ _ | .correctedWriteback _ _ => true
  | .bgReqOn _ _ | .bgReqRetention _ _ | .bgReqOff _ _ | .bgEnterState _ _ | .bgWakeDone _ _ => true
  | .rxWrite p | .sheepdogWrite p => p.wellFormed 0
  | .rxWriteAck p => p.wellFormedEmpty 1
  | .rxReadReq p => p.wellFormedEmpty 2
  | .rxReadResp p => p.wellFormed 3
  | .rxMuleRows p => p.wellFormed 4
  | .rxDrain _ _ p => p.wellFormedEmpty 5
  | .rxNotice p => p.wellFormedEmpty 6
  | .remoteTimeout _ _ | .windowHoldTimeout _ _ | .mreduceTimeout _ _ => true
  | .barrierTimeout _ _ | .watchdogExpiry _ _ => true
  | .stepEnd _ | .waitingToRunning _ | .partitionIdleSleep _ | .partitionWakeDone _ _ | .dvfsPointWrite _ _ => true
  | .railRampDone _ | .thermalLevelChange _ _ _ | .throttleCapStep | .emergencyExit => true
  | .txFlitSlot _ | .stagingBufferEnter _ _ | .rxIdleFlit _ _ _ => true
  | .rxDataFlit _ _ _ body => body.length == 244
  | .rxNak _ _ _ seqs => decide (1 ≤ seqs.length) && decide (seqs.length ≤ 120)
  | .rxGoback _ _ _ _ => true
  | .rxParam _ _ _ m _ => m.wellFormed
  | .rxResetFlit _ _ _ width _ => width == 8 || width == 4 || width == 2
  | .rxLeave _ _ _ | .rxDown _ _ _ _ | .rxHold _ _ _ _ | .replayTimeout _ | .nakRepeatTimer _ => true
  | .lockLost _ | .lockRegained _ | .lockDownTimeout _ | .linkDetectPeer _ | .linkTrainDone _ _ _ => true
  | .linkAlignDone _ | .linkStateTimeout _ | .downRetrainTimer _ | .planMissingTimeout _ => true
  | .gracefulDrainDone _ | .groupPllLocked _ | .linkEnable _ | .linkDisable _ => true
  | .rtePlanWrite _ _ _ | .rteTableWrite _ _ _ _ => true
  | .hostModeWrite _ _ | .hostPtpEnWrite _ | .hostEnableWrite _ _ => true
  | .identify f | .attest f _ _ | .sessionOpen f _ _ _ _ => countFits f.sig
  | .cfgStage _ r => r.wellFormed
  | .progPatch _ _ pairs => countFits pairs
  | .routeStage _ _ _ entries => countFits entries
  | .regRead _ _ _ | .regWrite _ _ _ _ | .cfgCommit _ _ _ | .partStop _ _ _ | .partStart _ _ => true
  | .progLoad _ _ _ | .submit _ _ _ | .cancel _ _ | .query _ _ _ _ _ | .results _ _ _ _ _ => true
  | .budgetSet _ _ _ _ _ _ _ _ | .adapterLoad _ _ _ | .routeSwitch _ | .linkReset _ _ _ _ _ => true
  | .linkLeave _ _ | .hotplugPrepare _ _ | .lockstepPair _ _ _ _ _ _ => true
  | .recordStart _ _ _ _ _ | .recordStop _ _ _ _ _ | .sctAckFrame _ => true
  | .arpRequest _ _ | .neighbourSolicit _ _ | .ptpSync _ _ _ _ _ _ | .ptpFollowUp _ _ _ _ => true
  | .ptpDelayResp _ _ _ _ | .ptpSyncTimeout | .sessionIdleTimeout _ _ | .loadObjectTimeout => true
  | .promptPartTimeout _ _ | .doneHoldExpiry _ _ | .dropLateDeadline _ _ | .budgetRefill => true
  | .hostC0TokenRefill _ | .helloResend _ | .helloTimeout _ => true
  | .rxLsRecords _ recs => decide (recs.length ≤ 255)
  | .rxLsHello _ _ _ _ | .rxLsHalt _ _ _ | .rxLsBatch _ _ | .lsRecordFlush _ | .lsTimeout _ _ _ => true
  | .journalCompaction | .eventLogEntry | .powerApplied => true
  | .coldStart _ _ cores groups => decide cores.Nodup && decide groups.Nodup
  | .powerLoss | .resetNAssert | .resetNRelease | .attnNLow | .hotplugStopTimeout | .hotplugReady => true
  | .i2cRead _ | .bypass _ | .idcode | .samplePreload _ | .extest | .chiprd _ | .otherFrame _ _ _ _ _ => true
  | .pcsAligned _ | .pcsAlignmentLost _ | .journalEraseDone | .inputReturnsInRange => true

end Sys2Proof
end

