-- ==== Sys2Proof/Tests/Slice0.lean ====
section
/-! SUPPORT. The model's own tests: ill-formed commands are refused, words and steps worked out by hand from the
manual, and a state that meets the hypotheses of every statement. -/

namespace Sys2Proof.Tests

open Sys2Proof.Machine Sys2Proof.Machine.Claims

set_option maxRecDepth 20000
set_option Elab.async false

/-! ### Well-formedness: a term that each check refuses, beside one that it takes -/

/-- A packet header with KIND and LENGTH alone (R323). -/
def pkt (kind len : Nat) (ws : List MWord) : Packet := { hdr := BitVec.ofNat 256 (kind <<< 41 ||| len <<< 56), payload := ws }

theorem test_wf_hold_length : (Instr.pass { core := 0 } {} { feed := [⟨0, 0, 0⟩] }).wellFormed = false ∧
    (Instr.pass { core := 0 } {} { feed := [⟨0, 0, 1⟩] }).wellFormed = true := by decide
theorem test_wf_drain_length : (Instr.pass { core := 0 } {} { drain := [⟨0, 3, 0⟩] }).wellFormed = false := by decide
theorem test_wf_packet_kind : (Instr.rxWrite (pkt 2 0 [])).wellFormed = false ∧
    (Instr.rxWrite (pkt 0 1 [7])).wellFormed = true := by decide
theorem test_wf_packet_length : (Instr.rxReadResp (pkt 3 2 [7])).wellFormed = false := by decide
theorem test_wf_packet_too_long : (Instr.rxMuleRows (pkt 4 129 (List.replicate 129 0))).wellFormed = false := by decide +kernel
theorem test_wf_packet_no_payload : (Instr.rxReadReq (pkt 2 1 [7])).wellFormed = false ∧
    (Instr.rxNotice (pkt 6 0 [])).wellFormed = true := by decide
theorem test_wf_flit_body : (Instr.rxDataFlit 0 {} {} [0]).wellFormed = false := by decide
theorem test_wf_nak_empty : (Instr.rxNak 0 {} {} []).wellFormed = false ∧ (Instr.rxNak 0 {} {} [5]).wellFormed = true := by
  decide
theorem test_wf_nak_too_long : (Instr.rxNak 0 {} {} (List.replicate 121 0)).wellFormed = false := by decide +kernel
theorem test_wf_param_pools : (Instr.rxParam 0 {} {} {} 0).wellFormed = false := by decide
theorem test_wf_param_link : (Instr.rxParam 0 {} {} { data := [0, 0, 0, 0], hdrs := [0, 0, 0, 0], link := 24 } 0).wellFormed =
    false ∧ (Instr.rxParam 0 {} {} { data := [0, 0, 0, 0], hdrs := [0, 0, 0, 0], link := 23 } 0).wellFormed = true := by decide
theorem test_wf_reset_width : (Instr.rxResetFlit 0 {} {} 3 5).wellFormed = false ∧
    (Instr.rxResetFlit 0 {} {} 4 5).wellFormed = true := by decide
theorem test_wf_signature_length (l : List Byte) (h : l.length = 65536) :
    (Instr.identify { port := 0, sig := l }).wellFormed = false := by simp [Instr.wellFormed, countFits, h]
theorem test_wf_regs_record : (Instr.cfgStage { port := 0, session := 1, seq := 1, tag := 0 }
    (.regs (List.replicate 257 (0, 0, 0)))).wellFormed = false := by decide +kernel
theorem test_wf_image_record (l : List Byte) (h : l.length = 8181) :
    (CfgRecord.image 0 l).wellFormed = false := by simp [CfgRecord.wellFormed, h]
theorem test_wf_patch_pairs (f : Frame) (l : List (BitVec 32 × BitVec 32)) (h : l.length = 65536) :
    (Instr.progPatch f 0 l).wellFormed = false := by simp [Instr.wellFormed, countFits, h]
theorem test_wf_route_entries (f : Frame) (l : List (BitVec 16)) (h : l.length = 65536) :
    (Instr.routeStage f 0 true l).wellFormed = false := by simp [Instr.wellFormed, countFits, h]
theorem test_wf_ls_records : (Instr.rxLsRecords 0 (List.replicate 256 ⟨0, 0, 0⟩)).wellFormed = false := by decide +kernel
theorem test_wf_failed_cores : (Instr.coldStart true true [3, 3] []).wellFormed = false ∧
    (Instr.coldStart true true [3, 4] []).wellFormed = true := by decide
theorem test_wf_failed_groups : (Instr.coldStart true true [] [1, 1]).wellFormed = false := by decide

/-- The table gives no row any bits (its `fields` are empty). -/
theorem test_table_word : decodeTableWord 8 0 = none := rfl

/-! ### The engines -/

/-- Partition 0 is RUNNING with a step in progress, and every domain is ON. -/
def ready : State :=
  { State.reset with
    parts := State.reset.parts.set 0 { state := 3, stepping := true, sleepState := 0 }
    domains := Vector.replicate 148 0, chipId := 5, chip := { State.reset.chip with step := 12 } }

def i0 : Issue := { core := 0 }

/-- The outcome is a next state with a property. -/
def gives (o : Out) (p : State → Bool) : Bool :=
  match o with
  | .next t => p t
  | _ => false

/-- A plan that runs with these reads and writes. -/
def runsWith (r w : List (CoreId × Nat)) : Todo → Bool
  | .run r' w' _ _ => r == r' && w == w'
  | _ => false

theorem plan_runs {t : Todo} {r w : List (CoreId × Nat)} (h : runsWith r w t = true) : ∃ d e, t = .run r w d e := by
  cases t with
  | run r' w' d e =>
    simp only [runsWith, Bool.and_eq_true, beq_iff_eq] at h
    exact ⟨d, e, by rw [h.1, h.2]⟩
  | reject _ => simp [runsWith] at h
  | wait => simp [runsWith] at h
  | need _ _ => simp [runsWith] at h
  | stream _ _ => simp [runsWith] at h

/-- `ready` with words in the memory of core 0. -/
def withMem (l : List (Nat × MWord)) : State := l.foldl (fun s x => s.poke 0 x.1 x.2) ready

/-- `ready` with another core 0. -/
def withCore (f : Core → Core) : State := ready.modCore 0 f

/-- Memory that holds no wrong bit and is ON is calm: a completion statement asks no more of it. -/
theorem calm_of {s : State}
    (h : ∀ c : CoreId, (s.core c).memory.flips = [] ∧ ∀ g : Fin 8, (s.core c).memory.bgState[g] = 0) : calm s :=
  fun c => ⟨(h c).2, fun a => by simp [Memory.check, (h c).1, smGet]⟩

theorem test_w_calm : calm ready ∧ still ready := by
  have h : ∀ c : CoreId, (ready.core c).memory.flips = [] ∧ ∀ g : Fin 8, (ready.core c).memory.bgState[g] = 0 := by
    decide +kernel
  exact ⟨calm_of h, calm_of h, by decide +kernel⟩

theorem test_ready : ∀ q : QueueId, ready.Ready q i0 := by unfold State.Ready; decide +kernel

theorem test_ready_running : running ready (partOf 0) ∧ ready.memoriesWf ∧ accsWf ready := by
  unfold running State.memoriesWf accsWf; decide +kernel

theorem test_reset_canonical : canonical State.reset ∧ State.reset.partsLegal ∧ State.reset.eventsFit := by
  unfold canonical State.memoriesWf accsWf wcOk State.partsLegal State.eventsFit; decide +kernel

/-- An instruction that waits on counter 3 for one increment. -/
def waiting : Issue := { core := 0, hdr := { w0en := true, w0ctr := 3, w0tgt := 1 } }

theorem test_unmet_wait : planOf (.ffence waiting) = some (qArray, 0x23, waiting, State.ffencePlan waiting) ∧
    ready.canPresent 0 qArray = true ∧ (ready.core 0).waits waiting.hdr = false ∧
    State.reset.canPresent 0 qArray = false := ⟨rfl, by decide +kernel, by decide +kernel, by decide +kernel⟩

/-- 2,047 increments past the target a wait still holds, at 2,048 it does not (R262). -/
theorem test_wait_half : ({ count := 2048 } : Counter).met 1 = true ∧ ({ count := 2048 } : Counter).met 0 = false := by decide

/-- RND 6 is reserved: REASON 2 (R45, R128). -/
theorem test_rejected_plan : vopTodo { rnd := 6 } i0 [] (fun u => (u, 0)) = .reject 2 := rfl

theorem test_rejection_stops : gives (exec (.vadd i0 { rnd := 6 }) ready) (fun t =>
    (t.part 0).state == 1 && (t.part 0).cause == 3 && ((t.core 0).queue qVec).state == 5) = true := by decide +kernel

/-- A word with two wrong symbols, which CMODE 1 does not correct (R206). -/
def badWord : State := withCore (fun k => { k with memory := { k.memory with flips := [(5, 0x0101)], cmode := 1 } })

theorem test_uncorrectable : badWord.Ready qVec i0 ∧ running badWord (partOf 0) ∧ badWord.firstBad [(0, 5)] = some (0, 5) ∧
    badWord.groupsOn [(0, 5)] := by unfold State.Ready running State.groupsOn; decide +kernel

theorem test_uncorrectable_plan : ∃ d e, State.mldPlan i0 { addr := 5, vr := 1 } badWord = .run [(0, 5)] [] d e :=
  plan_runs (by decide +kernel)

theorem test_uncorrectable_stops : gives (exec (.mld i0 { addr := 5, vr := 1 }) badWord) (fun t =>
    (t.part 0).cause == 2 && (t.core 0).memory.unAddr == 5 && ((t.core 0).queue qVec).state == 4) = true := by decide +kernel

/-- Group 0, which holds every word under ILV 0, is in retention. -/
def asleep : State := withCore (fun k => { k with memory := { k.memory with bgState := k.memory.bgState.set 0 1 } })

theorem test_sleeping_group : asleep.Ready qVec i0 ∧ asleep.asleep [(0, 5)] = some (0, 5) ∧
    gives (exec (.mld i0 { addr := 5, vr := 1 }) asleep) (fun t => (t.core 0).memory.bgState[0] == 3) = true := by
  unfold State.Ready; decide +kernel

theorem test_sleeping_plan : ∃ d e, State.mldPlan i0 { addr := 5, vr := 1 } asleep = .run [(0, 5)] [] d e :=
  plan_runs (by decide +kernel)

/-! Vector instructions. -/

/-- Registers V1 and V2 of core 0 hold a value in element 0, and P1 selects element 0 alone. -/
def withV (a b : BitVec 2048) : State := withCore (fun k => { k with vec := ((k.vec.setV 1 a).setV 2 b).setP 1 1 })

/-- V3 := V1 op V2 under P1. -/
def v3 (et : BitVec 4) (sat : Bool := false) (fn : BitVec 4 := 0) : VOp :=
  { et := et, va := 1, vb := 2, vc := 1, vd := 3, pm := 1, sat := sat, fn := fn }

def lane0 (t : State) : Nat := elemOf ((t.core 0).vec.vreg 3) 32 0

theorem test_w_elementwise : laneRule (.vadd i0 (v3 14)) = some (i0, v3 14, vAddSub false (v3 14)) ∧
    (withV 0x7FFFFFFF 1).Ready qVec i0 ∧ laneTakes (.vadd i0 (v3 14)) (v3 14) .int32 ∧
    laneTakes (.vshl i0 (v3 14)) (v3 14) .int32 ∧ laneTakes (.vsfu i0 (v3 0 false 8)) (v3 0 false 8) .fp32 := by
  refine ⟨rfl, ?_, ?_, ?_, ?_⟩
  · unfold State.Ready; decide +kernel
  all_goals (simp only [laneTakes]; decide +kernel)

/-- 0x7FFFFFFF + 1 wraps under SAT = 0 and clamps under SAT = 1 (R115). -/
theorem test_vadd_wraps : gives (exec (.vadd i0 (v3 14)) (withV 0x7FFFFFFF 1)) (fun t => lane0 t == 0x80000000) = true := by
  decide +kernel
theorem test_vadd_clamps : gives (exec (.vadd i0 (v3 14 true)) (withV 0x7FFFFFFF 1)) (fun t =>
    lane0 t == 0x7FFFFFFF && (t.core 0).flags != 0) = true := by decide +kernel
/-- 2 − 5 = −3; 7 × 6 = 42; 3 × 5 + 3 = 18 (VC is V1). -/
theorem test_vsub : gives (exec (.vsub i0 (v3 14)) (withV 2 5)) (fun t => lane0 t == 0xFFFFFFFD) = true := by decide +kernel
theorem test_vmul : gives (exec (.vmul i0 (v3 14)) (withV 7 6)) (fun t => lane0 t == 42) = true := by decide +kernel
theorem test_vfma : gives (exec (.vfma i0 (v3 14)) (withV 3 5)) (fun t => lane0 t == 18) = true := by decide +kernel
/-- 1.5 × 1.5 = 2.25 in FP32. -/
theorem test_vmul_float : gives (exec (.vmul i0 (v3 0)) (withV 0x3FC00000 0x3FC00000)) (fun t => lane0 t == 0x40100000) =
    true := by decide +kernel
/-- −1 is less than 1: the comparisons are signed (R115). -/
theorem test_vmax : gives (exec (.vmax i0 (v3 14)) (withV 0xFFFFFFFF 1)) (fun t => lane0 t == 1) = true := by decide +kernel
theorem test_vmin : gives (exec (.vmin i0 (v3 14)) (withV 0xFFFFFFFF 1)) (fun t => lane0 t == 0xFFFFFFFF) = true := by
  decide +kernel
theorem test_vand : gives (exec (.vand i0 (v3 14)) (withV 12 10)) (fun t => lane0 t == 8) = true := by decide +kernel
theorem test_vor : gives (exec (.vor i0 (v3 14)) (withV 12 10)) (fun t => lane0 t == 14) = true := by decide +kernel
theorem test_vxor : gives (exec (.vxor i0 (v3 14)) (withV 12 10)) (fun t => lane0 t == 6) = true := by decide +kernel
theorem test_vshl : gives (exec (.vshl i0 (v3 14)) (withV 1 31)) (fun t => lane0 t == 0x80000000) = true := by decide +kernel
theorem test_vshr : gives (exec (.vshr i0 (v3 14)) (withV 0x80000000 31)) (fun t => lane0 t == 1) = true := by decide +kernel
theorem test_vsra : gives (exec (.vsra i0 (v3 14)) (withV 0x80000000 31)) (fun t => lane0 t == 0xFFFFFFFF) = true := by
  decide +kernel
/-- A shift of a float type is rejected (R115). -/
theorem test_vshl_float : gives (exec (.vshl i0 (v3 0)) (withV 1 1)) (fun t => ((t.core 0).queue qVec).rejReason == 2) = true := by
  decide +kernel
/-- LOG2 of +0 is −∞ (R122). -/
theorem test_vsfu : gives (exec (.vsfu i0 (v3 0 false 6)) (withV 0 0)) (fun t => lane0 t == 0xFF800000) = true := by
  decide +kernel

/-- The special operands: NaN, both infinities, both zeros (R113). -/
theorem test_w_specials : (Fmt.fp32.elem.decode 0x7FC00000).isNaN = true ∧ Fmt.fp32.elem.decode 0x7F800000 = .inf false ∧
    Fmt.fp32.elem.decode 0xFF800000 = .inf true ∧ (∃ k, Fmt.fp32.elem.decode 0x80000000 = .fin true 0 k) ∧
    (∃ k, Fmt.fp32.elem.decode 0 = .fin false 0 k) ∧ regType 0 = some Fmt.fp32 ∧ Fmt.fp32.isInt = false :=
  ⟨by decide, by decide, by decide, ⟨_, rfl⟩, ⟨_, rfl⟩, by decide, by decide⟩

theorem test_w_vop : vopTakes (v3 14) .int32 ∧ regType (v3 14).srct = some .fp32 ∧ (v3 14).part.toNat < 1 := by
  unfold vopTakes; decide +kernel

theorem test_vsplat : gives (exec (.vsplat i0 { v3 14 with imm := 9 }) (withV 1 2)) (fun t => lane0 t == 9) = true := by
  decide +kernel
theorem test_vsel : gives (exec (.vsel i0 (v3 14)) (withV 1 2)) (fun t => lane0 t == 1) = true := by decide +kernel
/-- FP32 1.5 as INT32 under RND 0 is 2: ties go to even (R45, R120). -/
theorem test_vcvt : gives (exec (.vcvt i0 (v3 14)) (withV 0x3FC00000 0)) (fun t => lane0 t == 2) = true := by decide +kernel
theorem test_vcomp : gives (exec (.vcomp i0 { v3 14 with sd := 2 }) (withV 77 0)) (fun t =>
    lane0 t == 77 && (t.core 0).vec.scalar 2 == 1) = true := by decide +kernel
theorem test_vexpd : gives (exec (.vexpd i0 (v3 14)) (withV 77 0)) (fun t => lane0 t == 77) = true := by decide +kernel
/-- VCMP FN 2 is less-than (R117); the bits of inactive elements are 0. -/
theorem test_vcmp : gives (exec (.vcmp i0 { v3 14 false 2 with pd := 2 }) (withV 0xFFFFFFFF 1)) (fun t =>
    (t.core 0).vec.mask 2 == 1) = true := by decide +kernel
/-- MOP FN 4 is NOT (R118). -/
theorem test_mop : gives (exec (.mop i0 { fn := 4, pd := 2, va := 1 }) (withV 0 0)) (fun t =>
    (t.core 0).vec.mask 2 == ~~~1) = true := by decide +kernel
theorem test_sop : gives (exec (.sop i0 { fn := 1, sd := 3, sb := 0, imm := 5 }) ready) (fun t =>
    (t.core 0).vec.scalar 3 == 5) = true := by decide +kernel
theorem test_sop_zero : gives (exec (.sop i0 { fn := 0, sd := 0, imm := 5 }) ready) (fun t =>
    ((t.core 0).queue qVec).rejReason == 5) = true := by decide +kernel
/-- The sum of the one active element, as INT32 (R124). -/
theorem test_vred : gives (exec (.vred i0 (v3 14)) (withV 6 0)) (fun t => lane0 t == 6) = true := by decide +kernel

/-! Vector loads and stores. -/

/-- A load or store of INT32 or FP32 elements at word 100, V4. -/
def vm (et mfmt : BitVec 4) : VMemOp := { et := et, mfmt := mfmt, addr := 100, vr := 4 }

theorem test_w_vld : vmemTakes (withMem []) i0 (vm 14 14) 0 .int32 .int32 64 false ∧ (withMem []).Ready qVec i0 ∧
    usable (withMem [(100, 7)]) ((elemWords .int32 100 0 64).map (fun x => (0, x))) [] := by
  unfold usable State.readable State.groupsOn State.Ready; simp only [vmemTakes]; decide +kernel

theorem test_w_vld_block : vmemTakes (withMem []) i0 (vm 0 5) 0 .fp32 .mxE4m3 64 true ∧ (vm 0 5).scm.toNat < 2 := by
  simp only [vmemTakes]; decide +kernel

theorem test_vld : gives (exec (.vld i0 (vm 14 14)) (withMem [(100, 7)])) (fun t =>
    elemOf ((t.core 0).vec.vreg 4) 32 0 == 7) = true := by decide +kernel
/-- The BF16 element 0x3FC0 (1.5) becomes FP32 0x3FC00000 (R110). -/
theorem test_vld_converts : gives (exec (.vld i0 (vm 0 1)) (withMem [(100, 0x3FC0)])) (fun t =>
    elemOf ((t.core 0).vec.vreg 4) 32 0 == 0x3FC00000) = true := by decide +kernel
/-- Elements 1 and 3 are active: they take memory elements 0 and 1 (R126). -/
theorem test_vxld : gives (exec (.vxld i0 { vm 14 14 with pm := 2, soff := 3 })
    ((withMem [(100, 0x0000000900000007)]).modCore 0 (fun k => { k with vec := k.vec.setP 2 10 }))) (fun t =>
    elemOf ((t.core 0).vec.vreg 4) 32 1 == 7 && elemOf ((t.core 0).vec.vreg 4) 32 3 == 9 &&
    (t.core 0).vec.scalar 3 == 2) = true := by decide +kernel
theorem test_mld : gives (exec (.mld i0 (vm 14 14)) (withMem [(100, 6)])) (fun t => (t.core 0).vec.mask 4 == 6) = true := by
  decide +kernel
theorem test_w_vst : vmemTakes ready i0 { vm 14 14 with pm := 1 } 0 .int32 .int32 64 false ∧ ready.memoriesWf ∧
    usable (withV 0 0) (wrPartial ((withV 0 0).vstWrites 0 0 { vm 14 14 with pm := 1 } .int32 .int32).1)
      (wrWords ((withV 0 0).vstWrites 0 0 { vm 14 14 with pm := 1 } .int32 .int32).1) := by
  unfold usable State.readable State.groupsOn State.memoriesWf; simp only [vmemTakes]; decide +kernel
/-- P1 selects element 0 alone: the other seven of its word stay (R109, R210). -/
theorem test_vst : gives (exec (.vst i0 { vm 14 14 with pm := 1, vr := 1 })
    ((withV 5 0).poke 0 100 (BitVec.ofNat 256 (9 * 2 ^ 32 + 1)))) (fun t =>
    t.peek 0 100 == BitVec.ofNat 256 (9 * 2 ^ 32 + 5)) = true := by decide +kernel
theorem test_vcst : gives (exec (.vcst i0 { vm 14 14 with pm := 2, vr := 1 })
    ((withV (BitVec.ofNat 2048 (7 * 2 ^ 32)) 0).modCore 0 (fun k => { k with vec := k.vec.setP 2 2 }))) (fun t =>
    t.peek 0 100 == 7) = true := by decide +kernel
theorem test_mst : gives (exec (.mst i0 { vm 14 14 with vr := 1 }) (withV 5 0)) (fun t => t.peek 0 100 == 1) = true := by
  decide +kernel

/-! The matrix array. -/

/-- An INT8 tile with weight 3 in cell (0, 0), taken by SWAP. -/
def withTile : State := withCore (fun k => { k with
  array := { k.array with shadow := some (.tile { fmt := 11, cells := [(0, 3)] }) } })

/-- One row of INT8 activations at word 100. -/
def passOp : PassOp := { wfmt := 11, afmt := 11, len := 1, aaddr := 100, swap := true }

theorem test_w_pass : passTakes withTile i0 passOp 0 .int8 .int8 1 true ∧ withTile.Ready qArray i0 ∧ accsWf withTile ∧
    passOp.accBase.toNat + passOp.len.toNat ≤ 4096 ∧ ((withTile.core 0).array.taken passOp).1.fmt = passOp.wfmt ∧
    usable withTile (withTile.passReads 0 passOp ++ withTile.passFeeds 0 passOp) [] := by
  unfold usable State.readable State.groupsOn State.Ready accsWf; simp only [passTakes]; decide +kernel

theorem test_pass_swaps : gives (exec (.pass i0 { passOp with len := 0 } {}) withTile) (fun t =>
    (t.core 0).array.active.cells == [(0, 3)] && (t.core 0).array.shadow.isNone && (t.core 0).array.rampStep == 16) = true := by
  decide +kernel
/-- 5 × 3 on an accumulator of 100 is 115 (R53, R54). -/
theorem test_column : (columnI (fun k => if k = 0 then .fin false 5 0 else .fin false 0 0)
    { fmt := 11, cells := [(0, 3)] } .int8 0 0 100).1 = 115 := by decide +kernel
/-- R83: one hold of 20 cycles slips 20 and freezes 12. -/
theorem test_hold : slipOf { feed := [⟨0, 5, 20⟩] } = 20 ∧
    (({} : ArrayUnit).holds { feed := [⟨0, 5, 20⟩] }).frozen = 12 := by decide
/-- R83: [0, 100), [10, 20) and [50, 60) are one group. -/
theorem test_holds_chain : let h : PassHolds := { feed := [⟨0, 0, 100⟩, ⟨1, 10, 10⟩, ⟨2, 50, 10⟩] }
    slipOf h = 100 ∧ (({} : ArrayUnit).holds h).frozen = 92 ∧ (({} : ArrayUnit).holds h).feedStall = 100 := by decide
theorem test_holds_overlap : slipOf { feed := [⟨0, 5, 20⟩], drain := [⟨1, 10, 30⟩] } = 30 := by decide

/-- Accumulator values 0 and 1 of row 0 are 1.5 and 2 in FP32. -/
def withAcc : State := withCore (fun k => { k with array := { k.array with acc := [(0, 0x3FC00000), (1, 0x40000000)] } })

def accOp : AccoutOp := { count := 1, daddr := 100, dfmt := 1, clear := true }

theorem test_w_accout : withAcc.Ready qArray i0 ∧ accsWf withAcc ∧ withAcc.sel 0 accOp.dsel = some 0 ∧
    Fmt.ofCode accOp.dfmt = some .bf16 ∧ pastMem 100 (wordsFor 128 16) = false ∧
    usable withAcc (wrPartial (withAcc.accoutWrites 0 0 accOp .bf16).1) (wrWords (withAcc.accoutWrites 0 0 accOp .bf16).1) := by
  unfold usable State.readable State.groupsOn State.Ready accsWf; decide +kernel
/-- BF16 of 1.5 and 2 are 0x3FC0 and 0x4000. -/
theorem test_accout : gives (exec (.accout i0 accOp) withAcc) (fun t =>
    t.peek 0 100 == 0x40003FC0 && (t.core 0).array.acc == []) = true := by decide +kernel

def ewOp : EwiseOp := { count := 1, afmt := 11, bfmt := 11, aaddr := 100, baddr := 200 }

theorem test_w_ewise : ready.Ready qArray i0 ∧ Fmt.ofCode ewOp.afmt = some .int8 ∧ Fmt.int8.ewiseA = true ∧
    Fmt.int8.ewiseB = true ∧ ready.sel 0 ewOp.asel = some 0 ∧ pastMem 100 (wordsFor 128 8) = false ∧
    usable ready (State.ewiseReads 0 0 ewOp .int8 .int8) [] := by
  unfold usable State.readable State.groupsOn State.Ready; decide +kernel
/-- INT8 −2 × 3 = −6 (R53, R71). -/
theorem test_ewise : gives (exec (.ewise i0 ewOp) (withMem [(100, 0xFE), (200, 3)])) (fun t =>
    smGet (t.core 0).array.acc 0 == 0xFFFFFFFA && smGet (t.core 0).array.acc 1 == 0) = true := by decide +kernel
theorem test_ffence : gives (exec (.ffence i0) (withCore (fun k => { k with
    array := { k.array with held := [(1, 2)] } }))) (fun t => (t.core 0).array.held == []) = true := by decide +kernel

/-! The engines round the core memory. -/

/-- Two FP32 entries of one row. -/
def nOp : NormOp := { rows := 1, len := 2, iaddr := 100, oaddr := 200, maddr := 300, flagAddr := 400, scale := 0x3F800000 }

theorem test_w_nsmax : normTakes (withMem [(100, 0x7F800000)]) i0 nOp .fp32 .fp32 0 0 (pastMem 400 1) ∧
    (withMem [(100, 0x7F800000)]).Ready qNorm i0 := by
  unfold State.Ready; simp only [normTakes]; decide +kernel
theorem test_w_nsmax_usable : usable (withMem [(100, 0x7F800000)])
    (normReads 0 nOp .fp32 [] ++ wrPartial ((withMem [(100, 0x7F800000)]).nsmaxWrites 0 0 nOp .fp32 .fp32).1)
    (wrWords ((withMem [(100, 0x7F800000)]).nsmaxWrites 0 0 nOp .fp32 .fp32).1) := by
  unfold usable State.readable State.groupsOn; decide +kernel
/-- One +∞ among finite entries takes 1, the others 0 (R57). -/
theorem test_nsmax : gives (exec (.nsmax i0 nOp) (withMem [(100, 0x7F800000)])) (fun t =>
    t.peek 0 200 == 0x3F800000 && t.peek 0 400 == 0) = true := by decide +kernel
/-- The rows of R57's table. -/
theorem test_w_softmax : (smRow nOp .fp32 0 [(true, 0x7FC00000), (false, 0xFF800000)]).2 = true ∧
    ((smRow nOp .fp32 0 [(false, 0x7FC00000), (true, 1)]).1.map (·.1)) = [0x7FC00000, 0] ∧
    ((smRow nOp .fp32 0 [(false, 0x7F800000), (false, 0x7F800000), (false, 0xFF800000)]).1.map (·.1)) =
      [0x3F000000, 0x3F000000, 0] := by decide +kernel
theorem test_w_nnorm : normTakes ready i0 nOp .fp32 .fp32 0 0 (pastMem 300 1) ∧ nOp.mmode = 0 ∧ nOp.nmode ≠ 3 := by
  simp only [normTakes]; decide +kernel
theorem test_w_nnorm_usable : usable ready (normReads 0 nOp .fp32 (wordsAt 0 300 1) ++
    wrPartial (ready.nnormWrites 0 0 nOp .fp32 .fp32).1) (wrWords (ready.nnormWrites 0 0 nOp .fp32 .fp32).1) := by
  unfold usable State.readable State.groupsOn; decide +kernel
/-- Without rows nothing is stored (R17). -/
theorem test_nnorm_empty : gives (exec (.nnorm i0 { nOp with rows := 0 }) (withMem [(200, 5)])) (fun t =>
    t.peek 0 200 == 5) = true := by decide +kernel

/-- Two rows of one word; the index list at word 10 names row 1 and then nothing. -/
def dOp : DispOp := { iaddr := 10, nrows := 2, count := 2, roww := 1, saddr := 20, daddr := 30, empty := 1 }
def dState : State := withMem [(10, BitVec.ofNat 256 (0xFFFFFFFF * 2 ^ 32 + 1)), (20, 7), (21, 8), (31, 9)]

theorem test_w_gather : (dState.dispIdx 0 dOp) = [1, noIndex] ∧ dState.Ready qDisp i0 := by
  unfold State.Ready; decide +kernel
theorem test_w_gather_takes : dispTakes dState i0 dOp 0 0 true ∧ dispTakes dState i0 dOp 0 0 false := by
  have h : ∀ x ∈ dState.dispIdx i0.core dOp, x ≠ 0xFFFFFFFF → x.toNat < dOp.nrows.toNat := by
    rw [show dState.dispIdx i0.core dOp = [1, noIndex] from test_w_gather.1]
    simp [noIndex, dOp]
  refine ⟨⟨?_, ?_, ?_, ?_, ?_, ?_, ?_, h⟩, ⟨?_, ?_, ?_, ?_, ?_, ?_, ?_, h⟩⟩ <;> (try unfold dispNames) <;> decide +kernel
theorem test_w_gather_usable : usable dState (dState.dispLists 0 dOp ++ [(0, 21)]) [(0, 30), (0, 31)] := by
  unfold usable State.readable State.groupsOn; decide +kernel
theorem test_dgather : gives (exec (.dgather i0 dOp) dState) (fun t => t.peek 0 30 == 8 && t.peek 0 31 == 0) = true := by
  decide +kernel
theorem test_dscatter : gives (exec (.dscatter i0 dOp) dState) (fun t => t.peek 0 31 == 7 && t.peek 0 30 == 0) = true := by
  decide +kernel

/-! DSLOT: R148's worked example. -/

/-- Four experts, CAP 2, K 1, ALT 1. -/
def slotOp (policy : BitVec 2) (ocap : BitVec 12) : DslotOp :=
  { caddr := 10, sladdr := 20, fladdr := 30, cbaddr := 50, tokens := 5, e := 4, k := 1, alt := 1, cap := 2, ocap := ocap,
    policy := policy }

/-- Tokens 0 to 4 choose experts 2, 2, 2, 0 and 2; their backups are 3, 1, 3, 1 and 3. -/
def slotState : State := withMem [
  (10, BitVec.ofNat 256 (2 + 3 * 2 ^ 64 + 2 * 2 ^ 128 + 1 * 2 ^ 192)),
  (11, BitVec.ofNat 256 (2 + 3 * 2 ^ 64 + 0 * 2 ^ 128 + 1 * 2 ^ 192)), (12, BitVec.ofNat 256 (2 + 3 * 2 ^ 64))]

theorem test_dslot_example : let p := dslotPlan (slotOp 1 0) (slotState.choice 0 (slotOp 1 0))
    ([0, 1, 2, 3].map (fillOf p.fill) = [1, 0, 2, 2]) ∧
    (∀ x, x ∈ p.slots ↔ x ∈ [(0, 0, 3), (2, 0, 0), (2, 1, 1), (3, 0, 2), (3, 1, 4)]) := by
  have h : (dslotPlan (slotOp 1 0) (slotState.choice 0 (slotOp 1 0))).slots =
      [(3, 1, 4), (0, 0, 3), (3, 0, 2), (2, 1, 1), (2, 0, 0)] := by decide +kernel
  refine ⟨by decide +kernel, fun x => ?_⟩
  rw [h]; simp; tauto
/-- Under POLICY 2 with OCAP 1, token 2 takes slot 2 of expert 2, and token 4 passes residually (R148). -/
theorem test_dslot_overflow : let p := dslotPlan (slotOp 2 1) (slotState.choice 0 (slotOp 2 1))
    (2, 2, 2) ∈ p.slots ∧ (4, 0, 0xFFFF, 0xFFFF, 0) ∈ p.comb ∧ p.nover = 1 ∧ p.nres = 1 := by decide +kernel
theorem test_dslot_stores : gives (exec (.dslot i0 (slotOp 1 0)) slotState) (fun t =>
    t.peek 0 20 == BitVec.ofNat 256 (3 + 0xFFFFFFFFFFFFFFFFFFFFFFFF * 2 ^ 32 + 1 * 2 ^ 160 + 2 * 2 ^ 192 + 4 * 2 ^ 224) &&
    t.peek 0 30 == 1 && t.peek 0 32 == 0 && t.peek 0 34 == 2 && t.peek 0 36 == 2) = true := by decide +kernel
theorem test_w_dslot : slotState.Ready qDisp i0 ∧ dslotEmpty (slotOp 1 0) = false ∧
    pastMem 10 (wordsFor 10 64) = false ∧ (∀ t < 5, ∀ j < 2, (slotState.choice 0 (slotOp 1 0) t j).expert < 4) ∧
    usable slotState (wordsAt 0 10 3 ++ wrPartial (dslotWrites 0 (slotOp 1 0) (dslotPlan (slotOp 1 0) (slotState.choice 0 (slotOp 1 0)))))
      (wrWords (dslotWrites 0 (slotOp 1 0) (dslotPlan (slotOp 1 0) (slotState.choice 0 (slotOp 1 0))))) := by
  unfold usable State.readable State.groupsOn State.Ready; decide +kernel

/-! The inflater. -/

/-- A compacting TILE of INT8 weights at word 1000, its mask at word 10 with row 5 alone set. -/
def tileOp : TileOp := { wfmt := 11, waddr := 1000, cmpct := true, cmaddr := 10, cmbase := 0, cmlen := 40 }
def tileState : State := withMem [(10, 32), (1000, BitVec.ofNat 256 (7 * 2 ^ 40))]

theorem test_w_tile : tileTakes tileState i0 tileOp .int8 0 ∧ tileState.Ready qInfl i0 := by
  unfold State.Ready; simp only [tileTakes]; decide +kernel
theorem test_w_tile_usable : usable tileState (tileState.tileReads 0 0 tileOp .int8) [] := by
  unfold usable State.readable State.groupsOn; decide +kernel
/-- Element 5 of the first block of 32 rows is byte 5 of the tile (R64). -/
theorem test_tile : gives (exec (.tile i0 tileOp) tileState) (fun t =>
    (match (t.core 0).array.shadow with
     | some (.tile x) => x.rows == some [5] && x.cells == [(0, 7)]
     | _ => false) && (t.core 0).cursor == 40) = true := by decide +kernel
/-- A cleared bit of the bitmap skips the tile (R143, R179). -/
theorem test_tile_skips : gives (exec (.tile i0 { wfmt := 11, bmen := true, bmaddr := 10, bmidx := 4 }) tileState) (fun t =>
    (t.core 0).array.shadow == some .skip && (t.core 0).inflSkip == 1) = true := by decide +kernel

/-! The adapter engine. -/

/-- One row with KLEN 4, slot 3 and a directory at word 40: RANK 4, BF16, A at word 100, B at word 200, ALPHA 1. -/
def adOp : AdapterOp := { diraddr := 40, idaddr := 10, xaddr := 20, uaddr := 60, xfmt := 1, klen := 4, rows := 1, cols := 2 }
def adState : State := withMem [(10, 3), (20, 0x3F80),
  (43, BitVec.ofNat 256 (4 * 2 ^ 16 + 1 * 2 ^ 24 + 100 * 2 ^ 32 + 200 * 2 ^ 64 + 0x3F800000 * 2 ^ 160 + 2 ^ 192)),
  (100, 0x4000), (200, 0x4040), (60, 0x40000000)]

theorem test_w_adapter : adState.Ready qAdapt i0 ∧ adXFmt adOp = some .bf16 ∧ adState.sel 0 adOp.xsel = some 0 ∧
    adDownEmpty adOp = false ∧ adUpEmpty adOp = false ∧ adState.adRows 0 adOp = [(0, 3)] ∧
    adRank (adState.adEntry 0 adOp 3) = 4 ∧ adFmt (adState.adEntry 0 adOp 3) = some .bf16 ∧
    adValid (adState.adEntry 0 adOp 3) = true := by
  unfold State.Ready; decide +kernel
theorem test_w_adapter_entries (d : Bool) : adapterEntriesOk adState 0 adOp d := by
  unfold adapterEntriesOk
  rw [test_w_adapter.2.2.2.2.2.1]
  simp only [List.forall_mem_singleton]
  refine ⟨by decide, test_w_adapter.2.2.2.2.2.2.2.2, ?_, ?_, .bf16, test_w_adapter.2.2.2.2.2.2.2.1, ?_, ?_⟩
  · rw [test_w_adapter.2.2.2.2.2.2.1]
  · rw [test_w_adapter.2.2.2.2.2.2.1]; decide
  · intro _; exact ⟨by decide, by decide +kernel, by decide⟩
  · intro _; decide +kernel
/-- 2 × 1 = 2 in FP32. -/
theorem test_adown : gives (exec (.adown i0 adOp) adState) (fun t => t.peek 0 60 == 0x40000000) = true := by decide +kernel
/-- 3 × 2 = 6 in FP32 into value (0, 0). -/
theorem test_aup : gives (exec (.aup i0 adOp) adState) (fun t => (t.core 0).array.acc == [(0, 0x40C00000)]) = true := by
  decide +kernel

/-! The key-value block engine. -/

/-- A descriptor: BASE, CLEN, TLEN, NEXT none, REFS, FULL, HASHED (R153). -/
def kvDesc (base clen tlen refs full hashed : Nat) : MWord :=
  BitVec.ofNat 256 (base * 2 ^ 128 + clen * 2 ^ 160 + tlen * 2 ^ 168 + 0xFFFF * 2 ^ 176 + refs * 2 ^ 192 + full * 2 ^ 208 +
    hashed * 2 ^ 209)

/-- Descriptor 1 at word 41, rows of one word, an index of 16 entries at word 600. -/
def kvOp : KvOp :=
  { desc := 1, parent := 0xFFFF, dtaddr := 40, ixaddr := 600, ixbits := 4, srcaddr := 20, tokaddr := 30, cntaddr := 50,
    roww := 1, n := 2, delta := 0xFFFF }
def kvState : State := withMem [(41, kvDesc 100 62 0 1 0 0), (20, 7), (21, 8), (30, BitVec.ofNat 256 (6 * 2 ^ 32 + 5))]

theorem test_w_kv : kvState.Ready qKv i0 ∧ kvIndexOk kvState 0 kvOp ∧ kvNextOk kvState 0 kvOp ∧ kvCandsOk kvState 0 kvOp [] ∧
    kvState.memoriesWf ∧ kvAreaBad kvOp (kvState.desc 0 kvOp 1) 62 2 = false ∧ kvState.kvCount 0 kvOp = 2 := by
  unfold State.Ready kvIndexOk kvFieldsOk kvNextOk kvCandsOk State.memoriesWf; decide +kernel
/-- IXBITS 17 is out of range in each of the six (R134, R154). -/
theorem test_kv_ixbits : gives (exec (.kappend i0 { kvOp with ixbits := 17 }) kvState) (fun t =>
    (t.part 0).cause == 3 && t.peek 0 41 == kvDesc 100 62 0 1 0 0) = true := by decide +kernel
theorem test_w_kappend : usable kvState ([(0, 41)] ++ wordsAt 0 20 2 ++ wordsAt 0 30 1 ++
    wrPartial (kvState.kappendWrites 0 0 kvOp 2)) (wrWords (kvState.kappendWrites 0 0 kvOp 2)) := by
  unfold usable State.readable State.groupsOn; decide +kernel
/-- Rows go to words BASE + 8 + 62 and 63, token IDs to lanes 6 and 7 of the last ID word, TLEN becomes 2 (R153, R155). -/
theorem test_kappend : gives (exec (.kappend i0 kvOp) kvState) (fun t =>
    t.peek 0 170 == 7 && t.peek 0 171 == 8 && t.peek 0 107 == BitVec.ofNat 256 (5 * 2 ^ 192 + 6 * 2 ^ 224) &&
    t.peek 0 41 == kvDesc 100 62 2 1 0 0) = true := by decide +kernel
/-- Two tentative entries of a block of 62: CLEN 64 and FULL. -/
theorem test_kcommit : gives (exec (.kcommit i0 kvOp) (withMem [(41, kvDesc 100 62 2 1 0 0)])) (fun t =>
    t.peek 0 41 == kvDesc 100 64 0 1 1 0) = true := by decide +kernel
/-- A count above the tentative total is clamped, and logged (R155). -/
theorem test_kcommit_clamps : gives (exec (.kcommit i0 kvOp) (withMem [(41, kvDesc 100 5 1 1 0 0)])) (fun t =>
    t.peek 0 41 == kvDesc 100 6 0 1 0 0 && t.evlog.queue.map (·.code) == [0x000C]) = true := by decide +kernel
theorem test_kdiscard : gives (exec (.kdiscard i0 kvOp) (withMem [(41, kvDesc 100 5 3 1 0 0)])) (fun t =>
    t.peek 0 41 == kvDesc 100 5 0 1 0 0) = true := by decide +kernel
/-- A block that is not FULL is not hashed. -/
theorem test_khash_not_full : gives (exec (.khash i0 kvOp) kvState) (fun t => t.peek 0 41 == kvDesc 100 62 0 1 0 0) = true := by
  decide +kernel
/-- Every word of this state is usable: its groups are ON and no word is wrong. -/
theorem test_w_usable (r w : List (CoreId × Nat)) : usable kvState r w := by
  have h : ∀ c : CoreId, (kvState.core c).memory.flips = [] ∧ ∀ g : Fin 8, (kvState.core c).memory.bgState[g] = 0 := by
    decide +kernel
  refine ⟨fun x _ => (h x.1).2 _, fun x _ => ?_⟩
  simp [Memory.check, (h x.1).1, smGet]
theorem test_w_kfind : kvOp.ssel = 0 ∧ kvState.sel 0 kvOp.ssel = some 0 ∧ kvOp.parent = 0xFFFF ∧
    kvOp.srcaddr.toNat + 8 ≤ 2 ^ 20 ∧ ∀ x < 8, kvProbe kvOp 5 x ≠ dAddr kvOp kvOp.desc.toNat := by decide +kernel
/-- Of two equal hashes the second has equal tokens: one false match (R155, R156). -/
theorem test_kfind_search : kvSearch (fun d => d == 9) [4, 9, 9] = (1, some 9) := by decide
/-- The published SHAKE256 of no bytes begins 46 b9 dd 2b. -/
theorem test_shake : shake256 [] 4 = [0x46, 0xB9, 0xDD, 0x2B] := by decide +kernel
/-- REFS 1 with DELTA −1 reaches 0 and answers DESC. -/
theorem test_kref : gives (exec (.kref i0 kvOp) kvState) (fun t =>
    t.peek 0 41 == kvDesc 100 62 0 0 0 0 && t.peek 0 50 == 1) = true := by decide +kernel

/-! The bank operation queue. -/

def bOp : BankOp := { asel := 0, addr := 100, raddr := 200, baddr := 101, len := 1, aop := 2, elem := 1, cmpv := 7, opnd := 9 }
def bState : State := withMem [(100, BitVec.ofNat 256 (7 * 2 ^ 32 + 3)), (200, 5)]

theorem test_w_bank : bState.Ready qBank i0 ∧ bState.sel 0 bOp.asel = some 0 ∧ bState.memoriesWf ∧
    usable bState [(0, 100)] [(0, 100), (0, 200)] ∧ pastMem 100 1 = false := by
  unfold usable State.readable State.groupsOn State.Ready State.memoriesWf; decide +kernel
/-- CAS of element 1 from 7 to 9: the old value and the mark. -/
theorem test_batom : gives (exec (.batom i0 bOp) bState) (fun t =>
    t.peek 0 100 == BitVec.ofNat 256 (9 * 2 ^ 32 + 3) && t.peek 0 200 == BitVec.ofNat 256 (2 ^ 32 + 7)) = true := by decide +kernel
/-- COND 4 counts 1 bits: 3 has two, 7 has three; the first word that is not zero is word 0. -/
theorem test_bcount : gives (exec (.bcount i0 { bOp with cond := 4 }) bState) (fun t => t.peek 0 200 == 5) = true := by
  decide +kernel
/-- Words 100 and 101 differ: no equal word, the first unequal one at index 0. -/
theorem test_bcmp : gives (exec (.bcmp i0 bOp) bState) (fun t => t.peek 0 200 == 0) = true := by decide +kernel

/-! Transfers and the Mule. -/

/-- Three words from word 100 to word 200, or into window 1 of partition 1 of this chip. -/
def xOp : XferOp := { chip := 5, part := 1, win := 1, laddr := 100, daddr := 200, len := 3, wmode := 1 }
def xState : State := withMem [(100, 7), (101, 8), (102, 9)]

theorem test_w_xfer : xState.Ready qXfer i0 ∧ xState.memoriesWf ∧ wcOk (xState.core 0) ∧ xState.sel 0 xOp.lsel = some 0 ∧
    pastMem 100 3 = false ∧ (xState.core 0).tags.length < 256 ∧ usable xState (xState.xferReads 0 0 100 3) (wordsAt 0 200 3) ∧
    xState.copyOverlaps 0 0 100 3 = false ∧ xState.getOverlaps 0 0 100 3 = false ∧
    xState.mustHold (wordsAt 0 200 3 ++ wcWords (xState.core 0)) = none := by
  unfold usable State.readable State.groupsOn State.Ready State.memoriesWf wcOk; decide +kernel
/-- An earlier TGET has yet to write word 101: a TSEND of words 100 to 102 waits (R225). -/
theorem test_tsend_waits : let s := xState.modCore 0 (fun k => { k with tags := [{ tag := 0, kind := 2, laddr := 101, len := 1 }] })
    s.getOverlaps 0 0 100 3 = true ∧ gives (exec (.tsend i0 { chip := 5, part := 1, win := 1, laddr := 100, len := 3 }) s)
      (fun t => t.transit == [] && ((t.core 0).queue qXfer).waiting.isSome) = true := by decide +kernel
/-- The copy stands in the write-combine buffer and holds tag 0 (R158, R229). -/
theorem test_tcopy : gives (exec (.tcopy i0 xOp) xState) (fun t =>
    t.xferWord 0 0 202 == 9 && t.peek 0 202 == 0 && ((t.core 0).tags.map (·.tag)) == [0]) = true := by decide +kernel
theorem test_tdrain : gives (exec (.tdrain i0 xOp) (withCore (fun k => { k with wc := [⟨0, 101, 5⟩, ⟨0, 300, 6⟩] }))) (fun t =>
    t.peek 0 101 == 5 && t.peek 0 300 == 0 && (t.core 0).wc.length == 1) = true := by decide +kernel
theorem test_w_send : sendTakes xState i0 xOp 0 ∧ xState.tagFree 0 true = true ∧
    routed xState 2 (xState.sendPackets 0 0 xOp 0) ∧ routed xState 2 (xState.getPackets 0 xOp 0) := by
  unfold routed; simp only [sendTakes, selNames]; decide +kernel
theorem test_tsend : gives (exec (.tsend i0 xOp) xState) (fun t =>
    t.transit.map (fun m => (m.pkt.kind, m.pkt.win, m.pkt.payload)) == [(0, 1, [7, 8, 9])]) = true := by decide +kernel
theorem test_tget : gives (exec (.tget i0 xOp) xState) (fun t =>
    t.transit.map (fun m => (m.pkt.kind, m.pkt.rlen, m.pkt.payload)) == [(2, 3, [])]) = true := by decide +kernel
theorem test_w_twin : xState.special (partOf 0) 1 = false ∧ xState.windowTaken (partOf 0) 1 = false ∧
    (xState.part (partOf 0)).heldPkts = [] := by decide +kernel
theorem test_twin : gives (exec (.twin i0 xOp) xState) (fun t =>
    ((alGet (t.part 0).windows 1).map (fun w => (w.laddr, w.len))) == some (100, 3)) = true := by decide +kernel

/-- Stream 2 towards window 1 of partition 1, one pass, its index list at word 10. -/
def mState : State := (withMem [(10, 5), (100, 0x3F800000)]).modCore 0 (fun k => { k with
  streams := [(2, { chip := 5, part := 1, win := 1, cls := 1, ridx := 10, rsc := 0, rscen := false, passes := 1 })] })
def sOp : MsendOp := { stream := 2, src := true, maddr := 100, count := 1 }

theorem test_mstream : gives (exec (.mstream i0 { stream := 3, passes := 2, win := 4 }) mState) (fun t =>
    ((alGet (t.core 0).streams 3).map (·.win)) == some 4 && ((alGet (t.core 0).streams 2).isSome)) = true := by decide +kernel
theorem test_mreduce : gives (exec (.mreduce i0 { win := 4, rows := 2, sources := 1, srclist := 10, init := true })
    ((withMem [(10, 5)]).modCore 0 (fun k => { k with array := { k.array with acc := [(0, 9), (256, 8)] } }))) (fun t =>
    (t.core 0).regions.map (·.sources) == [[5]] && (t.core 0).array.acc == [(256, 8)]) = true := by decide +kernel
theorem test_w_mreduce : let o : ReduceOp := { win := 4, rows := 2, sources := 1, srclist := 10 }
    mState.Ready qMule i0 ∧ ascending (mState.srcList 0 o) = true ∧ mState.special (partOf 0) 4 = false ∧
    mState.windowTaken (partOf 0) 4 = false ∧ usable mState (wordsAt 0 10 1) [] ∧ pastMem 10 1 = false := by
  unfold usable State.readable State.groupsOn State.Ready; decide +kernel
theorem test_w_msend : mState.msendReject 0 sOp = none ∧ (alGet (mState.core 0).streams 2).isSome = true ∧
    mState.sel 0 sOp.msel = some 0 ∧ (alGet (mState.core 0).streams 2).all (fun x =>
      pastMem x.ridx.toNat (wordsFor (x.rows + 1) 32) == false && (mState.ridx 0 x x.rows 1).all (·.toNat < 4096)) = true ∧
    usable mState ([(0, 10)] ++ wordsAt 0 100 (1 * msendRowWords sOp)) [] := by
  unfold usable State.readable State.groupsOn; decide +kernel
/-- Row 5 goes out with END, as the stream's one pass (R162, R165). -/
theorem test_msend : gives (exec (.msend i0 sOp) mState) (fun t => t.transit.map (fun m =>
    (m.pkt.kind, m.pkt.kflags, m.pkt.field 64 12, m.pkt.payload.headD 0)) == [(4, 1, 5, 0x3F800000)]) = true := by decide +kernel
/-- A BF16 PASS that forwards one row into stream 2. -/
def fwdOp : PassOp := { wfmt := 1, afmt := 1, len := 1, aaddr := 100, fwd := true, fwdStream := 2 }
theorem test_w_forward : passTakes mState i0 fwdOp 0 .bf16 .bf16 1 false ∧ ((mState.core 0).array.taken fwdOp).1.cells = [] := by
  simp only [passTakes]; decide +kernel
theorem test_w_forward_plan : mState.passReject 0 fwdOp = none ∧ usable mState (mState.passReads 0 fwdOp) [] := by
  unfold usable State.readable State.groupsOn; decide +kernel

/-! Completion, memory and its power states. -/

/-- A PASS in flight that increments counter 4, and a kernel end of the transfer queue. -/
def flying : State := withCore (fun k => { k with
  inflight := [{ q := qArray, qpos := 3, hdr := { i0en := true, i0ctr := 4 }, due := .pass },
               { q := qXfer, qpos := 1, hdr := { kend := true }, due := .release 0 }],
  wc := [⟨0, 300, 6⟩], tags := [{ tag := 0, kind := 0 }] })

theorem test_complete_pass : gives (exec (.instrComplete 0 qArray 3) flying) (fun t =>
    ((t.core 0).counter 4).count == 1 && (t.core 0).array.passCount == 1 && (t.core 0).inflight.length == 1) = true := by
  decide +kernel
theorem test_complete_kernel : gives (exec (.instrComplete 0 qXfer 1) flying) (fun t =>
    t.peek 0 300 == 6 && (t.core 0).wc == [] && (t.core 0).tags == []) = true := by decide +kernel
/-- An instruction that waits for a tag does not complete. -/
theorem test_not_complete : Until.met (.tag 3) = false := rfl
theorem test_ramp_down : gives (exec (.arrayRampDown 0) (withCore (fun k => { k with array := { k.array with rampStep := 0 } })))
    (fun t => (t.core 0).array.rampStep == 1 && (t.core 0).array.dummy == 64) = true := by decide +kernel
/-- R86: at step 16 the ramp is down. -/
theorem test_ramp_is_down : gives (exec (.arrayRampDown 0) ready) (fun t => (t.core 0).array.rampStep == 16) = true := by
  decide +kernel
theorem test_scrub_good : gives (exec (.scrubRead 0 1) ready) (fun t => smGet (t.core 0).memory.scrubRow 1 == 1) = true := by
  decide +kernel
/-- Word 5 is row 0 of bank 5 (R199); two wrong symbols under CMODE 1 are not corrected. -/
theorem test_scrub_bad : gives (exec (.scrubRead 0 5) badWord) (fun t => (t.core 0).memory.unScrub &&
    (t.core 0).memory.unAddr == 5 && t.evlog.queue.map (·.code) == [3]) = true := by decide +kernel
/-- One wrong symbol is corrected, and its write-back is pending (R207). -/
def oneBad : State := withCore (fun k => { k with memory := { k.memory with flips := [(5, 1)], mem := [(5, 3)], cmode := 1 } })
theorem test_scrub_corrects : gives (exec (.scrubRead 0 5) oneBad) (fun t =>
    (t.core 0).memory.eccCorr == 1 && (t.core 0).memory.writeback == [(5, 3)] && t.peek 0 5 == 3) = true := by decide +kernel
theorem test_writeback : gives (exec (.correctedWriteback 0 5) (oneBad.modMem 0 (fun m => { m with writeback := [(5, 3)] }))) (fun t =>
    (t.core 0).memory.flips == [] && t.peek 0 5 == 3 && (t.core 0).memory.writeback == []) = true := by decide +kernel
theorem test_bg_on : gives (exec (.bgReqOn 0 0) asleep) (fun t => (t.core 0).memory.bgState[0] == 3) = true := by decide +kernel
/-- Under ILV 0 a request to a group above 0 is not taken (R219). -/
theorem test_bg_retention : gives (exec (.bgReqRetention 0 0) ready) (fun t => (t.core 0).memory.bgReq[0] == 1) = true ∧
    gives (exec (.bgReqRetention 0 3) ready) (fun t => (t.core 0).memory.bgReq[3] == 0) = true := by decide +kernel
theorem test_bg_off : gives (exec (.bgReqOff 0 0) ready) (fun t => (t.core 0).memory.bgReq[0] == 2) = true := by decide +kernel
theorem test_bg_enter : ready.groupBusy 0 0 = false ∧
    gives (exec (.bgEnterState 0 0) (ready.modMem 0 (fun m => { m with bgReq := m.bgReq.set 0 2 }))) (fun t =>
      (t.core 0).memory.bgState[0] == 2) = true := by decide +kernel
/-- Entering OFF drops the words of the group, a wake from it shows them zeroed (R211, R213, R220). -/
theorem test_bg_off_clears : gives (exec (.bgEnterState 0 0) ((withMem [(9, 4)]).modMem 0 (fun m => { m with
    bgReq := m.bgReq.set 0 2 }))) (fun t => t.peek 0 9 == 0) = true := by decide +kernel
def wakingOff : State := ({ ready with parts := State.reset.parts }).modMem 0 (fun m => { m with
  bgState := m.bgState.set 0 3, bgFromOff := m.bgFromOff.set 0 true })
theorem test_bg_wake : gives (exec (.bgWakeDone 0 0) wakingOff) (fun t => t.peek 0 9 == 0 &&
    (t.core 0).memory.zeroed == 0xFF && (t.core 0).memory.bgState[0] == 0) = true := by decide +kernel

/-! Packets at their partition and core. -/

/-- A program of partition 0 whose flock holds partition 1 of this chip. -/
def prog0 : Program :=
  { fixedOrder := false, ilv := false, ncores := 8, level := 0, c0use := false, flock := 5, planIndex := 0,
    chipmap := [0x10005], digest := [], regions := [], patches := [] }

/-- A packet of partition 1 to partition 0, both of this chip. -/
def toMe (kind kflags win len more : Nat) (ws : List MWord) : Packet :=
  { hdr := BitVec.ofNat 256 (5 + 5 * 2 ^ 16 + 1 * 2 ^ 34 + kind * 2 ^ 41 + kflags * 2 ^ 44 + win * 2 ^ 48 + len * 2 ^ 56 +
      more * 2 ^ 64), payload := ws }

/-- Window 1 of partition 0 lies on words 100 to 109 of core 0; a WRITE's words count towards counter 4. -/
def landing : State := ((withMem [(100, 3)]).modCore 2 (fun k => { k with tags := [{ tag := 0, kind := 2, owed := 1 }] })).modPart 0
  (fun k => { k with
  sleepState := 0, prog := some prog0,
  windows := [(1, { wmode := 2, core := 0, laddr := 100, len := 10, arrv := 2, acnt := 4, acen := true, wsrc := false })] })

/-- A WRITE with ACK of two words at offset 5, and a READ_REQ of one word at offset 0. -/
def wrPkt : Packet := toMe 0 1 1 2 5 [7, 8]
def rdPkt : Packet := toMe 2 0 1 0 (1 * 2 ^ 28) []

theorem test_w_landing : packetFor landing wrPkt 0 0 ∧ packetFor landing rdPkt 2 0 ∧ landing.special 0 1 = false ∧
    wrPkt.win = 1 ∧ rdPkt.win = 1 ∧ rdPkt.rlen = 1 := by unfold packetFor; decide +kernel
theorem test_w_landing_checks : landing.memoriesWf ∧ landing.groupsOn (wordsAt 0 105 2) ∧
    (∀ w, alGet (landing.part 0).windows 1 = some w →
      landing.windowStatus 0 w wrPkt 2 = 0 ∧ landing.windowStatus 0 w rdPkt 1 = 0 ∧ landing.windowStatus 0 w wrPkt 6 = 2 ∧
      landing.windowStatus 0 w { wrPkt with hdr := wrPkt.hdr &&& ~~~(0xF#256 <<< 34) } 2 = 1) := by
  refine ⟨by unfold State.memoriesWf; decide +kernel, by unfold State.groupsOn; decide +kernel, fun w h => ?_⟩
  have e : alGet (landing.part 0).windows 1 =
    some { wmode := 2, core := 0, laddr := 100, len := 10, arrv := 2, acnt := 4, acen := true, wsrc := false } := by decide +kernel
  obtain rfl := Option.some.inj (e.symm.trans h)
  decide +kernel
/-- The words land, the counter grows by one arrival, and a WRITE_ACK goes back (R160). -/
theorem test_rx_write : gives (exec (.rxWrite wrPkt) landing) (fun t =>
    t.peek 0 105 == 7 && t.peek 0 106 == 8 && ((t.core 0).counter 4).count == 1 &&
    t.transit.map (fun m => (m.pkt.kind, m.pkt.dstPart)) == [(1, 1)]) = true := by decide +kernel
theorem test_rx_read : gives (exec (.rxReadReq rdPkt) landing) (fun t =>
    t.transit.map (fun m => (m.pkt.kind, m.pkt.dstPart, m.pkt.payload)) == [(3, 1, [3])]) = true := by decide +kernel

/-- A TSEND with ACK waits on tag 2, a TGET on tag 3 for one word to word 200. -/
def asked : State := landing.modCore 0 (fun k => { k with
  tags := [{ tag := 2, kind := 1, ack := true, owed := 1 }, { tag := 3, kind := 2, owed := 1, laddr := 200 }],
  inflight := [{ q := qXfer, qpos := 0, hdr := {}, due := .tag 2 }] })
def ackPkt : Packet := toMe 1 0 0 0 (2 * 2 ^ 20) []
def respPkt : Packet := toMe 3 0 0 1 (3 * 2 ^ 20) [6]

theorem test_w_answers : Packet.bad ackPkt = false ∧ Packet.bad respPkt = false ∧ ackPkt.dstPart = 0 ∧
    asked.coreOfRank 0 ackPkt.dstRank = some 0 ∧ ((asked.core 0).tagOf ackPkt.tag).isSome = true ∧
    ((asked.core 0).tagOf respPkt.tag).isSome = true ∧ asked.groupsOn (wordsAt 0 200 1) ∧ running asked 0 := by
  unfold State.groupsOn running; decide +kernel
theorem test_rx_ack : gives (exec (.rxWriteAck ackPkt) asked) (fun t => (t.core 0).tags.map (·.tag) == [3] &&
    (t.core 0).inflight.map (·.due) == [.now]) = true := by decide +kernel
theorem test_rx_resp : gives (exec (.rxReadResp respPkt) asked) (fun t => t.peek 0 200 == 6 &&
    (t.core 0).tags.map (·.tag) == [2]) = true := by decide +kernel
/-- DENIED stops the step with CAUSE 6 (R159). -/
theorem test_rx_ack_denied : gives (exec (.rxWriteAck (toMe 1 0 0 0 (2 * 2 ^ 20 + 1) [])) asked) (fun t =>
    (t.part 0).cause == 6 && ((t.core 0).queue qXfer).state == 4) = true := by decide +kernel

/-- SAFETY is 1, and a packet of partition 0 to its window 0xFF names a register, a value and a mask. -/
def safe : State := { landing with safety := true }
def dogPkt (a : Nat) : Packet :=
  { hdr := BitVec.ofNat 256 (5 + 5 * 2 ^ 16 + 0xFF * 2 ^ 48 + 1 * 2 ^ 56),
    payload := [BitVec.ofNat 256 (a + 5 * 2 ^ 32 + 0xFFFFFFFF * 2 ^ 64)] }

theorem test_w_dog : packetFor safe (dogPkt 0) 0 0 ∧ (dogPkt 0).win = 0xFF ∧ (dogPkt 0).srcPart = 0 ∧ protectedBits 0 = 0 := by
  unfold packetFor; decide +kernel
/-- An unprotected address is refused and logged (R370). -/
theorem test_dog : gives (exec (.sheepdogWrite (dogPkt 0)) safe) (fun t => t.evlog.queue.map (·.code) == [0x19]) = true := by
  decide +kernel

/-- A region of two accumulator rows waits for source 8 of window 4. -/
def reducing : State := landing.modCore 0 (fun k => { k with
  regions := [{ win := 4, accBase := 0, rows := 2, sources := [(toMe 4 0 4 0 0 []).source] }],
  inflight := [{ q := qMule, qpos := 0, hdr := {}, due := .region 4 }] })
/-- One FP32 row of index 1, its first value 1.0, with END. -/
def rowPkt : Packet := toMe 4 1 4 16 1 (0x3F800000 :: List.replicate 15 0)

theorem test_w_rows : packetFor reducing rowPkt 4 0 ∧ reducing.special 0 4 = false ∧ rowPkt.win = 4 ∧
    (reducing.regionAt 0 4).isSome = true ∧ rowPkt.rows.map (·.1) = [1] ∧ accsWf reducing := by
  unfold packetFor accsWf; decide +kernel
theorem test_rx_rows : gives (exec (.rxMuleRows rowPkt) reducing) (fun t => smGet (t.core 0).array.acc 128 == 0x3F800000 &&
    (t.core 0).regions == [] && (t.core 0).inflight.map (·.due) == [.now]) = true := by decide +kernel

/-! Limits on waits. -/

theorem test_hold_timeout : gives (exec (.windowHoldTimeout 0 0) (landing.modPart 0 (fun k => { k with
    heldPkts := [(2, toMe 0 0 9 0 0 [])] }))) (fun t => (t.part 0).heldPkts == [] && t.evlog.queue.map (·.code) == [9]) = true := by
  decide +kernel
theorem test_remote_timeout : gives (exec (.remoteTimeout 0 2) asked) (fun t =>
    (t.part 0).cause == 6 && ((t.core 0).queue qXfer).state == 4) = true := by decide +kernel
theorem test_mreduce_timeout : gives (exec (.mreduceTimeout 0 4) reducing) (fun t =>
    (t.part 0).cause == 6 && ((t.core 0).queue qMule).state == 4 && (t.core 0).regions == []) = true := by decide +kernel
/-- A barrier wait on counter 3. -/
def held (bar : Bool) : State := ready.modQueue 0 qBank (fun k => { k with
  waiting := some { core := 0, hdr := { bar := bar, w0en := true, w0ctr := 3, w0tgt := 1 } } })
theorem test_w_wait : ((held false).core 0).watched false { w0en := true, w0ctr := 3, w0tgt := 1 } = some 3 ∧
    ((held false).core 0).watched true { w0en := true, w0ctr := 31, w0tgt := 1 } = none := by decide +kernel
theorem test_barrier_timeout : gives (exec (.barrierTimeout 0 qBank) (held true)) (fun t =>
    (t.part 0).cause == 5 && (t.part 0).barExpired == 1) = true := by decide +kernel
theorem test_watchdog : gives (exec (.watchdogExpiry 0 qBank) (held false)) (fun t => (t.part 0).cause == 4 &&
    (t.part 0).wdExpired == 1 && t.evlog.queue.map (·.code) == [15]) = true := by decide +kernel
theorem test_notice : gives (exec (.rxNotice (toMe 6 0 0 0 0 [])) landing) (fun t => (t.part 0).cause == 7) = true := by
  decide +kernel

/-! Partitions: steps, start, sleep and wake. -/

theorem test_w_step : ready.stepDone 0 = true ∧ State.reset.stepDone 0 = false ∧ ready.ranks 0 = [0, 1, 12, 13, 24, 25, 36, 37] := by
  decide +kernel
/-- A PART_STOP waits: the end of the step stops the partition with CAUSE 1 (R364). -/
theorem test_step_end : gives (exec (.stepEnd 0) (ready.modPart 0 (fun k => { k with state := 4 }))) (fun t =>
    (t.part 0).state == 1 && (t.part 0).cause == 1 && (t.part 0).steps == 1) = true := by decide +kernel
/-- A counter that received fewer increments than its STRIDE is logged, and the partition stops with CAUSE 8 (R263). -/
theorem test_stride : gives (exec (.stepEnd 0) (ready.modCore 12 (fun k => { k with
    counters := k.counters.set 7 { kind := 1, decl := true, stride := 2 } }))) (fun t =>
    (t.part 0).cause == 8 && t.evlog.queue.map (fun e => (e.code, e.source, e.p0)) == [(0x10, 0x200C, 7)]) = true := by
  decide +kernel
/-- The table's step number is not this step's: a fault of the result table (R398). -/
def badTable : State := ready.modPart 0 (fun k => { k with
  srvMode := 1, stepNo := 5, prog := some { prog0 with regions := [(0, 65521, 100, 300)] } })
theorem test_w_table : (badTable.checkTable 0 []).1.wait = none ∧ (badTable.checkTable 0 []).1.bad = true := by
  decide +kernel
theorem test_table_fault : gives (exec (.stepEnd 0) badTable) (fun t => (t.part 0).state == 1 && (t.part 0).cause == 2) = true := by
  decide +kernel
/-- Three prompt rows, a MAXOUT of one: the request is DONE with its one value, and the tenant pays 3 (R393, R400). -/
def served : Part := Part.applyResult 10 false false
  { slots := [(4, { state := .active, outLeft := 1 })], budgets := [(0, { balance := 20, rate := 5 })] }
  ({ slot := 4, gen := 0, tenant := 0, row0 := 0, rows := 3, prompt := true }, some { run := 3, fin := false, acc := 0, vals := [9, 8] })
theorem test_apply_result : ((alGet served.slots 4).map (fun r => (r.state, r.out, r.pos))) = some (.done, [9], 3) ∧
    (served.budget 0).balance = 17 := by decide +kernel

/-- Partition 2 is WAITING, awake and locked; partition 3 is STOPPED, awake and locked; 4 is EMPTY; 5 wakes from OFF. -/
def parts4 : State := ((((({ State.reset with chip := { State.reset.chip with partLock := 0x1C } }).modPart 2 (fun k => { k with
  state := 2, sleepState := 0 })).modPart 3 (fun k => { k with state := 1, sleepState := 0 })).modPart 4 (fun k => { k with
  sleepState := 0 })).modPart 5 (fun k => { k with waking := true })).poke 10 7 9

theorem test_to_running : gives (exec (.waitingToRunning 2) parts4) (fun t => (t.part 2).state == 3 && (t.part 2).first) = true ∧
    gives (exec (.waitingToRunning 3) parts4) (fun t => (t.part 3).state == 1) = true := by decide +kernel
theorem test_idle_sleep : gives (exec (.partitionIdleSleep 3) parts4) (fun t => (t.part 3).sleepState == 1) = true ∧
    gives (exec (.partitionIdleSleep 4) parts4) (fun t => (t.part 4).sleepState == 2) = true ∧
    gives (exec (.partitionIdleSleep 2) parts4) (fun t => (t.part 2).sleepState == 0) = true := by decide +kernel
theorem test_w_rest : parts4.atRest 3 = true ∧ parts4.atRest 4 = true ∧ parts4.chip.partLock.getLsbD 3 = true := by decide +kernel
/-- Core 10 belongs to partition 5 (R19): after OFF its words are zero. -/
theorem test_wake : partOf 10 = 5 ∧ gives (exec (.partitionWakeDone 5 40) parts4) (fun t =>
    (t.part 5).sleepState == 0 && t.peek 10 7 == 0 && t.domains[10]! == 0 && t.chip.partLock.getLsbD 5) = true := by decide +kernel

/-! Clock points and heat. -/

/-- A slower point is in force at once, a faster one only when the rail has ramped (R479). -/
theorem test_point : gives (exec (.dvfsPointWrite 3 2) parts4) (fun t => (t.part 3).active == 2) = true ∧
    gives (exec (.dvfsPointWrite 3 0) { parts4.modPart 3 (fun k => { k with active := 2 }) with
      power := { parts4.power with rail := Vector.replicate 4 2 } }) (fun t => (t.part 3).active == 2) = true := by decide +kernel
theorem test_rail : gives (exec (.railRampDone 1) { parts4.modPart 3 (fun k => { k with active := 2 }) with
    power := { parts4.power with rail := Vector.replicate 4 2 } }) (fun t =>
      (t.part 3).active == 0 && t.power.rail[1] == 0) = true ∧ parts4.wanted 3 = 0 := by decide +kernel
/-- Sensor 5 reads `n` °C. -/
def sensor (n : BitVec 8) : Vector (BitVec 8) 16 := (Vector.replicate 16 (0 : BitVec 8)).set 5 n
theorem test_warning : gives (exec (.thermalLevelChange (sensor 95) 0 false) ready) (fun t =>
    t.power.warn && !t.power.thr && t.evlog.queue.map (fun e => (e.code, e.p0, e.p1, e.p2)) == [(0x1F, 1, 5, 95)]) = true := by
  decide +kernel
theorem test_trip : gives (exec (.thermalLevelChange (sensor 110) 0 false) ready) (fun t =>
    t.power.trip && (t.part 0).state == 1 && (t.part 0).cause == 2 && t.domains[50]! == 2 && t.domains[147]! == 0) = true := by
  decide +kernel
theorem test_cap_step : gives (exec .throttleCapStep { ready with power := { ready.power with thr := true } }) (fun t =>
    (t.part 7).cap == 1) = true ∧
    gives (exec .throttleCapStep { ready.modPart 7 (fun k => { k with cap := 2 }) with power := { ready.power with cool := true } })
      (fun t => (t.part 7).cap == 1) = true := by decide +kernel
theorem test_emergency_exit : gives (exec .emergencyExit { ready with power := { ready.power with emg := true } }) (fun t =>
    !t.power.emg && t.power.thr) = true := by decide +kernel

/-! Flits. -/

/-- Link 3 is ACTIVE at level 2; its peer's pools hold 10 headers and 40 flits; credit for 5 and 20 is there. -/
def linked : State := ready.modLink 3 (fun k => { k with
  enable := true, state := 5, level := 2, peer := some { hdrs := [10, 10, 10, 10], data := [40, 40, 40, 40] },
  limit := #v[5, 20, 5, 20, 5, 20, 5, 20], expect := 7, highest := 7 })

/-- Flit 0 has left and is not acknowledged. -/
def unacked : State := linked.modLink 3 (fun k => { k with
  nextSeq := 1, replay := [{ seq := 0, vc := 2, sop := true, eop := true, abort := false, body := [] }] })

theorem test_idle_slot : gives (exec (.txFlitSlot 3) linked) (fun t => ((t.link 3).sent.map (fun o => (o.kind, o.hdr.ackSeq))) ==
    some (0, 7) && (t.link 3).csel == 1) = true := by decide +kernel
theorem test_control_slot : gives (exec (.txFlitSlot 3) (linked.modLink 3 (fun k => { k with controls := [.nak [9], .down 4] })))
    (fun t => ((t.link 3).sent.bind (·.ctl)) == some (.down 4) && (t.link 3).controls == [.nak [9]]) = true := by decide +kernel
/-- A packet for link 3 enters the staging buffer, and its one flit leaves with SEQ 0 (R296, R331). -/
def staged : State := { linked with transit := [{ vc := 2, pkt := wrPkt, link := some 3 }] }
theorem test_staging : gives (exec (.stagingBufferEnter 3 2) staged) (fun t => (t.link 3).staging.map (·.vc) == [2] &&
    t.transit == [] && gives (exec (.txFlitSlot 3) t) (fun u =>
      ((u.link 3).sent.map (fun o => (o.kind, o.hdr.seq, o.hdr.sop, o.hdr.eop))) == some (1, 0, true, true) &&
      (u.link 3).replay.map (·.seq) == [0])) = true := by decide +kernel
theorem test_w_staging : (linked.link 3).takes 2 = true ∧ linked.creditFor 3 2 wrPkt = true ∧ (linked.link 3).hears = true ∧
    (linked.link 3).hears = true ∧ (State.reset.link 3).hears = false := by decide +kernel
theorem test_replay : gives (exec (.replayTimeout 3) unacked) (fun t => (t.link 3).resend == [0]) = true ∧
    gives (exec (.replayTimeout 3) (unacked.modLink 3 (fun k => { k with replayLimit := 0 }))) (fun t =>
      (t.link 3).state == 8 && (t.link 3).reason == 2) = true := by decide +kernel
/-- Of two holes only the one last named 128 ns ago is named again (R298). -/
theorem test_nak_repeat : gives (exec (.nakRepeatTimer 3) { linked.modLink 3 (fun k => { k with
    holes := [⟨7, 20⟩, ⟨8, 21⟩], highest := 9 }) with time := 148 }) (fun t => (t.link 3).controls == [.nak [7]]) = true := by
  decide +kernel

/-- A header that acknowledges nothing new and grants the credit that is there already. -/
def hdr0 : FlitHdr := { credit := 5, seq := 7 }
theorem test_w_header : hdrOk (linked.link 3) hdr0 ∧ hdrOk (unacked.link 3) { hdr0 with ackSeq := 1 } := by
  unfold hdrOk; decide +kernel
/-- The receiver finds a flit of a TYPE with its own CRC (R281, R283). -/
def okRx (ty : Nat) (h : FlitHdr) (msg : List Byte) : Rx := { crc := crc32c (coveredBytes h ty (toBody msg)) }
def okCtl (h : FlitHdr) (c : Control) : Rx := okRx 2 h c.bytes
theorem test_bad_flit : gives (exec (.rxIdleFlit 3 { okRx 0 hdr0 [] with fecUncorr := 2 } hdr0) linked) (fun t =>
    (t.link 3).badFlit == 1 && (t.link 3).fecUncorr == 2) = true ∧
    gives (exec (.rxIdleFlit 3 { crc := 0 } hdr0) linked) (fun t => (t.link 3).badFlit == 1) = true := by decide +kernel
theorem test_rx_idle : gives (exec (.rxIdleFlit 3 (okRx 0 { hdr0 with ackSeq := 1 } []) { hdr0 with ackSeq := 1 }) unacked)
    (fun t => (t.link 3).replay == []) = true := by decide +kernel
/-- The expected flit with a whole packet for this chip: it is on the spines, and its room is free again. -/
theorem test_rx_data : let h : FlitHdr := { hdr0 with sop := true, eop := true, vc := 2 }
    let b := (packetBodies wrPkt).headD []
    gives (exec (.rxDataFlit 3 (okRx 1 h b) h b) linked) (fun t => t.transit.map (fun m => (m.vc, m.pkt, m.inp)) == [(2, wrPkt, some 3)] && (t.link 3).expect == 8) = true := by
  decide +kernel
theorem test_rx_data_malformed : exec (.rxDataFlit 3 {} hdr0 [1, 2]) ready = .fault .malformedFlit := rfl
theorem test_rx_nak : gives (exec (.rxNak 3 (okCtl hdr0 (.nak [0])) hdr0 [0]) unacked) (fun t => (t.link 3).resend == [0]) = true := by
  decide +kernel
theorem test_rx_goback : gives (exec (.rxGoback 3 (okCtl hdr0 (.goback 0)) hdr0 0) unacked) (fun t => (t.link 3).resend == [0]) = true := by
  decide +kernel
theorem test_rx_reset : gives (exec (.rxResetFlit 3 (okCtl hdr0 (.reset 4 0)) hdr0 4 0) linked) (fun t => (t.link 3).state == 8 && (t.link 3).reason == 6 &&
    (t.link 3).asked == 1 && (t.link 3).downs == 1) = true := by decide +kernel
theorem test_rx_leave : gives (exec (.rxLeave 3 (okCtl hdr0 .leave) hdr0) linked) (fun t => (t.link 3).reason == 7) = true := by decide +kernel
theorem test_rx_down : gives (exec (.rxDown 3 (okCtl hdr0 (.down 2)) hdr0 2) linked) (fun t => (t.link 3).reason == 4) = true := by decide +kernel
theorem test_rx_hold : gives (exec (.rxHold 3 (okCtl hdr0 (.hold 2)) hdr0 2) linked) (fun t => (t.link 3).reason == 4) = true := by decide +kernel
/-- In PARAM with its own message sent; the entry plans nothing, so the link is ACTIVE (R341). -/
def training (n : BitVec 4) : State := ready.modLink 3 (fun k => { k with enable := true, state := n, paramSent := true })
def peerMsg : ParamMsg := { peerSeen := true, chip := 9, link := 2, data := [1, 1, 1, 1], hdrs := [1, 1, 1, 1], tsEcho := 100, tsHold := 20 }
theorem test_rx_param : gives (exec (.rxParam 3 (okCtl {} (.param peerMsg)) {} peerMsg 220) (training 4)) (fun t => (t.link 3).rtt == 100 &&
    (t.rte.plans[3]).dChip == 9 && (t.link 3).level == 2) = true := by decide +kernel

/-! Links. -/

theorem test_lock : gives (exec (.lockLost 3) linked) (fun t => !(t.link 3).locked &&
    gives (exec (.lockRegained 3) t) (fun u => (u.link 3).locked && (u.link 3).lockLoss == 1) &&
    gives (exec (.lockDownTimeout 3) t) (fun u => (u.link 3).state == 8 && (u.link 3).reason == 1)) = true := by decide +kernel
theorem test_detect : gives (exec (.linkDetectPeer 3) (training 1)) (fun t => (t.link 3).state == 2) = true := by decide +kernel
/-- Lane 0 does not pass: of the two half-width sets the upper one is left (R278). -/
theorem test_train : gives (exec (.linkTrainDone 3 0xFE 0) (training 2)) (fun t => (t.link 3).state == 3 && (t.link 3).width == 1 &&
    (t.link 3).lanes == 0xF0) = true := by decide +kernel
theorem test_align : gives (exec (.linkAlignDone 3) (training 3)) (fun t => (t.link 3).state == 4 && !(t.link 3).paramSent) = true := by
  decide +kernel
theorem test_state_timeout : gives (exec (.linkStateTimeout 3) (training 2)) (fun t => (t.link 3).state == 1 && (t.link 3).fails == 1) =
    true ∧ gives (exec (.linkStateTimeout 3) ((training 2).modLink 3 (fun k => { k with fails := 7 }))) (fun t =>
      (t.link 3).state == 9 && t.evlog.queue.map (·.code) == [0x13]) = true := by decide +kernel
/-- The PLL of group 1 is locked. -/
def lockedG : State := { training 8 with chip := { ready.chip with groupLock := 2 } }
theorem test_retrain : gives (exec (.downRetrainTimer 3) lockedG) (fun t => (t.link 3).state == 1) = true := by decide +kernel
theorem test_plan_missing : gives (exec (.planMissingTimeout 3) { ready with
    rte := { ready.rte with plans := ready.rte.plans.set 3 { valid := true } } }) (fun t =>
      (t.rte.plans[3]).outcome == 10 && t.evlog.queue.map (·.code) == [0x14]) = true := by decide +kernel
theorem test_drained : gives (exec (.gracefulDrainDone 3) (linked.modLink 3 (fun k => { k with
    graceful := true, resetTo := some 4, resetWhy := 5 }))) (fun t => (t.link 3).state == 8 && (t.link 3).reason == 5 &&
      (t.link 3).controls == [.reset 4 5]) = true := by decide +kernel
theorem test_group_pll : gives (exec (.groupPllLocked 1) ((training 0).modLink 3 (fun k => { k with groupRate := 2 }))) (fun t =>
    t.chip.groupLock == 2 && (t.link 3).state == 1 && (t.link 3).rate == 2) = true := by decide +kernel
theorem test_link_enable : gives (exec (.linkEnable 4) lockedG) (fun t => (t.link 4).enable && (t.link 4).state == 1 &&
    t.domains[116]! == 0) = true := by decide +kernel
theorem test_link_disable : gives (exec (.linkDisable 3) linked) (fun t => (t.link 3).state == 0 && !(t.link 3).enable &&
    (t.link 3).reason == 9 && t.domains[115]! == 2 && t.domains[137]! == 2) = true := by decide +kernel

/-! Tables and ports. -/

theorem test_plan_write : gives (exec (.rtePlanWrite 5 (BitVec.ofNat 32 (2 ^ 31 + 4 * 2 ^ 15 + 77)) (~~~0)) ready) (fun t =>
    (t.rte.plans[5]).valid && (t.rte.plans[5]).peerLink == 4 && (t.rte.plans[5]).peerChip == 77) = true := by decide +kernel
/-- Bank 1 is EMPTY: entries 10 and 11; bank 0 is ACTIVE and takes nothing (R327, R357). -/
theorem test_table_write : gives (exec (.rteTableWrite 1 5 0x00420041 (~~~0)) ready) (fun t =>
    t.rte.entry 1 10 == 0x41 && t.rte.entry 1 11 == 0x42) = true ∧
    gives (exec (.rteTableWrite 0 5 0x00420041 (~~~0)) ready) (fun t => t.rte.entry 0 10 == 0) = true := by decide +kernel
/-- Without ACTIVE links a round is done at once; the last one frees the bank (R329). -/
theorem test_drain : gives (exec (.rxDrain 3 2 (toMe 5 0 1 0 0 [])) { ready with
    rte := { ready.rte with round := 5, bank := #v[2, 3] } }) (fun t => t.rte.bank[1] == 0 && t.rte.round == 0) = true := by decide +kernel

/-- Port 0 is up, has PTP and an address. -/
def upPort : State := { ready.modPort 0 (fun k => { k with linkUp := true }) with
  store := { ready.store with cfg := { ready.store.cfg with root := some [], ip4 := 0x0A000001, ip6 := 5 } } }
theorem test_w_port : (upPort.port 0).enable = true ∧ (upPort.port 0).ptpEn = true ∧ upPort.ip4 0 = 0x0A000001 ∧ upPort.ip6 0 = 5 := by
  decide +kernel
theorem test_host_mode : gives (exec (.hostModeWrite 0 2) upPort) (fun t => (t.port 0).mode == 2 && !(t.port 0).linkUp) = true := by
  decide +kernel
theorem test_ptp_en : gives (exec (.hostPtpEnWrite 1) upPort) (fun t => (t.port 1).ptpEn && !(t.port 0).ptpEn) = true := by decide +kernel
theorem test_host_enable : gives (exec (.hostEnableWrite 0 false) upPort) (fun t => !(t.port 0).linkUp && t.domains[144]! == 2) = true := by
  decide +kernel
theorem test_pcs : gives (exec (.pcsAligned 1) ready) (fun t => (t.port 1).linkUp && (t.port 1).modeActive == 0) = true ∧
    gives (exec (.pcsAlignmentLost 0) upPort) (fun t => !(t.port 0).linkUp) = true := by decide +kernel
theorem test_arp : gives (exec (.arpRequest 0 0x0A000001) upPort) (fun t => (t.port 0).sent.isSome) = true ∧
    gives (exec (.arpRequest 0 0x0A000002) upPort) (fun t => (t.port 0).sent.isNone) = true := by decide +kernel
theorem test_neighbour : gives (exec (.neighbourSolicit 0 5) upPort) (fun t => (t.port 0).sent.isSome) = true := by decide +kernel
/-- The port stands 2,000 ns ahead: the offset is kept and the time is set back (R441, R442). -/
theorem test_ptp : gives (exec (.ptpSync 0 0 true 7 0 5000) { upPort with time := 9000 }) (fun t =>
    gives (exec (.ptpFollowUp 0 0 7 2900) t) (fun u =>
      gives (exec (.ptpDelayResp 0 0 6000 4100) u) (fun v =>
        (v.port 0).ptpLock && (v.port 0).ptpOffset == 2000 && v.time == 7000))) = true := by decide +kernel
theorem test_ptp_timeout : gives (exec .ptpSyncTimeout (upPort.modPort 0 (fun k => { k with ptpLock := true }))) (fun t =>
    !(t.port 0).ptpLock) = true := by decide +kernel

/-! Sessions and commands of the host. -/

def ses : Session := { id := 1, key := 5, skey := 9 }
def upP : HostPort := { linkUp := true, sessions := [ses] }

/-- Port 0 is up with a session of key 5, an ADMIN, which owns every partition; nothing is recorded. -/
def onHost (s : State) : State :=
  { s with
    ports := #v[upP, {}], safety := false, parts := s.parts.map (fun k => { k with owner := 5 }),
    store := { s.store with cfg := { s.store.cfg with root := some [], keys := [(5, { admin := true })] } },
    work := { s.work with recording := { s.work.recording with running := false } } }

def frame0 : Frame := { port := 0, session := 1, seq := 1, tag := 0 }

/-- The session's first frame for a command, with its tag. -/
def signed (op : Nat) (body : List Byte) : Frame := { frame0 with tag := sctTag 9 (frameBytes frame0 0 op body) }

/-- The state that an accepted first command runs in. -/
def ran (s : State) : State := accepted (onHost s) frame0 ses

theorem test_w_owner (s : State) (p : PartId) : ((ran s).part p).owner = 5 := by
  simp [ran, accepted, onHost, State.modPort, State.setPort, State.part]

theorem test_w_fresh (s : State) (op : Nat) (body : List Byte) : fresh (onHost s) (signed op body) ses := by
  refine ⟨?_, ?_, rfl, ?_, ?_⟩
  · show (ses.hear frame0.rack).rack.toNat ≤ frame0.seq.toNat; decide
  · show frame0.seq.toNat < (ses.hear frame0.rack).rack.toNat + 4096; decide
  · show (ses.hear frame0.rack).rack.toNat ≤ 0xFFFFF000; decide
  · show (upP.setSession (ses.hear frame0.rack)).accepts = true; decide

/-- An accepted command runs: the hypotheses of every statement about a command are met. -/
theorem test_w_taken {s : State} {c : Instr} {r : Rule} {body keep : List Byte}
    (h : hostRule (onHost s) c = some (signed r.op body, r, body, keep)) (hb : r.bad = false) (hl : body.length ≤ 8192) :
    taken (onHost s) (ran s) c := by
  have hrec : (ran s).recorded (signed r.op body) r keep = ran s := by
    have : (ran s).work.recording.running = false := rfl
    cases ha : r.auth with
    | owner p => simp [State.recorded, ha, State.recCommand, this, hb]
    | _ => simp [State.recorded, ha]
  have hses : ∃ y : Session, (ran s).session (signed r.op body) = some y ∧ y.key = 5 := ⟨_, rfl, rfl⟩
  obtain ⟨y, hy, hk⟩ := hses
  have hsafe : (ran s).safety = false := rfl
  have hauth : (ran s).authorised (signed r.op body) r.auth = true := by
    cases ha : r.auth with
    | any => simp [State.authorised, hy]
    | admin =>
      have : (ran s).hostKey 5 = some { admin := true } := rfl
      simp [State.authorised, hy, hk, this]
    | owner p => simp [State.authorised, hy, hk, test_w_owner]
  refine ⟨signed r.op body, r, body, keep, ses, h, ⟨rfl, rfl, ?_, ?_, rfl, ?_⟩, test_w_fresh s r.op body, ?_, ?_⟩
  · change (upP.carries {} && true) = true; decide
  · have h2 : ((signed r.op body).cls == 0) = false := rfl
    have h3 : optBlock (signed r.op body).sig = [] := rfl
    simp only [frameBad, h2, h3]
    simpa using hl
  · exact beq_iff_eq.2 rfl
  · change State.refusal ((ran s).recorded (signed r.op body) r keep) _ _ _ = none
    have h2 : (signed r.op body).cls = 1 := rfl
    rw [hrec]
    simp [State.refusal, h2, hb, hauth, hsafe]
  · change State.token ((ran s).recorded (signed r.op body) r keep) _ _ = some (ran s)
    have h2 : (signed r.op body).cls = 1 := rfl
    rw [hrec]
    cases ha : r.auth with
    | owner p => simp [State.token, ha, h2]
    | _ => simp [State.token, ha]

/-- An unclaimed module has no address: a frame in UDP is dropped (R453); one that asks for another's is too (R418). -/
theorem test_no_address : (ran ready).carries 0 { kind := 1 } = false ∧ (ran ready).carries 0 {} = true ∧
    gives (exec (.arpRequest 0 7) (ran ready)) (fun t => (t.port 0).dropFormat == 1) = true := by decide +kernel
/-- The command of a session that ends stays outstanding (R429, R442). -/
theorem test_orphan : gives (exec (.sessionIdleTimeout 0 1) (ran ready)) (fun t => (t.port 0).sessions == [] &&
    (t.port 0).orphans == [(1, 1)] && (t.port 0).outstanding == 1) = true := by decide +kernel
/-- A port without UDP over IPv4 takes no frame in it, and one in UDP is for its own port number (R421). -/
theorem test_carrier : ({ encap := 1 } : HostPort).carries { kind := 1 } = false ∧
    ({} : HostPort).carries { kind := 1, dport := 0xBC5A } = true ∧ ({} : HostPort).carries { kind := 1, dport := 1 } = false := by
  decide

/-- Some frame makes the command one that port 0 takes. -/
def takenBy (s : State) (c : Frame → Instr) : Prop := ∃ f, taken (onHost s) (ran s) (c f)

def p0 (k : Part) : State := { ready with parts := ready.parts.set 0 { k with owner := 5 } }
def keyA : HostKey := { admin := true, pub := List.replicate 1793 0 }
def loadP : LoadHdr := { total := 8, offset := 0, part := 0 }
def submitP : SubmitHdr := { part := 0, ntok := 2, maxout := 4 }

theorem test_w_regRead : takenBy ready (.regRead · 0x4000408 1) := ⟨_, test_w_taken rfl rfl (by decide)⟩
theorem test_w_regWrite : takenBy ready (.regWrite · 0x4000408 500 (~~~0)) := ⟨_, test_w_taken rfl rfl (by decide)⟩
theorem test_w_cfgStage : takenBy ready (.cfgStage · (.safety true)) := ⟨_, test_w_taken rfl rfl (by decide)⟩
theorem test_w_cfgCommit : takenBy ready (.cfgCommit · 5 false) := ⟨_, test_w_taken rfl rfl (by decide)⟩
theorem test_w_partStop : takenBy ready (.partStop · 0 1) := ⟨_, test_w_taken rfl rfl (by decide)⟩
theorem test_w_partStart : takenBy ready (.partStart · 1) := ⟨_, test_w_taken rfl rfl (by decide)⟩
theorem test_w_progLoad : takenBy ready (.progLoad · loadP [1, 2, 3, 4]) := ⟨_, test_w_taken rfl rfl (by decide)⟩
theorem test_w_progPatch : takenBy ready (.progPatch · 0 [(0, 1)]) := ⟨_, test_w_taken rfl rfl (by decide)⟩
theorem test_w_submit : takenBy ready (.submit · submitP [7, 8]) := ⟨_, test_w_taken rfl rfl (by decide)⟩
theorem test_w_cancel : takenBy ready (.cancel · 0) := ⟨_, test_w_taken rfl rfl (by decide)⟩
theorem test_w_query : takenBy ready (.query · 0 0 0 0) := ⟨_, test_w_taken rfl rfl (by decide)⟩
theorem test_w_results : takenBy ready (.results · 0 0 10 true) := ⟨_, test_w_taken rfl rfl (by decide)⟩
theorem test_w_budgetSet : takenBy ready (.budgetSet · 0 15 3 100 5 1000 0) := ⟨_, test_w_taken rfl rfl (by decide)⟩
theorem test_w_adapterLoad : takenBy ready (.adapterLoad · loadP [1, 2]) := ⟨_, test_w_taken rfl rfl (by decide)⟩
theorem test_w_routeStage : takenBy ready (.routeStage · 16 true [3, 4]) := ⟨_, test_w_taken rfl rfl (by decide)⟩
theorem test_w_routeSwitch : takenBy ready .routeSwitch := ⟨_, test_w_taken rfl rfl (by decide)⟩
theorem test_w_linkReset : takenBy ready (.linkReset · 3 4 3 true) := ⟨_, test_w_taken rfl rfl (by decide)⟩
theorem test_w_linkLeave : takenBy ready (.linkLeave · 8) := ⟨_, test_w_taken rfl rfl (by decide)⟩
theorem test_w_hotplugPrepare : takenBy ready (.hotplugPrepare · true) := ⟨_, test_w_taken rfl rfl (by decide)⟩
theorem test_w_lockstepPair : takenBy ready (.lockstepPair · 2 9 0 true false) := ⟨_, test_w_taken rfl rfl (by decide)⟩
theorem test_w_recordStart : takenBy ready (.recordStart · 1 5 false false) := ⟨_, test_w_taken rfl rfl (by decide)⟩
theorem test_w_recordStop : takenBy ready (.recordStop · true true 0 64) := ⟨_, test_w_taken rfl rfl (by decide)⟩

/-! What the commands answer (R434 to R440). -/

/-- LIMIT is 0x640 after reset (R500). -/
theorem test_regRead : (State.regRead 0x4000408 1 (ran ready)).1 = some (0, [0x40, 0x06, 0, 0]) := by decide +kernel
theorem test_regWrite : (State.regWrite 0x4000408 500 (~~~0) (ran ready)).1 = some (0, [0xF4, 0x01, 0, 0]) ∧
    (State.regWrite 0x4000408 399 (~~~0) (ran ready)).1 = some (0, [0x40, 0x06, 0, 0]) := by decide +kernel

theorem test_cfgStage : (State.cfgStage (signed 0 []) (.chip 7 0 0) (ran ready)).1 = some (0, [1, 0, 0, 0]) := by
  decide +kernel
theorem test_cfgCommit : (State.cfgCommit frame0 3 false (State.cfgStage frame0 (.chip 7 0 0)
    (ran (p0 { state := 1 }))).2).2.chipId = 7 := by decide +kernel

theorem test_partStop : (fun r => (r.1, (r.2.part 0).state)) (State.partStop frame0 0 1 (ran ready)) =
    (some (0, [1]), 1) := by decide +kernel
theorem test_partStop_graceful : (fun r => (r.1, (r.2.part 0).state)) (State.partStop frame0 0 0 (ran ready)) =
    (none, 4) := by decide +kernel
theorem test_partStart : (fun r => (r.1, (r.2.part 0).state)) (State.partStart frame0 0 (ran (p0 { state := 1 }))) =
    (none, 2) := by decide +kernel
theorem test_partStart_empty : (State.partStart frame0 1 (ran ready)).1 = some (3, [0]) := by decide +kernel

/-- A part of an image is kept until the image is complete. -/
theorem test_progLoad_part : (State.progLoad frame0 0 loadP [1, 2, 3, 4] (ran ready)).1 = some (0, [4, 0, 0, 0]) := by
  decide +kernel
theorem test_progPatch_none : (State.progPatch false 1 [] (ran ready)).1 = some (4, []) := by decide +kernel

theorem test_submit : (fun r => (r.1, ((r.2.part 0).slots.map (fun x => (x.1, x.2.state, x.2.ntok)))))
    (State.submit 0 frame0 0 submitP [7, 8] (ran (p0 { state := 1, srvMode := 1 }))) =
    (some (0, [0, 0, 0, 0]), [(0, .queued, 2)]) := by decide +kernel

def queued4 : State := ran (p0 { state := 1, srvMode := 1, slots := [(4, { out := [11, 12], vis := 2 })] })
def done4 : State := ran (p0 { state := 1, srvMode := 1, slots := [(4, { state := .done, out := [11, 12], vis := 2 })] })

/-- REQ of slot 4 of partition 0, generation 0. -/
def req4 : BitVec 32 := BitVec.ofNat 32 (reqId 0 4 0)

theorem test_cancel : (fun r => (r.1, (alGet (r.2.part 0).slots 4).map (fun x => (x.state, x.status))))
    (State.cancel req4 queued4) = (some (0, [4]), some (.done, 10)) := by decide +kernel
theorem test_query : (State.query req4 0 0 0 done4).1 = some (0, [4, 0, 0, 0, 0, 0, 0, 0, 2, 0, 0, 0]) := by
  decide +kernel
theorem test_query_budget : (State.query 0 1 3 0 done4).1 =
    some (0, [0, 0, 0, 0, 0xFF, 0xFF, 0xFF, 0xFF, 0xFF, 0xFF, 0xFF, 0x7F, 0, 0, 0, 0]) := by decide +kernel
/-- The values have all been returned, so RELEASE frees the slot. -/
theorem test_results : (fun r => (r.1.map (fun x => (x.1, x.2.drop 16)), (r.2.part 0).slots))
    (State.results req4 0 10 true done4) = (some (0, [11, 0, 0, 0, 12, 0, 0, 0]), []) := by decide +kernel
theorem test_budgetSet : (State.budgetSet 0 5 3 100 5 1000 0 (ran ready)).1 =
    some (0, [100, 0, 0, 0, 0xFF, 0xFF, 0xFF, 0xFF, 0xE8, 0x03, 0, 0, 0, 0, 0, 0]) := by decide +kernel
theorem test_adapter_remove : (State.adapterLoad frame0 0 { loadP with total := 0, adapter := 5, remove := true, slot := 2 } []
    (ran ready)).1 = some (4, []) := by decide +kernel

theorem test_routeStage : (fun r => (r.1, smGet r.2.rte.table[0] 16, smGet r.2.rte.table[0] 17, smGet r.2.rte.table[0] 18))
    (State.routeStage 16 true [3, 4] (ran { ready with rte := { ready.rte with bank := #v[0, 2] } })) =
    (some (0, [(0 : Byte), 1]), (3 : BitVec 8), (4 : BitVec 8), smGet ready.rte.table[0] 18) := by decide +kernel
theorem test_routeSwitch : (fun r => (r.1, r.2.rte.bank.toList))
    (State.routeSwitch (ran { ready with rte := { ready.rte with bank := #v[1, 2] } })) =
    (some (0, [0]), [2, 0]) := by decide +kernel
theorem test_linkReset : (((State.linkResetRun frame0 3 4 3 false (ran ready)).2).link 3).targetWidth = 1 := by
  decide +kernel
theorem test_linkLeave : (State.linkLeaveRun frame0 0x1000000 (ran ready)).1 = some (4, []) := by decide +kernel
theorem test_hotplugPrepare : (fun r => (r.1, r.2.chip.hpState, (r.2.part 0).state))
    (State.hotplugPrepare frame0 true (ran ready)) = (none, 1, 1) := by decide +kernel
theorem test_lockstepPair : (fun r => (r.1, (r.2.part 0).ls.paired, (r.2.part 0).ls.twinChip))
    (State.lockstepPair 1 9 0 true false (ran (p0 { state := 1 }))) = (some (0, [1]), true, 9) := by decide +kernel
theorem test_recordStart : (fun r => (r.1, r.2.work.recording.running))
    (State.recordStart 1 5 false false (ran { ready with parts := ready.parts.set 5 { sleepState := 0 } })) =
    (some (0, [5]), true) := by decide +kernel
theorem test_recordStop : (fun r => (r.1.map (·.1), r.2.work.recording.held))
    (State.recordStop true true 0 64 (ran ready)) = (some 0, false) := by decide +kernel

/-! Setup frames, other frames and the timers of sessions, loads and prompts (R418, R425 to R429, R436, R439). -/

def portOf (x : Session) : State := { upPort with ports := upPort.ports.set 0 { upP with sessions := [x] } }

/-- The OPCODE and STATUS of the answer to a SETUP frame. -/
def setupSent (t : State) : Option (Nat × Nat) :=
  match (t.port 0).sent with
  | some (.sct f) => some (f.op.toNat, f.status)
  | _ => none

def withNonce : State := { upPort with ports := upPort.ports.set 0 { upP with nonces := [(77, 0)] } }

theorem test_identify_version : gives (exec (.identify { port := 0, ver := 2 }) upPort) (fun t => setupSent t == some (1, 13)) =
    true := by decide +kernel
theorem test_identify : gives (exec (.identify { port := 0 }) upPort) (fun t => setupSent t == some (1, 0) &&
    (t.port 0).nonces.length == 1) = true := by decide +kernel
theorem test_attest_bounds : gives (exec (.attest { port := 0 } 0 0x1000) upPort) (fun t => setupSent t == some (2, 4)) = true := by
  decide +kernel
theorem test_attest : gives (exec (.attest { port := 0 } 0 0xFFF) upPort) (fun t => setupSent t == some (2, 0)) = true := by
  decide +kernel
theorem test_session_no_nonce : gives (exec (.sessionOpen { port := 0 } 5 0 77 1) upPort) (fun t => setupSent t == some (3, 3)) =
    true := by decide +kernel
/-- No key has index 6. -/
theorem test_session_no_key : gives (exec (.sessionOpen { port := 0 } 6 0 77 1) { withNonce with store := (onHost ready).store })
    (fun t => setupSent t == some (3, 3)) = true := by decide +kernel
theorem test_w_nonce : (∃ x ∈ (withNonce.port 0).nonces, x.1 = 77 ∧ withNonce.time.toNat ≤ x.2.toNat + 10000000000) ∧
    (onHost ready).hostKey 5 = some { admin := true } := ⟨⟨(77, 0), by decide⟩, rfl⟩

theorem test_other_frame : gives (exec (.otherFrame 0 1 0 0 0) upPort) (fun t => (t.port 0).dropFormat == 1) = true ∧
    gives (exec (.otherFrame 0 2 0 0 0) upPort) (fun t => (t.port 0).dropTag == 1) = true ∧
    gives (exec (.otherFrame 0 3 0 0 0) upPort) (fun t => (t.port 0).dropSeq == 1) = true ∧
    gives (exec (.otherFrame 0 5 9 0 0) upPort) (fun t => setupSent t == some (9, 13)) = true := by decide +kernel
theorem test_other_command : gives (exec (.otherFrame 0 4 0x99 1 1) (portOf ses)) (fun t =>
    (t.port 0).sessions.map (fun x => x.kept.map (fun r => (r.seq, r.op, r.status))) == [[(1, 0x99, 13)]]) = true := by
  decide +kernel

/-- A frame with RACK alone, with its tag, drops the response that it acknowledges. -/
def ack0 : Frame := { frame0 with rack := 2 }
def ack2 : Frame := { ack0 with tag := sctTag 9 (frameBytes ack0 2 0 []) }
def sesAck : Session := { ses with seen := [1], kept := [{ seq := 1, op := 0x42, status := 0 }] }
theorem test_w_ack_bytes : frameBytes ack2 2 0 [] = frameBytes ack0 2 0 [] := by simp only [frameBytes, ack2]
theorem test_w_ack_tag : frameGood ack2 9 2 0 [] = true := by
  rw [frameGood, test_w_ack_bytes, ack2, beq_self_eq_true]
theorem test_w_ack : (portOf sesAck).session ack2 = some sesAck ∧ sesAck.skey = 9 ∧
    sesAck.rack.toNat < ack2.rack.toNat ∧ ack2.rack.toNat ≤ sesAck.highest + 1 := ⟨rfl, rfl, by decide, by decide⟩
theorem test_ack : sesAck.hear 2 = { sesAck with rack := 2, seen := [], kept := [] } := by decide

theorem test_session_idle : gives (exec (.sessionIdleTimeout 0 1) (portOf ses)) (fun t => (t.port 0).sessions.isEmpty) = true := by
  decide +kernel
theorem test_load_timeout : gives (exec .loadObjectTimeout (State.progLoad frame0 0 loadP [1, 2, 3, 4] (ran ready)).2) (fun t =>
    t.work.load.isNone) = true := by decide +kernel
theorem test_prompt_timeout : gives (exec (.promptPartTimeout 1 1) { ready with work := { ready.work with
    prompts := [{ port := 0, session := 1, seq := 1, hdr := submitP }] } }) (fun t => t.work.prompts.isEmpty) = true := by
  decide +kernel

def slotsOf (r : Request) : State := { p0 { state := 1, srvMode := 1, slots := [(4, r)] } with time := 50 }
/-- HOLD is 60 s. -/
theorem test_done_hold : gives (exec (.doneHoldExpiry 0 4) { slotsOf { state := .done } with time := 60000000000 }) (fun t =>
    (t.part 0).slots.isEmpty && smGet (t.part 0).gens 4 == 1 && (t.part 0).doneExpired == 1) = true ∧
    gives (exec (.doneHoldExpiry 0 4) { slotsOf { state := .done } with time := 59999999999 }) (fun t =>
      (t.part 0).slots.length == 1) = true := by decide +kernel
/-- The deadline has passed only after its nanosecond. -/
theorem test_drop_late : gives (exec (.dropLateDeadline 0 4) (slotsOf { dropLate := true, deadline := 49 })) (fun t =>
    (t.part 0).slots.map (fun x => (x.2.state, x.2.status)) == [(.done, 10)]) = true ∧
    gives (exec (.dropLateDeadline 0 4) (slotsOf { dropLate := true, deadline := 50 })) (fun t =>
    (t.part 0).slots.map (fun x => x.2.state) == [.queued]) = true := by decide +kernel
theorem test_refill : ({ balance := 5, rate := 1500, cap := 6, frac := 400 } : Budget).refill =
    { balance := 6, rate := 1500, cap := 6, frac := 900 } := by decide
theorem test_budget_refill : gives (exec .budgetRefill (p0 { budgets := [(3, { balance := 1, rate := 2000, cap := 100 })] }))
    (fun t => ((t.part 0).budget 3).balance == 3) = true := by decide +kernel
theorem test_token : gives (exec (.hostC0TokenRefill 0) (p0 { c0Tokens := 1, c0Burst := 2 })) (fun t => (t.part 0).c0Tokens == 2) =
    true ∧ gives (exec (.hostC0TokenRefill 0) (p0 { c0Tokens := 2, c0Burst := 2 })) (fun t => (t.part 0).c0Tokens == 2) = true := by
  decide +kernel

/-- One queued request with one prompt token: one row, a block, and the rest of the rows left. -/
def admitP : Part := { state := 3, srvMode := 1, maxRows := 16, ndesc := 64, slots := [(4, { ntok := 1, prompt := [7], outLeft := 2 })] }
theorem test_w_admit : (admitP.slots.map (·.1)).Nodup ∧ (∀ e ∈ admitP.endedNext, e.ended = true ∧ e.rows = 0) ∧
    (∀ x ∈ admitP.slots, x.2.pos < x.2.ntok → x.2.prompt.length = x.2.ntok - x.2.pos) := by decide
theorem test_admit : admitP.admitBatch.tokens.length = (admitP.admitBatch.ents.map (·.rows)).sum ∧ admitP.admitBatch.ents.length = 1 := by
  decide +kernel

/-! Lock-step pairs (R483 to R487): twin 9 of partition 0. -/

def rec1 : LsRecord := ⟨7, 1, 0xAB⟩
def rec1x : LsRecord := ⟨7, 1, 0xAC⟩
def rec2 : LsRecord := ⟨7, 2, 0xCD⟩
def twinned (k : Part) (l : Lockstep) : State := p0 { k with ls := { l with paired := true, twinChip := 9 } }
def prog1 : Program :=
  { digest := [0x34, 0x12, 0, 0], regions := [], chipmap := [], patches := [], fixedOrder := true, ilv := false, ncores := 8,
    level := 0, c0use := false, flock := 5, planIndex := 0 }

theorem test_ls_match : lsMatch [rec1, rec2] [rec1] = (none, [rec2], []) ∧ lsMatch [rec2, rec1] [rec1x] =
    (some rec1, [rec2, rec1], [rec1x]) := by decide
theorem test_w_records : distinctRecords [rec1, rec2] ∧ distinctRecords [rec1x] ∧ LsRecord.same rec1 rec1x = true ∧
    rec1x.check ≠ rec1.check := by unfold distinctRecords; decide
theorem test_hello_resend : gives (exec (.helloResend 0) (twinned { state := 2, prog := some prog1 } {})) (fun t =>
    (t.part 0).ls.helloSent) = true := by decide +kernel
theorem test_hello_timeout : gives (exec (.helloTimeout 0) (twinned { state := 2 } {})) (fun t => (t.part 0).state == 1 &&
    (t.part 0).cause == 10 && (t.part 0).ls.reason == 2) = true ∧
    gives (exec (.helloTimeout 0) (twinned { state := 2 } { helloSeen := true })) (fun t => (t.part 0).state == 2) = true := by
  decide +kernel
theorem test_rx_hello : gives (exec (.rxLsHello 0 0x1234 8 5) (twinned { state := 2, prog := some prog1 } {})) (fun t =>
    (t.part 0).ls.helloSeen) = true ∧
    gives (exec (.rxLsHello 0 0x1234 8 6) (twinned { state := 2, prog := some prog1 } {})) (fun t =>
    (t.part 0).ls.helloBad && !(t.part 0).ls.helloSeen) = true := by decide +kernel
theorem test_rx_records : gives (exec (.rxLsRecords 0 [rec1]) (twinned { state := 3 } { own := [rec1, rec2] })) (fun t =>
    (t.part 0).ls.own == [rec2] && (t.part 0).state == 3) = true := by decide +kernel
theorem test_rx_records_differ : gives (exec (.rxLsRecords 0 [rec1x]) (twinned { state := 3 } { own := [rec1] })) (fun t =>
    (t.part 0).state == 1 && (t.part 0).cause == 9 && (t.part 0).ls.reason == 1 && (t.part 0).ls.stream == 7) = true := by
  decide +kernel
theorem test_rx_halt : gives (exec (.rxLsHalt 0 7 1) (twinned { state := 3 } {})) (fun t => (t.part 0).state == 1 &&
    (t.part 0).cause == 9) = true := by decide +kernel
theorem test_rx_batch : gives (exec (.rxLsBatch 0 [0]) (twinned { state := 3, stepping := true } { follower := true })) (fun t =>
    (t.part 0).stepping) = true ∧
    gives (exec (.rxLsBatch 0 [0]) (twinned { state := 4 } { follower := true })) (fun t =>
    (t.part 0).ls.batches == [[0]]) = true := by decide +kernel
theorem test_record_flush : gives (exec (.lsRecordFlush 0) (twinned { state := 3 } { unsent := [rec1] })) (fun t =>
    (t.part 0).ls.unsent == []) = true := by decide +kernel
theorem test_ls_timeout : gives (exec (.lsTimeout 0 7 1) (twinned { state := 3 } { own := [rec1] })) (fun t =>
    (t.part 0).state == 1 && (t.part 0).cause == 10 && (t.part 0).ls.reason == 2) = true ∧
    gives (exec (.lsTimeout 0 7 1) (twinned { state := 3 } { own := [rec2] })) (fun t => (t.part 0).state == 3) = true := by
  decide +kernel

/-! Start, reset, removal, the test ports, the event log and the journal. -/

theorem test_power : gives (exec .powerApplied State.reset) (fun t => t.chip.pwrGood && !t.chip.resetLow) = true := by
  decide +kernel
def poweredOn : State := { State.reset with chip := { State.reset.chip with powered := true, pwrGood := true, resetLow := false } }
/-- No owner slot is valid: the module starts unclaimed (R453). -/
theorem test_cold_start : gives (exec (.coldStart true true [] []) poweredOn) (fun t => t.chip.step == 12 && t.chip.unclaimed &&
    t.chip.fault == 0) = true := by decide +kernel
theorem test_cold_start_fault : gives (exec (.coldStart false true [] []) poweredOn) (fun t => t.chip.fault == 1 &&
    !(t.port 0).enable) = true := by decide +kernel
theorem test_power_loss : gives (exec .powerLoss { ready with chip := { poweredOn.chip with derived := true } }) (fun t =>
    !t.chip.powered && (t.part 0).state == 0) = true := by decide +kernel
theorem test_reset_n : gives (exec .resetNAssert ready) (fun t => t.chip.resetLow) = true ∧
    gives (exec .resetNRelease poweredOn) (fun t => !t.chip.resetLow) = true := by decide +kernel
/-- The link that carries traffic sends DOWN, and the module starts again. -/
theorem test_warm_start : gives (exec .resetNAssert { ready.modLink 3 (fun k => { k with enable := true, state := 5 }) with
    chip := { poweredOn.chip with derived := true }, time := 77 }) (fun t => t.chip.warm && t.chip.step == 12 && t.time == 77 &&
      ((t.link 3).sent.map (·.ctl)) == some (some (.down 9))) = true := by decide +kernel
theorem test_attn : gives (exec .attnNLow { ready with chip := { poweredOn.chip with step := 12 } }) (fun t => t.chip.attnLow && t.chip.hpState == 1 &&
    (t.part 0).state == 4) = true := by decide +kernel
def removing : State := { ready with chip := { poweredOn.chip with hpState := 1 } }
/-- Before step 9 the pin is not sampled (R515). -/
theorem test_attn_early : gives (exec .attnNLow poweredOn) (fun t => t.chip.hpState == 0) = true := by decide +kernel
theorem test_stop_timeout : gives (exec .hotplugStopTimeout removing) (fun t => (t.part 0).state == 1) = true := by decide +kernel
theorem test_hotplug_ready : gives (exec .hotplugReady removing) (fun t => t.chip.hpState == 1) = true ∧
    gives (exec .hotplugReady { removing with parts := State.reset.parts }) (fun t => t.chip.hpState == 2) = true := by
  decide +kernel
theorem test_input_returns : gives (exec .inputReturnsInRange State.reset) (fun t => t.chip.powered) = true := by decide +kernel

theorem test_i2c : gives (exec (.i2cRead 0x4000408) { ready with chip := poweredOn.chip }) (fun t =>
    t.chip.i2cOut == [0x40, 0x06, 0, 0, 0]) = true ∧
    gives (exec (.i2cRead 0x10000) { ready with chip := poweredOn.chip }) (fun t =>
    t.chip.i2cOut == [0xFF, 0xFF, 0xFF, 0xFF, 4]) = true := by decide +kernel
theorem test_chiprd : gives (exec (.chiprd 0x4000408) { ready with chip := poweredOn.chip }) (fun t =>
    t.chip.jtagOut == [0x40, 0x06, 0, 0, 0]) = true := by decide +kernel
theorem test_bypass : gives (exec (.bypass true) poweredOn) (fun t => t.chip.jtagOut == [0] && t.chip.jtagBypass) = true := by
  decide +kernel
theorem test_idcode : gives (exec .idcode poweredOn) (fun t => t.chip.jtagOut == [0xAB, 0x65, 0xA9, 0x05]) = true := by
  decide +kernel
theorem test_boundary : gives (exec (.samplePreload 2) poweredOn) (fun t => t.chip.jtagBoundary == 2 &&
    gives (exec .extest t) (fun u => (u.chip.jtagOut.headD 0) &&& 3 == 2)) = true := by decide +kernel

/-- Bytes 0 to 3 of an entry are its number, 4 and 5 the code, 6 and 7 the source (R492). -/
theorem test_event_entry : gives (exec .eventLogEntry { ready with evlog := { ready.evlog with
    head := 3, queue := [{ code := 0x17, source := 0x2000 }] } }) (fun t => t.evlog.head == 4 && t.evlog.queue == [] &&
      smGet t.evlog.entries 3 == 0x2000001700000003) = true := by decide +kernel
theorem test_compaction : gives (exec .journalCompaction { ready with store := { ready.store with
    compacting := true, used := 300, cur := some 0, generation := 4 } }) (fun t => t.store.used == 0 && t.store.cur == some 1 &&
      t.store.generation == 5) = true := by decide +kernel
/-- A record as it is appended is whole; with another CRC it is torn (R457, R459). -/
theorem test_torn : let k := Store.append {} (.edit 5 (.safety true)) 0
    k.journal.all (fun r => !r.torn && { r with crc := r.crc + 1 }.torn && r.size == 32) = true ∧ k.journal.length = 1 := by
  decide +kernel
theorem test_erase : gives (exec .journalEraseDone { ready with store := { ready.store with used := 300, erasePending := true } })
    (fun t => t.store.used == 0 && !t.store.erasePending) = true := by decide +kernel

/-! Words of engine instructions, from the tables of R67, R106, R150, R157, R214 and R256. -/

def hdrW : Header := { w0en := true, w0ctr := 3, w0tgt := 5 }

theorem test_word_header : headerOf (0x20 + 2 ^ 10 + 3 * 2 ^ 11 + 5 * 2 ^ 16 + 63 * 2 ^ 58) = hdrW := by decide +kernel
theorem test_word_pass : wordInstr { core := 0 } 8 (0x20 + 63 * 2 ^ 58 + 0x123 * 2 ^ 64 + 4 * 2 ^ 97 + 2 ^ 121) =
    some (.pass { core := 0 } { aaddr := 0x123, len := 4, accMode := 1 } {}) := by decide +kernel
theorem test_word_vadd : wordInstr { core := 0 } 9 (0x48 + 63 * 2 ^ 58 + 7 * 2 ^ 74 + 2 * 2 ^ 79 + 3 * 2 ^ 84 + 5 * 2 ^ 98) =
    some (.vadd { core := 0 } { vd := 7, va := 2, vb := 3, et := 5 }) := by decide +kernel
theorem test_word_tsend : wordInstr { core := 0 } 5 (0xD1 + 63 * 2 ^ 58 + 2 ^ 113 + 9 * 2 ^ 144 + 0x456 * 2 ^ 190 + 2 * 2 ^ 238 +
    77 * 2 ^ 242) = some (.tsend { core := 0 } { chip := 77, part := 2, laddr := 0x456, len := 9, ack := true }) := by
  decide +kernel
theorem test_word_adown : wordInstr { core := 0 } 3 (0xB0 + 63 * 2 ^ 58 + 6 * 2 ^ 109 + 64 * 2 ^ 133 + 3 * 2 ^ 152 + 0x99 * 2 ^ 236) =
    some (.adown { core := 0 } { rows := 6, klen := 64, xfmt := 3, diraddr := 0x99 }) := by decide +kernel
theorem test_word_batom : wordInstr { core := 0 } 7 (0xF0 + 63 * 2 ^ 58 + 0x31 * 2 ^ 95 + 7 * 2 ^ 118 + 3 * 2 ^ 121 + 5 * 2 ^ 224) =
    some (.batom { core := 0 } { addr := 0x31, elem := 7, aop := 3, opnd := 5 }) := by decide +kernel
/-- An opcode that the queue does not accept spells no instruction (R214). -/
theorem test_word_refused : wordInstr { core := 0 } 7 0xD1 = none := by decide +kernel

/-! What the queues and the spines do by themselves (Assumptions 93 and 98). -/

/-- Words 1 and 2 run three times; a stride adds 5 to word 1's bits 95:80 in each iteration. -/
def loop3 : MWord := BitVec.ofNat 256 (1 + 2 * 2 ^ 32 + 3 * 2 ^ 48 + 80 * 2 ^ 80 + 16 * 2 ^ 88 + 5 * 2 ^ 96)
def looped : Queue := { store := [0, BitVec.ofNat 256 (9 * 2 ^ 80), 0, 0], loops := [loop3], pos := 1, iters := [2] }
/-- 9 + 2 × 5 in the third iteration (R257). -/
theorem test_loop_word : looped.word = some (BitVec.ofNat 256 (19 * 2 ^ 80)) := by decide +kernel
/-- After word 2 the body runs again, until its third iteration is over. -/
theorem test_loop_again : ({ looped with pos := 2, iters := [1] }.pass 2).pos = 1 ∧
    ({ looped with pos := 2, iters := [1] }.pass 2).iters = [2] ∧ ({ looped with pos := 2 }.pass 2).pos = 3 := by decide +kernel
theorem test_loop_skips : ({ looped with loops := [loop3 &&& ~~~(0xFFFF#256 <<< 48)] }.skip).map Queue.pos = some 3 := by
  decide +kernel
/-- Two strides of 5 take 65,526 past a field of 16 bits. -/
theorem test_stride_wraps : strideWraps [loop3] 1 (BitVec.ofNat 256 (65526 * 2 ^ 80)) = true ∧
    strideWraps [loop3] 1 (BitVec.ofNat 256 (65525 * 2 ^ 80)) = false := by decide +kernel

/-- Partition 0 is in a step, and its first core's bank queue holds one word. -/
def stored (w : MWord) : State := ready.modQueue 0 qBank (fun k => { k with store := [w] })
/-- An opcode that the queue does not have is rejected with REASON 1 (R105, R127, R133). -/
theorem test_foreign_opcode : let t := (stored 0x01).stepQueue 0 qBank
    ((t.core 0).queue qBank).rejReason = 1 ∧ ((t.core 0).queue qBank).state = 5 ∧ (t.part 0).cause = 3 := by decide +kernel
/-- On an empty queue of commands the block presents the word: BATOM counts as issued and the queue ends (R255). -/
theorem test_queue_presents : (encodeWord (.batom i0 { bOp with len := 0 })).all (fun x =>
    let t := (stored x.2.2).stepQueue 0 qBank
    ((t.core 0).queue qBank).ended && (t.core 0).inflight.length == 1) = true := by decide +kernel

/-- Segment 3's bucket holds nothing: a class-0 packet of 64 bytes waits, EV_C0_CAP names the segment, and after
a nanosecond 56 × 8 bytes are back (R374). -/
def shortSpine : State := ready.modRte (fun r => { r with spine := r.spine.set 3 { used := r.spineCap } })
theorem test_spine_waits : (shortSpine.commit 64 [3]).1 = [3] ∧
    (shortSpine.commit 64 [3]).2.evlog.queue.map (fun e => (e.code, e.source)) = [(0x0017, 0x5003)] ∧
    (shortSpine.spineStep.commit 64 [3]).1 = [] := by decide +kernel

end Sys2Proof.Tests
end

section
/-! PROOF. What an instruction whose plan runs does, for plans of any engine, and for those that store a list of
writes. -/

namespace Sys2Proof.Machine

open Claims

variable {s t u : State}

/-! Words that an instruction touches. -/

theorem firstReason_eq_none {l : List (Bool × Nat)} : firstReason l = none ↔ ∀ x ∈ l, x.1 = false := by
  simp [firstReason, List.find?_eq_none]

theorem groupsOn_append {a b : List (CoreId × Nat)} : s.groupsOn (a ++ b) ↔ s.groupsOn a ∧ s.groupsOn b := by
  simp only [State.groupsOn, List.mem_append, or_imp, forall_and]

theorem readable_append {a b : List (CoreId × Nat)} : s.readable (a ++ b) ↔ s.readable a ∧ s.readable b := by
  simp only [State.readable, List.mem_append, or_imp, forall_and]

/-- Where memory is calm every word is usable. -/
theorem usable_of_calm (h : calm s) (reads writes : List (CoreId × Nat)) : usable s reads writes :=
  ⟨fun x _ => (h x.1).1 _, fun x _ => (h x.1).2 x.2⟩

/-- A plan that runs is usable wherever memory is calm. -/
theorem planUsable_of_calm (h : calm s) {p : Todo} {reads writes : List (CoreId × Nat)} {due : State → Until}
    {eff : State → State} (hp : p.last = .run reads writes due eff) : planUsable s p :=
  ⟨reads, writes, due, eff, hp, usable_of_calm h _ _⟩

/-- A plan that reads nothing first is usable where the words that it touches are. -/
theorem planUsable_run {reads writes : List (CoreId × Nat)} {due : State → Until} {eff : State → State} :
    planUsable s (.run reads writes due eff) ↔ usable s reads writes := by
  constructor
  · rintro ⟨_, _, _, _, h, hu⟩
    cases h; exact hu
  · exact fun h => ⟨_, _, _, _, rfl, h⟩

/-- A plan without words read as it runs, whose words are usable, has its effect on a state that keeps the settled
state. -/
theorem State.present_usable {q : QueueId} {op : BitVec 8} {i : Issue} {plan : State → Todo} (h : s.Ready q i)
    (hu : planUsable s (plan s)) (hs : (plan s).soft = []) {reads writes : List (CoreId × Nat)} {due : State → Until}
    {eff : State → State} (hp : (plan s).last = .run reads writes due eff) :
    ∃ u, s.issueKeeps u ∧ s.present q op i plan = eff u := by
  obtain ⟨reads', writes', due', eff', hp', hg, hr⟩ := hu
  rw [hp] at hp'
  cases hp'
  rw [hs, List.append_nil, List.append_assoc] at hg
  rw [hs, List.append_nil] at hr
  exact ⟨_, s.issueKeeps_started q op i reads due, State.present_started h (groupsOn_append.1 hg).1
    (readable_append.1 hr).1 hs hp (groupsOn_append.1 hg).2 (readable_append.1 hr).2⟩

/-! Instructions that store a list of writes. -/

theorem State.storeKeeps.flags (h : s.storeKeeps t) (c : CoreId) : (t.core c).flags = (s.core c).flags := by
  have := congrArg Core.flags (h.beside c)
  exact this

/-- Flags of a core leave everything beside them as it was. -/
theorem State.peek_flag (s : State) (c : CoreId) (fl : FmtFlags) (x : CoreId) (a : Nat) :
    (s.flag c fl).peek x a = s.peek x a := by
  unfold State.peek
  rw [s.core_flag]
  split
  · rename_i e; rw [e]
  · rfl

theorem Core.besideWords_flags {k k' : Core} (h : k'.besideWords = k.besideWords) (fl : FmtFlags) :
    ({ k' with flags := fl } : Core).besideWords = { k with flags := fl : Core }.besideWords := by
  have e : ∀ x : Core, ({ x with flags := fl } : Core).besideWords = { x.besideWords with flags := fl } := fun _ => rfl
  rw [e, e, h]

theorem State.stored_congr {ws : List Wr} (h : s.stored t ws) {s' t' : State} (hs : s'.sameWords s) (ht : t.sameWords t') :
    s'.stored t' ws := by
  refine ⟨fun w hw => ?_, fun c a ha => ?_⟩
  · rw [ht, h.1 w hw, hs]
  · rw [ht, h.2 c a ha, hs]

theorem storesAnd_stored {c : CoreId} {k : Core} {ws : List Wr} (h : storesAnd s t c k ws) : s.stored t ws := h.2.1

/-- Writes made on a state that an issue has kept, with the flags of their core. -/
theorem storesAnd_wrAll_flag (h : s.issueKeeps u) (hwf : s.memoriesWf) {ws : List Wr} (hn : (wrWords ws).Nodup)
    (c : CoreId) (fl : FmtFlags) :
    storesAnd s ((u.wrAll ws).flag c fl) c { s.core c with flags := (s.core c).flags ||| fl } ws := by
  have hk : s.storeKeeps (u.wrAll ws) := h.storeKeeps.trans (State.storeKeeps_wrAll ws u)
  refine ⟨hk.outside.trans rfl, ?_, ?_, fun x hx => ?_⟩
  · exact State.stored_congr (State.stored_wrAll ws u (h.memoriesWf hwf) hn) h.words (fun x a => State.peek_flag _ _ _ x a)
  · rw [State.core_flag, if_pos rfl, hk.flags]
    exact Core.besideWords_flags (hk.beside c) _
  · rw [State.core_flag, if_neg hx]
    exact hk.beside x

/-- An instruction whose plan stores a list of writes and raises flags. -/
theorem State.present_storesAnd {q : QueueId} {op : BitVec 8} {i : Issue} {plan : State → Todo} (h : s.Ready q i)
    (hwf : s.memoriesWf) (hu : planUsable s (plan s)) (hs : (plan s).soft = []) {reads writes : List (CoreId × Nat)}
    {due : State → Until} {ws : List Wr} {fl : FmtFlags} (hn : (wrWords ws).Nodup)
    (hp : (plan s).last = .run reads writes due (fun s => (s.wrAll ws).flag i.core fl)) :
    storesAnd s (s.present q op i plan) i.core { s.core i.core with flags := (s.core i.core).flags ||| fl } ws := by
  obtain ⟨u, hk, he⟩ := State.present_usable (op := op) h hu hs hp
  rw [he]
  exact storesAnd_wrAll_flag hk hwf hn i.core fl

end Sys2Proof.Machine
end

section
/-! PROOF. The normalisation engine (R136 to R138): NSMAX and NNORM store their rows, and NSMAX its row flags. -/

namespace Sys2Proof.Machine

open Claims

variable {s t u : State}

theorem firstReason_singleton {b : Bool} {n : Nat} : firstReason [(b, n)] = none ↔ b = false := by
  simp [firstReason_eq_none]

theorem firstReason_append_eq_none {a b : List (Bool × Nat)} :
    firstReason (a ++ b) = none ↔ firstReason a = none ∧ firstReason b = none := by
  simp only [firstReason_eq_none, List.mem_append, or_imp, forall_and]

/-! A write of a whole word stays as it is in the joined list, unless a later one meets it. -/

/-- A mask of all bits takes every bit from the new word. -/
theorem whole_replaces (x y : MWord) : x &&& ~~~(~~~0) ||| y &&& ~~~0 = y := by
  rw [show (~~~0 : MWord) = BitVec.allOnes 256 from rfl, BitVec.and_allOnes, BitVec.not_allOnes]
  exact (congrArg (· ||| y) BitVec.and_zero).trans BitVec.zero_or

theorem mem_wrInsert_whole {x : Wr} (hx : x.mask = ~~~0) : ∀ l : List Wr, x ∈ wrInsert l x
  | [] => List.mem_singleton_self x
  | y :: l => by
    unfold wrInsert
    split
    · rename_i h
      have he : ({ y with data := (y.data &&& ~~~x.mask) ||| (x.data &&& x.mask), mask := y.mask ||| x.mask } : Wr) = x := by
        have h1 : y.data &&& ~~~x.mask ||| x.data &&& x.mask = x.data := by rw [hx]; exact whole_replaces _ _
        have h2 : y.mask ||| x.mask = x.mask := by rw [hx]; exact BitVec.or_allOnes
        rw [h1, h2, h.1, h.2]
      rw [he]
      exact List.mem_cons_self
    · exact List.mem_cons_of_mem _ (mem_wrInsert_whole hx l)

theorem mem_wrInsert_of_mem {w x : Wr} (hne : (w.core, w.addr) ≠ (x.core, x.addr)) :
    ∀ {l : List Wr}, w ∈ l → w ∈ wrInsert l x
  | y :: l, h => by
    unfold wrInsert
    rcases List.mem_cons.1 h with rfl | h
    · rw [if_neg (fun e => hne (by rw [e.1, e.2]))]
      exact List.mem_cons_self
    · split
      · exact List.mem_cons_of_mem _ h
      · exact List.mem_cons_of_mem _ (mem_wrInsert_of_mem hne h)

theorem mem_foldl_wrInsert_of_mem {w : Wr} : ∀ {xs l : List Wr}, w ∈ l → (w.core, w.addr) ∉ wrWords xs →
    w ∈ xs.foldl wrInsert l
  | [], _, h, _ => h
  | x :: xs, l, h, hn => by
    simp only [wrWords, List.map_cons, List.mem_cons, not_or] at hn
    exact mem_foldl_wrInsert_of_mem (xs := xs) (mem_wrInsert_of_mem hn.1 h) hn.2

theorem mem_foldl_wrInsert_whole {w : Wr} (hw : w.mask = ~~~0) : ∀ {xs l : List Wr}, w ∈ xs → (wrWords xs).Nodup →
    w ∈ xs.foldl wrInsert l
  | x :: xs, l, h, hn => by
    obtain ⟨hx, hn⟩ := List.nodup_cons.1 hn
    rcases List.mem_cons.1 h with rfl | h
    · exact mem_foldl_wrInsert_of_mem (xs := xs) (mem_wrInsert_whole hw l) hx
    · exact mem_foldl_wrInsert_whole (xs := xs) hw h hn

/-- Whole words that are written last are written as they are. -/
theorem mem_wrJoin_append_whole {w : Wr} (hw : w.mask = ~~~0) {ws fw : List Wr} (h : w ∈ fw) (hn : (wrWords fw).Nodup) :
    w ∈ wrJoin (ws ++ fw) := by
  unfold wrJoin
  rw [List.foldl_append]
  exact mem_foldl_wrInsert_whole hw h hn

/-- A whole word that was stored reads as its data. -/
theorem State.stored.peek_whole {ws : List Wr} (h : s.stored t ws) {w : Wr} (hm : w ∈ ws) (hw : w.mask = ~~~0) :
    t.peek w.core w.addr = w.data := by
  rw [h.1 w hm, hw]
  exact whole_replaces _ _

/-! Normalisation: what lets an instruction run (R134, R136). -/

section
variable {i : Issue} {o : NormOp} {fi fo : Fmt} {mi mo : CoreId} {more : Bool}

theorem normFields_pass (h : normTakes s i o fi fo mi mo more) : firstReason (normFields o) = none := by
  obtain ⟨hi, ho, hr, hfi, hfo, -⟩ := h
  simp only [firstReason_eq_none, normFields, List.forall_mem_cons, hfi, hfo, decide_eq_false_iff_not]
  refine ⟨?_, ?_, by omega, by simp, by simp, by simp⟩
  · rintro ⟨h0, h4⟩; rcases hi with h | h
    · exact h0 h
    · omega
  · rintro ⟨h0, h4⟩; rcases ho with h | h
    · exact h0 h
    · omega

theorem normEmpty_eq_false : normEmpty o = false ↔ o.len ≠ 0 ∧ o.rows ≠ 0 := by simp [normEmpty]

theorem normEmpty_eq_true : normEmpty o = true ↔ o.len = 0 ∨ o.rows = 0 := by simp [normEmpty]

theorem normRanges_pass (h : normTakes s i o fi fo mi mo more) : firstReason (s.normRanges i.core o fi fo) = none := by
  obtain ⟨-, -, -, -, -, hmi, hmo, hrange⟩ := h
  simp only [firstReason_eq_none, State.normRanges, List.forall_mem_cons, hmi, hmo]
  cases he : normEmpty o with
  | true => simp
  | false =>
    obtain ⟨hl, hr⟩ := normEmpty_eq_false.1 he
    obtain ⟨hin, hout, -⟩ := hrange hl hr
    simp [hin, hout]

theorem normMore_pass (h : normTakes s i o fi fo mi mo more) : (!normEmpty o && more) = false := by
  obtain ⟨-, -, -, -, -, -, -, hrange⟩ := h
  cases he : normEmpty o with
  | true => rfl
  | false =>
    obtain ⟨hl, hr⟩ := normEmpty_eq_false.1 he
    obtain ⟨-, -, hmore⟩ := hrange hl hr
    exact hmore

/-- What NSMAX reads beside its rows: the masks of MMODE 2. -/
def nsmaxMaskWords (mi : CoreId) (o : NormOp) : List (CoreId × Nat) :=
  if o.mmode = 2 then wordsAt mi o.maddr.toNat (o.rows.toNat * wordsFor o.len.toNat 1) else []

/-- An NSMAX that nothing rejects stores its writes. -/
theorem nsmaxPlan_eq (hm : o.mmode ≠ 3) (h : normTakes s i o fi fo mi mo
      (pastMem o.flagAddr.toNat (wordsFor o.rows.toNat 1) ||
        (o.mmode == 2 && pastMem o.maddr.toNat (o.rows.toNat * wordsFor o.len.toNat 1)))) :
    State.nsmaxPlan i o s = .run
      (normReads mi o fi (nsmaxMaskWords mi o) ++ wrPartial (s.nsmaxWrites mi mo o fi fo).1)
      (wrWords (s.nsmaxWrites mi mo o fi fo).1) (fun _ => .now)
      (fun u => (u.wrAll (s.nsmaxWrites mi mo o fi fo).1).flag i.core (s.nsmaxWrites mi mo o fi fo).2) := by
  have hf : firstReason (normFields o ++ [(decide (o.mmode = 3), 2)]) = none :=
    firstReason_append_eq_none.2 ⟨normFields_pass h, firstReason_singleton.2 (decide_eq_false hm)⟩
  have hr : firstReason (s.normRanges i.core o fi fo ++
      [(!normEmpty o && pastMem o.flagAddr.toNat (wordsFor o.rows.toNat 1), 3),
       (!normEmpty o && o.mmode == 2 && pastMem o.maddr.toNat (o.rows.toNat * wordsFor o.len.toNat 1), 3)]) = none := by
    refine firstReason_append_eq_none.2 ⟨normRanges_pass h, ?_⟩
    have := normMore_pass h
    simp only [firstReason_eq_none, List.forall_mem_cons]
    grind
  obtain ⟨-, -, -, hfi, hfo, hmi, hmo, -⟩ := h
  simp only [State.nsmaxPlan, hf, hfi, hfo, hr, hmi, hmo]
  rfl

/-- What NNORM reads beside its rows: γ and, in NMODE 1, β. -/
def nnormScaleWords (mi : CoreId) (o : NormOp) : List (CoreId × Nat) :=
  wordsAt mi o.maddr.toNat (wordsFor o.len.toNat 16) ++
    (if o.nmode = 1 then wordsAt mi o.flagAddr.toNat (wordsFor o.len.toNat 16) else [])

/-- An NNORM that nothing rejects stores its writes. -/
theorem nnormPlan_eq (hm : o.mmode = 0) (hn : o.nmode ≠ 3) (h : normTakes s i o fi fo mi mo
      (pastMem o.maddr.toNat (wordsFor o.len.toNat 16) ||
        (o.nmode == 1 && pastMem o.flagAddr.toNat (wordsFor o.len.toNat 16)))) :
    State.nnormPlan i o s = .run
      (normReads mi o fi (nnormScaleWords mi o) ++ wrPartial (s.nnormWrites mi mo o fi fo).1)
      (wrWords (s.nnormWrites mi mo o fi fo).1) (fun _ => .now)
      (fun u => (u.wrAll (s.nnormWrites mi mo o fi fo).1).flag i.core (s.nnormWrites mi mo o fi fo).2) := by
  have hf : firstReason (normFields o ++ [(decide (o.mmode ≠ 0), 2), (decide (o.nmode = 3), 2)]) = none :=
    firstReason_append_eq_none.2 ⟨normFields_pass h, by
      simpa only [firstReason_eq_none, List.forall_mem_cons] using
        ⟨decide_eq_false (not_not_intro hm), decide_eq_false hn, by simp⟩⟩
  have hr : firstReason (s.normRanges i.core o fi fo ++
      [(!normEmpty o && pastMem o.maddr.toNat (wordsFor o.len.toNat 16), 3),
       (!normEmpty o && o.nmode == 1 && pastMem o.flagAddr.toNat (wordsFor o.len.toNat 16), 3)]) = none := by
    refine firstReason_append_eq_none.2 ⟨normRanges_pass h, ?_⟩
    have := normMore_pass h
    simp only [firstReason_eq_none, List.forall_mem_cons]
    grind
  obtain ⟨-, -, -, hfi, hfo, hmi, hmo, -⟩ := h
  simp only [State.nnormPlan, hf, hfi, hfo, hr, hmi, hmo]
  rfl

theorem nsmaxWrites_empty (h : o.len = 0 ∨ o.rows = 0) : s.nsmaxWrites mi mo o fi fo = ([], 0) := by
  simp only [State.nsmaxWrites, normEmpty_eq_true.2 h, if_true]

theorem nnormWrites_empty (h : o.len = 0 ∨ o.rows = 0) : s.nnormWrites mi mo o fi fo = ([], 0) := by
  simp only [State.nnormWrites, normEmpty_eq_true.2 h, if_true]

theorem nsmaxWrites_nodup : (wrWords (s.nsmaxWrites mi mo o fi fo).1).Nodup := by
  unfold State.nsmaxWrites
  split
  · exact List.nodup_nil
  · exact wrJoin_nodup _

theorem nnormWrites_nodup : (wrWords (s.nnormWrites mi mo o fi fo).1).Nodup := by
  unfold State.nnormWrites
  split
  · exact List.nodup_nil
  · exact wrJoin_nodup _

/-! The row flags of NSMAX (R137). -/

/-- Flags as a number, flag `r` in bit `r`. -/
def packFlags {α : Type} (f : α → Bool) (l : List α) : Nat := l.foldr (fun a n => Nat.bit (f a) n) 0

theorem testBit_packFlags {α : Type} (f : α → Bool) : ∀ (l : List α) (r : Nat),
    (packFlags f l).testBit r = ((l[r]?).map f).getD false
  | [], r => by simp [packFlags]
  | a :: l, 0 => Nat.testBit_bit_zero ..
  | a :: l, r + 1 => (Nat.testBit_bit_succ ..).trans (by rw [List.getElem?_cons_succ]; exact testBit_packFlags f l r)

/-- A sum of flags, each shifted by its index from `n` upward, is the number of the flags, shifted by `n`. -/
theorem foldr_shiftFlags {α : Type} (f : α → Bool) : ∀ (l : List α) (n : Nat),
    (l.zipIdx n).foldr (fun x acc => acc + (f x.1).toNat <<< x.2) 0 = packFlags f l <<< n
  | [], n => by simp [packFlags]
  | a :: l, n => by
    rw [List.zipIdx_cons, List.foldr_cons, foldr_shiftFlags f l (n + 1)]
    show packFlags f l <<< (n + 1) + (f a).toNat <<< n = Nat.bit (f a) (packFlags f l) <<< n
    simp only [Nat.shiftLeft_eq, Nat.bit_val, Nat.pow_succ]
    ring

/-- The flag of row `r` of an NSMAX. -/
def State.nsmaxRowFlag (s : State) (mi : CoreId) (o : NormOp) (fi fo : Fmt) (r : Nat) : Bool :=
  (smRow o fo r (s.smEntries mi o fi r).1).2

/-- Word `k` of the row flags of an NSMAX, one bit a row. -/
def State.nsmaxFlagWr (s : State) (mi mo : CoreId) (o : NormOp) (fi fo : Fmt) (k : Nat) : Wr :=
  { core := mo, addr := o.flagAddr.toNat + k,
    data := BitVec.ofNat 256 (packFlags (s.nsmaxRowFlag mi o fi fo) (List.range o.rows.toNat) >>> (256 * k)) }

/-- The writes of an NSMAX end with its row flags. -/
theorem nsmaxWrites_eq_append (he : normEmpty o = false) : ∃ ws, (s.nsmaxWrites mi mo o fi fo).1 =
    wrJoin (ws ++ (List.range (wordsFor o.rows.toNat 1)).map (s.nsmaxFlagWr mi mo o fi fo)) := by
  simp only [State.nsmaxWrites, he, Bool.false_eq_true, if_false]
  refine ⟨_, congrArg (fun l => wrJoin (_ ++ l)) (List.map_congr_left fun k _ => ?_)⟩
  rw [foldr_shiftFlags (fun x : List (Nat × FmtFlags) × Bool × FmtFlags => x.2.1), packFlags, List.foldr_map,
    Nat.shiftLeft_zero]
  rfl

theorem nsmaxFlagWrs_nodup (n : Nat) : (wrWords ((List.range n).map (s.nsmaxFlagWr mi mo o fi fo))).Nodup := by
  rw [wrWords, List.map_map]
  refine List.Nodup.map (fun a b h => ?_) List.nodup_range
  have := (Prod.mk.inj h).2
  simp only [State.nsmaxFlagWr] at this
  omega

/-- Where the writes of an NSMAX are stored, each row's flag reads at its bit. -/
theorem nsmax_rowFlag_stored (hl : o.len ≠ 0) (hs : s.stored t (s.nsmaxWrites mi mo o fi fo).1) {r : Nat}
    (hr : r < o.rows.toNat) :
    (t.peek mo (o.flagAddr.toNat + r / 256)).getLsbD (r % 256) = s.nsmaxRowFlag mi o fi fo r := by
  have he : normEmpty o = false := normEmpty_eq_false.2 ⟨hl, by rintro h; simp [h] at hr⟩
  obtain ⟨ws, hws⟩ := nsmaxWrites_eq_append (s := s) (fi := fi) (fo := fo) (mi := mi) (mo := mo) he
  have hm : s.nsmaxFlagWr mi mo o fi fo (r / 256) ∈ (s.nsmaxWrites mi mo o fi fo).1 := by
    rw [hws]
    refine mem_wrJoin_append_whole rfl (List.mem_map_of_mem (List.mem_range.2 ?_)) (nsmaxFlagWrs_nodup _)
    unfold wordsFor
    omega
  have hp : t.peek mo (o.flagAddr.toNat + r / 256) = _ := hs.peek_whole hm rfl
  rw [hp]
  simp only [State.nsmaxFlagWr, BitVec.getLsbD_ofNat, Nat.testBit_shiftRight, testBit_packFlags, Nat.div_add_mod,
    List.getElem?_range hr, Option.map_some, Option.getD_some, Nat.mod_lt r (show 0 < 256 by omega), decide_true,
    Bool.true_and]

end

/-- Settles O23: an NSMAX or NNORM that nothing rejects runs its plan, which stores a joined list of writes; the row
flags of NSMAX are whole words written after the rows, so that they stand in memory even where the ranges meet. -/
theorem normalisationStoresItsRows : Obligations.NormalisationStoresItsRows := by
  intro i o fi fo mi mo s hready hwf
  constructor
  · intro hm ht w hu
    refine ⟨nsmaxWrites_empty, ?_⟩
    have hp := nsmaxPlan_eq hm ht
    have hst := State.present_storesAnd (op := 0x80) (plan := State.nsmaxPlan i o) hready hwf
      (by rw [hp]; exact planUsable_run.2 (hu.elim (usable_of_calm · _ _) id)) (by rw [hp]; rfl) nsmaxWrites_nodup
      (by rw [hp]; rfl)
    exact ⟨_, rfl, hst, fun hl r hr => nsmax_rowFlag_stored hl (storesAnd_stored hst) hr⟩
  · intro hm hn ht w hu
    refine ⟨nnormWrites_empty, ?_⟩
    have hp := nnormPlan_eq hm hn ht
    exact ⟨_, rfl, State.present_storesAnd (op := 0x81) (plan := State.nnormPlan i o) hready hwf
      (by rw [hp]; exact planUsable_run.2 (hu.elim (usable_of_calm · _ _) id)) (by rw [hp]; rfl) nnormWrites_nodup
      (by rw [hp]; rfl)⟩

end Sys2Proof.Machine
end

section
/-! PROOF. Words made of bytes (R6, R8), and sparse memories of which cells are updated one after another. -/

namespace Sys2Proof.Machine

open Claims

/-! Words built from bytes (R6, R8). -/

theorem getLsbD_wordOfBytes : ∀ (bs : List Byte) (k : Nat), k < 256 →
    (wordOfBytes bs).getLsbD k = ((bs[k / 8]?).getD 0).getLsbD (k % 8)
  | [], k, _ => by simp [wordOfBytes]
  | b :: bs, k, hk => by
    have ih := getLsbD_wordOfBytes bs (k - 8) (by omega)
    show ((wordOfBytes bs <<< 8) ||| b.setWidth 256).getLsbD k = _
    rw [BitVec.getLsbD_or, BitVec.getLsbD_shiftLeft, BitVec.getLsbD_setWidth, ih]
    by_cases h : k < 8
    · simp [h, hk, Nat.div_eq_of_lt h, Nat.mod_eq_of_lt h]
    · obtain ⟨n, rfl⟩ : ∃ n, k = n + 8 := ⟨k - 8, by omega⟩
      simp [hk]

theorem leBytes_getElem? : ∀ (n x i : Nat), i < n → (leBytes n x)[i]? = some (BitVec.ofNat 8 (x / 256 ^ i))
  | n + 1, x, 0, _ => by simp [leBytes]
  | n + 1, x, i + 1, h => by
    rw [leBytes, List.getElem?_cons_succ, leBytes_getElem? n _ i (by omega), Nat.div_div_eq_div_mul, ← Nat.pow_succ']

@[simp] theorem leBytes_length : ∀ n x : Nat, (leBytes n x).length = n
  | 0, _ => rfl
  | n + 1, x => by rw [leBytes, List.length_cons, leBytes_length n]

/-- An item of a list of items of `n` bytes each. -/
theorem getElem?_flatMap_const {α β : Type} {f : α → List β} {n : Nat} (hf : ∀ x, (f x).length = n) {i : Nat} (hi : i < n) :
    ∀ (l : List α) (j : Nat), (l.flatMap f)[n * j + i]? = (l[j]?).bind (fun x => (f x)[i]?)
  | [], j => by simp
  | x :: l, 0 => by simp [List.getElem?_append, hf, hi]
  | x :: l, j + 1 => by
    have h : ¬ n * (j + 1) + i < n := by rw [Nat.mul_succ]; omega
    have h' : n * (j + 1) + i - n = n * j + i := by rw [Nat.mul_succ]; omega
    rw [List.flatMap_cons, List.getElem?_append, hf, if_neg h, h', getElem?_flatMap_const hf hi l j,
      List.getElem?_cons_succ]

theorem wordsOfBytes_getElem?_eq_some {bs : List Byte} {i : Nat} {w : MWord} (h : (wordsOfBytes bs)[i]? = some w) :
    i < (bs.length + 31) / 32 ∧ wordOfBytes ((bs.drop (32 * i)).take 32) = w := by
  rw [wordsOfBytes, List.getElem?_map, Option.map_eq_some_iff] at h
  obtain ⟨k, hk, hw⟩ := h
  obtain ⟨hlt, rfl⟩ := List.getElem?_eq_some_iff.1 hk
  rw [List.getElem_range] at hw
  exact ⟨by simpa using hlt, hw⟩

/-- Lane `j` of the words of a list of 32-bit values is value `j`. -/
theorem wordLane_wordsOfBytes (vs : List (BitVec 32)) {j : Nat} {w : MWord}
    (hw : (wordsOfBytes (vs.flatMap (fun v => leBytes 4 v.toNat)))[j / 8]? = some w) :
    wordLane w (j % 8) = (vs[j]?).getD 0 := by
  obtain ⟨-, rfl⟩ := wordsOfBytes_getElem?_eq_some hw
  apply BitVec.eq_of_getLsbD_eq
  intro b hb
  have hi : b / 8 < 4 := by omega
  have hidx : 32 * (j / 8) + (32 * (j % 8) + b) / 8 = 4 * j + b / 8 := by omega
  rw [wordLane, BitVec.getLsbD_extractLsb', getLsbD_wordOfBytes _ _ (by omega), List.getElem?_take,
    if_pos (by omega), List.getElem?_drop, hidx, getElem?_flatMap_const (fun _ => leBytes_length ..) hi]
  cases h : vs[j]? with
  | none => simp
  | some v =>
    have hm : (32 * (j % 8) + b) % 8 = b % 8 := by omega
    have h256 : 256 ^ (b / 8) = 2 ^ (8 * (b / 8)) := by rw [Nat.pow_mul]
    rw [Option.bind_some, leBytes_getElem? _ _ _ hi, Option.getD_some, Option.getD_some, hm, BitVec.getLsbD_ofNat, h256,
      ← Nat.shiftRight_eq_div_pow, Nat.testBit_shiftRight, Nat.div_add_mod]
    simp [hb, Nat.mod_lt, BitVec.getLsbD]

/-! Lists of cells updated one after another. -/

/-- A cell takes a value made of the one it has. -/
def smUpdate {w : Nat} (m : SMap w) (a : Nat) (f : BitVec w → BitVec w) : SMap w := smSet m a (f (smGet m a))

theorem smUpdate_wf {w : Nat} {m : SMap w} (h : smWf m = true) (a : Nat) (f : BitVec w → BitVec w) :
    smWf (smUpdate m a f) = true :=
  smSet_wf h a _

theorem smGet_smUpdate_same {w : Nat} {m : SMap w} (h : smWf m = true) (a : Nat) (f : BitVec w → BitVec w) :
    smGet (smUpdate m a f) a = f (smGet m a) :=
  smGet_smSet_same h

theorem smGet_smUpdate_other {w : Nat} {m : SMap w} (h : smWf m = true) {a b : Nat} (f : BitVec w → BitVec w)
    (hb : b ≠ a) : smGet (smUpdate m a f) b = smGet m b :=
  smGet_smSet_other hb h

section
variable {α : Type} {w : Nat} {key : α → Nat} {f : α → BitVec w → BitVec w}

/-- A cell that no item names keeps its value. -/
theorem smGet_foldl_update_other {v : Nat} : ∀ (l : List α) (m : SMap w), smWf m = true → (∀ x ∈ l, key x ≠ v) →
    smGet (l.foldl (fun m x => smUpdate m (key x) (f x)) m) v = smGet m v
  | [], _, _, _ => rfl
  | x :: l, m, h, hv => by
    obtain ⟨hx, hl⟩ := List.forall_mem_cons.1 hv
    rw [List.foldl_cons, smGet_foldl_update_other l _ (smUpdate_wf h _ _) hl]
    exact smGet_smUpdate_other h _ (Ne.symm hx)

/-- A cell that one item names takes that item's value. -/
theorem smGet_foldl_update {x : α} : ∀ (l : List α) (m : SMap w), smWf m = true → l.Nodup →
    (∀ y ∈ l, ∀ z ∈ l, key y = key z → y = z) → x ∈ l →
    smGet (l.foldl (fun m x => smUpdate m (key x) (f x)) m) (key x) = f x (smGet m (key x))
  | y :: l, m, h, hn, hinj, hx => by
    obtain ⟨hy, hn⟩ := List.nodup_cons.1 hn
    have hkey : ∀ z ∈ l, key z ≠ key y := fun z hz e =>
      hy (hinj z (List.mem_cons_of_mem _ hz) y List.mem_cons_self e ▸ hz)
    rw [List.foldl_cons]
    rcases List.mem_cons.1 hx with rfl | hx
    · rw [smGet_foldl_update_other l _ (smUpdate_wf h _ _) hkey]
      exact smGet_smUpdate_same h _ _
    · rw [smGet_foldl_update l _ (smUpdate_wf h _ _) hn
        (fun a ha b hb => hinj a (List.mem_cons_of_mem _ ha) b (List.mem_cons_of_mem _ hb)) hx]
      exact congrArg (f x) (smGet_smUpdate_other h _ (hkey x hx))

end

end Sys2Proof.Machine
end

section
/-! PROOF. The adapter engine (R149 to R152): ADOWN stores its rows of u, AUP updates its accumulator values. -/

namespace Sys2Proof.Machine

open Claims

variable {s t u : State}

/-! The rows that name an adapter (R149). -/

theorem mem_adRows {c : CoreId} {o : AdapterOp} {x : Nat × Nat} :
    x ∈ s.adRows c o ↔ x.1 < o.rows.toNat ∧ x.2 = s.adSlot c o x.1 ∧ x.2 ≠ 0xFFFF := by
  obtain ⟨r, a⟩ := x
  simp only [State.adRows, List.mem_filter, List.mem_map, List.mem_range, Prod.mk.injEq, bne_iff_ne]
  constructor
  · rintro ⟨⟨r', hr, rfl, rfl⟩, hne⟩; exact ⟨hr, rfl, hne⟩
  · rintro ⟨hr, rfl, hne⟩; exact ⟨⟨r, hr, rfl, rfl⟩, hne⟩

/-- A row is listed once, whatever it names. -/
theorem adRows_inj {c : CoreId} {o : AdapterOp} {x y : Nat × Nat} (hx : x ∈ s.adRows c o) (hy : y ∈ s.adRows c o)
    (h : x.1 = y.1) : x = y := by
  obtain ⟨-, hx2, -⟩ := mem_adRows.1 hx
  obtain ⟨-, hy2, -⟩ := mem_adRows.1 hy
  exact Prod.ext h (by rw [hx2, hy2, h])

theorem adRows_nodup {c : CoreId} {o : AdapterOp} : (s.adRows c o).Nodup :=
  List.Nodup.filter _ (List.Nodup.map (fun _ _ h => (Prod.mk.inj h).1) List.nodup_range)

/-! What an adapter instruction reads before it runs rejects nothing (R152). -/

theorem adSlotRej_pass {c : CoreId} {o : AdapterOp} {down : Bool} (h : adapterEntriesOk s c o down) :
    s.adSlotRej c o = none := by
  refine firstReason_singleton.2 (List.any_eq_false.2 fun x hx => ?_)
  have := (h x hx).1
  simpa using this

theorem adEntryRej_pass {c : CoreId} {o : AdapterOp} {down : Bool} (h : adapterEntriesOk s c o down) :
    s.adEntryRej c o down = none := by
  have hall : ∀ p : MWord → Bool, (∀ x ∈ s.adRows c o, p (s.adEntry c o x.2) = false) →
      ((s.adRows c o).map (fun x => s.adEntry c o x.2)).any p = false := fun p hp => by
    rw [List.any_map]
    exact List.any_eq_false.2 fun x hx => by simp [hp x hx]
  simp only [State.adEntryRej, firstReason_eq_none, List.forall_mem_cons]
  refine ⟨hall _ fun x hx => ?_, ?_, ?_, ?_, by simp⟩
  · obtain ⟨-, hv, h4, h64, f, hf, -⟩ := h x hx
    simp [hv, hf]; omega
  · cases down with
    | false => rfl
    | true =>
      by_cases hk : o.klen.toNat % 32 = 0
      · simp [hk]
      · rw [hall _ fun x hx => ?_, Bool.and_false]
        obtain ⟨-, -, -, -, f, hf, hd, -⟩ := h x hx
        rw [hf]
        exact beq_eq_false_iff_ne.2 fun e => hk ((hd rfl).1 (Option.some.inj e))
  · cases down with
    | false => rfl
    | true =>
      refine hall _ fun x hx => ?_
      obtain ⟨-, -, -, -, f, hf, hd, -⟩ := h x hx
      obtain ⟨-, ha, hs⟩ := hd rfl
      simp only [hf, ha, Bool.false_or, Bool.and_eq_false_imp]
      exact hs
  · cases down with
    | true => rfl
    | false =>
      refine hall _ fun x hx => ?_
      obtain ⟨-, -, -, -, f, hf, -, hu⟩ := h x hx
      exact hu rfl

/-- Slots and entries that reject nothing are read before the rest. -/
theorem adTodo_eq {c : CoreId} {o : AdapterOp} {down : Bool} (h : adapterEntriesOk s c o down) (go : Todo) :
    s.adTodo c o down go = .need (adSlotWords c o) (.need (s.adEntryWords c o) go) := by
  simp only [State.adTodo, adSlotRej_pass h, adEntryRej_pass h, Todo.unless]

/-! An instruction that issues and does nothing else (R17). -/

theorem State.present_nop {q : QueueId} {op : BitVec 8} {i : Issue} {plan : State → Todo} (h : s.Ready q i)
    (hp : plan s = .nop) : s.issueKeeps (s.present q op i plan) := by
  obtain ⟨u, hk, he⟩ := State.present_usable (op := op) (plan := plan) h (by rw [hp]; exact planUsable_run.2 ⟨nofun, nofun⟩)
    (by rw [hp]; rfl) (by rw [hp]; rfl)
  rw [he]
  exact hk

theorem State.issueKeeps.coreBecomes (h : s.issueKeeps t) (c : CoreId) : coreBecomes s t c (s.core c) :=
  ⟨h.outside, fun x _ => h.settled x, h.settled c⟩

theorem State.issueKeeps.storesAnd (h : s.issueKeeps t) (c : CoreId) : storesAnd s t c (s.core c) [] :=
  ⟨h.outside, ⟨nofun, fun x a _ => h.words x a⟩, h.storeKeeps.beside c, fun x _ => h.storeKeeps.beside x⟩

/-! ADOWN: what lets it run, and what it writes (R151, R152). -/

theorem selector_taken {sel : BitVec 3} (h : sel = 0 ∨ 4 ≤ sel.toNat) : decide (sel ≠ 0 ∧ sel.toNat < 4) = false := by
  refine decide_eq_false ?_
  rintro ⟨h0, h4⟩
  rcases h with h | h
  · exact h0 h
  · omega

section
variable {i : Issue} {o : AdapterOp} {xf : Fmt} {m c : CoreId}

theorem adownReject_pass (hx : o.xsel = 0 ∨ 4 ≤ o.xsel.toNat) (hf : adXFmt o = some xf)
    (hk : o.xfmt = 5 → o.klen.toNat % 32 = 0) (hm : s.sel c o.xsel = some m)
    (hr : adDownEmpty o = false → pastMem o.idaddr.toNat (wordsFor o.rows.toNat 16) = false ∧
      pastMem o.xaddr.toNat (o.rows.toNat * wordsFor o.klen.toNat xf.bits) = false ∧
      (xf.isMX = true → pastMem o.xscale.toNat (wordsFor (o.rows.toNat * (o.klen.toNat / 32)) 8) = false) ∧
      pastMem o.uaddr.toNat (8 * o.rows.toNat) = false) : s.adownReject c o = none := by
  have h1 : firstReason [(decide (o.xsel ≠ 0 ∧ o.xsel.toNat < 4), 2), (decide (adXFmt o = none), 2),
      (decide (o.xfmt = 5 ∧ o.klen.toNat % 32 ≠ 0), 2)] = none := by
    simp only [firstReason_eq_none, List.forall_mem_cons, selector_taken hx, hf, decide_eq_false_iff_not]
    exact ⟨trivial, nofun, fun h => h.2 (hk h.1), nofun⟩
  rw [State.adownReject, h1]
  simp only [hf, hm, firstReason_eq_none, List.forall_mem_cons, Option.getD_some]
  cases he : adDownEmpty o with
  | true => simp
  | false =>
    obtain ⟨hid, hxa, hxs, hu⟩ := hr he
    simpa [hid, hxa, hu] using hxs

/-- The 64 values of a row of u: zeros beyond the RANK. -/
def State.adUVals (s : State) (c m : CoreId) (o : AdapterOp) (xf : Fmt) (x : Nat × Nat) : List (BitVec 32) :=
  (List.range (adRank (s.adEntry c o x.2))).map (fun j => (s.adU c m o xf x.1 j (s.adEntry c o x.2)).1) ++
    List.replicate (64 - adRank (s.adEntry c o x.2)) 0

theorem adUVals_length {x : Nat × Nat} (h : adRank (s.adEntry c o x.2) ≤ 64) : (s.adUVals c m o xf x).length = 64 := by
  simp only [State.adUVals, List.length_append, List.length_map, List.length_range, List.length_replicate]
  omega

theorem adUVals_getD {x : Nat × Nat} (j : Nat) : ((s.adUVals c m o xf x)[j]?).getD 0 =
    if j < adRank (s.adEntry c o x.2) then (s.adU c m o xf x.1 j (s.adEntry c o x.2)).1 else 0 := by
  unfold State.adUVals
  split
  · rename_i h
    rw [List.getElem?_append_left (by simpa using h), List.getElem?_map, List.getElem?_range h]
    rfl
  · rename_i h
    rw [List.getElem?_append_right (by simpa using h), List.getElem?_replicate]
    split <;> rfl

/-- The words of a row of u. -/
def State.adUWords (s : State) (c m : CoreId) (o : AdapterOp) (xf : Fmt) (x : Nat × Nat) : List MWord :=
  wordsOfBytes ((s.adUVals c m o xf x).flatMap (fun v => leBytes 4 v.toNat))

theorem adUWords_length {x : Nat × Nat} (h : adRank (s.adEntry c o x.2) ≤ 64) : (s.adUWords c m o xf x).length = 8 := by
  have : ((s.adUVals c m o xf x).flatMap (fun v => leBytes 4 v.toNat)).length = 256 := by
    simp [List.length_flatMap, adUVals_length h]
  rw [State.adUWords, wordsOfBytes, List.length_map, List.length_range, this]

/-- The write of word `w.1` at place `w.2` of a row of u. -/
def adUWr (c : CoreId) (o : AdapterOp) (x : Nat × Nat) (w : MWord × Nat) : Wr :=
  { core := c, addr := o.uaddr.toNat + 8 * x.1 + w.2, data := w.1 }

theorem adURow_eq (x : Nat × Nat) : (s.adURow c m o xf x).1 = (s.adUWords c m o xf x).zipIdx.map (adUWr c o x) := by
  have h0 : (List.replicate (64 - adRank (s.adEntry c o x.2)) (0 : BitVec 32)).flatMap (fun v => leBytes 4 v.toNat) =
      List.replicate (4 * (64 - adRank (s.adEntry c o x.2))) 0 := by
    have h4 : leBytes 4 (0 : BitVec 32).toNat = List.replicate 4 0 := rfl
    rw [List.flatMap_replicate, h4, List.flatten_replicate_replicate, Nat.mul_comm]
  simp only [State.adURow, State.adUWords, State.adUVals, List.flatMap_append, h0, List.flatMap_map]
  rfl

theorem adURow_words {x : Nat × Nat} (h : adRank (s.adEntry c o x.2) ≤ 64) : wrWords (s.adURow c m o xf x).1 =
    (List.range 8).map (fun k => (c, o.uaddr.toNat + 8 * x.1 + k)) := by
  have e : (fun w : Wr => (w.core, w.addr)) ∘ adUWr c o x = (fun k => (c, o.uaddr.toNat + 8 * x.1 + k)) ∘ Prod.snd := rfl
  rw [adURow_eq, wrWords, List.map_map, e, ← List.map_map, List.zipIdx_map_snd, adUWords_length h, List.range_eq_range']

/-- ADOWN writes no word twice. -/
theorem adURows_nodup (h : adapterEntriesOk s c o true) :
    (wrWords ((s.adRows c o).flatMap (fun x => (s.adURow c m o xf x).1))).Nodup := by
  have e : wrWords ((s.adRows c o).flatMap (fun x => (s.adURow c m o xf x).1)) =
      ((s.adRows c o).product (List.range 8)).map (fun p => (c, o.uaddr.toNat + 8 * p.1.1 + p.2)) := by
    rw [wrWords, List.map_flatMap, List.product, List.map_flatMap]
    refine List.flatMap_congr fun x hx => ?_
    obtain ⟨-, -, -, h64, -⟩ := h x hx
    exact (adURow_words h64).trans (by rw [List.map_map]; rfl)
  rw [e]
  refine List.Nodup.map_on (fun p hp q hq h => ?_) (adRows_nodup.product List.nodup_range)
  obtain ⟨hp1, hp2⟩ := List.mem_product.1 hp
  obtain ⟨hq1, hq2⟩ := List.mem_product.1 hq
  rw [List.mem_range] at hp2 hq2
  have ha : o.uaddr.toNat + 8 * p.1.1 + p.2 = o.uaddr.toNat + 8 * q.1.1 + q.2 := (Prod.mk.inj h).2
  exact Prod.ext (adRows_inj hp1 hq1 (by omega)) (by omega)

/-- Where the rows of u are stored, lane `j` of a row is its value `j`. -/
theorem u32At_adown (h : adapterEntriesOk s c o true)
    (hs : s.stored t ((s.adRows c o).flatMap (fun x => (s.adURow c m o xf x).1))) {x : Nat × Nat}
    (hx : x ∈ s.adRows c o) {j : Nat} (hj : j < 64) : t.u32At c (o.uaddr.toNat + 8 * x.1) j =
      if j < adRank (s.adEntry c o x.2) then (s.adU c m o xf x.1 j (s.adEntry c o x.2)).1 else 0 := by
  obtain ⟨-, -, -, h64, -⟩ := h x hx
  obtain ⟨w, hw⟩ : ∃ w, (s.adUWords c m o xf x)[j / 8]? = some w :=
    ⟨_, List.getElem?_eq_getElem (by rw [adUWords_length h64]; omega)⟩
  have hmem : adUWr c o x (w, j / 8) ∈ (s.adRows c o).flatMap (fun x => (s.adURow c m o xf x).1) := by
    refine List.mem_flatMap.2 ⟨x, hx, ?_⟩
    rw [adURow_eq]
    exact List.mem_map_of_mem (List.mk_mem_zipIdx_iff_getElem?.2 hw)
  have hp : t.peek c (o.uaddr.toNat + 8 * x.1 + j / 8) = w := hs.peek_whole hmem rfl
  rw [State.u32At, hp, wordLane_wordsOfBytes _ hw, adUVals_getD]

theorem adownPlan_empty (hr : s.adownReject i.core o = none) (he : adDownEmpty o = true) :
    State.adownPlan i o s = .nop := by
  simp only [State.adownPlan, hr, he, Todo.unless, if_true]

/-- An ADOWN that nothing rejects reads the slots and their entries, and then stores its rows of u. -/
theorem adownPlan_eq (hr : s.adownReject i.core o = none) (he : adDownEmpty o = false) (hf : adXFmt o = some xf)
    (hm : s.sel i.core o.xsel = some m) (ha : adapterEntriesOk s i.core o true) : ∃ reads writes fl,
    State.adownPlan i o s = .need (adSlotWords i.core o) (.need (s.adEntryWords i.core o) (.run reads writes
      (fun _ => .now) (fun u => (u.wrAll ((s.adRows i.core o).flatMap (fun x => (s.adURow i.core m o xf x).1))).flag
        i.core fl))) := by
  simp only [State.adownPlan, hr, he, hf, hm, Todo.unless, adTodo_eq ha, Bool.false_eq_true, if_false, List.flatMap_map]
  exact ⟨_, _, _, rfl⟩

/-! AUP (R151). -/

/-- The accumulator value of a column of a row. -/
def adCell (o : AdapterOp) (row col : Nat) : Nat :=
  128 * (o.accBase.toNat + row * ((o.cols.toNat + 127) / 128) + col / 128) + col % 128

/-- What AUP makes of an accumulator value: the row's increment added with one rounding. -/
def State.adSum (s : State) (c : CoreId) (o : AdapterOp) (x : (Nat × Nat) × Nat) (v : BitVec 32) : BitVec 32 :=
  (toF32 ((f32 v).add false (s.adDelta c o x.1.1 x.2 (s.adEntry c o x.1.2)).1).1).1

/-- The accumulator values that AUP names. -/
def State.adCells (s : State) (c : CoreId) (o : AdapterOp) : List ((Nat × Nat) × Nat) :=
  (s.adRows c o).product (List.range o.cols.toNat)

theorem mem_adCells {x : (Nat × Nat) × Nat} : x ∈ s.adCells c o ↔ x.1 ∈ s.adRows c o ∧ x.2 < o.cols.toNat := by
  obtain ⟨r, col⟩ := x
  exact List.mem_product.trans (and_congr Iff.rfl List.mem_range)

/-- No two of them are one. -/
theorem adCell_inj {row row' col col' : Nat} (h : col < o.cols.toNat) (h' : col' < o.cols.toNat)
    (e : adCell o row col = adCell o row' col') : row = row' ∧ col = col' := by
  unfold adCell at e
  generalize hp : (o.cols.toNat + 127) / 128 = per at e
  have e' : row * per + col / 128 = row' * per + col' / 128 ∧ col % 128 = col' % 128 := by omega
  have hb : col / 128 < per := by omega
  have hb' : col' / 128 < per := by omega
  have hr : row = row' := by
    have h1 : (row * per + col / 128) / per = row := by
      rw [Nat.mul_comm, Nat.mul_add_div (by omega), Nat.div_eq_of_lt hb, Nat.add_zero]
    have h2 : (row' * per + col' / 128) / per = row' := by
      rw [Nat.mul_comm, Nat.mul_add_div (by omega), Nat.div_eq_of_lt hb', Nat.add_zero]
    rw [← h1, ← h2, e'.1]
  subst hr
  exact ⟨rfl, by omega⟩

/-- A row of AUP updates its values in turn. -/
theorem adUpRow_fst (acc : SMap 32 × FmtFlags) (x : Nat × Nat) : (s.adUpRow c o acc x).1 =
    (List.range o.cols.toNat).foldl (fun m col => smUpdate m (adCell o x.1 col) (s.adSum c o (x, col))) acc.1 :=
  (List.foldl_hom Prod.fst (fun _ _ => rfl)).symm

/-- The rows of AUP update theirs in turn. -/
theorem adUpRows_fst (m : SMap 32) : ((s.adRows c o).foldl (s.adUpRow c o) (m, 0)).1 =
    (s.adCells c o).foldl (fun m x => smUpdate m (adCell o x.1.1 x.2) (s.adSum c o x)) m := by
  rw [State.adCells, List.product, List.foldl_flatMap]
  simp only [List.foldl_map]
  exact (List.foldl_hom Prod.fst (fun acc x => (adUpRow_fst acc x).symm)).symm

/-- The accumulator after AUP. -/
theorem smGet_adUpRows {m : SMap 32} (hm : smWf m = true) {row col : Nat} (hr : row < o.rows.toNat)
    (hc : col < o.cols.toNat) : smGet ((s.adRows c o).foldl (s.adUpRow c o) (m, 0)).1 (adCell o row col) =
      if s.adSlot c o row = 0xFFFF then smGet m (adCell o row col)
      else s.adSum c o ((row, s.adSlot c o row), col) (smGet m (adCell o row col)) := by
  rw [adUpRows_fst]
  split
  · rename_i hslot
    refine smGet_foldl_update_other (key := fun x : (Nat × Nat) × Nat => adCell o x.1.1 x.2) _ _ hm fun x hx e => ?_
    obtain ⟨hx1, hx2⟩ := mem_adCells.1 hx
    obtain ⟨-, hs, hne⟩ := mem_adRows.1 hx1
    exact hne (hs.trans ((adCell_inj hx2 hc e).1 ▸ hslot))
  · rename_i hslot
    refine smGet_foldl_update (key := fun x : (Nat × Nat) × Nat => adCell o x.1.1 x.2)
      (x := ((row, s.adSlot c o row), col)) _ _ hm (adRows_nodup.product List.nodup_range) (fun y hy z hz e => ?_)
      (mem_adCells.2 ⟨mem_adRows.2 ⟨hr, rfl, hslot⟩, hc⟩)
    obtain ⟨hy1, hy2⟩ := mem_adCells.1 hy
    obtain ⟨hz1, hz2⟩ := mem_adCells.1 hz
    obtain ⟨hrow, hcol⟩ := adCell_inj hy2 hz2 e
    exact Prod.ext (adRows_inj hy1 hz1 hrow) hcol

theorem aupReject_pass (hx : o.xsel = 0 ∨ 4 ≤ o.xsel.toNat) (hf : adXFmt o ≠ none) (hm : s.sel c o.xsel ≠ none)
    (hr : adUpEmpty o = false → pastMem o.idaddr.toNat (wordsFor o.rows.toNat 16) = false ∧
      pastMem o.uaddr.toNat (8 * o.rows.toNat) = false ∧
      o.accBase.toNat + o.rows.toNat * ((o.cols.toNat + 127) / 128) ≤ 4096) : s.aupReject c o = none := by
  simp only [State.aupReject, firstReason_eq_none, List.forall_mem_cons, selector_taken hx, hf, hm]
  cases he : adUpEmpty o with
  | true => simp
  | false =>
    obtain ⟨hid, hu, hacc⟩ := hr he
    simp [hid, hu]; omega

theorem aupPlan_empty (hr : s.aupReject i.core o = none) (he : adUpEmpty o = true) : State.aupPlan i o s = .nop := by
  simp only [State.aupPlan, hr, he, Todo.unless, if_true]

/-- What AUP does to its core. -/
def State.aupEffect (u : State) (c : CoreId) (o : AdapterOp) (rows : List (Nat × Nat)) : State :=
  let r := rows.foldl (u.adUpRow c o) ((u.core c).array.acc, 0)
  (u.modArray c (fun a => { a with acc := r.1 })).flag c r.2

/-- An AUP that nothing rejects reads the slots and their entries, and then updates the accumulator. -/
theorem aupPlan_eq (hr : s.aupReject i.core o = none) (he : adUpEmpty o = false)
    (ha : adapterEntriesOk s i.core o false) : ∃ reads, State.aupPlan i o s = .need (adSlotWords i.core o)
      (.need (s.adEntryWords i.core o)
        (.run reads [] (fun _ => .now) (fun u => u.aupEffect i.core o (s.adRows i.core o)))) := by
  simp only [State.aupPlan, hr, he, Todo.unless, adTodo_eq ha, Bool.false_eq_true, if_false]
  exact ⟨_, rfl⟩

theorem core_aupEffect (u : State) (rows : List (Nat × Nat)) (x : CoreId) : (u.aupEffect c o rows).core x =
    if x = c then { u.core c with
      array := { (u.core c).array with acc := (rows.foldl (u.adUpRow c o) ((u.core c).array.acc, 0)).1 },
      flags := (u.core c).flags ||| (rows.foldl (u.adUpRow c o) ((u.core c).array.acc, 0)).2 }
    else u.core x := by
  unfold State.aupEffect
  rw [State.core_flag]
  split
  · rw [State.core_modArray, if_pos rfl]
  · rename_i h
    rw [State.core_modArray, if_neg h]

/-- The increments depend on the words of memory alone. -/
theorem State.sameWords.adUpRow (h : s.sameWords u) : u.adUpRow = s.adUpRow := by
  have hp : u.peek = s.peek := funext fun c => funext fun a => h c a
  funext c o acc x
  simp only [State.adUpRow, State.adDelta, State.adEntry, State.u32At, hp]

theorem Core.settled_array_flags {k k' : Core} (h : k'.settled = k.settled) (a : ArrayUnit) (fl : FmtFlags) :
    ({ k' with array := a, flags := fl } : Core).settled = { k with array := a, flags := fl : Core }.settled := by
  have e : ∀ x : Core, ({ x with array := a, flags := fl } : Core).settled =
      { x.settled with array := a, flags := fl } := fun _ => rfl
  rw [e, e, h]

/-- An AUP on a state that an issue has kept changes accumulator and flags alone. -/
theorem coreBecomes_aupEffect (h : s.issueKeeps u) (rows : List (Nat × Nat)) :
    ∃ fl, coreBecomes s (u.aupEffect c o rows) c { s.core c with
      flags := (s.core c).flags ||| fl,
      array := { (s.core c).array with acc := ((u.aupEffect c o rows).core c).array.acc } } := by
  refine ⟨(rows.foldl (u.adUpRow c o) ((u.core c).array.acc, 0)).2, h.outside.trans rfl, fun x hx => ?_, ?_⟩
  · rw [core_aupEffect, if_neg hx]
    exact h.settled x
  · have hk := h.settled c
    have ha : (u.core c).array = (s.core c).array := Core.settled_array hk
    have hfl : (u.core c).flags = (s.core c).flags := by
      have := congrArg Core.flags hk
      exact this
    rw [core_aupEffect, if_pos rfl, ha, hfl]
    exact Core.settled_array_flags hk _ _

end

/-- Settles O27: an adapter instruction without rows is a plan that does nothing; another one, its slots and entries
read, stores rows of u that share no word, or updates accumulator values of which each belongs to one row and column. -/
theorem adaptersAddTheirLowRankProduct : Obligations.AdaptersAddTheirLowRankProduct := by
  intro i o s hready hwf hacc
  constructor
  · intro xf m hx hf hk hm
    refine ⟨fun he => ?_, fun he hid hxa hxs hu ha hus => ?_⟩
    · have hr : s.adownReject i.core o = none := adownReject_pass hx hf hk hm (by rw [he]; nofun)
      exact ⟨_, rfl, (State.present_nop hready (adownPlan_empty hr he)).storesAnd i.core⟩
    · have hr : s.adownReject i.core o = none := adownReject_pass hx hf hk hm (fun _ => ⟨hid, hxa, hxs, hu⟩)
      obtain ⟨reads, writes, fl, hp⟩ := adownPlan_eq hr he hf hm ha
      have hst := State.present_storesAnd (op := 0xB0) (plan := State.adownPlan i o) hready hwf
        (hus.elim (planUsable_of_calm · (by rw [hp]; rfl)) id) (by rw [hp]; rfl) (adURows_nodup ha) (by rw [hp]; rfl)
      exact ⟨_, fl, rfl, hst, fun x hx j hj => u32At_adown ha (storesAnd_stored hst) hx hj⟩
  · intro hx hf hm
    refine ⟨fun he => ?_, fun he hid hu hb ha hus => ?_⟩
    · have hr : s.aupReject i.core o = none := aupReject_pass hx hf hm (by rw [he]; nofun)
      exact ⟨_, rfl, (State.present_nop hready (aupPlan_empty hr he)).coreBecomes i.core⟩
    · have hr : s.aupReject i.core o = none := aupReject_pass hx hf hm (fun _ => ⟨hid, hu, hb⟩)
      obtain ⟨reads, hp⟩ := aupPlan_eq hr he ha
      obtain ⟨u, hk, hu⟩ := State.present_usable (op := 0xB1) (plan := State.aupPlan i o) hready
        (hus.elim (planUsable_of_calm · (by rw [hp]; rfl)) id) (by rw [hp]; rfl) (by rw [hp]; rfl)
      obtain ⟨fl, hfl⟩ := coreBecomes_aupEffect (c := i.core) (o := o) hk (s.adRows i.core o)
      refine ⟨u.aupEffect i.core o (s.adRows i.core o), fl, congrArg Host.Outcome.next hu, hfl, fun row hrow col hcol => ?_⟩
      have ha : (u.core i.core).array = (s.core i.core).array := Core.settled_array (hk.settled i.core)
      rw [core_aupEffect, if_pos rfl, ha, hk.words.adUpRow]
      exact smGet_adUpRows (hacc i.core) hrow hcol

end Sys2Proof.Machine
end

section
/-! PROOF. Host commands that nothing refuses run (R427, R428, R434); what a CFG_COMMIT of a staged record that
CFG_STAGE does not take does to the words of memory. -/

namespace Sys2Proof.Machine

open Claims

/-! Commands of the host that nothing refuses (R427, R428, R434). -/

/-- A good frame that the port accepts leaves the state in which its command is checked. -/
theorem State.receiveFrame_fresh {s : State} {f : Frame} {op : Nat} {body : List Byte} {x : Session} {c : Instr}
    (ht : Claims.tagged s f op body x) (hf : fresh s f x) : s.receiveFrame f op body c = (true, accepted s f x) := by
  obtain ⟨hen, hup, hcar, hbad, hses, hgood⟩ := ht
  obtain ⟨hlo, hhi, hseen, hrack, hacc⟩ := hf
  have hwin : ¬ (f.seq.toNat < (x.hear f.rack).rack.toNat ∨ (x.hear f.rack).rack.toNat + 4096 ≤ f.seq.toNat) := by omega
  have hlast : ¬ 0xFFFFF000 < (x.hear f.rack).rack.toNat := by omega
  simp only [State.receiveFrame, State.portOn, hen, hup, hcar, hbad, hses, hgood, HostPort.take, if_neg hwin, hseen,
    if_neg hlast, hacc, Bool.and_self, Bool.true_eq_false, Bool.false_eq_true, or_self, if_false]
  rfl

/-- A command that nothing refuses runs. -/
theorem State.command_eq_run {s u : State} {f : Frame} {r : State → Rule} {body keep : List Byte} {x : Session}
    {c : Instr} {go : Run} (ht : Claims.tagged s f (r s).op body x) (hf : fresh s f x) (hr : r (accepted s f x) = r s)
    (hpass : ((accepted s f x).recorded f (r s) keep).refusal f (r s) body = none)
    (htoken : ((accepted s f x).recorded f (r s) keep).token f (r s) = some u) :
    s.command f r body keep c go = .next (u.run f (r s) go) := by
  simp only [State.command, State.receiveFrame_fresh ht hf, hr, State.serve, hpass, htoken]

/-- A CFG_COMMIT that is taken runs in the state that takes it. -/
theorem exec_cfgCommit_taken {s u : State} {f : Frame} {fn : BitVec 16} {d : Bool} (h : taken s u (.cfgCommit f fn d)) :
    exec (.cfgCommit f fn d) s = .next (u.run f { op := 0x21, auth := .admin } (State.cfgCommit f fn d)) := by
  obtain ⟨f', r, body, keep, x, hrule, ht, hf, hpass, htoken⟩ := h
  cases hrule
  exact State.command_eq_run (r := fun _ => { op := 0x21, auth := .admin }) ht hf rfl hpass htoken

/-! A staged REGS record that names a core's register. -/

/-- A session of the ADMIN with key 5. -/
def adminSession : Session := { id := 1, key := 5, skey := 9 }

/-- CMODE of core 0 becomes 1 (R207, R218). -/
def cmodeRecord : CfgRecord := .regs [(0x1000500, 1, ~~~0)]

/-- Word 0 of core 0 has two bad symbols, which CMODE 0 corrects, and function 6 is staged with a record that sets
CMODE to 1. -/
def cmodeStaged : State :=
  { State.reset with
    cores := State.reset.cores.set 0 { memory := { flips := [(0, 0x10100000000)] } }
    ports := #v[{ linkUp := true, sessions := [adminSession] }, {}]
    store := { State.reset.store with
      cfg := { State.reset.store.cfg with root := some [], keys := [(5, { admin := true })] }
      stagings := [{ fn := 6, who := { port := 0, session := 1, seq := 0 }, first := 0, recs := [cmodeRecord] }] } }

/-- The body of a CFG_COMMIT of function 6. -/
def commitBody : List Byte := leBytes 2 (6 : BitVec 16).toNat ++ leBytes 1 false.toNat

/-- A frame with the tag of its bytes under a key. -/
def withTag (key : BitVec 256) (ftype op : Nat) (body : List Byte) (f : Frame) : Frame :=
  { f with tag := sctTag key (frameBytes f ftype op body) }

/-- The tag is no part of the bytes that it covers (R422). -/
theorem frameBytes_tag (f : Frame) (tag : BitVec 256) (ftype op : Nat) (body : List Byte) :
    frameBytes { f with tag := tag } ftype op body = frameBytes f ftype op body := rfl

theorem frameGood_withTag (key : BitVec 256) (ftype op : Nat) (body : List Byte) (f : Frame) :
    frameGood (withTag key ftype op body f) key ftype op body = true := by
  rw [frameGood, withTag, frameBytes_tag]
  exact beq_self_eq_true _

/-- The session's CFG_COMMIT of function 6. -/
def commitFrame : Frame :=
  withTag adminSession.skey 0 0x21 commitBody { port := 0, session := 1, seq := 1, tag := 0 }

/-- The state in which it runs. -/
def cmodeCommitting : State := accepted cmodeStaged commitFrame adminSession

theorem commitFrame_tagged : Claims.tagged cmodeStaged commitFrame 0x21 commitBody adminSession :=
  ⟨rfl, rfl, rfl, rfl, rfl, frameGood_withTag ..⟩

theorem commitFrame_fresh : fresh cmodeStaged commitFrame adminSession := by
  refine ⟨?_, ?_, rfl, ?_, ?_⟩
  all_goals decide +kernel

theorem cmodeCommitting_taken : taken cmodeStaged cmodeCommitting (.cfgCommit commitFrame 6 false) :=
  ⟨commitFrame, { op := 0x21, auth := .admin }, commitBody, commitBody, adminSession, rfl, commitFrame_tagged,
    commitFrame_fresh, rfl, rfl⟩

/-- The staged record leaves no partition busy and none denied. -/
theorem cmodeRecord_allowed : ∀ r ∈ ((cmodeCommitting.store.staging 6).map (·.recs)).getD [],
    cmodeCommitting.recBusy r = false ∧ cmodeCommitting.recDenied r = false := by
  have h : ((cmodeCommitting.store.staging 6).map (·.recs)).getD [] = [cmodeRecord] := by decide +kernel
  rw [h]
  intro r hr
  rw [List.mem_singleton.1 hr]
  exact ⟨rfl, rfl⟩

/-- Word 0 of core 0 no longer reads as it did once the record is in force. -/
theorem cmodeCommit_changes_word :
    (cmodeCommitting.run commitFrame { op := 0x21, auth := .admin } (State.cfgCommit commitFrame 6 false)).peek 0 0 ≠
      cmodeCommitting.peek 0 0 := by decide +kernel

/-- Refutes O51: its clause on CFG_COMMIT says of every state, also of one whose staging holds a REGS record that
CFG_STAGE would not take, that the commit leaves every word of memory as it reads. A record that sets CORE_MEM_CTRL's
CMODE to 1 makes a word with two bad symbols uncorrectable, so that it no longer reads corrected (R207). -/
theorem not_registersAndConfigurationAreWritten : ¬ Obligations.RegistersAndConfigurationAreWritten := by
  intro h
  obtain ⟨-, -, -, hcommit⟩ := h commitFrame cmodeStaged cmodeCommitting
  obtain ⟨-, -, -, -, happlied⟩ := hcommit 6 false cmodeCommitting_taken
  obtain ⟨t, ht, -, -, -, -, -, hwords, -⟩ := happlied (by decide) (by decide) (by decide +kernel) rfl
    cmodeRecord_allowed (by decide +kernel)
  have hno : .safety true ∉ ((cmodeCommitting.store.staging 6).map (·.recs)).getD [] := by decide +kernel
  rw [exec_cfgCommit_taken cmodeCommitting_taken] at ht
  cases ht
  exact cmodeCommit_changes_word (hwords (.inr hno) 0 0)

end Sys2Proof.Machine
end

section
/-! PROOF. Partitions start, sleep and wake (R29, R365, R474 to R477): what the controller does where it finds nothing
to start, when a partition may run, and what its sleep and its wake change. -/

namespace Sys2Proof.Machine

open Claims

variable (s : State) (p : PartId)

/-! Settings of a partition, and answers to commands. -/

@[simp] theorem State.setPart_part : s.setPart p (s.part p) = s := by
  have h : s.parts.set p (s.part p) = s.parts := Vector.set_getElem_self ..
  rw [State.setPart, h]

@[simp] theorem State.setPart_setPart (k k' : Part) : (s.setPart p k).setPart p k' = s.setPart p k' := by
  simp only [State.setPart, Vector.set_set]

/-- An answer changes the ports alone, and depends on nothing else. -/
theorem State.respondAll_ports (op : BitVec 16) (st : Nat) (b : List Byte) :
    ∀ (l : List (PortId × BitVec 32 × BitVec 32)) (s t : State), s.ports = t.ports →
      (s.respondAll op st b l).ports = (t.respondAll op st b l).ports
  | [], _, _, h => h
  | (x, _, _) :: l, s, t, h => by
    refine State.respondAll_ports op st b l _ _ ?_
    have hp : s.port x = t.port x := congrArg (fun v => v[x]) h
    simp only [State.respond, State.modPort, State.setPort, h, hp]

/-! The controller (R395). -/

/-- A partition that is not RUNNING starts no work. -/
theorem State.kick_of_not_running (h : (s.part p).state ≠ 3) : s.kick p = s := by
  simp only [State.kick, h, ne_eq, not_false_eq_true, if_true]

/-- Without a request no batch has an entry. -/
theorem Part.admitBatch_ents_eq_nil {k : Part} (hs : k.slots = []) (he : k.endedNext = []) :
    k.admitBatch.ents = [] := by
  simp [Part.admitBatch, Part.actives, Part.queued, hs, he, sortBy]

/-- A controller that finds nothing to start changes nothing. -/
theorem State.kick_of_nothingWaits (h : nothingWaits (s.part p)) : s.kick p = s := by
  obtain ⟨hls, hmode⟩ := h
  have hf : ¬ ((s.part p).ls.paired = true ∧ (s.part p).ls.follower = true) := by
    rintro ⟨hp, hf⟩
    simp [hp, hf] at hls
  unfold State.kick
  simp only [hf, if_false]
  rcases hmode with h0 | ⟨h1, hr, hs, he⟩
  · simp [h0]
  · have hb : s.kickBatch p = s := by
      simp [State.kickBatch, hs, Part.sweep, Part.admitBatch_ents_eq_nil hs he, hr]
    simp [h1, hb]

/-! The start (R29, R365). -/

theorem State.portsReady_iff : s.portsReady p = true ↔
    ∀ n < 24, (s.part p).portNeed.getLsbD n = true → s.members n ≠ [] := by
  simp only [State.portsReady, List.all_eq_true, List.mem_range, Bool.or_eq_true, Bool.not_eq_true',
    List.isEmpty_eq_false_iff]
  refine forall₂_congr fun n _ => ?_
  cases (s.part p).portNeed.getLsbD n <;> simp

theorem State.flockUp_iff : s.flockUp p = true ↔
    ∀ q : PartId, (s.part q).flock ≠ 0xFFF → (s.part q).flock = (s.part p).flock →
      s.chip.failedParts.getLsbD q.val = true ∨ s.chip.partLock.getLsbD q.val = true ∨ (s.part q).sleepState ≠ 0 := by
  simp only [State.flockUp, List.all_eq_true, List.mem_finRange, true_imp_iff, Bool.or_eq_true, beq_iff_eq, bne_iff_ne]
  exact forall_congr' fun q => by tauto

theorem State.mayRun_iff : s.mayRun p = true ↔
    (s.part p).state = 2 ∧ s.chip.partLock.getLsbD p.val = true ∧ (s.part p).sleepState = 0 ∧
    (∀ n < 24, (s.part p).portNeed.getLsbD n = true → s.members n ≠ []) ∧
    ((s.part p).ls.paired = true → (s.part p).ls.helloSeen = true) ∧
    (∀ q : PartId, (s.part q).flock ≠ 0xFFF → (s.part q).flock = (s.part p).flock →
      s.chip.failedParts.getLsbD q.val = true ∨ s.chip.partLock.getLsbD q.val = true ∨ (s.part q).sleepState ≠ 0) := by
  simp only [State.mayRun, Bool.and_eq_true, State.portsReady_iff, State.flockUp_iff, beq_iff_eq, Bool.or_eq_true,
    Bool.not_eq_true', and_assoc]
  cases (s.part p).ls.paired <;> simp

theorem State.tryRun_of_not_mayRun (h : s.mayRun p ≠ true) : s.tryRun p = s := by
  simp only [State.tryRun, Bool.eq_false_iff.2 h, if_true]

/-- A partition that has become RUNNING. -/
def Part.started (k : Part) : Part :=
  { k with state := 3, first := true, starts := [], ls := { k.ls with helloSeen := false } }

theorem srvMode_ne_two_of_nothingWaits {k : Part} (h : nothingWaits k) : k.srvMode ≠ 2 := by
  rcases h.2 with h | ⟨h, -⟩ <;> simp [h]

/-- A partition that may run and finds nothing to start becomes RUNNING, and its starts are answered. -/
theorem State.tryRun_of_mayRun (h : s.mayRun p = true) (hn : nothingWaits (s.part p)) :
    s.tryRun p = (s.setPart p (s.part p).started).respondAll 0x31 stOK [3] (s.part p).starts := by
  have hm := srvMode_ne_two_of_nothingWaits hn
  have hk : nothingWaits (((s.setPart p (s.part p).started).respondAll 0x31 stOK [3] (s.part p).starts).part p) := by
    rw [State.part_respondAll, State.part_setPart_self]
    exact hn
  simp only [State.tryRun, h, hm, false_and, if_false, State.enterRunning, Bool.true_eq_false]
  exact State.kick_of_nothingWaits _ p hk

/-! Sleep (R475). -/

/-- The cases in which a partition stays awake. -/
theorem State.sleepTarget_eq_zero
    (h : (s.part p).state = 2 ∨ (s.part p).state = 4 ∨
      ((s.part p).state = 3 ∧ ((s.part p).stepping = true ∨ (s.part p).srvMode ≠ 1)) ∨ (p = 0 ∧ s.safety = true) ∨
      (s.work.recording.held = true ∧ s.work.recording.buffer = p) ∨
      ((s.part p).state = 0 ∧ (s.part p).sleepOff = false) ∨ ((s.part p).state = 1 ∧ (s.part p).sleepRet = false)) :
    s.sleepTarget p = 0 := by
  simp only [State.sleepTarget]
  rcases h with h | h | ⟨h, h' | h'⟩ | h | h | ⟨h, h'⟩ | ⟨h, h'⟩
  · simp [h]
  · simp [h]
  · simp [h, h']
  · have h' : (s.part p).srvMode ≠ 1#2 := h'
    simp [h, h']
  · simp [h]
  · simp [h]
  · simp [h, h']
  · simp [h, h']

/-- The cases in which it goes to sleep, and how deep. -/
theorem State.sleepTarget_eq {x : BitVec 2}
    (h : (x = 2 ∧ (s.part p).state = 0 ∧ (s.part p).sleepOff = true) ∨ (x = 1 ∧ (s.part p).sleepRet = true ∧
      ((s.part p).state = 1 ∨ ((s.part p).state = 3 ∧ (s.part p).srvMode = 1 ∧ (s.part p).stepping = false ∧
        (s.part p).ls.await = false))))
    (hs : ¬ (p = 0 ∧ s.safety = true)) (hr : ¬ (s.work.recording.held = true ∧ s.work.recording.buffer = p)) :
    s.sleepTarget p = x := by
  have hn : ¬ ((p = 0 ∧ s.safety = true) ∨ (s.work.recording.held = true ∧ s.work.recording.buffer = p)) := by tauto
  simp only [State.sleepTarget, hn, if_false]
  rcases h with ⟨rfl, h0, ho⟩ | ⟨rfl, hr, h1 | ⟨h3, hm, hstep, ha⟩⟩
  · simp [h0, ho]
  · simp [h1, hr]
  · simp [h3, hm, hstep, ha, hr]

/-! The domains and the PLL of a partition. -/

theorem getElem!_setIfInBounds {n : Nat} (v : Vector (BitVec 2) n) {i : Nat} (hi : i < n) (x : BitVec 2) (j : Nat) :
    (v.setIfInBounds i x)[j]! = if i = j then x else v[j]! := by
  by_cases hj : j < n
  · simp only [getElem!_pos, hj, Vector.getElem_setIfInBounds]
  · have hne : i ≠ j := by omega
    simp only [getElem!_neg, hj, hne, not_false_eq_true, if_false]

theorem getElem!_foldl_setIfInBounds (x : BitVec 2) (j : Nat) : ∀ (l : List CoreId) (v : Vector (BitVec 2) 148),
    (l.foldl (fun d c => d.setIfInBounds c.val x) v)[j]! = if ∃ c ∈ l, c.val = j then x else v[j]!
  | [], v => by simp
  | c :: l, v => by
    rw [List.foldl_cons, getElem!_foldl_setIfInBounds x j l, getElem!_setIfInBounds v (by omega)]
    by_cases hc : c.val = j <;> by_cases hl : ∃ c ∈ l, c.val = j <;> simp [hc, hl]

/-- A partition's cores take a state, and no other domain does. -/
theorem State.domainsAre_setDomains (x : BitVec 2) : domainsAre s (s.setDomains p x) p x := by
  refine ⟨fun c hc => ?_, fun n hn => ?_⟩
  · exact (getElem!_foldl_setIfInBounds x c.val _ _).trans (if_pos ⟨c, hc, rfl⟩)
  · exact (getElem!_foldl_setIfInBounds x n _ _).trans (if_neg fun ⟨c, hc, he⟩ => hn c hc he)

theorem getLsbD_one_shiftLeft (p : PartId) (n : Nat) : (1#12 <<< p.val).getLsbD n = (n == p.val) := by
  rw [BitVec.getLsbD_shiftLeft, BitVec.getLsbD_one]
  have := p.isLt
  rw [Bool.eq_iff_iff]
  simp only [Bool.and_eq_true, Bool.not_eq_true', decide_eq_true_eq, decide_eq_false_iff_not, beq_iff_eq]
  omega

/-- The partition's PLL stops. -/
theorem State.partLock_setPll_false (n : Nat) :
    (s.setPll p false).chip.partLock.getLsbD n = (s.chip.partLock.getLsbD n && n != p.val) := by
  simp only [State.setPll, Bool.false_eq_true, if_false, BitVec.getLsbD_and, BitVec.getLsbD_not, getLsbD_one_shiftLeft]
  by_cases h : n < 12
  · simp [h, bne]
  · simp [BitVec.getLsbD_of_ge _ n (Nat.le_of_not_lt h)]

/-- The partition's PLL is locked. -/
theorem State.partLock_setPll_true (n : Nat) :
    (s.setPll p true).chip.partLock.getLsbD n = (s.chip.partLock.getLsbD n || n == p.val) := by
  simp only [State.setPll, if_true, BitVec.getLsbD_or, getLsbD_one_shiftLeft]

/-! The sleep of a partition. -/

/-- A partition whose cores have gone to a state, with its PLL stopped. -/
def State.asleepAt (x : BitVec 2) : State :=
  ((s.setPart p { s.part p with sleepState := x, waking := false }).setDomains p x).setPll p false

/-- A partition that is busy, or stays awake, is left as it is. -/
theorem exec_partitionIdleSleep_stays (h : s.sleepTarget p = 0 ∨ s.atRest p = false) :
    exec (.partitionIdleSleep p) s = .next s := by
  have h' : s.sleepTarget p = 0 ∨ (s.part p).sleepState ≠ 0 ∨ s.chip.partLock.getLsbD p.val = false ∨
      s.atRest p = false := by tauto
  exact congrArg Host.Outcome.next (if_pos h')

/-- A partition at rest goes to sleep. -/
theorem exec_partitionIdleSleep_sleeps {x : BitVec 2} (hx : x ≠ 0) (ht : s.sleepTarget p = x) (hr : s.atRest p = true)
    (ho : (s.part p).sleepState = 0) (hl : s.chip.partLock.getLsbD p.val = true) :
    exec (.partitionIdleSleep p) s = .next (s.asleepAt p x) := by
  have h : ¬ (s.sleepTarget p = 0 ∨ (s.part p).sleepState ≠ 0 ∨ s.chip.partLock.getLsbD p.val = false ∨
      s.atRest p = false) := by
    rw [ht, hr, ho, hl]
    exact fun h => h.elim hx (by decide)
  refine congrArg Host.Outcome.next ((if_neg h).trans ?_)
  rw [ht]
  rfl

/-! The wake of a partition (R474, R476, R477). -/

/-- A partition that is awake again. -/
def Part.awake (k : Part) (ns : Nat) : Part :=
  { k with sleepState := 0, waking := false, stepWaits := false,
           slip := if k.stepWaits then satAdd k.slip ns else k.slip }

/-- The cores after a wake: those that were OFF keep their register blocks alone. -/
def State.coresAwake : State :=
  if (s.part p).sleepState = 2 then (s.ranks p).foldl (fun s c => s.modCore c Core.fromOff) s else s

theorem State.foldl_modCore_eq (f : Core → Core) : ∀ (l : List CoreId) (s : State),
    l.foldl (fun s c => s.modCore c f) s = { s with cores := (l.foldl (fun s c => s.modCore c f) s).cores }
  | [], _ => rfl
  | c :: l, s => by
    rw [List.foldl_cons, State.foldl_modCore_eq f l]
    rfl

theorem State.core_foldl_modCore (f : Core → Core) (x : CoreId) : ∀ (l : List CoreId) (s : State), l.Nodup →
    (l.foldl (fun s c => s.modCore c f) s).core x = if x ∈ l then f (s.core x) else s.core x
  | [], s, _ => by simp
  | c :: l, s, h => by
    obtain ⟨h1, h2⟩ := List.nodup_cons.1 h
    rw [List.foldl_cons, State.core_foldl_modCore f x l _ h2, s.core_modCore]
    by_cases e : x = c
    · subst e; simp [h1]
    · simp [e]

theorem State.ranks_nodup : (s.ranks p).Nodup := (coresOf_nodup p).filter _

theorem State.coresAwake_eq : s.coresAwake p = { s with cores := (s.coresAwake p).cores } := by
  unfold State.coresAwake
  split
  · exact State.foldl_modCore_eq ..
  · rfl

theorem State.core_coresAwake (h : (s.part p).sleepState = 2) (x : CoreId) :
    (s.coresAwake p).core x = if x ∈ s.ranks p then (s.core x).fromOff else s.core x := by
  rw [State.coresAwake, if_pos h]
  exact State.core_foldl_modCore _ _ _ _ (s.ranks_nodup p)

theorem State.coresAwake_of_ne (h : (s.part p).sleepState ≠ 2) : s.coresAwake p = s := if_neg h

/-- A core whose domain has been OFF holds zeros (R474). -/
theorem Core.peek_fromOff (k : Core) (a : Nat) : k.fromOff.memory.peek a = 0 := by
  simp only [Memory.peek, Core.fromOff, smGet_nil, if_true]

theorem Core.vreg_fromOff (k : Core) (n : BitVec 5) : k.fromOff.vec.vreg n = 0 := Vector.getElem_replicate _

theorem Core.counter_fromOff (k : Core) (n : BitVec 5) : k.fromOff.counter n = {} := Vector.getElem_replicate _

/-- A partition that is awake again, with its cores ON and its PLL locked. -/
def State.awakeAgain (ns : Nat) : State :=
  (((s.coresAwake p).setPart p ((s.part p).awake ns)).setDomains p 0).setPll p true

theorem State.part_awakeAgain (ns : Nat) (q : PartId) :
    (s.awakeAgain p ns).part q = if q = p then (s.part p).awake ns else s.part q := by
  refine (State.part_setPart (s.coresAwake p) p _ q).trans ?_
  rw [State.coresAwake_eq]
  rfl

theorem State.core_awakeAgain (ns : Nat) (x : CoreId) : (s.awakeAgain p ns).core x = (s.coresAwake p).core x := rfl

theorem State.awakeAgain_eq (ns : Nat) : s.awakeAgain p ns =
    { ((s.setPart p ((s.part p).awake ns)).setDomains p 0).setPll p true with cores := (s.coresAwake p).cores } := by
  rw [State.awakeAgain, State.coresAwake_eq]
  rfl

/-- With no packet held at its ingress, a partition tries none again. -/
theorem State.reland_of_no_heldPkts (h : (s.part p).heldPkts = []) : s.reland p = s := by
  have hk : ({ s.part p with heldPkts := [] } : Part) = s.part p := by rw [← h]
  simp only [State.reland, h, State.landList, State.modPart_eq, hk, State.setPart_part]

/-- A wake that holds nothing back. -/
theorem exec_partitionWakeDone_wakes (ns : Nat) (hw : (s.part p).waking = true) (hl : (s.part p).loads = [])
    (hp : (s.part p).heldPkts = []) (hn : (s.part p).state ≠ 3 ∨ nothingWaits (s.part p)) :
    exec (.partitionWakeDone p ns) s = .next (s.awakeAgain p ns) := by
  have hpart : (s.awakeAgain p ns).part p = (s.part p).awake ns := by rw [State.part_awakeAgain, if_pos rfl]
  have hdone : s.wakeDone p ns = s.awakeAgain p ns :=
    State.reland_of_no_heldPkts (s.awakeAgain p ns) p (by rw [hpart]; exact hp)
  have hkick : (s.awakeAgain p ns).kick p = s.awakeAgain p ns := by
    rcases hn with h | h
    · exact State.kick_of_not_running _ p (by rw [hpart]; exact h)
    · exact State.kick_of_nothingWaits _ p (by rw [hpart]; exact h)
  refine congrArg Host.Outcome.next ((if_neg (by rw [hw]; decide)).trans ?_)
  rw [hdone]
  exact (if_pos (by rw [hpart]; exact hl)).trans hkick

/-- Settles O43: a start that nothing waits behind, a sleep and a wake are each one expression in the state before
them. -/
theorem partitionsStartSleepAndWake : Obligations.PartitionsStartSleepAndWake := by
  intro p s
  refine ⟨fun h => ?_, fun h hn => ?_, fun h => ?_, fun x hx hs hr hrest hon hlock => ?_, fun ns => ⟨fun h => ?_, ?_⟩⟩
  · exact congrArg Host.Outcome.next (s.tryRun_of_not_mayRun p (mt (s.mayRun_iff p).1 h))
  · refine ⟨_, congrArg Host.Outcome.next (s.tryRun_of_mayRun p ((s.mayRun_iff p).2 h) hn), ?_, ?_, fun x hx => ?_, ?_⟩
    · rw [State.respondAll_eq]; rfl
    · rw [State.part_respondAll, State.part_setPart_self]; rfl
    · rw [State.part_respondAll, State.part_setPart_ne _ _ _ _ hx]
    · exact State.respondAll_ports _ _ _ _ _ _ rfl
  · refine exec_partitionIdleSleep_stays s p ?_
    by_cases hr : s.atRest p = false
    · exact .inr hr
    · exact .inl (s.sleepTarget_eq_zero p (by tauto))
  · have hx0 : x ≠ 0 := by rcases hx with ⟨rfl, -⟩ | ⟨rfl, -⟩ <;> decide
    refine ⟨_, exec_partitionIdleSleep_sleeps s p hx0 (s.sleepTarget_eq p hx hs hr) hrest hon hlock, rfl,
      State.part_setPart_self .., fun y hy => State.part_setPart_ne _ _ _ _ hy, ?_, rfl, ?_⟩
    · exact State.domainsAre_setDomains (s.setPart p _) p x
    · exact State.partLock_setPll_false _ p
  · exact congrArg Host.Outcome.next (if_pos h)
  · intro hw hl hp hn
    have hcore : (s.part p).sleepState = 2 → ∀ c, (s.awakeAgain p ns).core c =
        if c ∈ s.ranks p then (s.core c).fromOff else s.core c := fun h c =>
      (s.core_awakeAgain p ns c).trans (s.core_coresAwake p h c)
    refine ⟨_, exec_partitionWakeDone_wakes s p ns hw hl hp hn, ?_, ?_, fun y hy => ?_, ?_, fun n _ => ?_, fun h => ?_,
      fun h => ⟨fun c hc => ?_, fun c hc => ?_⟩⟩
    · rw [State.awakeAgain_eq]; rfl
    · exact (s.part_awakeAgain p ns p).trans (if_pos rfl)
    · exact (s.part_awakeAgain p ns y).trans (if_neg hy)
    · rw [State.awakeAgain_eq]
      exact s.domainsAre_setDomains p 0
    · rw [State.awakeAgain_eq]
      exact s.partLock_setPll_true p n
    · rw [State.awakeAgain_eq, State.coresAwake_of_ne s p h]
    · rw [hcore h, if_neg hc]
    · simp only [State.peek, hcore h, if_pos hc]
      exact ⟨Core.peek_fromOff _, fun _ => rfl, Core.vreg_fromOff _,
        fun n => congrArg Counter.count (Core.counter_fromOff _ n), rfl, rfl, rfl⟩

end Sys2Proof.Machine
end

section
/-! PROOF. The records of lock-step twins (R484, R485): how the records of two twins are paired. -/

namespace Sys2Proof.Machine

open Claims

theorem LsRecord.same_iff {a b : LsRecord} : LsRecord.same a b = true ↔ a.stream = b.stream ∧ a.seq = b.seq := by
  simp [LsRecord.same]

@[simp] theorem LsRecord.same_self (a : LsRecord) : LsRecord.same a a = true := LsRecord.same_iff.2 ⟨rfl, rfl⟩

theorem LsRecord.same_comm (a b : LsRecord) : LsRecord.same a b = LsRecord.same b a := by
  rw [Bool.eq_iff_iff, LsRecord.same_iff, LsRecord.same_iff, eq_comm, @eq_comm _ a.seq]

theorem LsRecord.same_trans {a b c : LsRecord} (h : LsRecord.same a b = true) (h' : LsRecord.same b c = true) :
    LsRecord.same a c = true := by
  rw [LsRecord.same_iff] at *
  exact ⟨h.1.trans h'.1, h.2.trans h'.2⟩

theorem distinctRecords_cons {r : LsRecord} {l : List LsRecord} :
    distinctRecords (r :: l) ↔ (∀ x ∈ l, LsRecord.same r x = false) ∧ distinctRecords l :=
  List.pairwise_cons

/-- Two records of such a list for one stream and sequence number are one. -/
theorem eq_of_same_of_distinctRecords {l : List LsRecord} (h : distinctRecords l) {a b : LsRecord} (ha : a ∈ l)
    (hb : b ∈ l) (hs : LsRecord.same a b = true) : a = b := by
  by_contra hne
  have hsymm : Std.Symm (fun a b => LsRecord.same a b = false) := ⟨fun a b h => (LsRecord.same_comm b a).trans h⟩
  exact Bool.false_ne_true ((List.Pairwise.forall h ha hb hne).symm.trans hs)

/-- The record that matches `r` is taken out of such a list. -/
theorem erase_eq_filter_of_distinctRecords {l : List LsRecord} (h : distinctRecords l) {r x : LsRecord} (hx : x ∈ l)
    (hr : LsRecord.same r x = true) : l.erase x = l.filter (fun y => !LsRecord.same r y) := by
  have hn : l.Nodup := h.imp fun {a b} hab e => by rw [e, LsRecord.same_self] at hab; cases hab
  rw [hn.erase_eq_filter]
  refine List.filter_congr fun y hy => ?_
  by_cases hy' : LsRecord.same r y = true
  · have hxy : x = y :=
      eq_of_same_of_distinctRecords h hx hy (LsRecord.same_trans (LsRecord.same_comm .. ▸ hr) hy')
    simp [hy', hxy]
  · have hne : y ≠ x := fun e => hy' (e ▸ hr)
    simp [hy', hne]

/-- A pairing: records with a counterpart that agrees leave both lists. -/
theorem lsMatch_of_agree : ∀ {own tw : List LsRecord}, distinctRecords own → distinctRecords tw →
    (∀ o ∈ own, ∀ x ∈ tw, LsRecord.same o x = true → x.check = o.check) →
    lsMatch own tw = (none, own.filter (fun o => !(tw.any (fun x => LsRecord.same o x))),
      tw.filter (fun x => !(own.any (fun o => LsRecord.same o x))))
  | [], tw, _, _, _ => by simp [lsMatch]
  | r :: own, tw, ho, ht, hc => by
    obtain ⟨hr, ho⟩ := distinctRecords_cons.1 ho
    obtain ⟨hcr, hc⟩ := List.forall_mem_cons.1 hc
    unfold lsMatch
    cases hf : tw.find? (LsRecord.same r) with
    | none =>
      have hno : ∀ x ∈ tw, LsRecord.same r x = false := by simpa using hf
      have hany : tw.any (fun x => LsRecord.same r x) = false := by simpa using hno
      have htw : tw.filter (fun x => !((r :: own).any (fun o => LsRecord.same o x))) =
          tw.filter (fun x => !(own.any (fun o => LsRecord.same o x))) :=
        List.filter_congr fun x hx => by rw [List.any_cons, hno x hx, Bool.false_or]
      simp only [lsMatch_of_agree ho ht hc, htw, List.filter_cons, hany, Bool.not_false, if_true]
    | some x =>
      have hx : x ∈ tw := List.mem_of_find?_eq_some hf
      have hrx : LsRecord.same r x = true := List.find?_some hf
      have hany : tw.any (fun x => LsRecord.same r x) = true := List.any_eq_true.2 ⟨x, hx, hrx⟩
      have hown : own.filter (fun o => !((tw.filter (fun y => !LsRecord.same r y)).any (fun x => LsRecord.same o x))) =
          own.filter (fun o => !(tw.any (fun x => LsRecord.same o x))) := by
        refine List.filter_congr fun o ho' => congrArg _ ?_
        rw [List.any_filter]
        refine List.any_congr rfl fun y => ?_
        cases hy : LsRecord.same o y with
        | false => rw [Bool.and_false]
        | true =>
          have hry : LsRecord.same r y = false := by
            by_contra h
            have hro := LsRecord.same_trans (Bool.not_eq_false _ ▸ h) (LsRecord.same_comm o y ▸ hy)
            rw [hr o ho'] at hro; cases hro
          rw [hry]; rfl
      simp only [hcr x hx hrx, if_true, erase_eq_filter_of_distinctRecords ht hx hrx,
        lsMatch_of_agree ho (List.Pairwise.filter _ ht)
          fun o ho' y hy => hc o ho' y (List.mem_of_mem_filter hy), hown, List.filter_filter, List.filter_cons, hany,
        Bool.not_true, Bool.false_eq_true, if_false, List.any_cons, Bool.not_or, Bool.and_comm]

/-- A record whose counterpart differs is found, or one before it is. -/
theorem lsMatch_of_differ : ∀ {own tw : List LsRecord}, distinctRecords own → distinctRecords tw →
    ∀ {o x : LsRecord}, o ∈ own → x ∈ tw → LsRecord.same o x = true → x.check ≠ o.check →
      ∃ r, (lsMatch own tw).1 = some r ∧ r ∈ own ∧ ∃ y ∈ tw, LsRecord.same r y = true ∧ y.check ≠ r.check
  | r :: own, tw, ho, ht, o, x, hmo, hx, hs, hc => by
    obtain ⟨hr, ho⟩ := distinctRecords_cons.1 ho
    unfold lsMatch
    cases hf : tw.find? (LsRecord.same r) with
    | none =>
      have hno : ∀ x ∈ tw, LsRecord.same r x = false := by simpa using hf
      rcases List.mem_cons.1 hmo with rfl | hmo
      · rw [hno x hx] at hs; cases hs
      · obtain ⟨r', h1, h2, h3⟩ := lsMatch_of_differ ho ht hmo hx hs hc
        exact ⟨r', h1, List.mem_cons_of_mem _ h2, h3⟩
    | some y =>
      have hy : y ∈ tw := List.mem_of_find?_eq_some hf
      have hry : LsRecord.same r y = true := List.find?_some hf
      by_cases he : y.check = r.check
      · have hmo' : o ∈ own := by
          refine (List.mem_cons.1 hmo).resolve_left fun e => hc ?_
          subst e
          rw [← he, eq_of_same_of_distinctRecords ht hx hy (LsRecord.same_trans (LsRecord.same_comm .. ▸ hs) hry)]
        have hxy : x ≠ y := by
          rintro rfl
          have := LsRecord.same_trans hry (LsRecord.same_comm .. ▸ hs)
          rw [hr o hmo'] at this; cases this
        obtain ⟨r', h1, h2, z, hz, h3⟩ := lsMatch_of_differ ho (List.Pairwise.sublist List.erase_sublist ht) hmo'
          ((List.mem_erase_of_ne hxy).2 hx) hs hc
        simp only [he, if_true]
        exact ⟨r', h1, List.mem_cons_of_mem _ h2, z, List.mem_of_mem_erase hz, h3⟩
      · simp only [he, if_false]
        exact ⟨r, rfl, List.mem_cons_self, y, hy, hry, he⟩

end Sys2Proof.Machine
end

section
/-! PROOF. What lock-step twins send and how they halt (R483, R487). -/

namespace Sys2Proof.Machine

open Claims

variable {s t u : State} {p : PartId}

/-! Packets for the twin (R483). -/

/-- What a packet of class 3 of a partition puts in motion: itself, where it has a route. -/
def State.twinMotion (s : State) (a : Packet) : List Moving :=
  if s.isHere a = true then [{ vc := 6, pkt := a }]
  else match s.route 6 a with
    | some l => [{ vc := 6, pkt := a, link := some l }]
    | none => []

/-- No spine bucket holds a packet of class 3 back (R375). -/
theorem ownPath_class3 (a : Packet) (out : Option LinkId) : ownPath 6 a out = [] := by
  cases out with
  | none => simp [ownPath, spineNeeds]
  | some l => simp [ownPath, spineNeeds]

theorem State.reply_class3 (s : State) (a : Packet) :
    s.reply 6 a = { s with transit := s.transit ++ s.twinMotion a } := by
  unfold State.reply State.launch State.twinMotion
  split
  · simp [ownPath_class3]
  · cases s.route 6 a with
    | none => simp
    | some l => simp [ownPath_class3]

/-- A lock-step packet puts itself in motion and changes nothing else. -/
theorem State.lsSend_eq (s : State) (p : PartId) (ws : List MWord) :
    s.lsSend p ws = { s with transit := (s.lsSend p ws).transit } := by
  rw [State.lsSend, State.reply_class3]

@[simp] theorem State.part_lsSend (s : State) (p : PartId) (ws : List MWord) (q : PartId) :
    (s.lsSend p ws).part q = s.part q := by
  rw [State.lsSend_eq]; rfl

@[simp] theorem State.core_lsSend (s : State) (p : PartId) (ws : List MWord) (c : CoreId) :
    (s.lsSend p ws).core c = s.core c := by
  rw [State.lsSend_eq]; rfl

theorem sentTwin_lsSend (s : State) (p : PartId) (ws : List MWord) : sentTwin s (s.lsSend p ws) p ws := by
  rw [State.lsSend, State.reply_class3]
  rfl

/-- The member that a packet leaves by depends on the links. -/
theorem State.pickMember_congr (hl : u.link = s.link) (cls : Nat) :
    ∀ ms : List LinkId, u.pickMember cls ms = s.pickMember cls ms
  | [] => rfl
  | l :: ms => by simp only [State.pickMember, State.pickMember_congr hl cls ms, hl]

/-- The route of a packet depends on the routing unit and on the links. -/
theorem State.route_congr (hr : u.rte = s.rte) (hl : u.links = s.links) : u.route = s.route := by
  have hk : u.link = s.link := funext fun l => by rw [State.link, hl, State.link]
  have hm : u.members = s.members := by unfold State.members; rw [hk]
  have hc : u.candidates = s.candidates := by unfold State.candidates; rw [hk]
  have hp : u.pickMember = s.pickMember := funext fun cls => funext (State.pickMember_congr hk cls)
  unfold State.route
  rw [hr, hm, hc, hp]

/-- What is sent for a partition depends on its routes, its chip and the chip of its twin. -/
theorem sentTwin_of_same (hr : u.rte = s.rte) (hl : u.links = s.links) (hc : u.chipId = s.chipId)
    (hx : (u.part p).ls.twinChip = (s.part p).ls.twinChip) (ht : u.transit = s.transit) {ws : List MWord}
    (h : sentTwin u t p ws) : sentTwin s t p ws := by
  have hm : u.isHere = s.isHere := funext fun a => by rw [State.isHere, hc, State.isHere]
  unfold sentTwin mkPacket at *
  rw [hr, hc, hx, ht, State.route_congr hr hl, hm] at h
  exact h

/-! The stop of a step, seen from outside its partition (R209). -/

theorem State.stopStep_eq (s : State) (p : PartId) (st cause : Nat) : s.stopStep p st cause =
    { s with cores := (s.stopStep p st cause).cores, parts := (s.stopStep p st cause).parts,
             ports := (s.stopStep p st cause).ports } := by
  by_cases h : (s.part p).state = 3 ∨ (s.part p).state = 4
  · rw [State.stopStep_active s p st cause h, State.respondAll_eq, State.halted_eq]
    rfl
  · rw [State.stopStep_idle s p st cause h]

theorem Part.abandon_ls (k : Part) (now : BitVec 64) (st : Nat) : (k.abandon now st).ls = k.ls := by
  simp only [Part.abandon]
  rw [Part.finishAll_eq, Part.chargeAll_eq]

/-- A stop keeps the pairing but for what waited for the twin. -/
theorem Part.stop_ls (k : Part) (now : BitVec 64) (st cause : Nat) :
    (k.stop now st cause).ls = { k.ls with await := false, batches := [] } := by
  unfold Part.stop
  split
  · simp only [Part.abandon_ls]
  · rfl

/-! The halt of a pair (R487). -/

theorem logged_log (s : State) (code : Nat) (src : BitVec 16) (p0 p1 p2 p3 : Nat) :
    logged s (s.log code src p0 p1 p2 p3) code src p0 p1 p2 p3 := by
  intro h
  simp [State.log, h]

/-- Why and where a pair halts, as its register block holds it (R487). -/
def Lockstep.halted (l : Lockstep) (reason : Nat) (stream : BitVec 16) (seq : BitVec 32) (step : BitVec 16)
    (cycle : BitVec 32) : Lockstep :=
  { l with reason := BitVec.ofNat 2 reason, stream := stream, seq := seq.setWidth 16, step := step, cycle := cycle,
           own := [], twin := [], unsent := [] }

/-- The state in which the step of a halted pair stops. -/
def State.lsHalting (s : State) (p : PartId) (reason : Nat) (stream : BitVec 16) (seq : BitVec 32) : State :=
  (s.draw.2.modPart p (fun k => { k with
    ls := k.ls.halted reason stream seq k.steps (s.draw.1.extractLsb' 0 32) })).log 0x0020 (srcPart p) reason
      stream.toNat seq.toNat 0

theorem State.lsStop_eq_stopStep (s : State) (p : PartId) (reason : Nat) (stream : BitVec 16) (seq : BitVec 32) :
    s.lsStop p reason stream seq = (s.lsHalting p reason stream seq).stopStep p
      (if reason = 1 then stFAULT else stTIMEOUT) (if reason = 1 then 9 else 10) := rfl

section
variable (s p) (reason : Nat) (stream : BitVec 16) (seq : BitVec 32)

theorem State.part_lsHalting : (s.lsHalting p reason stream seq).part p = { s.part p with
    ls := (s.part p).ls.halted reason stream seq (s.part p).steps (s.draw.1.extractLsb' 0 32) } := by
  rw [State.lsHalting, State.part_log, State.part_modPart_self]
  rfl

/-- The halt of a running pair leaves the packets in motion, the routes and the names as they were. -/
theorem State.lsStop_eq : s.lsStop p reason stream seq =
    { s with cores := (s.lsStop p reason stream seq).cores, parts := (s.lsStop p reason stream seq).parts,
             ports := (s.lsStop p reason stream seq).ports, evlog := (s.lsStop p reason stream seq).evlog,
             draws := (s.lsStop p reason stream seq).draws } := by
  obtain ⟨e, he, -⟩ := State.log_eq (s.draw.2.modPart p (fun k => { k with
    ls := k.ls.halted reason stream seq k.steps (s.draw.1.extractLsb' 0 32) })) 0x0020 (srcPart p) reason
      stream.toNat seq.toNat 0
  rw [State.lsStop_eq_stopStep, State.stopStep_eq, State.lsHalting, he]
  rfl

variable {s p}

/-- The partition of a halted pair. -/
theorem State.part_lsStop (h : running s p) : ∃ cycle, (s.lsStop p reason stream seq).part p =
    { ({ s.part p with ls := (s.part p).ls.halted reason stream seq (s.part p).steps cycle } : Part).stop s.time
        (if reason = 1 then stFAULT else stTIMEOUT) (if reason = 1 then 9 else 10) with stops := [] } := by
  have hpart := s.part_lsHalting p reason stream seq
  have hst : ((s.lsHalting p reason stream seq).part p).state = 3 ∨
      ((s.lsHalting p reason stream seq).part p).state = 4 := by rw [hpart]; exact h.2
  have htime : (s.lsHalting p reason stream seq).time = s.time := by rw [State.lsHalting, State.log_time]; rfl
  rw [State.lsStop_eq_stopStep, State.part_stopStep _ _ _ _ _ hst, if_pos rfl, hpart, htime]
  exact ⟨_, rfl⟩

theorem State.ls_lsStop (h : running s p) : ∃ cycle, ((s.lsStop p reason stream seq).part p).ls =
    { (s.part p).ls.halted reason stream seq (s.part p).steps cycle with await := false, batches := [] } := by
  obtain ⟨cycle, hk⟩ := State.part_lsStop reason stream seq h
  refine ⟨cycle, ?_⟩
  rw [hk]
  exact Part.stop_ls _ s.time _ (if reason = 1 then 9 else 10)

/-- A pair whose step is halted. -/
theorem pairHalted_lsStop (h : running s p) {st cause : Nat} (hst : (if reason = 1 then stFAULT else stTIMEOUT) = st)
    (hc : (if reason = 1 then 9 else 10) = cause) :
    pairHalted s (s.lsStop p reason stream seq) p reason st cause stream seq := by
  subst hst hc
  obtain ⟨cycle, hk⟩ := State.part_lsStop reason stream seq h
  obtain ⟨_, hls⟩ := State.ls_lsStop reason stream seq h
  unfold pairHalted stopped
  rw [hls, hk]
  refine ⟨⟨rfl, rfl, rfl, fun n r hm ha => ?_⟩, rfl, rfl, rfl, rfl, rfl, rfl, rfl, fun hroom => ?_⟩
  · exact Part.stop_ends { s.part p with ls := (s.part p).ls.halted reason stream seq (s.part p).steps cycle }
      s.time _ (if reason = 1 then 9 else 10) h.1 hm ha
  · rw [State.lsStop_eq_stopStep, State.stopStep_evlog]
    exact logged_log (s.draw.2.modPart p _) _ _ _ _ _ _ hroom

/-- What a pair's halt sends to the twin is sent as from the state before. -/
theorem sentTwin_lsHalt_lsStop (h : running s p) : sentTwin s ((s.lsStop p reason stream seq).lsHalt p stream seq) p
    [lsControl 2 (leBytes 2 stream.toNat ++ leBytes 2 0 ++ leBytes 4 seq.toNat)] := by
  refine sentTwin_of_same (u := s.lsStop p reason stream seq) ?_ ?_ ?_ ?_ ?_ (sentTwin_lsSend _ p _)
  · rw [State.lsStop_eq]
  · rw [State.lsStop_eq]
  · rw [State.lsStop_eq]
  · obtain ⟨_, hls⟩ := State.ls_lsStop reason stream seq h
    rw [hls]; rfl
  · rw [State.lsStop_eq]

end

/-- A packet sent leaves a halted pair halted. -/
theorem pairHalted_lsHalt {why st cause : Nat} {stream : BitVec 16} {seq : BitVec 32}
    (h : pairHalted s t p why st cause stream seq) :
    pairHalted s (t.lsHalt p stream seq) p why st cause stream seq := by
  unfold State.lsHalt
  rw [State.lsSend_eq]
  exact h

end Sys2Proof.Machine
end

section
/-! PROOF. A follower's step with its leader's table (R30, R395, R486): what the boundary writes, and when it waits. -/

namespace Sys2Proof.Machine

variable {s t u : State} {p : PartId}

/-! A table in memory (R397). -/

theorem State.storeKeeps.part (h : s.storeKeeps t) (q : PartId) : t.part q = s.part q := by
  have e := congrArg (fun v : State => v.part q) h.outside
  exact e

theorem State.storeKeeps.work (h : s.storeKeeps t) : t.work = s.work := by
  have e := congrArg State.work h.outside
  exact e

theorem State.storeKeeps_writeTable (c : CoreId) (a : Nat) : ∀ (l : List (Nat × List MWord)) (s : State),
    s.storeKeeps (s.writeTable c a l)
  | [], s => .refl s
  | (_, ws) :: l, s => (State.storeKeeps_pokeMany c ws _ s).trans (State.storeKeeps_writeTable c a l _)

theorem State.writeTable_memoriesWf (c : CoreId) (a : Nat) : ∀ (l : List (Nat × List MWord)) (s : State),
    s.memoriesWf → (s.writeTable c a l).memoriesWf
  | [], _, h => h
  | (_, ws) :: l, _, h => State.writeTable_memoriesWf c a l _ (State.pokeMany_memoriesWf c ws _ _ h)

/-- A table leaves the words before its places as they were. -/
theorem State.peek_writeTable_before (c : CoreId) {a b : Nat} : ∀ (l : List (Nat × List MWord)) (s : State),
    s.memoriesWf → (∀ x ∈ l, b < a + x.1) → (s.writeTable c a l).peek c b = s.peek c b
  | [], _, _, _ => rfl
  | (o, ws) :: l, s, h, hb => by
    obtain ⟨ho, hb⟩ := List.forall_mem_cons.1 hb
    refine (State.peek_writeTable_before c l _ (State.pokeMany_memoriesWf c ws _ _ h) hb).trans ?_
    rw [State.peek_pokeMany c ws _ s h, if_neg (by omega)]

/-- The first word of a table is its header. -/
theorem State.peek_writeTable_header (c : CoreId) (a : Nat) (hdr : MWord) (l : List (Nat × List MWord))
    (h : s.memoriesWf) (hl : ∀ x ∈ l, 0 < x.1) : (s.writeTable c a ((0, [hdr]) :: l)).peek c a = hdr := by
  refine (State.peek_writeTable_before c l _ (State.pokeMany_memoriesWf c [hdr] _ _ h)
    fun x hx => by have := hl x hx; omega).trans ?_
  rw [State.peek_pokeMany c [hdr] _ s h]
  simp

/-! The start of a step (R263, R395). -/

/-- What the start of a step makes of its partition. -/
def Part.stepBegun (k : Part) : Part :=
  { k with stepping := true, stepNo := k.stepNo + 1, kvReset := false, first := false, stepWaits := false,
           ls := { k.ls with seqs := [] } }

theorem State.part_beginStep (s : State) (p : PartId) : (s.beginStep p).part p = (s.part p).stepBegun := by
  unfold State.beginStep
  rw [State.part_modPart_self, State.foldl_modCore_eq]
  rfl

/-- The start of a step leaves the words of memory as they are. -/
theorem State.peek_beginStep (s : State) (p : PartId) (c : CoreId) (a : Nat) :
    (s.beginStep p).peek c a = s.peek c a := by
  unfold State.peek State.beginStep
  rw [State.core_modPart, State.core_foldl_modCore _ _ _ _ (s.ranks_nodup p)]
  split <;> rfl

/-- Without a recording nothing is recorded (R488). -/
theorem State.recBatch_of_not_running (h : s.work.recording.running = false) (ws : List MWord) :
    s.recBatch p ws = s := by
  simp only [State.recBatch, h, Bool.false_eq_true, false_and, if_false]

/-! A step with the leader's table (R486). -/

/-- The places of the leader's table in its region, beside the header's (R397). -/
def followPlaces (m : Nat) (table : List MWord) : List (Nat × List MWord) :=
  let nent := wordField (table.headD 0) 32 16
  let t8 := (wordField (table.headD 0) 48 16 + 7) / 8
  let t16 := (wordField (table.headD 0) 48 16 + 15) / 16
  let rest := table.drop (1 + nent)
  let o2 := 1 + m + (m + 7) / 8
  let w := (m + 15) / 16
  [(1, (table.drop 1).take nent), (1 + m, rest.take t8), (o2, (rest.drop t8).take t16),
   (o2 + w, (rest.drop (t8 + t16)).take t16),
   (o2 + 2 * w, (rest.drop (t8 + 2 * t16)).take ((wordField (table.headD 0) 64 16 + 15) / 16))]

theorem followPlaces_pos (m : Nat) (table : List MWord) : ∀ x ∈ followPlaces m table, 0 < x.1 := by
  simp only [followPlaces, List.forall_mem_cons]
  exact ⟨by omega, by omega, by omega, by omega, by omega, nofun⟩

/-- A follower's partition that has taken the entries of its leader's table. -/
def Part.followed (k : Part) (table : List MWord) (nrows : Nat) (used : List Nat) : Part :=
  { k with entries := ((table.drop 1).take (wordField (table.headD 0) 32 16)).map entryOfWord,
           nrows := nrows, used := used }

/-- A follower's step takes the entries, writes the table and begins. -/
theorem State.followBatch_eq (hr : s.work.recording.running = false) (table : List MWord) : ∃ nrows used,
    s.followBatch p table = ((s.setPart p ((s.part p).followed table nrows used)).writeTable (s.rank0 p)
      ((s.part p).regionAddr 65520) ((0, [table.headD 0]) :: followPlaces (s.part p).m table)).beginStep p := by
  unfold State.followBatch
  dsimp only
  rw [State.recBatch_of_not_running (by rw [(State.storeKeeps_writeTable ..).work]; exact hr)]
  exact ⟨_, _, rfl⟩

theorem State.part_followBatch (hr : s.work.recording.running = false) (table : List MWord) : ∃ nrows used,
    (s.followBatch p table).part p = ((s.part p).followed table nrows used).stepBegun := by
  obtain ⟨nrows, used, he⟩ := State.followBatch_eq (p := p) hr table
  refine ⟨nrows, used, ?_⟩
  rw [he, State.part_beginStep, (State.storeKeeps_writeTable ..).part, State.part_setPart_self]

/-- The header of the leader's table stands at the beginning of its region. -/
theorem State.peek_followBatch (hr : s.work.recording.running = false) (hwf : s.memoriesWf) (table : List MWord) :
    (s.followBatch p table).peek (s.rank0 p) ((s.part p).regionAddr 65520) = table.headD 0 := by
  obtain ⟨nrows, used, he⟩ := State.followBatch_eq (p := p) hr table
  rw [he, State.peek_beginStep]
  exact State.peek_writeTable_header (s := s.setPart p _) _ _ _ _ hwf (followPlaces_pos _ _)

/-! When a boundary waits (R30, R213, R476). -/

theorem State.boundaryHeld_asleep {region : Nat} (h : (s.part p).sleepState ≠ 0) :
    s.boundaryHeld p region = some ((s.lateWakePart p).modPart p (fun k => { k with stepWaits := true })) := if_pos h

theorem State.boundaryHeld_awake {region : Nat} (h : (s.part p).sleepState = 0)
    (hm : s.mustHold (wordsAt (s.rank0 p) ((s.part p).regionAddr region) ((s.part p).regionWords region)) = none) :
    s.boundaryHeld p region = none := by
  have h' : ¬ (s.part p).sleepState ≠ 0 := not_not_intro h
  simp only [State.boundaryHeld, h', if_false, State.tableAsleep, hm, Option.map_none]

/-- A wake is begun once, and reported once. -/
theorem State.part_lateWakePart (s : State) (p : PartId) : ∃ waking late,
    (s.lateWakePart p).part p = { s.part p with waking := waking, lateLogged := late } := by
  have hw : ∃ waking late, (s.wakePart p).part p = { s.part p with waking := waking, lateLogged := late } := by
    unfold State.wakePart
    dsimp only
    split
    · exact ⟨_, _, rfl⟩
    · exact ⟨_, _, s.part_setPart_self p _⟩
  obtain ⟨waking, late, hw⟩ := hw
  unfold State.lateWakePart
  dsimp only
  split
  · exact ⟨_, _, hw⟩
  · exact ⟨_, _, by rw [State.part_log, State.part_modPart_self, hw]⟩

/-- A batch-mode follower between two steps, with one table of its leader's. -/
def followsNext (k : Part) (table : List MWord) : Prop :=
  k.state = 3 ∧ k.ls.paired = true ∧ k.ls.follower = true ∧ k.srvMode = 1 ∧ k.stepping = false ∧ k.ls.await = false ∧
  k.ls.batches = [table]

/-- A follower that sleeps wakes, and its table waits. -/
theorem State.kick_follower_asleep {table : List MWord} (h : followsNext (s.part p) table)
    (hs : (s.part p).sleepState ≠ 0) :
    s.kick p = (s.lateWakePart p).modPart p (fun k => { k with stepWaits := true }) := by
  obtain ⟨hst, hp, hf, hm, hstep, ha, hb⟩ := h
  simp [State.kick, hst, hp, hf, State.kickFollower, hm, hb, Part.between, hstep, ha, State.boundaryHeld_asleep hs]

/-- A follower that is awake, with the groups of the table ON, begins a step with it. -/
theorem State.kick_follower_awake {table : List MWord} (h : followsNext (s.part p) table)
    (hs : (s.part p).sleepState = 0)
    (hh : s.mustHold (wordsAt (s.rank0 p) ((s.part p).regionAddr 65520) ((s.part p).regionWords 65520)) = none) :
    s.kick p = (s.modPart p (fun k => { k with ls := { k.ls with batches := [] } })).followBatch p table := by
  obtain ⟨hst, hp, hf, hm, hstep, ha, hb⟩ := h
  simp [State.kick, hst, hp, hf, State.kickFollower, hm, hb, Part.between, hstep, ha, State.boundaryHeld_awake hs hh]

end Sys2Proof.Machine
end

section
/-! PROOF. The events of lock-step pairing (R483 to R487): HELLO, records, HALT, the leader's tables and the flush of
records. -/

namespace Sys2Proof.Machine

open Claims

variable {s t u : State} {p : PartId}

theorem State.dropTwin_eq (s : State) (p : PartId) : s.dropTwin p = twinTaken s p := by
  unfold State.dropTwin twinTaken
  cases takeTwin s p s.transit <;> rfl

theorem part_twinTaken (s : State) (p q : PartId) : (twinTaken s p).part q = s.part q := rfl

/-! HELLO (R483). -/

/-- The HELLO of a program, but for its first bytes (R483). -/
def Program.hello (g : Program) : List Byte :=
  leBytes 4 g.digestLow.toNat ++ leBytes 2 g.ncores.toNat ++ leBytes 2 g.flock.toNat

theorem State.lsHello_eq {g : Program} (h : (s.part p).prog = some g) : s.lsHello p =
    (s.lsSend p [lsControl 1 g.hello]).modPart p (fun k => { k with ls := { k.ls with helloSent := true } }) := by
  simp only [State.lsHello, h, Program.hello]

/-- A partition waits for its twin's HELLO (R483). -/
def waitsForHello (k : Part) : Prop := k.state = 2 ∧ k.ls.paired = true ∧ k.ls.helloSeen = false

/-- The condition as the model tests it. -/
theorem waitsForHello_iff {k : Part} :
    waitsForHello k ↔ (k.state = 2 ∧ k.ls.paired = true ∧ (!k.ls.helloSeen) = true) := by
  rw [waitsForHello, Bool.not_eq_true']

section
variable (s p) (st cause : Nat)

theorem State.part_endWaiting (q : PartId) : (s.endWaiting p st cause).part q =
    if q = p then { s.part p with state := 1, cause := BitVec.ofNat 4 cause, starts := [] } else s.part q := by
  rw [State.endWaiting, State.part_respondAll, State.part_modPart]

theorem State.endWaiting_ports :
    (s.endWaiting p st cause).ports = (s.respondAll 0x31 st [1] (s.part p).starts).ports :=
  State.respondAll_ports _ _ _ _ _ _ rfl

@[simp] theorem State.endWaiting_evlog : (s.endWaiting p st cause).evlog = s.evlog := State.respondAll_evlog ..

@[simp] theorem State.core_endWaiting (c : CoreId) : (s.endWaiting p st cause).core c = s.core c :=
  State.core_respondAll ..

end

/-- A HELLO_TIMEOUT records why, and logs it. -/
def State.helloMissed (s : State) (p : PartId) (why : Nat) : State :=
  (s.modPart p (fun k => { k with ls := { k.ls with reason := BitVec.ofNat 2 why } })).log 0x0020 (srcPart p) why 0 0 0

theorem State.part_helloMissed (s : State) (p : PartId) (why : Nat) (q : PartId) : (s.helloMissed p why).part q =
    if q = p then { s.part p with ls := { (s.part p).ls with reason := BitVec.ofNat 2 why } } else s.part q := by
  rw [State.helloMissed, State.part_log, State.part_modPart]

/-- A HELLO that comes to a partition without a program, or in a step, says nothing. -/
theorem exec_rxLsHello_ignored (hp : (s.part p).ls.paired = true)
    (h : (s.part p).prog = none ∨ (s.part p).state = 3 ∨ (s.part p).state = 4) (d : BitVec 32) (n : BitVec 4)
    (fl : BitVec 12) : exec (.rxLsHello p d n fl) s = .next (twinTaken s p) := by
  refine congrArg Host.Outcome.next ((if_neg (by rw [hp]; decide)).trans ?_)
  rw [State.dropTwin_eq]
  dsimp only
  rw [part_twinTaken]
  cases hg : (s.part p).prog with
  | none => rfl
  | some g => exact if_pos (h.resolve_left (by rw [hg]; nofun))

/-- A HELLO that is compared with the partition's own. -/
theorem exec_rxLsHello_compares {g : Program} (hp : (s.part p).ls.paired = true) (hg : (s.part p).prog = some g)
    (h3 : (s.part p).state ≠ 3) (h4 : (s.part p).state ≠ 4) (d : BitVec 32) (n : BitVec 4) (fl : BitVec 12) :
    exec (.rxLsHello p d n fl) s = .next (
      if d = g.digestLow ∧ n = g.ncores ∧ fl = g.flock then
        (twinTaken s p).modPart p (fun k => { k with ls := { k.ls with helloSeen := true } })
      else if (s.part p).state = 2 ∧ (!(s.part p).ls.helloBad) = true then
        ((twinTaken s p).modPart p (fun k => { k with ls := { k.ls with helloBad := true } })).log 0x0020
          (srcPart p) 3 0 0 0
      else twinTaken s p) := by
  refine congrArg Host.Outcome.next ((if_neg (by rw [hp]; decide)).trans ?_)
  rw [State.dropTwin_eq]
  dsimp only
  rw [part_twinTaken, hg]
  exact if_neg (by tauto)

/-! The comparison of records (R485). -/

theorem Lockstep.matched_iff (l : Lockstep) : l.matched = true ↔ ∀ r ∈ l.own, r.stream ≠ 0x000F := by
  simp [Lockstep.matched]

/-- Records that agree leave both lists. -/
theorem State.lsCompare_of_agree (h : (lsMatch (s.part p).ls.own (s.part p).ls.twin).1 = none) : s.lsCompare p =
    s.modPart p (fun k => { k with ls := { k.ls with
      own := (lsMatch (s.part p).ls.own (s.part p).ls.twin).2.1,
      twin := (lsMatch (s.part p).ls.own (s.part p).ls.twin).2.2 } }) := by
  simp only [State.lsCompare, h]

/-- A record that differs halts the pair. -/
theorem State.lsCompare_of_differ {r : LsRecord} (h : (lsMatch (s.part p).ls.own (s.part p).ls.twin).1 = some r) :
    s.lsCompare p = (s.lsStop p 1 r.stream r.seq).lsHalt p r.stream r.seq := by
  simp only [State.lsCompare, h]

/-- A partition whose step waits for no match, or not yet for the last one, stays as it is. -/
theorem State.lsContinue_of_not (h : ¬ (((s.part p).state = 3 ∨ (s.part p).state = 4) ∧ (s.part p).ls.await = true ∧
    (s.part p).ls.matched = true)) : s.lsContinue p = s := if_neg h

theorem Part.countDone_eq (k : Part) (st : Nat) : k.countDone st =
    { k with doneLate := (k.countDone st).doneLate, doneCancel := (k.countDone st).doneCancel,
             doneBudget := (k.countDone st).doneBudget } := by
  unfold Part.countDone
  split
  · rfl
  · split
    · rfl
    · split <;> rfl

/-- A boundary passes over requests that are DONE. -/
theorem Part.sweep_of_done (now : BitVec 64) (k : Part) : ∀ l : List (Nat × Request),
    (∀ x ∈ l, x.2.state = .done) → k.sweep now l = k
  | [], _ => rfl
  | (n, r) :: l, h => by
    obtain ⟨hr, h⟩ := List.forall_mem_cons.1 h
    have hr : r.state = .done := hr
    simp only [Part.sweep, hr]
    exact Part.sweep_of_done now k l h

/-- What stops at its boundary once its results are applied (R364). -/
theorem State.part_afterStep_of_stopping (h : (s.part p).state = 4) (hd : ∀ x ∈ (s.part p).slots, x.2.state = .done) :
    (s.afterStep p).part p =
      { s.part p with state := 1, cause := if (s.part p).strideHold then 8 else 1, stops := [] } := by
  unfold State.afterStep
  dsimp only
  rw [if_pos (.inr h), Part.sweep_of_done _ _ _ hd, State.answerStops, State.part_respondAll, State.part_modPart_self,
    State.part_setPart_self]

/-- The request of a slot once its completion, which waited for a match, has been released (R485). -/
def Request.released (r : Request) (now : BitVec 64) (st : Nat) : Request :=
  { r with state := .done, status := st, out := if r.pendDrop then [] else r.out, vis := r.out.length, prompt := [],
           pend := none, doneTime := now }

/-- The release of the only slot's completion. -/
theorem Part.releaseHeld_singleton {k : Part} (now : BitVec 64) {n st : Nat} {r : Request} (hk : k.slots = [(n, r)])
    (hp : r.pend = some st) : k.releaseHeld now [(n, r)] =
      ({ k with slots := [(n, r.released now st)] } : Part).countDone st := by
  have hs : alSet k.slots n (r.released now st) = [(n, r.released now st)] := by simp [hk, alSet, alDel]
  rw [← hs]
  simp only [Part.releaseHeld, hp, Part.done, List.take_length, Request.released]

/-- A partition whose step waits for no match any more. -/
def Part.unawaited (k : Part) : Part := { k with ls := { k.ls with await := false } }

/-- The match of a step releases what waited for it, and goes on. -/
theorem State.lsContinue_of_matched (h : (s.part p).state = 3 ∨ (s.part p).state = 4) (ha : (s.part p).ls.await = true)
    (hm : (s.part p).ls.matched = true) : s.lsContinue p =
      (s.setPart p ((s.part p).unawaited.releaseHeld s.time (s.part p).slots)).afterStep p := if_pos ⟨h, ha, hm⟩

/-- The match of a step whose partition is STOPPING: its request is DONE and the partition is STOPPED. -/
theorem State.part_lsContinue_of_stopping {n st : Nat} {r : Request} (h : (s.part p).state = 4)
    (ha : (s.part p).ls.await = true) (hm : (s.part p).ls.matched = true) (hk : (s.part p).slots = [(n, r)])
    (hp : r.pend = some st) :
    ((s.lsContinue p).part p).state = 1 ∧ ((s.lsContinue p).part p).ls.await = false ∧
    ((s.lsContinue p).part p).stops = [] ∧ ((s.lsContinue p).part p).slots = [(n, r.released s.time st)] := by
  rw [State.lsContinue_of_matched (.inr h) ha hm, hk, Part.releaseHeld_singleton (k := (s.part p).unawaited) _ hk hp,
    Part.countDone_eq, State.part_afterStep_of_stopping]
  · rw [State.part_setPart_self]
    exact ⟨rfl, rfl, rfl, rfl⟩
  · rw [State.part_setPart_self]
    exact h
  · rw [State.part_setPart_self]
    exact List.forall_mem_cons.2 ⟨rfl, nofun⟩

/-! Records of the twin (R485). -/

/-- The state with the twin's records beside the partition's own. -/
def State.withTwinRecords (s : State) (p : PartId) (recs : List LsRecord) : State :=
  (twinTaken s p).modPart p (fun k => { k with ls := { k.ls with twin := k.ls.twin ++ recs } })

theorem State.part_withTwinRecords (s : State) (p : PartId) (recs : List LsRecord) : (s.withTwinRecords p recs).part p =
    { s.part p with ls := { (s.part p).ls with twin := (s.part p).ls.twin ++ recs } } := State.part_modPart_self ..

theorem exec_rxLsRecords_compares (recs : List LsRecord) (hp : (s.part p).ls.paired = true)
    (hs : 2 ≤ (s.part p).state.toNat) :
    exec (.rxLsRecords p recs) s = .next (((s.withTwinRecords p recs).lsCompare p).lsContinue p) := by
  refine congrArg Host.Outcome.next ((if_neg (by rw [hp]; decide)).trans ?_)
  rw [State.dropTwin_eq]
  exact if_pos hs

/-- Records that come before the partition waits for RUNNING are dropped. -/
theorem exec_rxLsRecords_early {recs : List LsRecord} (hp : (s.part p).ls.paired = true)
    (hs : (s.part p).state.toNat < 2) : exec (.rxLsRecords p recs) s = .next (twinTaken s p) := by
  refine congrArg Host.Outcome.next ((if_neg (by rw [hp]; decide)).trans ?_)
  rw [State.dropTwin_eq]
  exact if_neg (Nat.not_le_of_lt hs)

/-- Records that agree, with the twin's new ones. -/
theorem State.lsCompare_withTwinRecords (recs : List LsRecord)
    (h : (lsMatch (s.part p).ls.own ((s.part p).ls.twin ++ recs)).1 = none) :
    (s.withTwinRecords p recs).lsCompare p = (twinTaken s p).setPart p { s.part p with ls := { (s.part p).ls with
      own := (lsMatch (s.part p).ls.own ((s.part p).ls.twin ++ recs)).2.1,
      twin := (lsMatch (s.part p).ls.own ((s.part p).ls.twin ++ recs)).2.2 } } := by
  have hpart := s.part_withTwinRecords p recs
  rw [State.lsCompare_of_agree (by rw [hpart]; exact h), State.modPart_eq, hpart]
  exact State.setPart_setPart ..

theorem running_withTwinRecords (recs : List LsRecord) (h : running s p) : running (s.withTwinRecords p recs) p := by
  unfold running
  rw [State.part_withTwinRecords]
  exact h

/-- What halts a pair is seen from the state before the twin's records came. -/
theorem pairHalted_of_withTwinRecords {recs : List LsRecord} {why st cause : Nat} {stream : BitVec 16} {seq : BitVec 32}
    (h : pairHalted (s.withTwinRecords p recs) t p why st cause stream seq) :
    pairHalted s t p why st cause stream seq := by
  unfold pairHalted stopped at h
  rw [State.part_withTwinRecords] at h
  exact h

/-- A record that differs from its counterpart halts the pair. -/
theorem exec_rxLsRecords_differ {recs : List LsRecord} {r : LsRecord} (hp : (s.part p).ls.paired = true)
    (h : running s p) (hm : (lsMatch (s.part p).ls.own ((s.part p).ls.twin ++ recs)).1 = some r) :
    exec (.rxLsRecords p recs) s =
      .next (((s.withTwinRecords p recs).lsStop p 1 r.stream r.seq).lsHalt p r.stream r.seq) := by
  have hst : 2 ≤ (s.part p).state.toNat := by rcases h.2 with e | e <;> rw [e] <;> decide
  have hhalt := pairHalted_lsHalt (pairHalted_lsStop 1 r.stream r.seq (running_withTwinRecords recs h) rfl rfl)
  obtain ⟨⟨h1, -⟩, -⟩ := hhalt
  rw [exec_rxLsRecords_compares recs hp hst,
    State.lsCompare_of_differ (by rw [State.part_withTwinRecords]; exact hm), State.lsContinue_of_not]
  rw [h1]
  exact fun h => h.1.elim (by decide) (by decide)

/-! HALT and records that wait too long (R487). -/

/-- A record of a stream and sequence number waits for its counterpart. -/
theorem waitingRecord_iff {l l' : List LsRecord} {stream : BitVec 16} {seq : BitVec 32} :
    (l.any (fun r => r.stream == stream && r.seq == seq) ||
      l'.any (fun r => r.stream == stream && r.seq == seq)) = true ↔
    ∃ r, (r ∈ l ∨ r ∈ l') ∧ r.stream = stream ∧ r.seq = seq := by
  simp [or_and_right, exists_or]

theorem exec_rxLsHalt_halts (hp : (s.part p).ls.paired = true) (h : running s p) (stream : BitVec 16)
    (seq : BitVec 32) : exec (.rxLsHalt p stream seq) s = .next ((twinTaken s p).lsStop p 1 stream seq) := by
  refine congrArg Host.Outcome.next ((if_neg (by rw [hp]; decide)).trans ?_)
  rw [State.dropTwin_eq]
  exact if_pos h.2

theorem exec_rxLsHalt_idle (hp : (s.part p).ls.paired = true) (h3 : (s.part p).state ≠ 3) (h4 : (s.part p).state ≠ 4)
    (stream : BitVec 16) (seq : BitVec 32) : exec (.rxLsHalt p stream seq) s = .next (twinTaken s p) := by
  refine congrArg Host.Outcome.next ((if_neg (by rw [hp]; decide)).trans ?_)
  rw [State.dropTwin_eq]
  exact if_neg fun h => h.elim h3 h4

/-! The leader's tables (R486). -/

/-- The state with one more table of the leader's. -/
def State.withBatch (s : State) (p : PartId) (table : List MWord) : State :=
  (twinTaken s p).modPart p (fun k => { k with ls := { k.ls with batches := k.ls.batches ++ [table] } })

theorem State.part_withBatch (s : State) (p : PartId) (table : List MWord) : (s.withBatch p table).part p =
    { s.part p with ls := { (s.part p).ls with batches := (s.part p).ls.batches ++ [table] } } :=
  State.part_modPart_self ..

theorem exec_rxLsBatch_kicks (table : List MWord) (hp : (s.part p).ls.paired = true)
    (hf : (s.part p).ls.follower = true) : exec (.rxLsBatch p table) s = .next ((s.withBatch p table).kick p) := by
  refine congrArg Host.Outcome.next ((if_neg (by rw [hp, hf]; decide)).trans ?_)
  rw [State.dropTwin_eq]
  rfl

/-- A follower between two steps that had no table follows the one that came. -/
theorem followsNext_withBatch (table : List MWord) (hp : (s.part p).ls.paired = true)
    (hf : (s.part p).ls.follower = true) (h3 : (s.part p).state = 3) (ha : (s.part p).ls.await = false)
    (hm : (s.part p).srvMode = 1) (hstep : (s.part p).stepping = false) (hb : (s.part p).ls.batches = []) :
    followsNext ((s.withBatch p table).part p) table := by
  rw [State.part_withBatch, hb]
  exact ⟨h3, hp, hf, hm, hstep, ha, rfl⟩

/-! The flush of records (R485). -/

/-- Up to 255 records go in one packet. -/
theorem chunks_eq_singleton {α : Type} {n : Nat} {l : List α} (hl : l ≠ []) (hn : l.length ≤ n) : chunks n l = [l] := by
  obtain ⟨x, l, rfl⟩ := List.exists_cons_of_ne_nil hl
  have h1 : max n 1 = n := max_eq_left ((Nat.succ_le_of_lt (List.length_pos_of_ne_nil hl)).trans hn)
  rw [chunks, h1, List.length_cons, chunksGo, List.take_of_length_le hn, List.drop_of_length_le hn]
  cases l <;> rfl

theorem State.lsFlush_eq (hu : (s.part p).ls.unsent ≠ []) (hn : (s.part p).ls.unsent.length ≤ 255) : s.lsFlush p =
    (s.modPart p (fun k => { k with ls := { k.ls with unsent := [] } })).lsSend p (lsRecords (s.part p).ls.unsent) := by
  simp only [State.lsFlush, chunks_eq_singleton hu hn, List.map_cons, List.map_nil, State.lsSendAll]

/-! What each event comes to. -/

/-- A HELLO that is repeated is sent, and nothing else is done (R483). -/
theorem exec_helloResend_sends (h : waitsForHello (s.part p)) {g : Program} (hg : (s.part p).prog = some g) : ∃ t,
      exec (.helloResend p) s = .next t ∧
      s = { t with parts := s.parts, transit := s.transit, links := s.links, rte := s.rte, evlog := s.evlog } ∧
      t.part p = { s.part p with ls := { (s.part p).ls with helloSent := true } } ∧
      (∀ x : PartId, x ≠ p → t.part x = s.part x) ∧
      sentTwin s t p [lsControl 1 g.hello] := by
  have hex : exec (.helloResend p) s = .next (s.lsHello p) :=
    congrArg Host.Outcome.next (if_pos (waitsForHello_iff.1 h))
  refine ⟨_, hex.trans (congrArg _ (State.lsHello_eq hg)), ?_, ?_, fun x hx => ?_, sentTwin_lsSend s p _⟩
  · rw [State.lsSend_eq]; rfl
  · rw [State.part_modPart_self, State.part_lsSend]
  · rw [State.part_modPart, if_neg hx, State.part_lsSend]

/-- A partition whose twin gives no HELLO is STOPPED (R483). -/
theorem exec_helloTimeout_stops (h : waitsForHello (s.part p)) {why : Nat}
    (hw : (if (s.part p).ls.helloBad = true then 3 else 2) = why) : ∃ t,
      exec (.helloTimeout p) s = .next t ∧ s.sameWords t ∧
      t.part p = { s.part p with
        state := 1, cause := 10, starts := [], ls := { (s.part p).ls with reason := BitVec.ofNat 2 why } } ∧
      (∀ x : PartId, x ≠ p → t.part x = s.part x) ∧
      t.ports = (s.respondAll 0x31 stTIMEOUT [1] (s.part p).starts).ports ∧
      logged s t 0x0020 (srcPart p) why 0 0 0 := by
  subst hw
  have hpart := s.part_helloMissed p (if (s.part p).ls.helloBad = true then 3 else 2)
  refine ⟨(s.helloMissed p _).endWaiting p stTIMEOUT 10, congrArg Host.Outcome.next (if_pos (waitsForHello_iff.1 h)),
    fun c a => ?_, ?_, fun x hx => ?_, ?_, fun hroom => ?_⟩
  · rw [State.peek, State.core_endWaiting, State.helloMissed, State.core_log]; rfl
  · rw [State.part_endWaiting, if_pos rfl, hpart, if_pos rfl]; rfl
  · rw [State.part_endWaiting, if_neg hx, hpart, if_neg hx]
  · rw [State.endWaiting_ports, hpart, if_pos rfl]
    exact State.respondAll_ports _ _ _ _ _ _ (State.log_ports ..)
  · rw [State.endWaiting_evlog]
    exact logged_log (s.modPart p _) _ _ _ _ _ _ hroom

/-- A HELLO that differs is logged once (R483). -/
theorem exec_rxLsHello_differs {g : Program} (hp : (s.part p).ls.paired = true) (hg : (s.part p).prog = some g)
    {d : BitVec 32} {n : BitVec 4} {fl : BitVec 12} (hd : ¬ (d = g.digestLow ∧ n = g.ncores ∧ fl = g.flock))
    (h2 : (s.part p).state = 2) (hb : (s.part p).ls.helloBad = false) : ∃ t, exec (.rxLsHello p d n fl) s = .next t ∧
      t.part p = { s.part p with ls := { (s.part p).ls with helloBad := true } } ∧
      logged s t 0x0020 (srcPart p) 3 0 0 0 ∧
      twinTaken s p = { t with parts := (twinTaken s p).parts, evlog := (twinTaken s p).evlog } := by
  refine ⟨_, (exec_rxLsHello_compares hp hg (by rw [h2]; decide) (by rw [h2]; decide) d n fl).trans
    (congrArg _ ((if_neg hd).trans (if_pos ⟨h2, by rw [hb]; rfl⟩))), ?_,
    logged_log ((twinTaken s p).modPart p _) _ _ _ _ _ _, ?_⟩
  · rw [State.part_log, State.part_modPart_self]; rfl
  · obtain ⟨e, he, -⟩ := State.log_eq ((twinTaken s p).modPart p (fun k => { k with
      ls := { k.ls with helloBad := true } })) 0x0020 (srcPart p) 3 0 0 0
    rw [he]; rfl

/-- The match of a STOPPING partition's last step ends its request and the partition (R364, R485). -/
theorem exec_rxLsRecords_stops {recs : List LsRecord} {n st : Nat} {r : Request} (hp : (s.part p).ls.paired = true)
    (h4 : (s.part p).state = 4) (hm : (lsMatch (s.part p).ls.own ((s.part p).ls.twin ++ recs)).1 = none)
    (ha : (s.part p).ls.await = true)
    (hmat : ∀ r ∈ (lsMatch (s.part p).ls.own ((s.part p).ls.twin ++ recs)).2.1, r.stream ≠ 0x000F)
    (hk : (s.part p).slots = [(n, r)]) (hr : r.pend = some st) : ∃ t, exec (.rxLsRecords p recs) s = .next t ∧
      (t.part p).state = 1 ∧ (t.part p).ls.await = false ∧ (t.part p).stops = [] ∧
      (t.part p).slots = [(n, r.released s.time st)] := by
  have hs : 2 ≤ (s.part p).state.toNat := by rw [h4]; decide
  refine ⟨_, (exec_rxLsRecords_compares recs hp hs).trans (by rw [State.lsCompare_withTwinRecords recs hm]), ?_⟩
  apply State.part_lsContinue_of_stopping
  · rw [State.part_setPart_self]; exact h4
  · rw [State.part_setPart_self]; exact ha
  · rw [State.part_setPart_self]; exact (Lockstep.matched_iff _).2 hmat
  · rw [State.part_setPart_self]; exact hk
  · exact hr

/-- A record that differs halts both twins (R485, R487). -/
theorem exec_rxLsRecords_halts {recs : List LsRecord} {r : LsRecord} (hp : (s.part p).ls.paired = true)
    (h : running s p) (hm : (lsMatch (s.part p).ls.own ((s.part p).ls.twin ++ recs)).1 = some r) : ∃ t,
      exec (.rxLsRecords p recs) s = .next t ∧ pairHalted s t p 1 stFAULT 9 r.stream r.seq ∧
      sentTwin (twinTaken s p) t p
        [lsControl 2 (leBytes 2 r.stream.toNat ++ leBytes 2 0 ++ leBytes 4 r.seq.toNat)] := by
  have hw := running_withTwinRecords recs h
  refine ⟨_, exec_rxLsRecords_differ hp h hm, ?_, ?_⟩
  · exact pairHalted_of_withTwinRecords (pairHalted_lsHalt (pairHalted_lsStop 1 r.stream r.seq hw rfl rfl))
  · have hx : ((s.withTwinRecords p recs).part p).ls.twinChip = (s.part p).ls.twinChip := by
      rw [State.part_withTwinRecords]
    exact sentTwin_of_same (u := s.withTwinRecords p recs) (s := twinTaken s p) rfl rfl rfl hx rfl
      (sentTwin_lsHalt_lsStop 1 r.stream r.seq hw)

/-- A record that waits too long halts both twins (R487). -/
theorem exec_lsTimeout_halts {stream : BitVec 16} {seq : BitVec 32} (hp : (s.part p).ls.paired = true) (h : running s p)
    (hr : ∃ r, (r ∈ (s.part p).ls.own ∨ r ∈ (s.part p).ls.twin) ∧ r.stream = stream ∧ r.seq = seq) : ∃ t,
      exec (.lsTimeout p stream seq) s = .next t ∧ pairHalted s t p 2 stTIMEOUT 10 stream seq ∧
      sentTwin s t p [lsControl 2 (leBytes 2 stream.toNat ++ leBytes 2 0 ++ leBytes 4 seq.toNat)] :=
  ⟨(s.lsStop p 2 stream seq).lsHalt p stream seq,
    congrArg Host.Outcome.next (if_pos ⟨hp, h.2, waitingRecord_iff.2 hr⟩),
    pairHalted_lsHalt (pairHalted_lsStop 2 stream seq h rfl rfl), sentTwin_lsHalt_lsStop 2 stream seq h⟩

theorem exec_lsTimeout_idle {stream : BitVec 16} {seq : BitVec 32}
    (h : (s.part p).ls.paired = false ∨ ((s.part p).state ≠ 3 ∧ (s.part p).state ≠ 4) ∨
      ¬ ∃ r, (r ∈ (s.part p).ls.own ∨ r ∈ (s.part p).ls.twin) ∧ r.stream = stream ∧ r.seq = seq) :
    exec (.lsTimeout p stream seq) s = .next s := by
  refine congrArg Host.Outcome.next (if_neg ?_)
  rintro ⟨hp, hst, hhere⟩
  rcases h with h | h | h
  · rw [h] at hp; cases hp
  · exact hst.elim h.1 h.2
  · exact h (waitingRecord_iff.1 hhere)

/-- A table that comes to a follower that sleeps waits for its wake (R30). -/
theorem exec_rxLsBatch_asleep {table : List MWord} (h : followsNext ((s.withBatch p table).part p) table)
    (hs : (s.part p).sleepState ≠ 0) : ∃ t, exec (.rxLsBatch p table) s = .next t ∧
      (t.part p).stepping = false ∧ (t.part p).stepWaits = true ∧ (t.part p).ls.batches = [table] := by
  have hpart := s.part_withBatch p table
  have hk := State.kick_follower_asleep h (by rw [hpart]; exact hs)
  obtain ⟨waking, late, hl⟩ := State.part_lateWakePart (s.withBatch p table) p
  obtain ⟨-, hp, hf, -, hstep, -, hb⟩ := h
  rw [hpart] at hp hf
  refine ⟨_, (exec_rxLsBatch_kicks table hp hf).trans (congrArg _ hk), ?_⟩
  rw [State.part_modPart_self, hl]
  exact ⟨hstep, rfl, hb⟩

/-- A table that comes to a follower that is awake, with the groups of its region ON, is written, and its step begins
(R486). -/
theorem exec_rxLsBatch_awake {table : List MWord} (h : followsNext ((s.withBatch p table).part p) table)
    (hs : (s.part p).sleepState = 0)
    (hh : s.mustHold (wordsAt (s.rank0 p) ((s.part p).regionAddr 65520) ((s.part p).regionWords 65520)) = none)
    (hr : s.work.recording.running = false) : ∃ t, exec (.rxLsBatch p table) s = .next t ∧
      (t.part p).stepping = true ∧ (t.part p).stepNo = (s.part p).stepNo + 1 ∧ (t.part p).ls.batches = [] ∧
      (t.part p).entries = ((table.drop 1).take (wordField (table.headD 0) 32 16)).map entryOfWord ∧
      (s.memoriesWf → t.peek (s.rank0 p) ((s.part p).regionAddr 65520) = table.headD 0) := by
  have hpart := s.part_withBatch p table
  have hk := State.kick_follower_awake h (by rw [hpart]; exact hs) (by rw [hpart]; exact hh)
  obtain ⟨-, hp, hf, -⟩ := h
  rw [hpart] at hp hf
  have hpart' : ((s.withBatch p table).modPart p (fun k => { k with ls := { k.ls with batches := [] } })).part p =
      { s.part p with ls := { (s.part p).ls with batches := [] } } := by rw [State.part_modPart_self, hpart]
  obtain ⟨nrows, used, hfb⟩ := State.part_followBatch (p := p) (s := (s.withBatch p table).modPart p _) hr table
  refine ⟨_, (exec_rxLsBatch_kicks table hp hf).trans (congrArg _ hk), ?_⟩
  rw [hfb, hpart']
  refine ⟨rfl, rfl, rfl, rfl, fun hwf => ?_⟩
  have hpeek := State.peek_followBatch (p := p) (s := (s.withBatch p table).modPart p (fun k => { k with
    ls := { k.ls with batches := [] } })) hr hwf table
  rw [hpart'] at hpeek
  exact hpeek

/-- A flush sends the pending records in one packet, where they fit (R485). -/
theorem exec_lsRecordFlush_sends (hp : (s.part p).ls.paired = true) (hu : (s.part p).ls.unsent ≠ [])
    (hn : (s.part p).ls.unsent.length ≤ 255) : ∃ t, exec (.lsRecordFlush p) s = .next t ∧
      t.part p = { s.part p with ls := { (s.part p).ls with unsent := [] } } ∧ s.sameWords t ∧
      sentTwin s t p (lsRecords (s.part p).ls.unsent) := by
  have hx : ((s.modPart p (fun k => { k with ls := { k.ls with unsent := [] } })).part p).ls.twinChip =
      (s.part p).ls.twinChip := by rw [State.part_modPart_self]
  have hex : exec (.lsRecordFlush p) s = .next (s.lsFlush p) := congrArg Host.Outcome.next (if_pos ⟨hp, hu⟩)
  refine ⟨_, hex.trans (congrArg _ (State.lsFlush_eq hu hn)), ?_, ?_, ?_⟩
  · rw [State.part_lsSend, State.part_modPart_self]
  · exact fun c a => by rw [State.peek, State.core_lsSend]; rfl
  · exact sentTwin_of_same (s := s) (u := s.modPart p (fun k => { k with ls := { k.ls with unsent := [] } }))
      rfl rfl rfl hx rfl (sentTwin_lsSend ..)

theorem exec_lsRecordFlush_idle (h : (s.part p).ls.paired = false ∨ (s.part p).ls.unsent = []) :
    exec (.lsRecordFlush p) s = .next s := by
  refine congrArg Host.Outcome.next (if_neg ?_)
  rintro ⟨hp, hu⟩
  rcases h with h | h
  · rw [h] at hp; cases hp
  · exact hu h

/-- Settles O57: twins' records are paired as lists without doubles are, a halt is the stop of the step with its cause
written, and a follower's table is written and its step begun where nothing makes the boundary wait. -/
theorem twinsCompareAndHaltTogether : Obligations.TwinsCompareAndHaltTogether := by
  refine ⟨fun own tw ho ht => ⟨lsMatch_of_agree ho ht, fun o hmo x hx => lsMatch_of_differ ho ht hmo hx⟩,
    fun p s => ⟨fun h => ?_, fun g h hg => exec_helloResend_sends h hg, fun h => exec_helloTimeout_stops h rfl,
      fun d n fl => ⟨fun h => ?_, fun h hn => exec_rxLsHello_ignored h hn d n fl, fun g h hg h3 h4 => ⟨fun hsame => ?_,
      fun hd h2 hb => exec_rxLsHello_differs h hg hd h2 hb, fun hd hor => ?_⟩⟩⟩,
    fun p recs s => ⟨fun h => ?_, fun h hs => ?_, fun h hs hm hw => ?_, fun n r st h h4 hm ha hmat hk hp => ?_,
      fun r h hrun hm => exec_rxLsRecords_halts h hrun hm⟩,
    fun p stream seq s => ⟨fun h => ?_, fun h h3 h4 => exec_rxLsHalt_idle h h3 h4 stream seq, fun h hrun => ?_,
      exec_lsTimeout_idle, exec_lsTimeout_halts⟩,
    fun p table s => ⟨fun h => ?_, fun h hf hs => ?_,
      fun h hf h3 ha hm hstep hb hsl => exec_rxLsBatch_asleep (followsNext_withBatch table h hf h3 ha hm hstep hb) hsl,
      fun h hf h3 ha hm hstep hb hsl hh hr =>
        exec_rxLsBatch_awake (followsNext_withBatch table h hf h3 ha hm hstep hb) hsl hh hr,
      exec_lsRecordFlush_idle, exec_lsRecordFlush_sends⟩⟩
  · have hn := mt waitsForHello_iff.2 h
    exact ⟨congrArg Host.Outcome.next (if_neg hn), congrArg Host.Outcome.next (if_neg hn)⟩
  · exact congrArg Host.Outcome.next (if_pos h)
  · rw [exec_rxLsHello_compares h hg h3 h4, if_pos hsame]
    rfl
  · rw [exec_rxLsHello_compares h hg h3 h4, if_neg hd, if_neg]
    rintro ⟨h2, hbad⟩
    rcases hor with hor | hor
    · exact hor h2
    · rw [hor] at hbad; cases hbad
  · exact congrArg Host.Outcome.next (if_pos h)
  · exact exec_rxLsRecords_early h hs
  · rw [exec_rxLsRecords_compares recs h hs, State.lsCompare_withTwinRecords recs hm, State.lsContinue_of_not]
    rw [State.part_setPart_self, Lockstep.matched_iff]
    rintro ⟨-, ha, hmat⟩
    rcases hw with hw | hw
    · rw [hw] at ha; cases ha
    · exact hw hmat
  · obtain ⟨t, hex, hst, haw, hstops, hslots⟩ := exec_rxLsRecords_stops h h4 hm ha hmat hk hp
    refine ⟨t, hex, hst, haw, hstops, r.released s.time st, ?_, rfl, rfl, rfl, rfl⟩
    simp [hslots, alGet]
  · exact congrArg Host.Outcome.next (if_pos h)
  · exact ⟨_, exec_rxLsHalt_halts h hrun stream seq, pairHalted_lsStop (s := twinTaken s p) 1 stream seq hrun rfl rfl⟩
  · exact congrArg Host.Outcome.next (if_pos h)
  · rw [exec_rxLsBatch_kicks table h hf, State.kick_of_not_running _ p (by rw [State.part_withBatch]; exact hs)]
    rfl

end Sys2Proof.Machine
end

section
/-! PROOF. The rows of NSMAX by the table of R57, case by case. -/

namespace Sys2Proof.Machine

open Claims

/-- The outputs of a row of which each unmasked entry `j` takes `g j x` and each masked one +0. -/
def smOuts (row : List (Bool × BitVec 32)) (g : Nat → BitVec 32 → Nat × FmtFlags) : List (Nat × FmtFlags) :=
  row.zipIdx.map (fun e => if e.1.1 then (0, 0) else g e.2 e.1.2)

/-- The unmasked entries of a row. -/
def smUnmasked (row : List (Bool × BitVec 32)) : List (BitVec 32) := (row.filter (fun e => !e.1)).map (·.2)

/-- The bits of output `j`. -/
def smBits (outs : List (Nat × FmtFlags)) (j : Nat) : Nat := ((outs.map (·.1))[j]?).getD 0

section
variable {o : NormOp} {f : Fmt} {r : Nat} {row : List (Bool × BitVec 32)} {g : Nat → BitVec 32 → Nat × FmtFlags}

theorem length_smOuts : (smOuts row g).length = row.length := by
  rw [smOuts, List.length_map, List.length_zipIdx]

theorem smBits_smOuts_masked {j : Nat} {x : BitVec 32} (h : row[j]? = some (true, x)) : smBits (smOuts row g) j = 0 := by
  rw [smBits, smOuts, List.map_map, List.getElem?_map, List.getElem?_zipIdx, h]
  rfl

theorem smBits_smOuts_unmasked {j : Nat} {x : BitVec 32} (h : row[j]? = some (false, x)) :
    smBits (smOuts row g) j = (g j x).1 := by
  rw [smBits, smOuts, List.map_map, List.getElem?_map, List.getElem?_zipIdx, h, Nat.zero_add]
  rfl

/-- Where every unmasked entry takes +0, so does the row. -/
theorem smBits_smOuts_zero {j : Nat} (h : j < row.length) : smBits (smOuts row (fun _ _ => (0, 0))) j = 0 := by
  have hj : row[j]? = some row[j] := List.getElem?_eq_getElem h
  cases hm : row[j] with
  | mk m x =>
    rw [hm] at hj
    cases m with
    | true => exact smBits_smOuts_masked hj
    | false => exact smBits_smOuts_unmasked hj

/-! The rows of the table, in its order. -/

/-- Every row of the table gives masked entries +0. -/
theorem smRow_eq_smOuts : ∃ g, (smRow o f r row).1 = smOuts row g := by
  unfold smRow
  extract_lets un zero put
  have hput : ∀ g, put g = smOuts row g := fun _ => rfl
  clear_value put
  split
  · exact ⟨_, hput _⟩
  · split
    · exact ⟨_, hput _⟩
    · dsimp only
      split
      · exact ⟨_, hput _⟩
      · exact ⟨_, hput _⟩

theorem smRow_of_nan (h : ∃ x ∈ smUnmasked row, (f32 x).isNaN = true) :
    smRow o f r row = (smOuts row (fun j _ => normOut o f r j .nan), false) :=
  if_pos (List.any_eq_true.2 h)

theorem any_isNaN_eq_false {un : List (BitVec 32)} (h : ∀ x ∈ un, (f32 x).isNaN = false) :
    ¬ un.any (fun x => (f32 x).isNaN) = true :=
  fun e => by
    obtain ⟨x, hx, hn⟩ := List.any_eq_true.1 e
    exact absurd (hn.symm.trans (h x hx)) (by decide)

theorem smRow_of_all_negInf (h : ∀ x ∈ smUnmasked row, x = f32Inf true) :
    smRow o f r row = (smOuts row (fun _ _ => (0, 0)), true) :=
  (if_neg (any_isNaN_eq_false fun x hx => by rw [h x hx]; decide)).trans
    (if_pos (List.all_eq_true.2 fun x hx => beq_iff_eq.2 (h x hx)))

theorem smRow_of_posInf {e : FFmt} (hf : f.elem = .flt e) (hn : ∀ x ∈ smUnmasked row, (f32 x).isNaN = false)
    (h : f32Inf false ∈ smUnmasked row) : smRow o f r row = (smOuts row (fun j x => if x = f32Inf false then
      divTo e o.rnd.toNat o.sat (normRand o.len.toNat r j) (.fin false 1 0)
        (.fin false ((smUnmasked row).filter (· == f32Inf false)).length 0)
      else (0, 0)), false) := by
  have hall : ¬ (smUnmasked row).all (fun x => x == f32Inf true) = true := fun e =>
    absurd (beq_iff_eq.1 (List.all_eq_true.1 e _ h)) (by decide)
  have hk : 0 < ((smUnmasked row).filter (· == f32Inf false)).length :=
    List.length_pos_of_mem (List.mem_filter.2 ⟨h, beq_self_eq_true _⟩)
  refine (if_neg (any_isNaN_eq_false hn)).trans ((if_neg hall).trans ((if_pos hk).trans ?_))
  rw [hf]
  rfl

/-- A NaN converts to the canonical NaN of the format. -/
theorem normOut_nan {e : FFmt} (hf : f.elem = .flt e) (j : Nat) : (normOut o f r j .nan).1 = e.nanBits := by
  rw [normOut, hf]
  cases e <;> rfl

end

/-- Settles O22: in every case of R57's table the outputs are those of one rule for the unmasked entries, with +0 for the
masked ones; the case of a row is read off its unmasked entries. -/
theorem softmaxRowsFollowTheirTable : Obligations.SoftmaxRowsFollowTheirTable := by
  intro o f e r row hf
  obtain ⟨g, hg⟩ := smRow_eq_smOuts (o := o) (f := f) (r := r) (row := row)
  refine ⟨hg ▸ length_smOuts, fun j x hx => ?_, fun hn => ?_, fun hi => ?_, fun hn hi => ?_⟩
  · rw [hg]
    exact smBits_smOuts_masked hx
  · rw [smRow_of_nan hn]
    refine ⟨rfl, fun j x hx => ?_⟩
    change smBits _ j = _
    rw [smBits_smOuts_unmasked hx, normOut_nan hf]
  · rw [smRow_of_all_negInf hi]
    exact ⟨rfl, fun j hj => smBits_smOuts_zero hj⟩
  · obtain ⟨x, hx, rfl⟩ := hi
    rw [smRow_of_posInf hf hn hx]
    refine ⟨rfl, fun j x hx => ?_⟩
    change smBits _ j = _
    rw [smBits_smOuts_unmasked hx, apply_ite Prod.fst]
    rfl

end Sys2Proof.Machine
end

section
/-! PROOF. The stores of the vector engine (R107 to R112, R126): VST, VCST and MST. -/

namespace Sys2Proof.Machine

open Claims

variable {s t u : State}

/-! What lets a vector load or store of elements run (R45, R66, R99, R107, R110, R111). -/

section
variable {c m : CoreId} {i : Issue} {o : VMemOp} {ty f : Fmt} {n : Nat} {scales : Bool}

theorem regType_eq_some (h : regType o.et = some ty) : Fmt.ofCode o.et = some ty ∧ ty.isBlock = false ∧ ty ≠ .int4 := by
  unfold regType at h
  split at h
  · rename_i g hg
    split at h
    · rename_i hreg
      cases h
      refine ⟨hg, ?_⟩
      rcases hreg with rfl | rfl | rfl | rfl | rfl | rfl | rfl <;> decide
    · cases h
  · cases h

theorem vmemFields_pass (hm : o.msel = 0 ∨ 4 ≤ o.msel.toNat) (hr : o.rnd.toNat < 6) (he : regType o.et = some ty)
    (hf : Fmt.ofCode o.mfmt = some f) : firstReason (vmemFields o) = none := by
  simp only [firstReason_eq_none, vmemFields, List.forall_mem_cons, he, hf, selector_taken hm, decide_eq_false_iff_not]
  exact ⟨trivial, by omega, nofun, nofun, nofun⟩

theorem vmemRange_pass (h : vmemTakes s i o m ty f n scales) :
    firstReason (s.vmemRange i.core o f n scales) = none := by
  obtain ⟨-, -, -, -, hm, hblock, hint4, hrange, hscales⟩ := h
  simp only [firstReason_eq_none, State.vmemRange, List.forall_mem_cons, hm]
  refine ⟨rfl, ?_, ?_, ?_, ?_, nofun⟩
  · cases hb : f.isBlock with
    | false => rfl
    | true => simp [hblock hb]
  · simpa using hint4
  · simpa using hrange
  · simpa using fun hs hn => hscales hs hn

/-! VST (R109, R110). -/

/-- A VST that nothing rejects stores its writes. -/
theorem vstPlan_eq (h : vmemTakes s i o m ty f ty.lanes (f.isBlock && (o.scm == 2 || (o.scm == 0 && f != .t2))))
    (hb : f.isBlock = true → o.scm.toNat < 3 ∧ o.pm = 0) : State.vstPlan i o s = .run
      (wrPartial (s.vstWrites i.core m o ty f).1 ++
        (vstScaleReads o f ((s.core i.core).vec.eoff o) ty.lanes).map (fun x => (m, x)))
      (wrWords (s.vstWrites i.core m o ty f).1) (fun _ => .now)
      (fun u => (u.wrAll (s.vstWrites i.core m o ty f).1).flag i.core (s.vstWrites i.core m o ty f).2) := by
  have hr := vmemRange_pass h
  obtain ⟨hm, hrnd, he, hf, hsel, -⟩ := h
  have hscm : (f.isBlock && o.scm == 3) = false := by
    cases hk : f.isBlock with
    | false => rfl
    | true => exact beq_eq_false_iff_ne.2 fun e => absurd (hb hk).1 (by rw [e]; decide)
  have hpm : (f.isBlock && o.pm != 0) = false := by
    cases hk : f.isBlock with
    | false => rfl
    | true => simp [(hb hk).2]
  have hr' : firstReason ((f.isBlock && o.scm == 3, 2) :: (f.isBlock && o.pm != 0, 5) ::
      s.vmemRange i.core o f ty.lanes (f.isBlock && (o.scm == 2 || (o.scm == 0 && f != .t2)))) = none :=
    firstReason_eq_none.2 (List.forall_mem_cons.2 ⟨hscm, List.forall_mem_cons.2 ⟨hpm, firstReason_eq_none.1 hr⟩⟩)
  simp only [State.vstPlan, vmemFields_pass hm hrnd he hf, he, hf, hr', hsel]

theorem vstWrites_nodup : (wrWords (s.vstWrites c m o ty f).1).Nodup := by
  unfold State.vstWrites
  split <;> exact wrJoin_nodup _

/-- Elements that keep their format set no flag. -/
theorem vstWrites_flags_same (hb : ty.isBlock = false) : (s.vstWrites c m o ty ty).2 = 0 := by
  simp only [State.vstWrites, hb, Bool.false_eq_true, if_false, if_true, List.foldl_map]
  induction activeList ty.lanes ((s.core c).vec.mask o.pm) with
  | nil => rfl
  | cons e l ih => exact ih

/-! VCST (R126). -/

/-- What a VCST of `n` elements makes of the vector registers: S[SOFF] passes them. -/
def VectorUnit.advance (u : VectorUnit) (o : VMemOp) (n : Nat) : VectorUnit :=
  if n = 0 then u else u.setS o.soff (BitVec.ofNat 32 (u.eoff o + n))

/-- A VCST that nothing rejects stores its writes and advances S[SOFF]. -/
theorem vcstPlan_eq (hn : n = (activeList ty.lanes ((s.core i.core).vec.mask o.pm)).length)
    (h : vmemTakes s i o m ty ty n false) (hmf : o.mfmt = o.et) : State.vcstPlan i o s = .run
      (wrPartial (s.vcstWrites i.core m o ty)) (wrWords (s.vcstWrites i.core m o ty)) (fun _ => .now)
      (fun u => (u.wrAll (s.vcstWrites i.core m o ty)).modVec i.core (·.advance o n)) := by
  have hr := vmemRange_pass h
  obtain ⟨hm, hrnd, he, hf, hsel, -⟩ := h
  have hx : firstReason (xferFields o) = none :=
    firstReason_append_eq_none.2 ⟨vmemFields_pass hm hrnd he hf, firstReason_singleton.2 (decide_eq_false (not_not.2 hmf))⟩
  rw [hn] at hr ⊢
  simp only [State.vcstPlan, hx, he, hr, hsel]
  rfl

/-- The vector registers without the counts of the engine. -/
def VectorUnit.uncounted (v : VectorUnit) : VectorUnit := { v with issue := 0, stall := 0 }

theorem VectorUnit.advance_uncounted (v : VectorUnit) : (v.advance o n).uncounted = v.uncounted.advance o n := by
  unfold VectorUnit.advance VectorUnit.setS
  split
  · rfl
  · split <;> rfl

theorem Core.besideWords_withVec (k : Core) (v : VectorUnit) :
    ({ k with vec := v } : Core).besideWords = { k.besideWords with vec := v.uncounted } := rfl

theorem Core.besideWords_advance {k k' : Core} (h : k'.besideWords = k.besideWords) :
    ({ k' with vec := k'.vec.advance o n } : Core).besideWords =
      ({ k with vec := k.vec.advance o n } : Core).besideWords := by
  have hv : k'.vec.uncounted = k.vec.uncounted := congrArg Core.vec h
  have ha : (k'.vec.advance o n).uncounted = (k.vec.advance o n).uncounted := by
    rw [VectorUnit.advance_uncounted, hv, VectorUnit.advance_uncounted]
  rw [Core.besideWords_withVec k', h, ha, ← Core.besideWords_withVec k]

theorem State.peek_modVec (s : State) (c : CoreId) (g : VectorUnit → VectorUnit) (x : CoreId) (a : Nat) :
    (s.modVec c g).peek x a = s.peek x a := by
  unfold State.peek
  rw [s.core_modVec]
  split
  · rename_i e; rw [e]
  · rfl

/-- Writes made on a state that an issue has kept, and S[SOFF] advanced. -/
theorem storesAnd_wrAll_advance (h : s.issueKeeps u) (hwf : s.memoriesWf) {ws : List Wr} (hn : (wrWords ws).Nodup) :
    storesAnd s ((u.wrAll ws).modVec c (·.advance o n)) c { s.core c with vec := (s.core c).vec.advance o n } ws := by
  have hk : s.storeKeeps (u.wrAll ws) := h.storeKeeps.trans (State.storeKeeps_wrAll ws u)
  refine ⟨hk.outside.trans rfl, ?_, ?_, fun x hx => ?_⟩
  · exact State.stored_congr (State.stored_wrAll ws u (h.memoriesWf hwf) hn) h.words fun x a => State.peek_modVec _ _ _ x a
  · rw [State.core_modVec, if_pos rfl]
    exact Core.besideWords_advance (hk.beside c)
  · rw [State.core_modVec, if_neg hx]
    exact hk.beside x

/-! MST (R112). -/

/-- The write of an MST. -/
def mstWr (k : Core) (m : CoreId) (o : VMemOp) : Wr :=
  { core := m, addr := o.addr.toNat + k.vec.eoff o, data := k.vec.mask (o.vr.setWidth 3) }

/-- An MST that nothing rejects stores its mask. -/
theorem mstPlan_eq (hm : o.msel = 0 ∨ 4 ≤ o.msel.toNat) (hr : o.rnd.toNat < 6) (he : regType o.et = some ty)
    (hf : Fmt.ofCode o.mfmt = some f) (hsel : s.sel i.core o.msel = some m)
    (ha : o.addr.toNat + (s.core i.core).vec.eoff o < 2 ^ 20) : State.mstPlan i o s = .run []
      [(m, o.addr.toNat + (s.core i.core).vec.eoff o)] (fun _ => .now)
      (fun u => u.wrAll [mstWr (s.core i.core) m o]) := by
  have hp : pastMem (o.addr.toNat + (s.core i.core).vec.eoff o) 1 = false :=
    decide_eq_false fun e => absurd e.2 (by omega)
  have hrej : firstReason (s.maskRej i.core o) = none := by
    refine firstReason_append_eq_none.2 ⟨vmemFields_pass hm hr he hf, ?_⟩
    simp [firstReason_eq_none, hsel, hp]
  simp only [State.mstPlan, hrej, hsel]
  rfl

/-- Writes made on a state that an issue has kept. -/
theorem storesAnd_wrAll (h : s.issueKeeps u) (hwf : s.memoriesWf) {ws : List Wr} (hn : (wrWords ws).Nodup) :
    storesAnd s (u.wrAll ws) c (s.core c) ws := by
  have hk : s.storeKeeps (u.wrAll ws) := h.storeKeeps.trans (State.storeKeeps_wrAll ws u)
  exact ⟨hk.outside, State.stored_congr (State.stored_wrAll ws u (h.memoriesWf hwf) hn) h.words fun _ _ => rfl,
    hk.beside c, fun x _ => hk.beside x⟩

end

/-- Settles O19: a store that nothing rejects runs a plan whose writes share no word; VCST advances S[SOFF] beside them. -/
theorem vectorStoresWriteTheirWords : Obligations.VectorStoresWriteTheirWords := by
  intro i o m ty f s hready hwf
  refine ⟨fun ht hb hu => ?_, fun ht hmf hu => ?_, fun hm hr he hf hsel ha hu => ?_⟩
  · have hp := vstPlan_eq ht hb
    refine ⟨_, (s.vstWrites i.core m o ty f).2, rfl, ?_, State.present_storesAnd (op := 0x41) (plan := State.vstPlan i o)
      hready hwf (by rw [hp]; exact planUsable_run.2 (hu.elim (usable_of_calm · _ _) id)) (by rw [hp]; rfl) vstWrites_nodup
      (by rw [hp]; rfl)⟩
    rintro rfl
    obtain ⟨-, -, he, -⟩ := ht
    exact vstWrites_flags_same (regType_eq_some he).2.1
  · have hp := vcstPlan_eq rfl ht hmf
    obtain ⟨u, hk, hx⟩ := State.present_usable (op := 0x43) (plan := State.vcstPlan i o) hready
      (by rw [hp]; exact planUsable_run.2 (hu.elim (usable_of_calm · _ _) id)) (by rw [hp]; rfl) (by rw [hp]; rfl)
    exact ⟨_, congrArg Host.Outcome.next hx, storesAnd_wrAll_advance hk hwf (wrJoin_nodup _)⟩
  · have hp := mstPlan_eq hm hr he hf hsel ha
    obtain ⟨u, hk, hx⟩ := State.present_usable (op := 0x45) (plan := State.mstPlan i o) hready
      (by rw [hp]; exact planUsable_run.2 (hu.elim (usable_of_calm · _ _) id)) (by rw [hp]; rfl) (by rw [hp]; rfl)
    exact ⟨_, congrArg Host.Outcome.next hx, storesAnd_wrAll hk hwf (List.nodup_singleton _)⟩

end Sys2Proof.Machine
end

section
/-! PROOF. Plans with words that are read as the instruction runs: their sleeping groups do not hold it, and begin to wake
(R84, R213). -/

namespace Sys2Proof.Machine

open Claims

variable {s t u : State}

/-! Groups that do not sleep. -/

/-- A bank group is ON, or on its way there. -/
def Memory.stirs (m : Memory) (g : Fin 8) : Prop := m.bgState[g] ≠ 1 ∧ m.bgState[g] ≠ 2

theorem Memory.wake_of_stirs {m : Memory} {g : Fin 8} (h : m.stirs g) : m.wake g = m := if_neg (not_or.2 h)

theorem Memory.group_wake (m : Memory) (g : Fin 8) : (m.wake g).group = m.group := by
  funext a
  unfold Memory.wake
  split <;> rfl

theorem Memory.stirs_wake_self (m : Memory) (g : Fin 8) : (m.wake g).stirs g := by
  by_cases h : m.stirs g
  · rwa [Memory.wake_of_stirs h]
  · rw [Memory.wake, if_pos (by simpa only [Memory.stirs, ← not_or, not_not] using h)]
    simp [Memory.stirs]

theorem Memory.stirs.wake {m : Memory} {g : Fin 8} (h : m.stirs g) (g' : Fin 8) : (m.wake g').stirs g := by
  by_cases e : g' = g
  · rw [e]
    exact m.stirs_wake_self g
  · have hv : g'.val ≠ g.val := fun e' => e (Fin.ext e')
    unfold Memory.wake
    split
    · simpa [Memory.stirs, Vector.getElem_set, hv] using h
    · exact h

/-! The first access to a sleeping group. -/

theorem State.issueKeeps_lateWake (s : State) (c : CoreId) (g : Fin 8) : s.issueKeeps (s.lateWake c g) := by
  unfold State.lateWake
  split
  · exact .refl s
  · exact (State.issueKeeps_modCore s c _ rfl).trans (State.issueKeeps_log ..)

theorem State.memory_lateWake (s : State) (c : CoreId) (g : Fin 8) (x : CoreId) :
    ((s.lateWake c g).core x).memory = (s.core x).memory := by
  unfold State.lateWake
  split
  · rfl
  · rw [State.core_log, s.core_modCore]
    split
    · rename_i e; rw [e]
    · rfl

/-- The groups that a list of words touches stir where they are all ON. -/
theorem State.groupsOn.stirs {ws : List (CoreId × Nat)} (h : s.groupsOn ws) {x : CoreId × Nat} (hx : x ∈ ws) :
    (s.core x.1).memory.stirs ((s.core x.1).memory.group x.2) := by
  rw [Memory.stirs, h x hx]
  decide

theorem State.wakeAt_of_stirs {x : CoreId × Nat} (h : (s.core x.1).memory.stirs ((s.core x.1).memory.group x.2)) :
    s.wakeAt x = s := if_neg (not_or.2 h)

theorem State.memory_wakeAt (s : State) (x : CoreId × Nat) (c : CoreId) : ((s.wakeAt x).core c).memory =
    if c = x.1 then (s.core x.1).memory.wake ((s.core x.1).memory.group x.2) else (s.core c).memory := by
  unfold State.wakeAt
  dsimp only
  split
  · rw [State.core_modMem]
    split
    · dsimp only
      rw [State.memory_lateWake]
    · exact State.memory_lateWake ..
  · rename_i h
    split
    · rename_i e
      rw [e, Memory.wake_of_stirs (not_or.1 h)]
    · rfl

theorem State.group_wakeAt (s : State) (x : CoreId × Nat) (c : CoreId) :
    ((s.wakeAt x).core c).memory.group = (s.core c).memory.group := by
  rw [State.memory_wakeAt]
  split
  · rename_i e
    rw [e, Memory.group_wake]
  · rfl

theorem State.stirs_wakeAt {c : CoreId} {g : Fin 8} (h : (s.core c).memory.stirs g) (x : CoreId × Nat) :
    ((s.wakeAt x).core c).memory.stirs g := by
  rw [State.memory_wakeAt]
  split
  · rename_i e
    exact (e ▸ h).wake _
  · exact h

theorem State.sameOutside_wakeAt (s : State) (x : CoreId × Nat) : s.sameOutside (s.wakeAt x) := by
  unfold State.wakeAt
  dsimp only
  split
  · exact (State.issueKeeps_lateWake s ..).outside.trans rfl
  · rfl

/-! Lists of words. -/

theorem State.wakeAll_of_stirs : ∀ {l : List (CoreId × Nat)} {s : State},
    (∀ x ∈ l, (s.core x.1).memory.stirs ((s.core x.1).memory.group x.2)) → s.wakeAll l = s
  | [], _, _ => rfl
  | x :: l, s, h => by
    obtain ⟨hx, hl⟩ := List.forall_mem_cons.1 h
    rw [State.wakeAll, State.wakeAt_of_stirs hx, State.wakeAll_of_stirs hl]

theorem State.sameOutside_wakeAll : ∀ (l : List (CoreId × Nat)) (s : State), s.sameOutside (s.wakeAll l)
  | [], _ => rfl
  | x :: l, s => (s.sameOutside_wakeAt x).trans (State.sameOutside_wakeAll l _)

theorem State.stirs_wakeAll {c : CoreId} {g : Fin 8} : ∀ (l : List (CoreId × Nat)) {s : State},
    (s.core c).memory.stirs g → ((s.wakeAll l).core c).memory.stirs g
  | [], _, h => h
  | x :: l, _, h => State.stirs_wakeAll l (State.stirs_wakeAt h x)

/-- Every group that the words touch is awake or begins to wake. -/
theorem State.stirs_wakeAll_of_mem {x : CoreId × Nat} {l : List (CoreId × Nat)} (h : x ∈ l) :
    ((s.wakeAll l).core x.1).memory.stirs ((s.core x.1).memory.group x.2) := by
  induction l generalizing s with
  | nil => cases h
  | cons y l ih =>
    rw [State.wakeAll]
    rcases List.mem_cons.1 h with rfl | h
    · refine State.stirs_wakeAll l ?_
      rw [State.memory_wakeAt, if_pos rfl]
      exact Memory.stirs_wake_self _ _
    · rw [← State.group_wakeAt s y x.1]
      exact ih h

/-! What an issue keeps of the groups. -/

theorem Core.settled_stirs {k k' : Core} (h : k'.settled = k.settled) {g : Fin 8} :
    k'.memory.stirs g ↔ k.memory.stirs g := by
  have hb := congrArg (fun c => c.memory.bgState) h
  change k'.memory.bgState = k.memory.bgState at hb
  rw [Memory.stirs, Memory.stirs, hb]

theorem Core.settled_group {k k' : Core} (h : k'.settled = k.settled) : k'.memory.group = k.memory.group := by
  have hi := congrArg (fun c => c.memory.ilv) h
  change k'.memory.ilv = k.memory.ilv at hi
  funext a
  rw [Memory.group, Memory.group, hi]

/-- The instruction stands among those in flight. -/
theorem State.inflight_issued (s : State) (q : QueueId) (op : BitVec 8) (i : Issue) (due : Until) :
    ∃ f ∈ ((s.issued q op i due).core i.core).inflight, f.q = q ∧ f.op = op ∧ f.qpos = i.qpos ∧ f.due = due := by
  unfold State.issued
  extract_lets s' k last s''
  rw [State.core_modCore_self]
  exact ⟨_, List.mem_append_right _ (List.mem_singleton_self _), rfl, rfl, rfl, rfl⟩

/-! A plan that runs. -/

/-- The state on which an instruction that reads `soft` as it runs has its effect. -/
def State.startedOn (s : State) (q : QueueId) (op : BitVec 8) (i : Issue) (reads soft : List (CoreId × Nat))
    (due : State → Until) : State :=
  let u := (((s.begun q i).corrections (reads ++ soft)).wakeAll soft).unhold q i.core
  u.issued q op i (due u)

variable {q : QueueId} {op : BitVec 8} {i : Issue} {reads writes soft : List (CoreId × Nat)} {due : State → Until}
  {eff : State → State}

/-- A presentation that nothing holds has its plan's effect. -/
theorem State.present_startedOn {plan : State → Todo} (h : s.Ready q i) (hf : s.groupsOn (plan s).first)
    (hf' : s.readable (plan s).first) (hs : (plan s).soft = soft) (hp : (plan s).last = .run reads writes due eff)
    (hg : s.groupsOn (reads ++ writes)) (hr : s.readable (reads ++ soft)) :
    s.present q op i plan = eff (s.startedOn q op i reads soft due) := by
  subst hs
  exact State.present_runs h (State.groupsOn_asleep hf) (State.readable_firstBad hf') hp (State.groupsOn_asleep hg)
    (State.readable_firstBad hr)

theorem State.issueKeeps_corrected_begun (s : State) (q : QueueId) (i : Issue) (l : List (CoreId × Nat)) :
    s.issueKeeps ((s.begun q i).corrections l) :=
  (s.issueKeeps_begun q i).trans (State.issueKeeps_corrections l _)

theorem State.issueKeeps_unhold_issued (s : State) (q : QueueId) (op : BitVec 8) (i : Issue) (due : State → Until) :
    s.issueKeeps ((s.unhold q i.core).issued q op i (due (s.unhold q i.core))) :=
  (State.issueKeeps_unhold s q i.core).trans (State.issueKeeps_issued ..)

/-- Where the groups are all ON, the settled state is kept. -/
theorem State.issueKeeps_startedOn (h : s.groupsOn soft) : s.issueKeeps (s.startedOn q op i reads soft due) := by
  have hk := s.issueKeeps_corrected_begun q i (reads ++ soft)
  have hw : ((s.begun q i).corrections (reads ++ soft)).wakeAll soft = (s.begun q i).corrections (reads ++ soft) :=
    State.wakeAll_of_stirs fun x hx => by
      rw [Core.settled_stirs (hk.settled x.1), Core.settled_group (hk.settled x.1)]
      exact h.stirs hx
  rw [State.startedOn, hw]
  exact hk.trans (State.issueKeeps_unhold_issued ..)

/-- Whatever sleeps, all but the cores and the event log is as it was. -/
theorem State.sameOutside_startedOn : s.sameOutside (s.startedOn q op i reads soft due) :=
  (s.issueKeeps_corrected_begun q i (reads ++ soft)).outside.trans
    ((State.sameOutside_wakeAll ..).trans (State.issueKeeps_unhold_issued ..).outside)

/-- Whatever sleeps of the words read as it runs begins to wake. -/
theorem State.stirs_startedOn {x : CoreId × Nat} (hx : x ∈ soft) :
    ((s.startedOn q op i reads soft due).core x.1).memory.stirs ((s.core x.1).memory.group x.2) := by
  have hk := s.issueKeeps_corrected_begun q i (reads ++ soft)
  rw [← Core.settled_group (hk.settled x.1)]
  exact (Core.settled_stirs ((State.issueKeeps_unhold_issued _ q op i due).settled x.1)).2 (State.stirs_wakeAll_of_mem hx)

end Sys2Proof.Machine
end

section
/-! PROOF. Lists of values written into a sparse memory (R74), and weights that are not listed (R54, R62). -/

namespace Sys2Proof.Machine

/-! Values written from an address upward (R74). -/

section
variable {w : Nat}

theorem smSetMany_append : ∀ (xs ys : List (BitVec w)) (m : SMap w) (a : Nat),
    smSetMany m a (xs ++ ys) = smSetMany (smSetMany m a xs) (a + xs.length) ys
  | [], _, _, _ => rfl
  | x :: xs, ys, m, a => by
    rw [List.cons_append, smSetMany, smSetMany_append xs ys, smSetMany, List.length_cons, Nat.add_assoc, Nat.add_comm 1]

theorem smGet_smSetMany : ∀ (vs : List (BitVec w)) {m : SMap w} (a x : Nat), smWf m = true →
    smGet (smSetMany m a vs) x = if a ≤ x ∧ x < a + vs.length then (vs[x - a]?).getD 0 else smGet m x
  | [], m, a, x, _ => by
    rw [if_neg (by rw [List.length_nil]; omega), smSetMany]
  | v :: vs, m, a, x, h => by
    rw [smSetMany, smGet_smSetMany vs (a + 1) x (smSet_wf h a v), smGet_smSet h, List.length_cons]
    by_cases hx : x = a
    · subst hx
      rw [if_neg (by omega), if_pos rfl, if_pos (by omega), Nat.sub_self]
      rfl
    · by_cases hlt : a + 1 ≤ x ∧ x < a + 1 + vs.length
      · obtain ⟨k, rfl⟩ : ∃ k, x = a + 1 + k := ⟨x - (a + 1), by omega⟩
        rw [if_pos hlt, if_pos (by omega), Nat.add_sub_cancel_left, Nat.add_assoc, Nat.add_sub_cancel_left, Nat.add_comm 1,
          List.getElem?_cons_succ]
      · rw [if_neg hlt, if_neg hx, if_neg (by omega)]

/-- Rows of one length written one after another are written as one list. -/
theorem foldl_smSetMany_rows {len base : Nat} : ∀ (rows : List (List (BitVec w))) (k : Nat) (m : SMap w),
    (∀ r ∈ rows, r.length = len) →
    (rows.zipIdx k).foldl (fun m r => smSetMany m (base + r.2 * len) r.1) m = smSetMany m (base + k * len) rows.flatten
  | [], _, _, _ => rfl
  | r :: rows, k, m, h => by
    obtain ⟨hr, hrows⟩ := List.forall_mem_cons.1 h
    rw [List.zipIdx_cons, List.foldl_cons, foldl_smSetMany_rows rows (k + 1) _ hrows, List.flatten_cons, smSetMany_append, hr,
      Nat.add_mul, Nat.one_mul, Nat.add_assoc]

end

/-! The weight zero (R54, R62). -/

theorem Elem.decode_zero (el : Elem) : ∃ e, el.decode 0 = .fin false 0 e := by
  cases el with
  | flt f => cases f <;> exact ⟨_, rfl⟩
  | int w fr =>
    have h : signedVal w 0 = 0 := by simp [signedVal]
    exact ⟨-(fr : Int), by rw [Elem.decode, h]; rfl⟩
  | dig => exact ⟨0, rfl⟩

/-- A cell that is not listed holds the weight +0. -/
theorem Tile.weight_of_no_cells {t : Tile} (hc : t.cells = []) (hs : t.scales = []) (wf : Fmt) (k n u : Nat) :
    ∃ e, t.weight wf k n u = .fin false 0 e := by
  obtain ⟨e, he⟩ := wf.elem.decode_zero
  have h0 : (0 : BitVec 16).toNat = 0 := rfl
  simp only [Tile.weight, hc, hs, smGet_nil, h0, Nat.zero_shiftRight, Nat.zero_mod]
  split
  · exact ⟨e + ((0 : Nat) - 127), by rw [decodeScaled, if_neg (by decide), he]; rfl⟩
  · exact ⟨e, he⟩

theorem Num.mul_zero_right (g : Bool) (m : Nat) (e e' : Int) :
    (Num.fin g m e).mul (.fin false 0 e') = (.fin (g != false) 0 (e + e'), 0) := rfl

theorem Num.zero_add_zero (g : Bool) (e : Int) : (Num.fin false 0 0).add false (.fin g 0 e) = (.fin false 0 0, 0) := by
  have h : (Dy.add ⟨Num.signed false 0, 0⟩ ⟨Num.signed g 0, e⟩).m = 0 := by
    have hf : Num.signed false 0 = 0 := rfl
    have hg : Num.signed g 0 = 0 := by cases g <;> rfl
    rw [hf, hg, Dy.add]
    split <;> simp
  simp only [Num.add, h, if_true, ite_self]
  rfl

theorem int32Add_zero (a : BitVec 32) : int32Add a 0 = (a, 0) := by
  have hl : ¬ a.toInt < -(2 : Int) ^ (32 - 1) := by have := BitVec.le_toInt a; omega
  have hu : ¬ (2 : Int) ^ (32 - 1) - 1 < a.toInt := by have := BitVec.toInt_lt (x := a); omega
  simp only [int32Add, clampInt, Int.add_zero, if_neg hl, if_neg hu, BitVec.ofInt_toInt]
  rfl

section
variable {acts : Nat → Num} {t : Tile} {wf : Fmt} (hc : t.cells = []) (hs : t.scales = [])
  (ha : ∀ k, ∃ g m e, acts k = .fin g m e)

include hc hs ha

/-- Finite activations on weights that are zero sum to +0, with no flag. -/
theorem groupSum_of_no_cells (n u g : Nat) : groupSum acts t wf n u g = (.fin false 0 0, 0) := by
  refine List.foldl_fixed' (fun j => ?_) _
  obtain ⟨sg, m, e, hact⟩ := ha (t.logical (g * groupRows t.sparse + j) n)
  obtain ⟨e', hw⟩ := Tile.weight_of_no_cells hc hs wf (g * groupRows t.sparse + j) n u
  simp only [hact, hw, Num.mul_zero_right, Num.zero_add_zero]
  rfl

theorem columnF_of_no_cells (n u : Nat) (start : BitVec 32) : (columnF acts t wf n u start).1 = start := by
  refine congrArg Prod.fst (List.foldl_fixed' (a := (start, (0 : FmtFlags))) (fun g => ?_) _)
  simp only [groupSum_of_no_cells hc hs ha, Num.isZero, if_true]
  rfl

theorem columnI_of_no_cells (n u : Nat) (start : BitVec 32) : (columnI acts t wf n u start).1 = start := by
  refine congrArg Prod.fst (List.foldl_fixed' (a := (start, (0 : FmtFlags))) (fun g => ?_) _)
  have h0 : (Num.fin false 0 0).toInt = 0 := rfl
  simp only [groupSum_of_no_cells hc hs ha, h0, int32Add_zero]
  rfl

end

end Sys2Proof.Machine
end

section
/-! PROOF. PASS without forwarding (R54, R62, R67 to R69, R74, R76 to R78, R84): its plan, its effect on the array and the
values that it leaves in the accumulators. -/

namespace Sys2Proof.Machine

open Claims

variable {s t u : State}

/-! What runs after the effect on the core: marks, slip and events. -/

/-- What the counting of an instruction that has had its effect keeps. -/
structure State.countKeeps (s t : State) : Prop where
  outside : s.sameOutside t
  settled : ∀ x : CoreId, (t.core x).settled = (s.core x).settled
  inflight : ∀ x : CoreId, (t.core x).inflight = (s.core x).inflight

theorem State.countKeeps.refl (s : State) : s.countKeeps s := ⟨rfl, fun _ => rfl, fun _ => rfl⟩

theorem State.countKeeps.trans (h : s.countKeeps t) (h' : t.countKeeps u) : s.countKeeps u :=
  ⟨h.outside.trans h'.outside, fun x => (h'.settled x).trans (h.settled x), fun x => (h'.inflight x).trans (h.inflight x)⟩

theorem State.countKeeps_modCore (s : State) (c : CoreId) (f : Core → Core) (h : (f (s.core c)).settled = (s.core c).settled)
    (h' : (f (s.core c)).inflight = (s.core c).inflight) : s.countKeeps (s.modCore c f) := by
  refine ⟨rfl, (s.issueKeeps_modCore c f h).settled, fun x => ?_⟩
  rw [s.core_modCore]
  split
  · rename_i e; rw [e, h']
  · rfl

theorem State.countKeeps_log (s : State) (n : Nat) (src : BitVec 16) (a b c d : Nat) : s.countKeeps (s.log n src a b c d) :=
  ⟨(s.issueKeeps_log ..).outside, (s.issueKeeps_log ..).settled, fun x => by rw [State.core_log]⟩

theorem State.countKeeps_slotCount (s : State) (c : CoreId) (q : QueueId) (qpos : BitVec 16) (n : Nat) :
    s.countKeeps (s.slotCount c q qpos n) := by
  unfold State.slotCount
  split
  · exact .refl _
  · exact (s.countKeeps_modCore c _ rfl rfl).trans (State.countKeeps_log ..)

theorem State.countKeeps_addSlip (s : State) (c : CoreId) (q : QueueId) (qpos : BitVec 16) (n : Nat) (limit : BitVec 16)
    (mark : Marks → Bool) (set : Marks → Marks) : s.countKeeps (s.addSlip c q qpos n limit mark set) := by
  unfold State.addSlip
  refine (s.countKeeps_modCore c (fun k => { k with slip := satAdd k.slip n }) rfl rfl).trans ?_
  dsimp only
  split
  · exact (State.countKeeps_modCore _ c _ rfl rfl).trans (State.countKeeps_log ..)
  · exact .refl _

/-! The array after a PASS. -/

/-- The words that the feeders hold from a PASS of the same key (R234). -/
def ArrayUnit.heldFor (a : ArrayUnit) (o : PassOp) : List (Nat × MWord) :=
  if a.heldKey = some (heldKeyOf o) then a.held else []

/-- The array after a PASS of `n` rows that has left the accumulators at `acc` and holds the words `held`; a word that it
found held counts it as a reuse. -/
def ArrayUnit.passed (a : ArrayUnit) (o : PassOp) (h : PassHolds) (now : BitVec 64) (gap n : Nat) (acc : SMap 32)
    (held : List (Nat × MWord)) (reused : Bool) : ArrayUnit :=
  ({ (if n = 0 then a else a.endGap now gap) with
    active := (a.taken o).1, shadow := (if o.swap then none else a.shadow), acc := acc, count := none, ready := false,
    passAt := now, passHolds := h, rowCount := satAdd a.rowCount n, heldKey := some (heldKeyOf o), held := held,
    reuse := (if reused then satAdd a.reuse 1 else a.reuse) } : ArrayUnit).holds h

section
variable {a : ArrayUnit} {o : PassOp} {h : PassHolds} {now : BitVec 64} {gap n : Nat} {acc : SMap 32}
  {held : List (Nat × MWord)} {reused : Bool}

/-- A PASS changes of the array what its fields say, what the gap's end changes, and its counters. -/
theorem ArrayUnit.passed_eq (hs : a.state ≠ 7) : a.passed o h now gap n acc held reused =
    let b := a.passed o h now gap n acc held reused
    { gapEnded a b n with
      active := (a.taken o).1, shadow := if o.swap then none else a.shadow, acc := b.acc, count := none,
      passAt := now, passHolds := h, rowCount := satAdd a.rowCount n, heldKey := some (heldKeyOf o), held := b.held,
      reuse := b.reuse, frozen := b.frozen, feedStall := b.feedStall, drainStall := b.drainStall } := by
  by_cases hn : n = 0
  · simp only [ArrayUnit.passed, gapEnded, ArrayUnit.holds, hn, if_true, true_or]
  · cases hr : a.ready <;>
      simp only [ArrayUnit.passed, gapEnded, ArrayUnit.holds, ArrayUnit.endGap, ArrayUnit.getReady, hn, hs, hr, if_false,
        if_true, Bool.false_eq_true, or_false, or_true]

theorem satAdd_zero {w : Nat} (x : BitVec w) : satAdd x 0 = x := by
  have : min x.toNat (2 ^ w - 1) = x.toNat := Nat.min_eq_left (by have := x.isLt; omega)
  rw [satAdd, Nat.add_zero, this, BitVec.ofNat_toNat, BitVec.setWidth_eq]

/-- Where nothing held the PASS, its holds count nothing. -/
theorem ArrayUnit.holds_none : a.holds {} = a := by
  simp [ArrayUnit.holds, sortHolds, holdGroups, passGaps, satAdd_zero]

theorem ArrayUnit.passed_unheld : (a.passed o {} now gap n acc held reused).frozen = a.frozen ∧
    (a.passed o {} now gap n acc held reused).feedStall = a.feedStall ∧
    (a.passed o {} now gap n acc held reused).drainStall = a.drainStall := by
  rw [ArrayUnit.passed, ArrayUnit.holds_none]
  by_cases hn : n = 0
  · simp only [hn, if_true, and_self]
  · cases hr : a.ready <;> simp [hn, hr, ArrayUnit.endGap, ArrayUnit.getReady]

theorem ArrayUnit.passed_dummy_noRow : (a.passed o {} now gap 0 acc held reused).dummy = a.dummy := by
  rw [ArrayUnit.passed, ArrayUnit.holds_none]
  rfl

end

/-! The values of a PASS. -/

section
variable {i : Issue} {o : PassOp} {h : PassHolds} {src : CoreId} {wf af : Fmt} {w : Nat} {isInt : Bool}

theorem perReg_of_pairing (h : pairing wf af = some (w, isInt)) : wf.perReg = w := by
  cases wf <;> simp [pairing] at h <;> exact h.2.1

/-- An item of a list of items of `n` cells each. -/
theorem getElem?_flatMap_of_length {α β : Type} {f : α → List β} {n k : Nat} : ∀ (l : List α) (j : Nat),
    (∀ x ∈ l, (f x).length = n) → k < n → (l.flatMap f)[n * j + k]? = (l[j]?).bind (fun x => (f x)[k]?)
  | [], _, _, _ => rfl
  | x :: l, 0, h, hk => by
    rw [List.flatMap_cons, Nat.mul_zero, Nat.zero_add, List.getElem?_append_left (by rwa [h x List.mem_cons_self])]
    rfl
  | x :: l, j + 1, h, hk => by
    obtain ⟨hx, hl⟩ := List.forall_mem_cons.1 h
    have e : n * (j + 1) + k = (f x).length + (n * j + k) := by rw [hx]; ring
    rw [List.flatMap_cons, e, List.getElem?_append_right (Nat.le_add_right ..), Nat.add_sub_cancel_left,
      getElem?_flatMap_of_length l j hl hk, List.getElem?_cons_succ]

/-- The results of the rows of a PASS. -/
def State.passOuts (s : State) (i : Issue) (o : PassOp) (src : CoreId) (wf af : Fmt) (isInt : Bool) :
    List (List (BitVec 32 × FmtFlags)) :=
  s.passResults i.core src o wf af isInt ((s.core i.core).array.taken o).1 ((s.core i.core).array.heldFor o) (rowsRun s i o src)

/-- The accumulators after a PASS without forwarding (R67, R77). -/
def State.passAcc (s : State) (i : Issue) (o : PassOp) (src : CoreId) (wf af : Fmt) (isInt : Bool) : SMap 32 :=
  ((s.passOuts i o src wf af isInt).map (fun r => r.map (·.1))).zipIdx.foldl
    (fun m r => smSetMany m (128 * (o.accBase.toNat + r.2 * wf.perReg)) r.1) (s.core i.core).array.acc

/-- The PASS runs on a tile of its own format and sparse mode, or on one without a listed cell (Assumption 11). -/
def Tile.suits (t : Tile) (o : PassOp) : Prop := t.fmt = o.wfmt ∧ t.sparse = o.sparse ∨ t.cells = []

/-- The value from which a column of a row starts. -/
def ArrayUnit.passStart (a : ArrayUnit) (o : PassOp) (w r c : Nat) : BitVec 32 :=
  if o.accMode = 1 then a.accAt (o.accBase.toNat + r * w + c / 128) (c % 128) else 0

theorem length_passOuts : (s.passOuts i o src wf af isInt).length = rowsRun s i o src := by
  rw [State.passOuts, State.passResults, List.length_map, List.length_range]

theorem length_of_mem_passOuts {r : List (BitVec 32 × FmtFlags)} (hr : r ∈ s.passOuts i o src wf af isInt) :
    r.length = 128 * wf.perReg := by
  obtain ⟨k, -, rfl⟩ := List.mem_map.1 hr
  dsimp only
  split
  · rw [freeRow, List.length_map, List.length_range]
  · rw [passRow, List.length_map, List.length_range]

theorem passOuts_getElem? (hs : ((s.core i.core).array.taken o).1.suits o) {r : Nat} (hr : r < rowsRun s i o src) :
    (s.passOuts i o src wf af isInt)[r]? = some (passRow (actOf s i o src af r) ((s.core i.core).array.taken o).1 wf isInt
      ((s.core i.core).array.passStart o wf.perReg r)) := by
  have hm : ¬ ((((s.core i.core).array.taken o).1.fmt ≠ o.wfmt ∨ ((s.core i.core).array.taken o).1.sparse ≠ o.sparse) ∧
      ((s.core i.core).array.taken o).1.cells ≠ []) := by
    rintro ⟨hne, hc⟩
    rcases hs with ⟨hf, hsp⟩ | hs
    · rcases hne with h | h
      · exact h hf
      · exact h hsp
    · exact hc hs
  rw [State.passOuts, State.passResults, List.getElem?_map, List.getElem?_range hr, Option.map_some, if_neg hm]
  rfl

theorem passRow_getElem? (acts : Nat → Num) (t : Tile) (start : Nat → BitVec 32) {c : Nat} (hc : c < 128 * wf.perReg) :
    (passRow acts t wf isInt start)[c]? =
      some ((if isInt then columnI else columnF) acts t wf (c / wf.perReg) (c % wf.perReg) (start c)) := by
  rw [passRow, List.getElem?_map, List.getElem?_range hc]
  rfl

/-- The rows of a PASS are written one after another from ACC_BASE on. -/
theorem passAcc_eq : s.passAcc i o src wf af isInt = smSetMany (s.core i.core).array.acc (128 * o.accBase.toNat)
    ((s.passOuts i o src wf af isInt).flatMap (fun r => r.map (·.1))) := by
  have e : ∀ k : Nat, 128 * (o.accBase.toNat + k * wf.perReg) = 128 * o.accBase.toNat + k * (128 * wf.perReg) := fun k => by
    ring
  have hl : ∀ r ∈ (s.passOuts i o src wf af isInt).map (fun r => r.map (·.1)), r.length = 128 * wf.perReg := fun r hr => by
    obtain ⟨x, hx, rfl⟩ := List.mem_map.1 hr
    rw [List.length_map, length_of_mem_passOuts hx]
  simp only [State.passAcc, e]
  rw [foldl_smSetMany_rows _ 0 _ hl, Nat.zero_mul, Nat.add_zero, List.flatMap_def]

theorem length_flatMap_passOuts : ((s.passOuts i o src wf af isInt).flatMap (fun r => r.map (·.1))).length =
    rowsRun s i o src * (128 * wf.perReg) := by
  have h : ((s.passOuts i o src wf af isInt).map (fun r => (r.map (·.1)).length)) =
      List.replicate (rowsRun s i o src) (128 * wf.perReg) := by
    refine List.eq_replicate_iff.2 ⟨by rw [List.length_map, length_passOuts], fun n hn => ?_⟩
    obtain ⟨x, hx, rfl⟩ := List.mem_map.1 hn
    rw [List.length_map, length_of_mem_passOuts hx]
  rw [List.length_flatMap, h, List.sum_replicate, smul_eq_mul]

/-- Value `c` of row `r` of a PASS. -/
theorem smGet_passAcc_row (hacc : smWf (s.core i.core).array.acc = true) (hs : ((s.core i.core).array.taken o).1.suits o)
    {r c : Nat} (hr : r < rowsRun s i o src) (hc : c < 128 * wf.perReg) :
    smGet (s.passAcc i o src wf af isInt) (128 * (o.accBase.toNat + r * wf.perReg + c / 128) + c % 128) =
      ((if isInt then columnI else columnF) (actOf s i o src af r) ((s.core i.core).array.taken o).1 wf (c / wf.perReg)
        (c % wf.perReg) ((s.core i.core).array.passStart o wf.perReg r c)).1 := by
  have hx : 128 * (o.accBase.toNat + r * wf.perReg + c / 128) + c % 128 =
      128 * o.accBase.toNat + (128 * wf.perReg * r + c) := by
    have : 128 * (o.accBase.toNat + r * wf.perReg + c / 128) =
        128 * o.accBase.toNat + 128 * wf.perReg * r + 128 * (c / 128) := by ring
    omega
  have hlen : 128 * wf.perReg * r + c < rowsRun s i o src * (128 * wf.perReg) :=
    calc 128 * wf.perReg * r + c < 128 * wf.perReg * r + 128 * wf.perReg := Nat.add_lt_add_left hc _
      _ = (r + 1) * (128 * wf.perReg) := by ring
      _ ≤ rowsRun s i o src * (128 * wf.perReg) := Nat.mul_le_mul_right _ hr
  rw [hx, passAcc_eq, smGet_smSetMany _ _ _ hacc, length_flatMap_passOuts, if_pos (by omega), Nat.add_sub_cancel_left,
    getElem?_flatMap_of_length _ _ (fun x hx => by rw [List.length_map, length_of_mem_passOuts hx]) hc,
    passOuts_getElem? hs hr, Option.bind_some, List.getElem?_map, passRow_getElem? _ _ _ hc]
  rfl

/-- Every other accumulator value stays. -/
theorem smGet_passAcc_other (hacc : smWf (s.core i.core).array.acc = true) {x : Nat}
    (hx : x < 128 * o.accBase.toNat ∨ 128 * (o.accBase.toNat + rowsRun s i o src * wf.perReg) ≤ x) :
    smGet (s.passAcc i o src wf af isInt) x = smGet (s.core i.core).array.acc x := by
  have e : 128 * (o.accBase.toNat + rowsRun s i o src * wf.perReg) =
      128 * o.accBase.toNat + rowsRun s i o src * (128 * wf.perReg) := by ring
  rw [passAcc_eq, smGet_smSetMany _ _ _ hacc, length_flatMap_passOuts, if_neg (by omega)]

/-! The effect of a PASS. -/

theorem State.sameOutside.sel (h : s.sameOutside u) : u.sel = s.sel := by
  have hd := congrArg State.domOff h
  change u.domOff = s.domOff at hd
  funext c x
  unfold State.sel State.neighbour State.enabled
  rw [hd]

theorem State.sameOutside.time (h : s.sameOutside u) : u.time = s.time := by
  have ht := congrArg State.time h
  exact ht

/-- The effect of a PASS without forwarding: the array and the flags of its core change, and then the counts. -/
theorem passEffect_eq (hwf : Fmt.ofCode o.wfmt = some wf) (haf : Fmt.ofCode o.afmt = some af)
    (hp : pairing wf af = some (w, isInt)) (hsel : s.sel i.core o.asel = some src) (hfwd : o.fwd = false) :
    ∃ f held reused fl, f (s.core i.core).array = (s.core i.core).array.passed o h s.time i.gap (rowsRun s i o src)
        (s.passAcc i o src wf af isInt) held reused ∧
      ((s.modArray i.core f).flag i.core fl).countKeeps (State.passEffect i.core i o h s) := by
  unfold State.passEffect
  rw [hwf, haf, hsel]
  dsimp -zeta only
  extract_lets a isInt' words used reused kept res vals w' mixed scs fl acc now passed drawn counted slipped
  have hn : (if (a.taken o).2 then (0, none) else s.passLen i.core src o).1 = rowsRun s i o src := by
    rw [rowsRun, apply_ite Prod.fst]
  have hi : isInt' = isInt := by simp only [isInt', hp]
  have hdrawn : passed.countKeeps drawn := by
    unfold drawn
    split
    · exact ⟨rfl, fun _ => rfl, fun _ => rfl⟩
    · exact .refl _
  have hcounted : drawn.countKeeps counted := by
    unfold counted
    split
    · exact State.countKeeps_slotCount ..
    · exact .refl _
  have hacc : acc = s.passAcc i o src wf af isInt := by
    simp only [acc, hfwd, Bool.false_eq_true, if_false, vals, res, hn, hi]
    rfl
  rw [if_neg (by rw [hfwd]; decide)]
  refine ⟨_, kept, reused, fl, ?_, hdrawn.trans (hcounted.trans (State.countKeeps_addSlip ..))⟩
  simp only [hn, hacc]
  rfl

theorem core_modArray_flag (s : State) (c : CoreId) (f : ArrayUnit → ArrayUnit) (fl : FmtFlags) (x : CoreId) :
    ((s.modArray c f).flag c fl).core x = if x = c then { s.core c with
      array := f (s.core c).array, flags := (s.core c).flags ||| fl } else s.core x := by
  rw [State.core_flag]
  split
  · rw [State.core_modArray, if_pos rfl]
  · rename_i hx
    rw [State.core_modArray, if_neg hx]

theorem State.issueKeeps.array (h : s.issueKeeps u) (c : CoreId) : (u.core c).array = (s.core c).array :=
  Core.settled_array (h.settled c)

theorem State.issueKeeps.peek_eq (h : s.issueKeeps u) : u.peek = s.peek := funext fun c => funext fun a => h.peek c a

theorem State.issueKeeps.rowsRun (h : s.issueKeeps u) : rowsRun u i o src = Claims.rowsRun s i o src := by
  unfold Claims.rowsRun State.passLen State.passCountWord
  rw [h.array, h.peek_eq]

theorem State.issueKeeps.feedWord (h : s.issueKeeps u) : u.feedWord = s.feedWord := by
  funext c held a
  simp only [State.feedWord, h.peek_eq]

theorem State.issueKeeps.passAcc (h : s.issueKeeps u) : u.passAcc i o src wf af isInt = s.passAcc i o src wf af isInt := by
  simp only [State.passAcc, State.passOuts, State.passResults, freeRow, h.array, h.feedWord, h.rowsRun, h.draws]

/-- A PASS on a state that an issue has kept changes the array and the flags alone. -/
theorem coreBecomes_passEffect (hk : s.issueKeeps u) (hwf : Fmt.ofCode o.wfmt = some wf) (haf : Fmt.ofCode o.afmt = some af)
    (hp : pairing wf af = some (w, isInt)) (hsel : s.sel i.core o.asel = some src) (hfwd : o.fwd = false) :
    ∃ held reused fl, coreBecomes s (State.passEffect i.core i o h u) i.core { s.core i.core with
      flags := (s.core i.core).flags ||| fl,
      array := (s.core i.core).array.passed o h s.time i.gap (rowsRun s i o src) (s.passAcc i o src wf af isInt) held
        reused } := by
  obtain ⟨f, held, reused, fl, hf, hc⟩ := passEffect_eq (h := h) hwf haf hp (by rw [hk.outside.sel]; exact hsel) hfwd
  rw [hk.array, hk.rowsRun, hk.passAcc, hk.outside.time] at hf
  have houtside : u.sameOutside ((u.modArray i.core f).flag i.core fl) := rfl
  refine ⟨held, reused, fl, hk.outside.trans (houtside.trans hc.outside), fun x hx => ?_, ?_⟩
  · rw [hc.settled x, core_modArray_flag, if_neg hx]
    exact hk.settled x
  · have hfl : (u.core i.core).flags = (s.core i.core).flags := by
      have e := congrArg Core.flags (hk.settled i.core)
      exact e
    rw [hc.settled i.core, core_modArray_flag, if_pos rfl, hk.array, hf, hfl]
    exact Core.settled_array_flags (hk.settled i.core) _ _

/-- A PASS without forwarding leaves what is in flight. -/
theorem inflight_passEffect (hwf : Fmt.ofCode o.wfmt = some wf) (haf : Fmt.ofCode o.afmt = some af)
    (hp : pairing wf af = some (w, isInt)) (hsel : s.sel i.core o.asel = some src) (hfwd : o.fwd = false) :
    ((State.passEffect i.core i o h s).core i.core).inflight = (s.core i.core).inflight := by
  obtain ⟨f, held, reused, fl, -, hc⟩ := passEffect_eq (h := h) hwf haf hp hsel hfwd
  rw [hc.inflight, core_modArray_flag, if_pos rfl]

/-- A PASS without forwarding puts no bank group to sleep. -/
theorem stirs_passEffect (hwf : Fmt.ofCode o.wfmt = some wf) (haf : Fmt.ofCode o.afmt = some af)
    (hp : pairing wf af = some (w, isInt)) (hsel : s.sel i.core o.asel = some src) (hfwd : o.fwd = false) {c : CoreId}
    {g : Fin 8} (hst : (s.core c).memory.stirs g) :
    ((State.passEffect i.core i o h s).core c).memory.stirs g := by
  obtain ⟨f, held, reused, fl, -, hc⟩ := passEffect_eq (h := h) hwf haf hp hsel hfwd
  rw [Core.settled_stirs (hc.settled c), core_modArray_flag]
  split
  · rename_i e
    exact e ▸ hst
  · exact hst

/-! The plan of a PASS. -/

theorem ArrayUnit.tileOf_eq {a : ArrayUnit} (h : o.swap = true → a.shadow ≠ none) : a.tileOf o = some (a.taken o) :=
  if_neg fun e => h e.1 e.2

/-- A PASS that its fields and ranges let run is not rejected, whether or not its tile is looked at. -/
theorem passRejectOn_pass (ht : passTakes s i o src wf af w isInt) (hfwd : o.fwd = false)
    (hacc : o.len ≠ 0 → o.accBase.toNat + o.len.toNat * w ≤ 4096) {tile : Option (Tile × Bool)}
    (htile : tile = none ∨ tile = some ((s.core i.core).array.taken o)) : s.passRejectOn i.core o tile = none := by
  obtain ⟨hasel, hmode, hsp, hff, hwf, haf, hp, hno, hsel, ⟨hrange, hscale⟩, -⟩ := ht
  have hfields : firstReason [(decide (o.asel ≠ 0 ∧ o.asel.toNat < 4), 2), (decide (2 ≤ o.accMode.toNat), 2),
      (decide (o.sparse = 3), 2), (decide (2 ≤ o.fwdFmt.toNat), 2), (decide (Fmt.ofCode o.wfmt = none), 2),
      (decide (Fmt.ofCode o.afmt = none), 2)] = none := by
    simp only [firstReason_eq_none, List.forall_mem_cons, selector_taken hasel, hwf, haf, decide_eq_false_iff_not]
    exact ⟨trivial, by omega, hsp, by omega, nofun, nofun, nofun⟩
  have hnm : (decide (o.sparse ≠ 0) && wf.noSparse) = false := by
    cases hw : wf.noSparse with
    | false => exact Bool.and_false _
    | true =>
      have h0 : o.sparse = 0 := by
        by_contra h0
        rw [hno h0] at hw
        cases hw
      rw [h0]
      rfl
  have hbase : (decide (4096 < o.accBase.toNat + o.len.toNat * w) && decide (o.len ≠ 0)) = false := by
    by_cases h0 : o.len = 0
    · simp [h0]
    · rw [decide_eq_false (Nat.not_lt.2 (hacc h0)), Bool.false_and]
  have hsc : (af.isMX && pastMem o.ascale.toNat (wordsFor (o.len.toNat *
      (actElems ((s.core i.core).array.taken o).1 o.sparse / 32)) 8)) = false := by
    cases hm : af.isMX with
    | false => rfl
    | true => exact hscale hm
  rw [State.passRejectOn, hfields]
  simp only [hwf, haf, hp, hsel, hfwd, hnm, hbase, Bool.false_and]
  rcases htile with rfl | rfl
  · rfl
  · simp only [hrange, hsc]
    rfl

/-- Without forwarding, a PASS must read its count word alone before it runs. -/
theorem passCount_eq_passReads (hfwd : o.fwd = false) : s.passCount i.core o = s.passReads i.core o := by
  simp only [State.passCount, State.passReads, hfwd, Bool.false_eq_true, if_false, List.append_nil]

/-- A PASS that nothing rejects reads its count word, and its activations as it runs. -/
theorem passPlan_eq (ht : passTakes s i o src wf af w isInt) (hfwd : o.fwd = false)
    (hacc : o.len ≠ 0 → o.accBase.toNat + o.len.toNat * w ≤ 4096) : State.passPlan i o h s =
      .need (s.passReads i.core o) (.need (s.passReads i.core o) (.stream (s.passFeeds i.core o)
        (.run (s.passReads i.core o) [] (fun _ => .pass) (State.passEffect i.core i o h)))) := by
  have hnone := passRejectOn_pass ht hfwd hacc (.inl rfl)
  have hsome := passRejectOn_pass ht hfwd hacc (.inr rfl)
  obtain ⟨-, -, -, -, -, -, -, -, -, -, hshadow⟩ := ht
  have htile := ArrayUnit.tileOf_eq hshadow
  simp only [State.passPlan, State.passReject, htile, hnone, hsome, passCount_eq_passReads hfwd]
  rfl

/-- A PASS that nothing rejects or holds has its effect, whatever sleeps under its activations (R84). -/
theorem exec_pass_runs (hr : s.Ready qArray i) (ht : passTakes s i o src wf af w isInt) (hfwd : o.fwd = false)
    (hacc : o.len ≠ 0 → o.accBase.toNat + o.len.toNat * w ≤ 4096) (hu : usable s (s.passReads i.core o) [])
    (hf : s.readable (s.passFeeds i.core o)) : exec (.pass i o h) s = .next (State.passEffect i.core i o h
      (s.startedOn qArray 0x20 i (s.passReads i.core o) (s.passFeeds i.core o) (fun _ => .pass))) := by
  have hp := passPlan_eq (h := h) ht hfwd hacc
  obtain ⟨hg, hread⟩ := hu
  rw [List.append_nil] at hg
  refine congrArg Host.Outcome.next (State.present_startedOn (op := 0x20) (plan := State.passPlan i o h) (writes := []) hr
    ?_ ?_ (by rw [hp]; exact List.append_nil _) (by rw [hp]; rfl) (by rwa [List.append_nil]) (readable_append.2 ⟨hread, hf⟩))
  · rw [hp]
    exact groupsOn_append.2 ⟨hg, groupsOn_append.2 ⟨hg, nofun⟩⟩
  · rw [hp]
    exact readable_append.2 ⟨hread, readable_append.2 ⟨hread, nofun⟩⟩

theorem array_state_of_ready (hr : s.Ready qArray i) : (s.core i.core).array.state ≠ 7 := by
  obtain ⟨hc, -⟩ := hr
  simp only [State.canPresent, Core.stopped, if_true, Bool.and_eq_true, Bool.not_eq_true', beq_eq_false_iff_ne] at hc
  obtain ⟨-, hstate⟩ := hc
  exact hstate

/-- Where the words that it touches are usable, a PASS changes the array and the flags of its core. -/
theorem exec_pass_becomes (hr : s.Ready qArray i) (ht : passTakes s i o src wf af w isInt) (hfwd : o.fwd = false)
    (hacc : o.len ≠ 0 → o.accBase.toNat + o.len.toNat * w ≤ 4096)
    (hu : usable s (s.passReads i.core o ++ s.passFeeds i.core o) []) : ∃ t held reused fl,
    exec (.pass i o h) s = .next t ∧ coreBecomes s t i.core { s.core i.core with
      flags := (s.core i.core).flags ||| fl,
      array := (s.core i.core).array.passed o h s.time i.gap (rowsRun s i o src) (s.passAcc i o src wf af isInt) held
        reused } := by
  obtain ⟨hg, hread⟩ := hu
  rw [List.append_nil] at hg
  obtain ⟨hgr, hgf⟩ := groupsOn_append.1 hg
  obtain ⟨hrr, hrf⟩ := readable_append.1 hread
  have hex := exec_pass_runs (h := h) hr ht hfwd hacc ⟨by rwa [List.append_nil], hrr⟩ hrf
  obtain ⟨-, -, -, -, hwf, haf, hp, -, hsel, -⟩ := ht
  obtain ⟨held, reused, fl, hb⟩ :=
    coreBecomes_passEffect (h := h) (State.issueKeeps_startedOn hgf) hwf haf hp hsel hfwd
  exact ⟨_, held, reused, fl, hex, hb⟩

theorem array_of_coreBecomes {c : CoreId} {k : Core} (h : coreBecomes s t c k) : (t.core c).array = k.array := by
  obtain ⟨-, -, hcore⟩ := h
  exact Core.settled_array hcore

end

/-- Settles O20: a PASS that nothing rejects has its effect on a state that keeps what it reads; its rows are written one
after another into the accumulators. Under sleeping groups the same effect follows on their waking. Weights that are not
listed are +0 and add nothing. -/
theorem passAccumulatesItsRows : Obligations.PassAccumulatesItsRows := by
  refine ⟨?_, ?_, fun acts t wf af w n u isInt start _ hc hs _ ha =>
    ⟨columnF_of_no_cells hc hs ha n u start, columnI_of_no_cells hc hs ha n u start⟩⟩
  · intro i o h src wf af w isInt s hr haccs ht hfwd hbase k a tile n hu
    obtain ⟨t, held, reused, fl, hex, hb⟩ := exec_pass_becomes (h := h) hr ht hfwd hbase hu
    have ha : (t.core i.core).array = a.passed o h s.time i.gap n (s.passAcc i o src wf af isInt) held reused :=
      array_of_coreBecomes hb
    obtain ⟨-, -, -, -, -, -, hp, -⟩ := ht
    obtain rfl := perReg_of_pairing hp
    refine ⟨t, fl, hex, ?_⟩
    dsimp only
    rw [ha]
    refine ⟨?_, ?_, ?_, fun hs r hrow c hc => ?_, fun x hx => ?_⟩
    · exact (congrArg (fun b => coreBecomes s t i.core { k with flags := k.flags ||| fl, array := b })
        (ArrayUnit.passed_eq (array_state_of_ready hr))).mp hb
    · rintro rfl
      exact ArrayUnit.passed_unheld
    · rintro hn rfl
      rw [hn]
      exact ArrayUnit.passed_dummy_noRow
    · exact smGet_passAcc_row (haccs i.core) hs hrow hc
    · exact smGet_passAcc_other (haccs i.core) hx
  · intro i o h src wf af w isInt s hr ht hfwd hbase hu hf
    have hex := exec_pass_runs (h := h) hr ht hfwd hbase hu hf
    obtain ⟨-, -, -, -, hwf, haf, hp, -, hsel, -⟩ := ht
    have hsel' : (s.startedOn qArray 0x20 i (s.passReads i.core o) (s.passFeeds i.core o) (fun _ => .pass)).sel i.core
        o.asel = some src := by
      rw [State.sameOutside_startedOn.sel]
      exact hsel
    refine ⟨_, hex, ?_, fun x hx => stirs_passEffect hwf haf hp hsel' hfwd (State.stirs_startedOn hx)⟩
    rw [inflight_passEffect hwf haf hp hsel' hfwd]
    exact State.inflight_issued ..

end Sys2Proof.Machine
end

section
/-! PROOF. The words of the instruction store (R66, R104, R133, R214, R256): the opcode, the header and every field of
an engine's instruction read back from the word that it is written as. -/

namespace Sys2Proof.Machine

open Claims

/-- A word spells the fields of a list: each reads as its value, and the bits above the header that none of them covers
are 0. -/
structure Spells (w : MWord) (fs : List (Nat × Nat × Nat)) : Prop where
  field : ∀ f ∈ fs, w.extractLsb' f.1 f.2.1 = BitVec.ofNat f.2.1 f.2.2
  free : ∀ l : List (Nat × Nat), l.all (fun x => decide (64 ≤ x.1 ∧ x.1 + x.2 ≤ 256) && (placesOf fs).all (fieldsApart x)) =
    true → reserved w l = false

/-- Fields that share no bit all read as they were written. -/
theorem extract_setFields_mem {fs : List (Nat × Nat × Nat)} (h : placesApart (placesOf fs) = true) {f : Nat × Nat × Nat}
    (hf : f ∈ fs) : (setFields 0 fs).extractLsb' f.1 f.2.1 = BitVec.ofNat f.2.1 f.2.2 := by
  refine BitVec.eq_of_getLsbD_eq fun k hk => ?_
  rw [BitVec.getLsbD_extractLsb', getLsbD_setFields_mem ⟨Nat.le_add_right .., Nat.add_lt_add_left hk _⟩ fs 0 h hf,
    BitVec.getLsbD_ofNat, Nat.add_sub_cancel_left]

theorem placesApart_append : ∀ {a b : List (Nat × Nat)}, placesApart a = true → placesApart b = true →
    (∀ x ∈ a, ∀ y ∈ b, fieldsApart x y = true) → placesApart (a ++ b) = true
  | [], _, _, hb, _ => hb
  | x :: a, b, ha, hb, h => by
    simp only [placesApart, Bool.and_eq_true] at ha
    obtain ⟨⟨hx, hfit⟩, ha⟩ := ha
    obtain ⟨hxb, hab⟩ := List.forall_mem_cons.1 h
    simp only [List.cons_append, placesApart, List.all_append, Bool.and_eq_true]
    exact ⟨⟨⟨hx, List.all_eq_true.2 hxb⟩, hfit⟩, placesApart_append ha hb hab⟩

/-- An instruction's own fields share no bit, and lie above the opcode and the header. -/
def wellPlaced (fs : List (Nat × Nat × Nat)) : Bool :=
  placesApart (placesOf fs) && (placesOf fs).all (fun p => decide (64 ≤ p.1))

/-- The opcode and the header. -/
def headFields (op : Nat) (i : Issue) : List (Nat × Nat × Nat) := (0, 8, op) :: headerPlaces i.hdr

/-- The opcode and the header take bits 63 to 0. -/
theorem headFields_below {op : Nat} {i : Issue} : ∀ x ∈ placesOf (headFields op i), x.1 + x.2 ≤ 64 := by
  simp [placesOf, headFields, headerPlaces]

section
variable {op : Nat} {i : Issue} {fs : List (Nat × Nat × Nat)} {w : MWord}

theorem engineWord_eq : engineWord op i fs = setFields 0 (headFields op i ++ fs) := rfl

theorem placesOf_engineWord : placesOf (headFields op i ++ fs) = placesOf (headFields op i) ++ placesOf fs := List.map_append ..

theorem engineWord_apart (h : wellPlaced fs = true) : placesApart (placesOf (headFields op i ++ fs)) = true := by
  obtain ⟨hfs, habove⟩ := Bool.and_eq_true_iff.1 h
  rw [placesOf_engineWord]
  refine placesApart_append rfl hfs fun x hx y hy => decide_eq_true (.inl ?_)
  exact (headFields_below x hx).trans (of_decide_eq_true (List.all_eq_true.1 habove y hy))

theorem spells_engineWord (h : wellPlaced fs = true) : Spells (engineWord op i fs) fs where
  field _ hf := extract_setFields_mem (engineWord_apart h) (List.mem_append_right _ hf)
  free l hl := List.any_eq_false.2 fun x hx => by
    obtain ⟨hfit, hfree⟩ := Bool.and_eq_true_iff.1 (List.all_eq_true.1 hl x hx)
    obtain ⟨h64, h256⟩ := of_decide_eq_true hfit
    have h0 : wordField (engineWord op i fs) x.1 x.2 = 0 := by
      refine wordField_setFields_free h256 ?_
      refine List.all_eq_true.2 fun y hy => ?_
      rcases List.mem_append.1 (placesOf_engineWord ▸ hy) with hy | hy
      · exact decide_eq_true (.inr ((headFields_below y hy).trans h64))
      · exact List.all_eq_true.1 hfree y hy
    rw [h0]
    decide

theorem opcode_engineWord (h : wellPlaced fs = true) (hop : op < 256) : wordField (engineWord op i fs) 0 8 = op :=
  wordField_setFields (engineWord_apart h) hop List.mem_cons_self

/-- A flag is a field of one bit. -/
theorem getLsbD_eq_field (w : MWord) (lo : Nat) : w.getLsbD lo = decide (w.extractLsb' lo 1 = 1) := by
  have h : (w.extractLsb' lo 1).getLsbD 0 = w.getLsbD lo := by simp
  rw [← h]
  generalize w.extractLsb' lo 1 = b
  revert b
  decide

theorem decide_ofNat_toNat (b : Bool) : decide (BitVec.ofNat 1 b.toNat = 1) = b := by cases b <;> rfl

theorem headerOf_engineWord (h : wellPlaced fs = true) : headerOf (engineWord op i fs) = i.hdr := by
  have hf : ∀ f ∈ headerPlaces i.hdr, _ := fun f hf =>
    extract_setFields_mem (engineWord_apart (op := op) (i := i) h) (List.mem_append_left _ (List.mem_cons_of_mem _ hf))
  rw [← engineWord_eq] at hf
  simp only [headerPlaces, List.forall_mem_cons] at hf
  simp only [headerOf, getLsbD_eq_field, hf, decide_ofNat_toNat, BitVec.ofNat_toNat, BitVec.setWidth_eq]

/-! The formats of the instructions' own fields. -/

theorem passPlaces_wellPlaced (o : PassOp) : wellPlaced (passPlaces o) = true := (rfl)

theorem passOpOf_of_spells {o : PassOp} (h : Spells w (passPlaces o)) : passOpOf w = some o := by
  obtain ⟨hf, hr⟩ := h
  simp only [passPlaces, List.forall_mem_cons] at hf
  rw [passOpOf, hr]
  · simp only [getLsbD_eq_field, hf, decide_ofNat_toNat, BitVec.ofNat_toNat, BitVec.setWidth_eq,
      Bool.false_eq_true, if_false]
  · rfl

theorem accoutPlaces_wellPlaced (o : AccoutOp) : wellPlaced (accoutPlaces o) = true := (rfl)

theorem accoutOpOf_of_spells {o : AccoutOp} (h : Spells w (accoutPlaces o)) : accoutOpOf w = some o := by
  obtain ⟨hf, hr⟩ := h
  simp only [accoutPlaces, List.forall_mem_cons] at hf
  rw [accoutOpOf, hr]
  · simp only [getLsbD_eq_field, hf, decide_ofNat_toNat, BitVec.ofNat_toNat, BitVec.setWidth_eq,
      Bool.false_eq_true, if_false]
  · rfl

theorem ewisePlaces_wellPlaced (o : EwiseOp) : wellPlaced (ewisePlaces o) = true := (rfl)

theorem ewiseOpOf_of_spells {o : EwiseOp} (h : Spells w (ewisePlaces o)) : ewiseOpOf w = some o := by
  obtain ⟨hf, hr⟩ := h
  simp only [ewisePlaces, List.forall_mem_cons] at hf
  rw [ewiseOpOf, hr]
  · simp only [hf, BitVec.ofNat_toNat, BitVec.setWidth_eq,
      Bool.false_eq_true, if_false]
  · rfl

theorem vMemPlaces_wellPlaced (o : VMemOp) : wellPlaced (vMemPlaces o) = true := (rfl)

theorem vMemOpOf_of_spells {o : VMemOp} (h : Spells w (vMemPlaces o)) : vMemOpOf w = some o := by
  obtain ⟨hf, hr⟩ := h
  simp only [vMemPlaces, List.forall_mem_cons] at hf
  rw [vMemOpOf, hr]
  · simp only [getLsbD_eq_field, hf, decide_ofNat_toNat, BitVec.ofNat_toNat, BitVec.setWidth_eq,
      Bool.false_eq_true, if_false]
  · rfl

theorem vRegPlaces_wellPlaced (o : VOp) : wellPlaced (vRegPlaces o) = true := (rfl)

theorem vOpOf_of_spells {o : VOp} (h : Spells w (vRegPlaces o)) : vOpOf w = some o := by
  obtain ⟨hf, hr⟩ := h
  simp only [vRegPlaces, List.forall_mem_cons] at hf
  rw [vOpOf, hr]
  · simp only [getLsbD_eq_field, hf, decide_ofNat_toNat, BitVec.ofNat_toNat, BitVec.setWidth_eq,
      Bool.false_eq_true, if_false]
  · rfl

theorem normPlaces_wellPlaced (o : NormOp) : wellPlaced (normPlaces o) = true := (rfl)

theorem normOpOf_of_spells {o : NormOp} (h : Spells w (normPlaces o)) : normOpOf w = some o := by
  obtain ⟨hf, hr⟩ := h
  simp only [normPlaces, List.forall_mem_cons] at hf
  rw [normOpOf, hr]
  · simp only [getLsbD_eq_field, hf, decide_ofNat_toNat, BitVec.ofNat_toNat, BitVec.setWidth_eq,
      Bool.false_eq_true, if_false]
  · rfl

theorem tilePlaces_wellPlaced (o : TileOp) : wellPlaced (tilePlaces o) = true := (rfl)

theorem tileOpOf_of_spells {o : TileOp} (h : Spells w (tilePlaces o)) : tileOpOf w = some o := by
  obtain ⟨hf, hr⟩ := h
  simp only [tilePlaces, List.forall_mem_cons] at hf
  rw [tileOpOf, hr]
  · simp only [getLsbD_eq_field, hf, decide_ofNat_toNat, BitVec.ofNat_toNat, BitVec.setWidth_eq,
      Bool.false_eq_true, if_false]
  · rfl

theorem dispPlaces_wellPlaced (o : DispOp) : wellPlaced (dispPlaces o) = true := (rfl)

theorem dispOpOf_of_spells {o : DispOp} (h : Spells w (dispPlaces o)) : dispOpOf w = some o := by
  obtain ⟨hf, hr⟩ := h
  simp only [dispPlaces, List.forall_mem_cons] at hf
  rw [dispOpOf, hr]
  · simp only [getLsbD_eq_field, hf, decide_ofNat_toNat, BitVec.ofNat_toNat, BitVec.setWidth_eq,
      Bool.false_eq_true, if_false]
  · rfl

theorem dslotPlaces_wellPlaced (o : DslotOp) : wellPlaced (dslotPlaces o) = true := (rfl)

theorem dslotOpOf_of_spells {o : DslotOp} (h : Spells w (dslotPlaces o)) : dslotOpOf w = some o := by
  obtain ⟨hf, hr⟩ := h
  simp only [dslotPlaces, List.forall_mem_cons] at hf
  rw [dslotOpOf, hr]
  · simp only [hf, BitVec.ofNat_toNat, BitVec.setWidth_eq,
      Bool.false_eq_true, if_false]
  · rfl

theorem adapterPlaces_wellPlaced (o : AdapterOp) : wellPlaced (adapterPlaces o) = true := (rfl)

theorem adapterOpOf_of_spells {o : AdapterOp} (h : Spells w (adapterPlaces o)) : adapterOpOf w = some o := by
  obtain ⟨hf, hr⟩ := h
  simp only [adapterPlaces, List.forall_mem_cons] at hf
  rw [adapterOpOf, hr]
  · simp only [hf, BitVec.ofNat_toNat, BitVec.setWidth_eq,
      Bool.false_eq_true, if_false]
  · rfl

theorem kvPlaces_wellPlaced (o : KvOp) : wellPlaced (kvPlaces o) = true := (rfl)

theorem kvOpOf_of_spells {o : KvOp} (h : Spells w (kvPlaces o)) : kvOpOf w = some o := by
  obtain ⟨hf, hr⟩ := h
  simp only [kvPlaces, List.forall_mem_cons] at hf
  rw [kvOpOf, hr]
  · simp only [getLsbD_eq_field, hf, decide_ofNat_toNat, BitVec.ofNat_toNat, BitVec.setWidth_eq,
      Bool.false_eq_true, if_false]
  · rfl

theorem xferPlaces_wellPlaced (o : XferOp) : wellPlaced (xferPlaces o) = true := (rfl)

theorem xferOpOf_of_spells {o : XferOp} (h : Spells w (xferPlaces o)) : xferOpOf w = some o := by
  obtain ⟨hf, hr⟩ := h
  simp only [xferPlaces, List.forall_mem_cons] at hf
  rw [xferOpOf, hr]
  · simp only [getLsbD_eq_field, hf, decide_ofNat_toNat, BitVec.ofNat_toNat, BitVec.setWidth_eq,
      Bool.false_eq_true, if_false]
  · rfl

theorem streamPlaces_wellPlaced (o : StreamOp) : wellPlaced (streamPlaces o) = true := (rfl)

theorem streamOpOf_of_spells {o : StreamOp} (h : Spells w (streamPlaces o)) : streamOpOf w = some o := by
  obtain ⟨hf, hr⟩ := h
  simp only [streamPlaces, List.forall_mem_cons] at hf
  rw [streamOpOf, hr]
  · simp only [getLsbD_eq_field, hf, decide_ofNat_toNat, BitVec.ofNat_toNat, BitVec.setWidth_eq,
      Bool.false_eq_true, if_false]
  · rfl

theorem reducePlaces_wellPlaced (o : ReduceOp) : wellPlaced (reducePlaces o) = true := (rfl)

theorem reduceOpOf_of_spells {o : ReduceOp} (h : Spells w (reducePlaces o)) : reduceOpOf w = some o := by
  obtain ⟨hf, hr⟩ := h
  simp only [reducePlaces, List.forall_mem_cons] at hf
  rw [reduceOpOf, hr]
  · simp only [getLsbD_eq_field, hf, decide_ofNat_toNat, BitVec.ofNat_toNat, BitVec.setWidth_eq,
      Bool.false_eq_true, if_false]
  · rfl

theorem msendPlaces_wellPlaced (o : MsendOp) : wellPlaced (msendPlaces o) = true := (rfl)

theorem msendOpOf_of_spells {o : MsendOp} (h : Spells w (msendPlaces o)) : msendOpOf w = some o := by
  obtain ⟨hf, hr⟩ := h
  simp only [msendPlaces, List.forall_mem_cons] at hf
  rw [msendOpOf, hr]
  · simp only [getLsbD_eq_field, hf, decide_ofNat_toNat, BitVec.ofNat_toNat, BitVec.setWidth_eq,
      Bool.false_eq_true, if_false]
  · rfl

theorem bankPlaces_wellPlaced (o : BankOp) : wellPlaced (bankPlaces o) = true := (rfl)

theorem bankOpOf_of_spells {o : BankOp} (h : Spells w (bankPlaces o)) : bankOpOf w = some o := by
  obtain ⟨hf, hr⟩ := h
  simp only [bankPlaces, List.forall_mem_cons] at hf
  rw [bankOpOf, hr]
  · simp only [getLsbD_eq_field, hf, decide_ofNat_toNat, BitVec.ofNat_toNat, BitVec.setWidth_eq,
      Bool.false_eq_true, if_false]
  · rfl

/-! The instructions. -/

/-- The word of an instruction, if it has one, is read back as the instruction and its header. -/
def Decodes (x : Instr) : Prop := ∀ i q w, encodeWord x = some (i, q, w) → wordInstr i q w = some x ∧ headerOf w = i.hdr

/-- An instruction decodes where its opcode and its fields do. -/
theorem decodes_of_spells {x : Instr} {q : Nat} (he : encodeWord x = some (i, q, engineWord op i fs))
    (hfs : wellPlaced fs = true) (hop : op < 256)
    (hx : ∀ w : MWord, wordField w 0 8 = op → Spells w fs → wordInstr i q w = some x) : Decodes x := by
  rintro i' q' w h
  rw [he] at h
  cases h
  exact ⟨hx _ (opcode_engineWord hfs hop) (spells_engineWord hfs), headerOf_engineWord hfs⟩

theorem encodeWord_pass (i : Issue) (o : PassOp) : encodeWord (.pass i o {}) = some (i, 8, engineWord 0x20 i (passPlaces o)) :=
  by rw [encodeWord, if_pos rfl]

/-- Settles O7: the word of an instruction is its opcode, its header and the fields of its format, which share no bit; each
of them reads back, and the reserved bits read as 0. -/
theorem engineWordsDecodeToTheirInstruction : Obligations.EngineWordsDecodeToTheirInstruction := by
  intro x
  cases x with
  | pass i o h =>
    by_cases hh : h = {}
    · subst hh
      exact decodes_of_spells (encodeWord_pass i o) (passPlaces_wellPlaced o) (by decide) fun w hop hs => by
        simp [wordInstr, arrayWord, hop, passOpOf_of_spells hs]
    · rintro i' q w hx
      rw [encodeWord, if_neg hh] at hx
      cases hx
  | accout i o =>
    exact decodes_of_spells rfl (accoutPlaces_wellPlaced o) (by decide) fun w hop hs => by
      simp [wordInstr, arrayWord, hop, accoutOpOf_of_spells hs]
  | ewise i o =>
    exact decodes_of_spells rfl (ewisePlaces_wellPlaced o) (by decide) fun w hop hs => by
      simp [wordInstr, arrayWord, hop, ewiseOpOf_of_spells hs]
  | ffence i =>
    exact decodes_of_spells rfl (by rfl) (by decide) fun w hop hs => by
      have hr : reserved w [(64, 192)] = false := hs.free _ rfl
      simp [wordInstr, arrayWord, hop, hr]
  | vld i o | vst i o | vxld i o | vcst i o | mld i o | mst i o =>
    exact decodes_of_spells rfl (vMemPlaces_wellPlaced o) (by decide) fun w hop hs => by
      simp [wordInstr, vecWord, vmemWord, hop, vMemOpOf_of_spells hs]
  | vadd i o | vsub i o | vmul i o | vfma i o | vmax i o | vmin i o | vsplat i o | vand i o | vor i o | vxor i o
    | vshl i o | vshr i o | vsra i o | vcmp i o | vsel i o | vcvt i o | vsfu i o | vred i o | vcomp i o | vexpd i o
    | mop i o | sop i o =>
    exact decodes_of_spells rfl (vRegPlaces_wellPlaced o) (by decide) fun w hop hs => by
      simp [wordInstr, vecWord, vopWord, hop, vOpOf_of_spells hs]
  | nsmax i o | nnorm i o =>
    exact decodes_of_spells rfl (normPlaces_wellPlaced o) (by decide) fun w hop hs => by
      simp [wordInstr, hop, normOpOf_of_spells hs]
  | dgather i o | dscatter i o =>
    exact decodes_of_spells rfl (dispPlaces_wellPlaced o) (by decide) fun w hop hs => by
      simp [wordInstr, hop, dispOpOf_of_spells hs]
  | dslot i o =>
    exact decodes_of_spells rfl (dslotPlaces_wellPlaced o) (by decide) fun w hop hs => by
      simp [wordInstr, hop, dslotOpOf_of_spells hs]
  | tile i o =>
    exact decodes_of_spells rfl (tilePlaces_wellPlaced o) (by decide) fun w hop hs => by
      simp [wordInstr, hop, tileOpOf_of_spells hs]
  | adown i o | aup i o =>
    exact decodes_of_spells rfl (adapterPlaces_wellPlaced o) (by decide) fun w hop hs => by
      simp [wordInstr, hop, adapterOpOf_of_spells hs]
  | kappend i o | kcommit i o | kdiscard i o | khash i o | kfind i o | kref i o =>
    exact decodes_of_spells rfl (kvPlaces_wellPlaced o) (by decide) fun w hop hs => by
      simp [wordInstr, hop, kvOpOf_of_spells hs]
  | tcopy i o | tsend i o | tget i o | twin i o | tdrain i o =>
    exact decodes_of_spells rfl (xferPlaces_wellPlaced o) (by decide) fun w hop hs => by
      simp [wordInstr, hop, xferOpOf_of_spells hs]
  | mstream i o =>
    exact decodes_of_spells rfl (streamPlaces_wellPlaced o) (by decide) fun w hop hs => by
      simp [wordInstr, hop, streamOpOf_of_spells hs]
  | mreduce i o =>
    exact decodes_of_spells rfl (reducePlaces_wellPlaced o) (by decide) fun w hop hs => by
      simp [wordInstr, hop, reduceOpOf_of_spells hs]
  | msend i o =>
    exact decodes_of_spells rfl (msendPlaces_wellPlaced o) (by decide) fun w hop hs => by
      simp [wordInstr, hop, msendOpOf_of_spells hs]
  | batom i o | bcount i o | bcmp i o =>
    exact decodes_of_spells rfl (bankPlaces_wellPlaced o) (by decide) fun w hop hs => by
      simp [wordInstr, hop, bankOpOf_of_spells hs]
  | _ =>
    intro i q w h
    cases h

end
end Sys2Proof.Machine
end

section
/-! PROOF. One step of the array's ramp-down (R86, R97). -/

namespace Sys2Proof.Machine

open Claims

variable {s : State} {c : CoreId}

theorem State.setCore_core (s : State) (c : CoreId) : s.setCore c (s.core c) = s := by
  have h : s.cores.set c.val (s.core c) = s.cores := Vector.set_getElem_self _
  rw [State.setCore, h]

/-- A modification that leaves the array as it was leaves the state as it was. -/
theorem State.modArray_of_fixed {f : ArrayUnit → ArrayUnit} (h : f (s.core c).array = (s.core c).array) :
    s.modArray c f = s := by
  rw [State.modArray, State.modCore, h]
  exact s.setCore_core c

theorem onlyCore_modArray (s : State) (c : CoreId) (f : ArrayUnit → ArrayUnit) :
    onlyCore s (s.modArray c f) c { s.core c with array := f (s.core c).array } := by
  refine ⟨rfl, ?_, fun x hx => ?_⟩
  · rw [State.core_modArray, if_pos rfl]
  · rw [State.core_modArray, if_neg hx]

/-- A PASS or an EWISE runs. -/
theorem streaming_iff {k : Core} :
    k.streaming = true ↔ ∃ f ∈ k.inflight, f.q = qArray ∧ (f.op = 0x20 ∨ f.op = 0x22) := by
  simp only [Core.streaming, List.any_eq_true, Bool.and_eq_true, Bool.or_eq_true, beq_iff_eq]

/-- What stands ready at the head or runs keeps the ramp-down from beginning. -/
theorem exec_arrayRampDown_held (h : (s.core c).arrayReady = true ∨ (s.core c).streaming = true) :
    exec (.arrayRampDown c) s = .next s :=
  congrArg Host.Outcome.next (if_pos (Bool.or_eq_true_iff.2 h))

theorem exec_arrayRampDown_free (h : ¬ ((s.core c).arrayReady = true ∨ (s.core c).streaming = true)) :
    exec (.arrayRampDown c) s = .next (s.modArray c ArrayUnit.rampDown) :=
  congrArg Host.Outcome.next (if_neg fun e => h (Bool.or_eq_true_iff.1 e))

section
variable {a : ArrayUnit}

/-- After the last step the array goes on for 8 cc and is idle. -/
theorem ArrayUnit.rampDown_last (h : a.rampStep = 16) :
    a.rampDown = if a.state = 5 then { a with dummy := satAdd a.dummy 8, state := 0 } else a := if_pos h

theorem ArrayUnit.rampDown_step (h : a.rampStep ≠ 16) : a.rampDown = { a with
    rampStep := a.rampStep + 1, dummy := satAdd a.dummy (if a.rampStep = 0 then 64 else 8),
    state := if a.state = 7 then 7 else 5 } := if_neg h

end

/-- Settles O36: what stands ready or runs holds the step back; else the array takes it, and after the last step it
becomes idle once. -/
theorem rampDownTakesOneStep : Obligations.RampDownTakesOneStep := by
  intro c s a held
  have hheld : held ↔ (s.core c).arrayReady = true ∨ (s.core c).streaming = true := or_congr_right streaming_iff.symm
  refine ⟨?_, fun hfree hstep => ?_, fun hfree hstep hstate => ?_⟩
  · by_cases hh : held
    · exact fun _ => exec_arrayRampDown_held (hheld.1 hh)
    · rintro (h | ⟨hstep, hstate⟩)
      · exact absurd h hh
      · rw [exec_arrayRampDown_free (hheld.not.1 hh), State.modArray_of_fixed]
        rw [ArrayUnit.rampDown_last hstep, if_neg hstate]
  · have hne : a.rampStep ≠ 16 := fun e => by
      rw [e] at hstep
      exact absurd hstep (by decide)
    have hb := onlyCore_modArray s c ArrayUnit.rampDown
    rw [ArrayUnit.rampDown_step hne] at hb
    exact ⟨_, exec_arrayRampDown_free (hheld.not.1 hfree), hb, rfl⟩
  · have hb := onlyCore_modArray s c ArrayUnit.rampDown
    rw [ArrayUnit.rampDown_last hstep, if_pos hstate] at hb
    exact ⟨_, exec_arrayRampDown_free (hheld.not.1 hfree), hb, rfl⟩

end Sys2Proof.Machine
end

section
/-! PROOF. The completion of an instruction (R92, R226, R231, R256): what may complete, what a kernel end adds, and what
leaves the instructions in flight. -/

namespace Sys2Proof.Machine

open Claims

variable {s t u : State} {c : CoreId} {q : QueueId} {n : BitVec 16} {b a : List InFlight} {f : InFlight}

/-! Which instruction completes. -/

theorem splitFlight_eq (hq : f.q = q) (hn : f.qpos = n) : ∀ {b : List InFlight}, (∀ x ∈ b, x.q ≠ q ∨ x.qpos ≠ n) →
    splitFlight q n (b ++ f :: a) = some (b, f, a)
  | [], _ => if_pos ⟨hq, hn⟩
  | y :: b, h => by
    obtain ⟨hy, hb⟩ := List.forall_mem_cons.1 h
    rw [List.cons_append, splitFlight, if_neg fun e => hy.elim (· e.1) (· e.2), splitFlight_eq hq hn hb]
    rfl

theorem mayComplete_iff : mayComplete b f = true ↔ f.due.met = true ∧ (f.hdr.kend = true → ∀ x ∈ b, x.q ≠ f.q) := by
  cases hk : f.hdr.kend <;> simp [mayComplete, hk]

theorem exec_instrComplete (hl : (s.core c).inflight = b ++ f :: a) (hq : f.q = q) (hn : f.qpos = n)
    (hb : ∀ x ∈ b, x.q ≠ q ∨ x.qpos ≠ n) :
    exec (.instrComplete c q n) s = .next (if mayComplete b f then s.complete c b f a else s) := by
  refine congrArg Host.Outcome.next ?_
  rw [hl, splitFlight_eq hq hn hb]

/-! Counters (R256, R262). -/

theorem Core.counter_bump (k : Core) (x : BitVec 5) (y : Nat) (m : BitVec 5) : (k.bump x y).counter m =
    { k.counter m with count := (k.counter m).count + if x = m then BitVec.ofNat 12 y else 0 } := by
  unfold Core.bump Core.counter
  by_cases h : x = m
  · subst h
    simp
  · have hv : x.toNat ≠ m.toNat := fun e => h (BitVec.eq_of_toNat_eq e)
    simp [hv, h]

/-- The increments of a header add what its two enabled fields say. -/
theorem Core.counter_increments (k : Core) (h : Header) (m : BitVec 5) :
    (k.increments h).counter m = { k.counter m with count := (k.counter m).count + incOf h m } := by
  cases h0 : h.i0en <;> cases h1 : h.i1en <;> simp [Core.increments, incOf, h0, h1, Core.counter_bump, BitVec.add_assoc]

theorem Core.increments_eq (k : Core) (h : Header) : k.increments h = { k with counters := (k.increments h).counters } := by
  cases h0 : h.i0en <;> cases h1 : h.i1en <;> simp [Core.increments, h0, h1, Core.bump]

theorem Core.idleQueue_eq (k : Core) (q : QueueId) : k.idleQueue q = { k with queues := (k.idleQueue q).queues } := by
  unfold Core.idleQueue
  split
  · rfl
  · split <;> rfl

/-- The core from which an instruction has gone. -/
def Core.completed (k : Core) (l : List InFlight) (f : InFlight) : Core :=
  (({ k with inflight := l }.finishDue f.due).increments f.hdr).idleQueue f.q

/-- What completion changes of its core. -/
theorem Core.completed_eq (k : Core) (l : List InFlight) (f : InFlight) : k.completed l f = { k with
    inflight := l, counters := (k.completed l f).counters, queues := (k.completed l f).queues,
    array := { k.array with passCount := if f.due = .pass then satAdd k.array.passCount 1 else k.array.passCount },
    tags := match f.due with
      | .release x => k.tags.filter (·.tag != x)
      | _ => k.tags } := by
  unfold Core.completed
  rw [Core.idleQueue_eq, Core.increments_eq]
  cases f.due <;> rfl

theorem Core.counter_completed (k : Core) (l : List InFlight) (f : InFlight) (m : BitVec 5) :
    (k.completed l f).counter m = { k.counter m with count := (k.counter m).count + incOf f.hdr m } := by
  unfold Core.completed
  rw [Core.idleQueue_eq]
  refine (Core.counter_increments _ f.hdr m).trans ?_
  cases f.due <;> rfl

theorem State.complete_eq (s : State) (c : CoreId) (b : List InFlight) (f : InFlight) (a : List InFlight) :
    s.complete c b f a = (if f.hdr.kend then s.kernelEnd c f.q else s).modCore c (fun k => k.completed (b ++ a) f) := rfl

/-! The write-combine buffer, put into the banks (R213, R229, R231). -/

/-- Only memories and marks differ. -/
structure State.memoryKeeps (s t : State) : Prop where
  outside : s.sameOutside t
  beside : ∀ x : CoreId, ∃ m d, t.core x = { s.core x with memory := m, marks := d }

theorem State.memoryKeeps.refl (s : State) : s.memoryKeeps s := ⟨rfl, fun _ => ⟨_, _, rfl⟩⟩

theorem State.memoryKeeps.trans (h : s.memoryKeeps t) (h' : t.memoryKeeps u) : s.memoryKeeps u := by
  refine ⟨h.outside.trans h'.outside, fun x => ?_⟩
  obtain ⟨m, d, e⟩ := h.beside x
  obtain ⟨m', d', e'⟩ := h'.beside x
  exact ⟨m', d', by rw [e', e]⟩

theorem State.memoryKeeps_modMem (s : State) (c : CoreId) (f : Memory → Memory) : s.memoryKeeps (s.modMem c f) := by
  refine ⟨rfl, fun x => ?_⟩
  rw [State.core_modMem]
  split
  · rename_i e
    exact ⟨_, _, by rw [e]⟩
  · exact ⟨_, _, rfl⟩

theorem State.memoryKeeps_lateWake (s : State) (c : CoreId) (g : Fin 8) : s.memoryKeeps (s.lateWake c g) := by
  refine ⟨(s.issueKeeps_lateWake c g).outside, fun x => ?_⟩
  unfold State.lateWake
  split
  · exact ⟨_, _, rfl⟩
  · rw [State.core_log, State.core_modCore]
    split
    · rename_i e
      exact ⟨_, _, by rw [e]⟩
    · exact ⟨_, _, rfl⟩

theorem State.memoryKeeps_wakeAt (s : State) (x : CoreId × Nat) : s.memoryKeeps (s.wakeAt x) := by
  unfold State.wakeAt
  dsimp only
  split
  · exact (s.memoryKeeps_lateWake _ _).trans (State.memoryKeeps_modMem _ _ _)
  · exact .refl s

theorem State.memoryKeeps_holdAt (s : State) (h : Fin 8 → Held) (x : CoreId × Nat) : s.memoryKeeps (s.holdAt h x) :=
  (s.memoryKeeps_wakeAt x).trans (State.memoryKeeps_modMem _ _ _)

/-- A whole word written by a control block lands, or is held. -/
theorem State.putBits_whole (s : State) (c : CoreId) (a : Nat) (w : MWord) (src : Nat) : s.putBits c a w (~~~0) src =
    match s.mustHold [(c, a)] with
    | some x => s.holdAt (fun g => .write a w (~~~0) src g.val) x
    | none => s.poke c a w := by
  unfold State.putBits State.wrCtl
  cases s.mustHold [(c, a)] <;> rfl

theorem State.memoryKeeps_flush : ∀ (l : List WcEntry) (s : State), s.memoryKeeps (s.flush l)
  | [], s => .refl s
  | e :: l, s => by
    refine State.memoryKeeps.trans ?_ (State.memoryKeeps_flush l _)
    rw [State.putBits_whole]
    split
    · exact s.memoryKeeps_holdAt _ _
    · exact s.memoryKeeps_modMem _ _

/-- The write of an entry of the buffer. -/
def WcEntry.wr (e : WcEntry) : Wr := { core := e.core, addr := e.addr, data := e.data }

theorem State.mustHold_poke (s : State) (c : CoreId) (a : Nat) (w : MWord) (ws : List (CoreId × Nat)) :
    (s.poke c a w).mustHold ws = s.mustHold ws := by
  unfold State.mustHold
  congr 1
  funext x
  obtain ⟨d, b⟩ := x
  have hcore := s.core_poke c d a w
  by_cases e : d = c
  · subst e
    rw [if_pos rfl] at hcore
    simp only [hcore]
    rfl
  · rw [if_neg e] at hcore
    simp only [hcore]

theorem State.mustHold_cons {x : CoreId × Nat} {ws : List (CoreId × Nat)} (h : s.mustHold (x :: ws) = none) :
    s.mustHold [x] = none ∧ s.mustHold ws = none := by
  simp only [State.mustHold, List.find?_eq_none, List.mem_cons, List.not_mem_nil, or_false, forall_eq, forall_eq_or_imp] at h ⊢
  exact h

/-- Where nothing holds the words of a list of entries, they are all written. -/
theorem State.flush_eq_wrAll : ∀ {l : List WcEntry} {s : State}, s.mustHold (l.map (fun e => (e.core, e.addr))) = none →
    s.flush l = s.wrAll (l.map WcEntry.wr)
  | [], _, _ => rfl
  | e :: l, s, h => by
    obtain ⟨he, hl⟩ := State.mustHold_cons h
    have hp : s.putBits e.core e.addr e.data (~~~0) 5 = s.poke e.core e.addr e.data := by rw [State.putBits_whole, he]
    rw [State.flush, hp, State.flush_eq_wrAll (by rwa [State.mustHold_poke])]
    rfl

theorem wrWords_wc (l : List WcEntry) : wrWords (l.map WcEntry.wr) = l.map (fun e => (e.core, e.addr)) := by
  rw [wrWords, List.map_map]
  rfl

/-- The banks hold what the transfer engine read (R225). -/
theorem peek_of_stored_wc {l : List WcEntry} (h : s.stored t (l.map WcEntry.wr)) (x : CoreId) (y : Nat) :
    t.peek x y = (wcFind l x y).getD (s.peek x y) := by
  obtain ⟨hin, hout⟩ := h
  unfold wcFind
  cases hf : l.find? (fun e => e.core == x && e.addr == y) with
  | none =>
    refine hout x y ?_
    rw [wrWords_wc]
    rintro hm
    obtain ⟨e, he, hxy⟩ := List.mem_map.1 hm
    cases hxy
    simpa using List.find?_eq_none.1 hf e he
  | some e =>
    have hp := List.find?_some hf
    simp only [Bool.and_eq_true, beq_iff_eq] at hp
    obtain ⟨rfl, rfl⟩ := hp
    exact State.stored.peek_whole ⟨hin, hout⟩ (List.mem_map_of_mem (List.mem_of_find?_eq_some hf)) rfl

/-! What a kernel end adds (R231). -/

/-- The core on which an instruction completes: a kernel end has emptied the write-combine buffer of the transfer queue, or
discarded the held words of the array. -/
def Core.kernelEnded (k : Core) (f : InFlight) : Core := { k with
  wc := if f.hdr.kend = true ∧ f.q = qXfer then [] else k.wc,
  array := if f.hdr.kend = true ∧ f.q = qArray then k.array.fence else k.array }

/-- A kernel end discards held words of the array and nothing else of it. -/
theorem Core.array_kernelEnded (k : Core) (f : InFlight) : (k.kernelEnded f).array = { k.array with
    held := (k.kernelEnded f).array.held, heldKey := (k.kernelEnded f).array.heldKey } := by
  unfold Core.kernelEnded
  dsimp only
  split <;> rfl

/-- The state on which an instruction completes. -/
def State.kernelEnded (s : State) (c : CoreId) (f : InFlight) : State := if f.hdr.kend then s.kernelEnd c f.q else s

theorem State.modCore_of_fixed {g : Core → Core} (h : g (s.core c) = s.core c) : s.modCore c g = s := by
  rw [State.modCore, h]
  exact s.setCore_core c

/-- Any instruction but the kernel end of the transfer queue. -/
theorem State.kernelEnded_eq (h : f.hdr.kend = false ∨ f.q ≠ qXfer) :
    s.kernelEnded c f = s.modCore c (fun k => k.kernelEnded f) := by
  unfold State.kernelEnded Core.kernelEnded
  cases hk : f.hdr.kend with
  | false => exact (State.modCore_of_fixed (by simp)).symm
  | true =>
    have hq : f.q ≠ qXfer := h.resolve_left (by rw [hk]; decide)
    by_cases ha : f.q = qArray
    · have hx : qArray ≠ qXfer := by decide
      simp only [State.kernelEnd, ha, hx, if_true, and_false, and_self, if_false]
      rfl
    · simp only [State.kernelEnd, hq, ha, if_true, and_false, if_false]
      exact (State.modCore_of_fixed (by simp)).symm

theorem State.kernelEnded_xfer (hk : f.hdr.kend = true) (hq : f.q = qXfer) :
    s.kernelEnded c f = (s.modCore c (fun k => k.kernelEnded f)).flush (s.core c).wc := by
  unfold State.kernelEnded Core.kernelEnded State.kernelEnd State.wcFlush
  simp [hk, hq, qXfer, qArray]

/-- A kernel end changes beside the core's buffers only what its writes change. -/
theorem State.memoryKeeps_kernelEnded (s : State) (c : CoreId) (f : InFlight) :
    (s.modCore c (fun k => k.kernelEnded f)).memoryKeeps (s.kernelEnded c f) := by
  by_cases h : f.hdr.kend = false ∨ f.q ≠ qXfer
  · rw [State.kernelEnded_eq h]
    exact .refl _
  · obtain ⟨hk, hq⟩ := not_or.1 h
    rw [State.kernelEnded_xfer (by simpa using hk) (by simpa using hq)]
    exact State.memoryKeeps_flush ..

/-- Where nothing holds the words of the buffer, its kernel end writes them all. -/
theorem State.kernelEnded_wrAll (hk : f.hdr.kend = true) (hq : f.q = qXfer)
    (h : s.mustHold ((s.core c).wc.map (fun e => (e.core, e.addr))) = none) :
    s.kernelEnded c f = (s.modCore c (fun k => k.kernelEnded f)).wrAll ((s.core c).wc.map WcEntry.wr) := by
  have hm : ∀ x : CoreId, ((s.modCore c (fun k => k.kernelEnded f)).core x).memory = (s.core x).memory := fun x => by
    rw [State.core_modCore]
    split
    · rename_i e
      rw [e]
      rfl
    · rfl
  rw [State.kernelEnded_xfer hk hq]
  refine State.flush_eq_wrAll ?_
  simpa only [State.mustHold, hm] using h

/-! The state after a completion. -/

/-- The core after a completion, but for what the kernel end's writes change. -/
theorem core_complete : ∃ m d, (s.complete c b f a).core c =
    { (s.core c).kernelEnded f with memory := m, marks := d : Core }.completed (b ++ a) f := by
  obtain ⟨-, hbeside⟩ := s.memoryKeeps_kernelEnded c f
  obtain ⟨m, d, hcore⟩ := hbeside c
  rw [State.core_modCore_self] at hcore
  refine ⟨m, d, ?_⟩
  rw [State.complete_eq, State.core_modCore_self, ← hcore]
  rfl

theorem core_complete_ne {x : CoreId} (hx : x ≠ c) : (s.complete c b f a).core x = (s.kernelEnded c f).core x := by
  rw [State.complete_eq, State.core_modCore, if_neg hx]
  rfl

/-- Completion leaves memory as its kernel end has left it. -/
theorem peek_complete (x : CoreId) (y : Nat) : (s.complete c b f a).peek x y = (s.kernelEnded c f).peek x y := by
  unfold State.peek
  by_cases hx : x = c
  · rw [hx, State.complete_eq, State.core_modCore_self, Core.completed_eq]
    rfl
  · rw [core_complete_ne hx]

theorem sameOutside_complete : s.sameOutside (s.complete c b f a) := by
  obtain ⟨houtside, -⟩ := s.memoryKeeps_kernelEnded c f
  exact State.sameOutside.trans (t := s.modCore c (fun k => k.kernelEnded f)) rfl (houtside.trans rfl)

theorem peek_modCore_kernelEnded (s : State) (c : CoreId) (f : InFlight) :
    s.sameWords (s.modCore c (fun k => k.kernelEnded f)) := fun x y => by
  unfold State.peek
  rw [State.core_modCore]
  split
  · rename_i e
    rw [e]
    rfl
  · rfl

/-- Unless it empties the write-combine buffer, a completion writes nothing. -/
theorem sameWords_complete (h : f.hdr.kend = false ∨ f.q ≠ qXfer) : s.sameWords (s.complete c b f a) := fun x y => by
  rw [peek_complete, State.kernelEnded_eq h]
  exact peek_modCore_kernelEnded s c f x y

theorem State.wrAll_evlog : ∀ (ws : List Wr) (s : State), (s.wrAll ws).evlog = s.evlog
  | [], _ => rfl
  | x :: ws, s => (State.wrAll_evlog ws (s.wr x)).trans (by rw [State.wr_eq]; rfl)

/-- Where nothing holds what it writes, a completion logs nothing and leaves the other cores as they were. -/
theorem others_complete (h : f.hdr.kend = false ∨ f.q ≠ qXfer ∨
    s.mustHold ((s.core c).wc.map (fun e => (e.core, e.addr))) = none) : (s.complete c b f a).evlog = s.evlog ∧
    ∀ x : CoreId, x ≠ c → ((s.complete c b f a).core x).besideWords = (s.core x).besideWords := by
  have hw : ∃ ws, s.kernelEnded c f = (s.modCore c (fun k => k.kernelEnded f)).wrAll ws := by
    by_cases hx : f.hdr.kend = false ∨ f.q ≠ qXfer
    · exact ⟨[], State.kernelEnded_eq hx⟩
    · obtain ⟨hk, hq⟩ := not_or.1 hx
      exact ⟨_, State.kernelEnded_wrAll (by simpa using hk) (by simpa using hq) ((h.resolve_left hk).resolve_left hq)⟩
  obtain ⟨ws, hw⟩ := hw
  obtain ⟨-, hbeside⟩ := State.storeKeeps_wrAll ws (s.modCore c (fun k => k.kernelEnded f))
  refine ⟨?_, fun x hx => ?_⟩
  · rw [State.complete_eq, State.modCore_evlog]
    change (s.kernelEnded c f).evlog = _
    rw [hw, State.wrAll_evlog]
    rfl
  · rw [core_complete_ne hx, hw, hbeside x, State.core_modCore, if_neg hx]

/-- Settles O35: the first instruction of its position is the one that completes; it leaves, its increments and its due
take effect, and a kernel end has emptied the write-combine buffer, word by word, or discarded the held words before. -/
theorem completionTakesEffect : Obligations.CompletionTakesEffect := by
  intro c q n s b a f hl hq hn hb k may
  subst hq
  have hex := exec_instrComplete hl rfl hn hb
  have hmay : mayComplete b f = true ↔ may := mayComplete_iff
  refine ⟨fun h => by rw [hex, if_neg (hmay.not.2 h)], fun h => ?_⟩
  rw [if_pos (hmay.2 h)] at hex
  obtain ⟨m, d, hcore⟩ := core_complete (s := s) (c := c) (b := b) (a := a) (f := f)
  have hfields := Core.completed_eq { k.kernelEnded f with memory := m, marks := d } (b ++ a) f
  rw [← hcore] at hfields
  refine ⟨_, hex, sameOutside_complete, others_complete, ?_, ?_, ?_, fun r => ?_, ?_, ?_, ?_, ?_, fun hk hq => ?_,
    fun hk hq => ?_, fun h => ⟨?_, sameWords_complete h⟩, fun hwf hnodup hk hq hm x y => ?_⟩
  · rw [hfields]
  · rw [hfields]; rfl
  · rw [hfields]; rfl
  · rw [hcore, Core.counter_completed]; rfl
  · rw [hfields]
    dsimp only
    rw [Core.array_kernelEnded]
  · rw [hfields]
    dsimp only
    rw [Core.array_kernelEnded]
  · rw [hfields]
    dsimp only
    rw [Core.array_kernelEnded]
  · rw [hfields]; rfl
  · rw [hfields]
    exact if_pos ⟨hk, hq⟩
  · rw [hfields]
    simp only [Core.kernelEnded, hk, hq, and_self, if_true]
    exact ⟨rfl, rfl⟩
  · rw [hfields]
    exact if_neg fun e => h.elim (by rw [e.1]; decide) (· e.2)
  · have hw := peek_modCore_kernelEnded s c f
    have hwf' : (s.modCore c (fun k => k.kernelEnded f)).memoriesWf := fun x => by
      rw [State.core_modCore]
      split
      · exact hwf c
      · exact hwf x
    have hst := State.stored_wrAll (k.wc.map WcEntry.wr) _ hwf' (by rwa [wrWords_wc])
    rw [peek_complete, State.kernelEnded_wrAll hk hq hm, peek_of_stored_wc hst, hw]
    rfl

end Sys2Proof.Machine
end

section
/-! PROOF. A rejection with BOUNDS stops its queue and its step (R89, R128, R135): what a plan reads first, the
events that its corrections log, and the state that the rejection leaves. -/

namespace Sys2Proof.Machine

open Claims

/-! The words that a plan reads before its end is known belong to the presenting core and to at most one other. -/

/-- Words of two cores only. -/
def ofCores (c m : CoreId) (ws : List (CoreId × Nat)) : Prop := ∀ x ∈ ws, x.1 = c ∨ x.1 = m

section
variable {c m : CoreId}

@[simp] theorem ofCores_nil : ofCores c m [] := fun _ h => nomatch h

@[simp] theorem ofCores_cons {x : CoreId × Nat} {ws : List (CoreId × Nat)} :
    ofCores c m (x :: ws) ↔ (x.1 = c ∨ x.1 = m) ∧ ofCores c m ws := List.forall_mem_cons

@[simp] theorem ofCores_append {l r : List (CoreId × Nat)} :
    ofCores c m (l ++ r) ↔ ofCores c m l ∧ ofCores c m r := List.forall_mem_append

@[simp] theorem ofCores_ite {p : Prop} [Decidable p] {l r : List (CoreId × Nat)} :
    ofCores c m (if p then l else r) ↔ (p → ofCores c m l) ∧ (¬ p → ofCores c m r) := by
  split <;> simp [*]

theorem ofCores_map {α : Type} (l : List α) (f : α → CoreId × Nat) (h : ∀ x, (f x).1 = c ∨ (f x).1 = m) :
    ofCores c m (l.map f) := by
  intro x hx
  obtain ⟨y, -, rfl⟩ := List.mem_map.1 hx
  exact h y

theorem ofCores_wordsAt_own (a n : Nat) : ofCores c m (wordsAt c a n) := ofCores_map _ _ fun _ => .inl rfl

theorem ofCores_wordsAt_other (a n : Nat) : ofCores c m (wordsAt m a n) := ofCores_map _ _ fun _ => .inr rfl

theorem ofCores_dedup {l : List (CoreId × Nat)} (h : ofCores c m l) : ofCores c m l.dedup :=
  fun x hx => h x (List.mem_dedup.1 hx)

/-- What a plan reads first are words of two cores. -/
def Todo.readsOf (c m : CoreId) (t : Todo) : Prop := ofCores c m t.first

variable {t : Todo}

@[simp] theorem Todo.readsOf_reject (r : Nat) : (Todo.reject r).readsOf c m := ofCores_nil
@[simp] theorem Todo.readsOf_wait (f : State → State) : (Todo.wait f).readsOf c m := ofCores_nil
@[simp] theorem Todo.readsOf_run {r w : List (CoreId × Nat)} {d : State → Until} {e : State → State} :
    (Todo.run r w d e).readsOf c m := ofCores_nil
@[simp] theorem Todo.readsOf_nop : Todo.nop.readsOf c m := ofCores_nil
@[simp] theorem Todo.readsOf_waits : Todo.waits.readsOf c m := ofCores_nil
@[simp] theorem Todo.readsOf_need {r : List (CoreId × Nat)} :
    (Todo.need r t).readsOf c m ↔ ofCores c m r ∧ t.readsOf c m := ofCores_append
@[simp] theorem Todo.readsOf_stream {r : List (CoreId × Nat)} : (Todo.stream r t).readsOf c m ↔ t.readsOf c m :=
  Iff.rfl

theorem Todo.readsOf_unless {rej : Option Nat} (h : t.readsOf c m) : (Todo.unless rej t).readsOf c m := by
  cases rej
  · exact h
  · exact ofCores_nil

theorem Todo.readsOf_ite {p : Prop} [Decidable p] {u : Todo} (ht : t.readsOf c m) (hu : u.readsOf c m) :
    (if p then t else u).readsOf c m := by
  split <;> assumption

end

variable {i : Issue} {s : State}

/-! The plans that read something first. -/

theorem State.passPlan_readsOf (o : PassOp) (h : PassHolds) :
    (s.passPlan i o h).readsOf i.core ((s.sel i.core o.asel).getD i.core) := by
  have hcount : ofCores i.core ((s.sel i.core o.asel).getD i.core) (s.passCount i.core o) := by
    unfold State.passCount
    split <;> simp [*]
  have hreads : ofCores i.core ((s.sel i.core o.asel).getD i.core) (s.passReads i.core o) := by
    unfold State.passReads
    split
    · refine ofCores_append.2 ⟨by simp [*], ofCores_ite.2 ⟨fun _ => ?_, fun _ => ofCores_nil⟩⟩
      split
      · exact ofCores_map _ _ fun _ => .inl rfl
      · exact ofCores_nil
    · exact ofCores_nil
  unfold State.passPlan
  dsimp only
  split
  · simp
  · split
    · simp [hcount]
    · refine Todo.readsOf_need.2 ⟨hcount, Todo.readsOf_need.2 ⟨ofCores_ite.2 ⟨fun _ => ofCores_nil, fun _ => hreads⟩, ?_⟩⟩
      split <;> simp

theorem State.adTodo_readsOf (m : CoreId) (o : AdapterOp) (down : Bool) {go : Todo} (h : go.readsOf i.core m) :
    (s.adTodo i.core o down go).readsOf i.core m :=
  Todo.readsOf_need.2 ⟨ofCores_wordsAt_own _ _, Todo.readsOf_unless <|
    Todo.readsOf_need.2 ⟨ofCores_dedup (ofCores_map _ _ fun _ => .inl rfl), Todo.readsOf_unless h⟩⟩

theorem State.adownPlan_readsOf (m : CoreId) (o : AdapterOp) : (s.adownPlan i o).readsOf i.core m := by
  refine Todo.readsOf_unless (Todo.readsOf_ite Todo.readsOf_nop ?_)
  split
  · exact State.adTodo_readsOf m o true Todo.readsOf_run
  · exact Todo.readsOf_reject 3

theorem State.aupPlan_readsOf (m : CoreId) (o : AdapterOp) : (s.aupPlan i o).readsOf i.core m :=
  Todo.readsOf_unless (Todo.readsOf_ite Todo.readsOf_nop (State.adTodo_readsOf m o false Todo.readsOf_run))

theorem State.dispTodo_readsOf (m : CoreId) (o : DispOp) (gather : Bool) {go : CoreId → CoreId → Todo}
    (h : ∀ a b, (go a b).readsOf i.core m) : (s.dispTodo i o gather go).readsOf i.core m := by
  refine Todo.readsOf_unless (Todo.readsOf_ite Todo.readsOf_nop ?_)
  split
  · exact Todo.readsOf_need.2 ⟨by simp, Todo.readsOf_unless <|
      Todo.readsOf_need.2 ⟨ofCores_wordsAt_own _ _, Todo.readsOf_unless (h _ _)⟩⟩
  · exact Todo.readsOf_reject 3

theorem State.dslotTodo_readsOf (m : CoreId) (o : DslotOp) : (s.dslotTodo i o).readsOf i.core m :=
  Todo.readsOf_unless <| Todo.readsOf_ite Todo.readsOf_nop <|
    Todo.readsOf_need.2 ⟨ofCores_wordsAt_own _ _, Todo.readsOf_unless Todo.readsOf_run⟩

theorem State.tilePlan_readsOf (o : TileOp) :
    (s.tilePlan i o).readsOf i.core ((s.sel i.core o.wsel).getD i.core) := by
  refine Todo.readsOf_unless (Todo.readsOf_ite Todo.readsOf_waits ?_)
  split
  · refine Todo.readsOf_need.2 ⟨by simp [*], Todo.readsOf_need.2 ⟨?_, Todo.readsOf_unless Todo.readsOf_run⟩⟩
    exact ofCores_ite.2 ⟨fun _ => by simpa [*] using ofCores_wordsAt_other _ _, fun _ => ofCores_nil⟩
  · exact Todo.readsOf_reject 2

theorem ofCores_kvCountRead {c m : CoreId} {o : KvOp} : ofCores c m (kvCountRead c o) := by
  simp [kvCountRead]

theorem ofCores_kvDescRead {c m : CoreId} {o : KvOp} : ofCores c m (kvDescRead c o) := by
  simp [kvDescRead]

theorem ofCores_kvNextRead {c m : CoreId} {o : KvOp} : ofCores c m (s.kvNextRead c o) := by
  unfold State.kvNextRead
  cases kvNext o (s.desc c o o.desc.toNat) <;> simp

theorem ofCores_kvParentRead {c m : CoreId} {o : KvOp} : ofCores c m (kvParentRead c o) := by
  simp [kvParentRead]

theorem State.kappendPlan_readsOf (m : CoreId) (o : KvOp) : (s.kappendPlan i o).readsOf i.core m := by
  refine Todo.readsOf_unless (Todo.readsOf_ite Todo.readsOf_nop ?_)
  split
  · exact Todo.readsOf_reject 3
  · exact Todo.readsOf_need.2 ⟨ofCores_kvCountRead, Todo.readsOf_ite Todo.readsOf_run <|
      Todo.readsOf_need.2 ⟨ofCores_kvDescRead, Todo.readsOf_unless <|
      Todo.readsOf_need.2 ⟨ofCores_kvNextRead, Todo.readsOf_unless Todo.readsOf_run⟩⟩⟩

theorem State.kcommitPlan_readsOf (m : CoreId) (o : KvOp) : (s.kcommitPlan i o).readsOf i.core m :=
  Todo.readsOf_unless <| Todo.readsOf_ite Todo.readsOf_nop <|
    Todo.readsOf_need.2 ⟨ofCores_kvCountRead, Todo.readsOf_ite Todo.readsOf_run <|
    Todo.readsOf_need.2 ⟨ofCores_kvDescRead, Todo.readsOf_unless Todo.readsOf_run⟩⟩

theorem State.kdiscardPlan_readsOf (m : CoreId) (o : KvOp) : (s.kdiscardPlan i o).readsOf i.core m :=
  Todo.readsOf_unless <| Todo.readsOf_need.2 ⟨ofCores_kvDescRead, Todo.readsOf_unless Todo.readsOf_run⟩

theorem State.khashPlan_readsOf (m : CoreId) (o : KvOp) : (s.khashPlan i o).readsOf i.core m :=
  Todo.readsOf_unless <| Todo.readsOf_need.2 ⟨ofCores_kvDescRead, Todo.readsOf_ite Todo.readsOf_run <|
    Todo.readsOf_unless <| Todo.readsOf_need.2 ⟨ofCores_kvParentRead, Todo.readsOf_unless Todo.readsOf_run⟩⟩

theorem State.kfindPlan_readsOf (o : KvOp) :
    (s.kfindPlan i o).readsOf i.core ((s.sel i.core o.ssel).getD i.core) := by
  refine Todo.readsOf_unless ?_
  split
  · exact Todo.readsOf_reject 3
  · refine Todo.readsOf_need.2 ⟨?_, Todo.readsOf_need.2 ⟨ofCores_map _ _ fun _ => .inl rfl, Todo.readsOf_unless <|
      Todo.readsOf_need.2 ⟨ofCores_map _ _ fun _ => .inl rfl, Todo.readsOf_unless Todo.readsOf_run⟩⟩⟩
    simpa [*, ofCores_kvParentRead] using ofCores_wordsAt_other _ _

theorem State.krefPlan_readsOf (m : CoreId) (o : KvOp) : (s.krefPlan i o).readsOf i.core m :=
  Todo.readsOf_unless <| Todo.readsOf_need.2 ⟨ofCores_kvDescRead, Todo.readsOf_run⟩

theorem State.mreducePlan_readsOf (m : CoreId) (o : ReduceOp) : (s.mreducePlan i o).readsOf i.core m :=
  Todo.readsOf_unless <| Todo.readsOf_ite Todo.readsOf_nop <| Todo.readsOf_need.2 ⟨ofCores_wordsAt_own _ _,
    Todo.readsOf_unless <| Todo.readsOf_ite Todo.readsOf_waits Todo.readsOf_run⟩

theorem State.msendPlan_readsOf (m : CoreId) (o : MsendOp) : (s.msendPlan i o).readsOf i.core m := by
  refine Todo.readsOf_unless (Todo.readsOf_ite Todo.readsOf_nop ?_)
  split
  · exact Todo.readsOf_reject 5
  · exact Todo.readsOf_need.2 ⟨ofCores_map _ _ fun _ => .inl rfl, Todo.readsOf_unless Todo.readsOf_run⟩


/-! The plans that read nothing first. -/

@[simp] theorem State.accoutPlan_first (o : AccoutOp) : (s.accoutPlan i o).first = [] := by
  unfold State.accoutPlan
  repeat' split
  all_goals rfl

@[simp] theorem State.ewisePlan_first (o : EwiseOp) : (s.ewisePlan i o).first = [] := by
  unfold State.ewisePlan
  repeat' split
  all_goals rfl

@[simp] theorem State.vldPlan_first (o : VMemOp) : (s.vldPlan i o).first = [] := by
  unfold State.vldPlan
  dsimp only
  repeat' split
  all_goals rfl

@[simp] theorem State.vstPlan_first (o : VMemOp) : (s.vstPlan i o).first = [] := by
  unfold State.vstPlan
  dsimp only
  repeat' split
  all_goals rfl

@[simp] theorem State.vxldPlan_first (o : VMemOp) : (s.vxldPlan i o).first = [] := by
  unfold State.vxldPlan
  dsimp only
  repeat' split
  all_goals rfl

@[simp] theorem State.vcstPlan_first (o : VMemOp) : (s.vcstPlan i o).first = [] := by
  unfold State.vcstPlan
  dsimp only
  repeat' split
  all_goals rfl

@[simp] theorem State.mldPlan_first (o : VMemOp) : (s.mldPlan i o).first = [] := by
  unfold State.mldPlan
  dsimp only
  repeat' split
  all_goals rfl

@[simp] theorem State.mstPlan_first (o : VMemOp) : (s.mstPlan i o).first = [] := by
  unfold State.mstPlan
  dsimp only
  repeat' split
  all_goals rfl

@[simp] theorem vopTodo_first (o : VOp) (rej : List (Bool × Nat)) (eff : VectorUnit → VectorUnit × FmtFlags) :
    (vopTodo o i rej eff).first = [] := by
  unfold vopTodo
  split <;> rfl

@[simp] theorem State.nsmaxPlan_first (o : NormOp) : (s.nsmaxPlan i o).first = [] := by
  unfold State.nsmaxPlan
  dsimp only
  repeat' split
  all_goals rfl

@[simp] theorem State.nnormPlan_first (o : NormOp) : (s.nnormPlan i o).first = [] := by
  unfold State.nnormPlan
  dsimp only
  repeat' split
  all_goals rfl

theorem Todo.unless_first {rej : Option Nat} {t : Todo} (h : t.first = []) : (Todo.unless rej t).first = [] := by
  cases rej
  · exact h
  · rfl

@[simp] theorem State.tcopyPlan_first (o : XferOp) : (s.tcopyPlan i o).first = [] := by
  refine Todo.unless_first ?_
  repeat' split
  all_goals rfl

@[simp] theorem State.tsendPlan_first (o : XferOp) : (s.tsendPlan i o).first = [] := by
  refine Todo.unless_first ?_
  repeat' split
  all_goals rfl

@[simp] theorem State.tgetPlan_first (o : XferOp) : (s.tgetPlan i o).first = [] := by
  refine Todo.unless_first ?_
  repeat' split
  all_goals rfl

@[simp] theorem State.twinPlan_first (o : XferOp) : (s.twinPlan i o).first = [] := by
  unfold State.twinPlan
  split <;> rfl

@[simp] theorem State.tdrainPlan_first (o : XferOp) : (s.tdrainPlan i o).first = [] := by
  refine Todo.unless_first ?_
  repeat' split
  all_goals rfl

@[simp] theorem State.mstreamPlan_first (o : StreamOp) : (s.mstreamPlan i o).first = [] := by
  unfold State.mstreamPlan
  split <;> rfl

@[simp] theorem State.batomPlan_first (o : BankOp) : (s.batomPlan i o).first = [] := by
  refine Todo.unless_first ?_
  split <;> rfl

@[simp] theorem State.bcountPlan_first (o : BankOp) : (s.bcountPlan i o).first = [] := by
  refine Todo.unless_first ?_
  repeat' split
  all_goals rfl

@[simp] theorem State.bcmpPlan_first (o : BankOp) : (s.bcmpPlan i o).first = [] := by
  refine Todo.unless_first ?_
  repeat' split
  all_goals rfl

theorem Todo.readsOf_of_first {c m : CoreId} {t : Todo} (h : t.first = []) : t.readsOf c m := by
  rw [Todo.readsOf, h]
  exact ofCores_nil

variable {c : Instr} {q : QueueId} {op : BitVec 8} {plan : State → Todo}

/-- An engine's instruction is its plan, presented to its queue. -/
theorem exec_of_planOf (h : planOf c = some (q, op, i, plan)) : exec c s = .next (s.present q op i plan) := by
  cases c <;> cases h <;> rfl

/-- An engine's plan reads, before its end is known, words of the presenting core and of at most one other. -/
theorem planOf_readsOf (h : planOf c = some (q, op, i, plan)) : ∃ m, (plan s).readsOf i.core m := by
  cases c <;> cases h
  case pass o hh => exact ⟨_, State.passPlan_readsOf o hh⟩
  case adown o => exact ⟨i.core, State.adownPlan_readsOf _ o⟩
  case aup o => exact ⟨i.core, State.aupPlan_readsOf _ o⟩
  case dgather o => exact ⟨i.core, State.dispTodo_readsOf _ o true fun _ _ => Todo.readsOf_run⟩
  case dscatter o => exact ⟨i.core, State.dispTodo_readsOf _ o false fun _ _ => Todo.readsOf_run⟩
  case dslot o => exact ⟨i.core, State.dslotTodo_readsOf _ o⟩
  case tile o => exact ⟨_, State.tilePlan_readsOf o⟩
  case kappend o => exact ⟨i.core, State.kappendPlan_readsOf _ o⟩
  case kcommit o => exact ⟨i.core, State.kcommitPlan_readsOf _ o⟩
  case kdiscard o => exact ⟨i.core, State.kdiscardPlan_readsOf _ o⟩
  case khash o => exact ⟨i.core, State.khashPlan_readsOf _ o⟩
  case kfind o => exact ⟨_, State.kfindPlan_readsOf o⟩
  case kref o => exact ⟨i.core, State.krefPlan_readsOf _ o⟩
  case mreduce o => exact ⟨i.core, State.mreducePlan_readsOf _ o⟩
  case msend o => exact ⟨i.core, State.msendPlan_readsOf _ o⟩
  case ffence => exact ⟨i.core, Todo.readsOf_run⟩
  all_goals exact ⟨i.core, Todo.readsOf_of_first (by simp)⟩


section
variable {i : Issue} {s t : State} {c m : CoreId}

/-! The events that an issue logs before its plan's end. -/

theorem State.log_length_le (s : State) (code : Nat) (src : BitVec 16) (p0 p1 p2 p3 : Nat) :
    (s.log code src p0 p1 p2 p3).evlog.queue.length ≤ s.evlog.queue.length + 1 := by
  unfold State.log
  split <;> simp

/-- One when the core has not yet reported a corrected word in this step (R208). -/
def State.unreported (s : State) (c : CoreId) : Nat := if (s.core c).marks.eccCorr then 0 else 1

theorem State.unreported_le (s : State) (c : CoreId) : s.unreported c ≤ 1 := by
  unfold State.unreported
  split <;> simp

theorem State.marks_modMem (s : State) (x y : CoreId) (f : Memory → Memory) :
    ((s.modMem x f).core y).marks = (s.core y).marks := by
  rw [State.core_modMem]
  split <;> simp [*]

theorem State.unreported_corrected (x y : CoreId) (a : Nat) (syms : List (Nat × Nat)) (b : Bool) :
    (s.corrected x a syms b).unreported y = if y = x then 0 else s.unreported y := by
  unfold State.corrected State.unreported
  by_cases hy : y = x
  · subst hy
    dsimp only
    split <;> simp_all [State.marks_modMem]
  · dsimp only
    split <;> simp [State.marks_modMem, State.core_modCore, hy]

theorem State.corrected_length_le (x : CoreId) (a : Nat) (syms : List (Nat × Nat)) (b : Bool) :
    (s.corrected x a syms b).evlog.queue.length ≤ s.evlog.queue.length + s.unreported x := by
  unfold State.corrected State.unreported
  dsimp only
  rw [State.marks_modMem]
  split
  · exact Nat.le_refl _
  · exact State.log_length_le ..

/-- The events logged, and those that corrections of the words of two cores may still log. -/
def State.eventBound (s : State) (c m : CoreId) : Nat :=
  s.evlog.queue.length + s.unreported c + s.unreported m

theorem State.eventBound_corrected {x : CoreId} (hx : x = c ∨ x = m) (a : Nat) (syms : List (Nat × Nat)) (b : Bool) :
    (s.corrected x a syms b).eventBound c m ≤ s.eventBound c m := by
  have hlen := s.corrected_length_le x a syms b
  unfold State.eventBound
  rw [State.unreported_corrected, State.unreported_corrected]
  rcases hx with rfl | rfl
  · rw [if_pos rfl]
    split <;> omega
  · rw [if_pos rfl]
    split <;> omega

theorem State.eventBound_corrections :
    ∀ (ws : List (CoreId × Nat)) (s : State), ofCores c m ws → (s.corrections ws).eventBound c m ≤ s.eventBound c m
  | [], _, _ => Nat.le_refl _
  | (x, a) :: ws, s, h => by
    obtain ⟨hx, hws⟩ := ofCores_cons.1 h
    unfold State.corrections
    refine (State.eventBound_corrections ws _ hws).trans ?_
    split
    · exact State.eventBound_corrected hx ..
    · exact Nat.le_refl _

theorem State.corrections_length_le {ws : List (CoreId × Nat)} (h : ofCores c m ws) :
    (s.corrections ws).evlog.queue.length ≤ s.evlog.queue.length + 2 := by
  have hb : (s.corrections ws).eventBound c m ≤ s.eventBound c m := State.eventBound_corrections ws s h
  have hc := s.unreported_le c
  have hm := s.unreported_le m
  unfold State.eventBound at hb
  omega

theorem State.addSlip_length_le (c : CoreId) (q : QueueId) (p : BitVec 16) (n : Nat) (l : BitVec 16)
    (mark : Marks → Bool) (set : Marks → Marks) :
    (s.addSlip c q p n l mark set).evlog.queue.length ≤ s.evlog.queue.length + 1 := by
  unfold State.addSlip
  dsimp only
  split
  · exact State.log_length_le ..
  · exact Nat.le_succ _

theorem State.begun_length_le (q : QueueId) (i : Issue) :
    (s.begun q i).evlog.queue.length ≤ s.evlog.queue.length + 1 := by
  have hstall : (s.addStall q i i.stalled).evlog = s.evlog := by
    unfold State.addStall
    split <;> simp
  unfold State.begun State.waitsMet
  rw [← hstall]
  split
  · exact Nat.le_succ _
  · exact State.addSlip_length_le ..

/-! What a rejection leaves. -/

variable {q : QueueId} {r : Nat}

/-- The queue's stop and record of a rejection, before its event and the stop of the step (R128, R135). -/
def State.rejected (s : State) (q : QueueId) (i : Issue) (r : Nat) : State :=
  if q = qArray then s.modArray i.core (fun a => { a with state := 7, boundsStop := true })
  else s.modQueue i.core q (fun k => { k with
    state := 5, qpos := i.qpos, rejValid := true, rejReason := BitVec.ofNat 3 r, rejQpos := i.qpos })

theorem State.rejectAt_eq : s.rejectAt q i r =
    ((s.rejected q i r).log 0x0007 (srcCore i.core) q.val i.qpos.toNat r 0).stopStep (partOf i.core) stBOUNDS 3 := (rfl)

/-- What a core computes: its accumulators, tiles, vector registers, counters and flags. -/
def Core.results (k : Core) :=
  (k.array.acc, k.array.active, k.array.shadow, k.vec.v, k.vec.p, k.vec.r, k.counters, k.flags)

theorem Core.results_of_settled {k k' : Core} (h : k'.settled = k.settled) : k'.results = k.results := by
  have hr := congrArg Core.results h
  exact hr

@[simp] theorem Core.results_halt (k : Core) : k.halt.results = k.results := (rfl)

theorem State.rejected_results (x : CoreId) : ((s.rejected q i r).core x).results = (s.core x).results := by
  unfold State.rejected
  split
  · rw [State.core_modArray]
    split
    · next hx => rw [hx]; rfl
    · rfl
  · rw [State.core_modQueue]
    split
    · next hx => rw [hx]; rfl
    · rfl

@[simp] theorem State.rejected_memory (x : CoreId) : ((s.rejected q i r).core x).memory = (s.core x).memory := by
  unfold State.rejected
  split
  · rw [State.core_modArray]
    split
    · next hx => rw [hx]
    · rfl
  · rw [State.memory_modQueue]

theorem State.rejected_outside : (s.rejected q i r).evlog = s.evlog ∧ ∀ p, (s.rejected q i r).part p = s.part p := by
  unfold State.rejected
  split
  · exact ⟨rfl, fun _ => rfl⟩
  · exact ⟨rfl, fun _ => rfl⟩

theorem State.rejected_array (s : State) (i : Issue) (r : Nat) :
    ((s.rejected qArray i r).core i.core).array.state = 7 ∧
    ((s.rejected qArray i r).core i.core).array.boundsStop = true := by
  simp [State.rejected, State.core_modArray]

theorem State.rejected_queue (s : State) (i : Issue) (r : Nat) (hq : q ≠ qArray) :
    ((s.rejected q i r).core i.core).queue q = { (s.core i.core).queue q with
      state := 5, qpos := i.qpos, rejValid := true, rejReason := BitVec.ofNat 3 r, rejQpos := i.qpos } := by
  simp [State.rejected, hq, State.core_modQueue, Core.queue]

theorem nothingComputed_of_results (hw : s.sameWords t) (hr : ∀ x, (t.core x).results = (s.core x).results) :
    nothingComputed s t := by
  refine ⟨hw, fun x => ?_⟩
  have h := hr x
  simp only [Core.results, Prod.mk.injEq] at h
  exact h

theorem State.core_rejectAt (x : CoreId) : ((s.rejectAt q i r).core x) =
    if ((s.part (partOf i.core)).state = 3 ∨ (s.part (partOf i.core)).state = 4) ∧ partOf x = partOf i.core
    then ((s.rejected q i r).core x).halt else (s.rejected q i r).core x := by
  rw [State.rejectAt_eq, State.core_stopStep, State.part_log, State.core_log, State.rejected_outside.2]

theorem State.peek_rejectAt (c : CoreId) (a : Nat) : (s.rejectAt q i r).peek c a = s.peek c a := by
  rw [State.rejectAt_eq, State.peek_stopStep]
  simp only [State.peek, State.core_log, State.rejected_memory]

theorem State.results_rejectAt (x : CoreId) : ((s.rejectAt q i r).core x).results = (s.core x).results := by
  rw [State.core_rejectAt]
  split
  · rw [Core.results_halt, State.rejected_results]
  · exact State.rejected_results x

/-- A rejection computes nothing, whatever the issue has marked before it. -/
theorem State.issueKeeps.nothingComputed_rejectAt (h : s.issueKeeps t) : nothingComputed s (t.rejectAt q i r) :=
  nothingComputed_of_results (fun c a => (State.peek_rejectAt c a).trans (h.peek c a))
    fun x => (State.results_rejectAt x).trans (Core.results_of_settled (h.settled x))

/-- The step that a rejection finds in progress stops (R209). -/
theorem State.stopped_rejectAt (h : running s (partOf i.core)) :
    stopped s (s.rejectAt q i r) (partOf i.core) stBOUNDS 3 := by
  obtain ⟨hs, hstate⟩ := h
  have hpart : (s.rejectAt q i r).part (partOf i.core) =
      { (s.part (partOf i.core)).stop ((s.rejected q i r).log 0x0007 (srcCore i.core) q.val i.qpos.toNat r 0).time
          stBOUNDS 3 with stops := [] } := by
    rw [State.rejectAt_eq, State.part_stopStep _ _ _ _ _ (by simpa [State.rejected_outside.2] using hstate), if_pos rfl,
      State.part_log, State.rejected_outside.2]
  rw [stopped, hpart]
  refine ⟨rfl, rfl, rfl, fun n x hx hr => ?_⟩
  exact Part.stop_ends _ (s.rejected q i r |>.log 0x0007 (srcCore i.core) q.val i.qpos.toNat r 0).time stBOUNDS 3 hs hx hr

theorem stopped_congr {u : State} {p : PartId} {st cause : Nat} (h : u.part p = s.part p) (hs : stopped u t p st cause) :
    stopped s t p st cause := by
  unfold stopped at hs ⊢
  rwa [h] at hs

theorem running_congr {u : State} {p : PartId} (h : u.part p = s.part p) (hs : running s p) : running u p := by
  unfold running at hs ⊢
  rwa [h]

/-- The event of a rejection stands in the queue where it had room. -/
theorem State.rejectAt_logged (h : s.evlog.queue.length < 1024) :
    ({ code := 0x0007, source := srcCore i.core, p0 := BitVec.ofNat 32 q.val, p1 := BitVec.ofNat 32 i.qpos.toNat,
       p2 := BitVec.ofNat 32 r, p3 := BitVec.ofNat 32 0 } : Ev) ∈ (s.rejectAt q i r).evlog.queue := by
  rw [State.rejectAt_eq, State.stopStep_evlog]
  exact logged_log _ 0x0007 _ _ _ _ _ (by rwa [State.rejected_outside.1])

theorem State.rejectAt_array (s : State) (i : Issue) (r : Nat) :
    ((s.rejectAt qArray i r).core i.core).array.state = 7 ∧
    ((s.rejectAt qArray i r).core i.core).array.boundsStop = true := by
  rw [State.core_rejectAt]
  split
  · exact State.rejected_array s i r
  · exact State.rejected_array s i r

theorem Core.queue_halt (k : Core) (q : QueueId) :
    k.halt.queue q = { k.queue q with waiting := none, slipped := false, since := none } := by
  simp [Core.halt, Core.queue]

theorem State.rejectAt_queue (s : State) (i : Issue) (r : Nat) (hq : q ≠ qArray) :
    (((s.rejectAt q i r).core i.core).queue q).state = 5 ∧ (((s.rejectAt q i r).core i.core).queue q).rejValid = true ∧
    (((s.rejectAt q i r).core i.core).queue q).rejReason = BitVec.ofNat 3 r ∧
    (((s.rejectAt q i r).core i.core).queue q).rejQpos = i.qpos := by
  rw [State.core_rejectAt]
  split
  · simp [Core.queue_halt, State.rejected_queue s i r hq]
  · simp [State.rejected_queue s i r hq]

/-- Settles O9: the corrections before a rejection log two events at most, so that its own finds room; the queue's
record survives the stop of the step. -/
theorem boundsRejectionStopsTheStep : Obligations.BoundsRejectionStopsTheStep := by
  unfold Obligations.BoundsRejectionStopsTheStep
  intro c q op i plan s r hplan hready hrun hon hread hlast
  obtain ⟨m, hm⟩ := planOf_readsOf (s := s) hplan
  have hkeep : s.issueKeeps ((s.begun q i).corrections (plan s).first) := s.issueKeeps_corrected_begun q i _
  have hlen : ((s.begun q i).corrections (plan s).first).evlog.queue.length ≤ s.evlog.queue.length + 3 :=
    (State.corrections_length_le hm).trans (Nat.add_le_add_right (State.begun_length_le q i) 2)
  refine ⟨((s.begun q i).corrections (plan s).first).rejectAt q i r, ?_, hkeep.nothingComputed_rejectAt, ?_, ?_, ?_, ?_⟩
  · rw [exec_of_planOf hplan,
      State.present_last hready (State.groupsOn_asleep hon) (State.readable_firstBad hread), hlast]
    rfl
  · exact stopped_congr (hkeep.part _) (State.stopped_rejectAt (running_congr (hkeep.part _) hrun))
  · exact fun h => State.rejectAt_logged (by omega)
  · rintro rfl
    exact State.rejectAt_array _ i r
  · exact State.rejectAt_queue _ i r


end

end Sys2Proof.Machine
end

section
/-! PROOF. The combination of holds, ACCOUT, EWISE and FFENCE (R70 to R74, R83, R234, R235). -/

namespace Sys2Proof.Machine

open Claims

/-! The groups of one, two and three holds (R83). -/

section
variable {x y z : Hold}

theorem sortHolds_one (hx : 0 < x.len) : sortHolds [x] = [x] := by
  simp [sortHolds, insHold, Nat.pos_iff_ne_zero.1 hx]

theorem sortHolds_two (hx : 0 < x.len) (hy : 0 < y.len) (hxy : x.start ≤ y.start) : sortHolds [x, y] = [x, y] := by
  simp [sortHolds, insHold, Nat.pos_iff_ne_zero.1 hx, Nat.pos_iff_ne_zero.1 hy, hxy]

theorem sortHolds_three (hx : 0 < x.len) (hy : 0 < y.len) (hz : 0 < z.len) (hxy : x.start ≤ y.start)
    (hyz : y.start ≤ z.start) : sortHolds [x, y, z] = [x, y, z] := by
  simp [sortHolds, insHold, Nat.pos_iff_ne_zero.1 hx, Nat.pos_iff_ne_zero.1 hy, Nat.pos_iff_ne_zero.1 hz, hxy, hyz]

/-- The last of three holds listed first is sorted to its place, before those of its own start. -/
theorem sortHolds_three_last_first (hx : 0 < x.len) (hy : 0 < y.len) (hz : 0 < z.len) (hxy : x.start ≤ y.start) :
    sortHolds [z, x, y] =
      if z.start ≤ x.start then [z, x, y] else if z.start ≤ y.start then [x, z, y] else [x, y, z] := by
  simp only [sortHolds, insHold, ne_eq, Nat.pos_iff_ne_zero.1 hx, Nat.pos_iff_ne_zero.1 hy, Nat.pos_iff_ne_zero.1 hz,
    not_false_eq_true, decide_true, List.filter_cons_of_pos, List.filter_nil, List.foldr_cons, List.foldr_nil, hxy, if_true]
  split
  · rfl
  · split <;> rfl

/-- Holds that each begin before a group ends join it: their longest counts, and the group lasts to the latest end. -/
theorem holdGroupsGo_joined (lo : Nat) : ∀ (l : List Hold) (hi m : Nat), (∀ h ∈ l, h.start < hi) →
    holdGroupsGo lo hi m l =
      [(lo, l.foldl (fun e h => max e (h.start + h.len)) hi, l.foldl (fun e h => max e h.len) m)]
  | [], _, _, _ => rfl
  | h :: l, hi, m, hl => by
    obtain ⟨hh, hrest⟩ := List.forall_mem_cons.1 hl
    rw [holdGroupsGo, if_pos hh,
      holdGroupsGo_joined lo l _ _ fun y hy => Nat.lt_of_lt_of_le (hrest y hy) (Nat.le_max_left ..)]
    rfl

theorem holdGroups_joined {l : List Hold} (h : ∀ y ∈ l, y.start < x.start + x.len) :
    holdGroups (x :: l) = [(x.start, l.foldl (fun e h => max e (h.start + h.len)) (x.start + x.len),
      l.foldl (fun e h => max e h.len) x.len)] :=
  holdGroupsGo_joined _ l _ _ h

theorem holdGroups_apart (h : x.start + x.len ≤ y.start) :
    holdGroups [x, y] = [(x.start, x.start + x.len, x.len), (y.start, y.start + y.len, y.len)] := by
  simp [holdGroups, holdGroupsGo, Nat.not_lt.2 h]

@[simp] theorem sortHolds_none : sortHolds [] = [] := rfl

theorem passGaps_one (hx : 0 < x.len) :
    passGaps { feed := [x] } = if x.unit = 0 then min 192 x.len else min 192 (x.len - 8) := by
  by_cases hu : x.unit = 0
  · simp [passGaps, hu, sortHolds_one hx, holdGroups, holdGroupsGo, hx]
  · simp [passGaps, hu, sortHolds_one hx, holdGroups, holdGroupsGo]

/-- Holds of the feeders alone leave the drains' count. -/
theorem ArrayUnit.holds_feed (a : ArrayUnit) (l : List Hold) : a.holds { feed := l } = { a with
    frozen := satAdd a.frozen ((holdGroups (sortHolds l)).foldl (fun n g => n + (g.2.2 - 8)) 0),
    feedStall := satAdd a.feedStall ((holdGroups (sortHolds l)).foldl (fun n g => n + (g.2.1 - g.1)) 0),
    dummy := satAdd a.dummy (passGaps { feed := l }) } := by
  simp [ArrayUnit.holds, holdGroups, satAdd_zero]

theorem slipOf_feed (l : List Hold) :
    slipOf { feed := l } = (holdGroups (sortHolds l)).foldl (fun n g => n + g.2.2) 0 := by
  simp [slipOf]

theorem holds_one (a : ArrayUnit) (hx : 0 < x.len) :
    slipOf { feed := [x] } = x.len ∧ a.holds { feed := [x] } = { a with
      frozen := satAdd a.frozen (x.len - 8), feedStall := satAdd a.feedStall x.len,
      dummy := satAdd a.dummy (if x.unit = 0 then min 192 x.len else min 192 (x.len - 8)) } := by
  rw [slipOf_feed, ArrayUnit.holds_feed, sortHolds_one hx, passGaps_one hx, holdGroups_joined (l := []) (by simp)]
  simp

theorem holds_apart (a : ArrayUnit) (hx : 0 < x.len) (hy : 0 < y.len) (h : x.start + x.len ≤ y.start) :
    slipOf { feed := [x, y] } = x.len + y.len ∧ a.holds { feed := [x, y] } = { a with
      frozen := satAdd a.frozen ((x.len - 8) + (y.len - 8)), feedStall := satAdd a.feedStall (x.len + y.len),
      dummy := satAdd a.dummy (passGaps { feed := [x, y] }) } := by
  rw [slipOf_feed, ArrayUnit.holds_feed, sortHolds_two hx hy (by omega), holdGroups_apart h]
  simp

theorem holds_overlapping (a : ArrayUnit) (hx : 0 < x.len) (hy : 0 < y.len) (hxy : x.start ≤ y.start)
    (h : y.start < x.start + x.len) :
    slipOf { feed := [x, y] } = max x.len y.len ∧ a.holds { feed := [x, y] } = { a with
      frozen := satAdd a.frozen (max x.len y.len - 8),
      feedStall := satAdd a.feedStall (max (x.start + x.len) (y.start + y.len) - x.start),
      dummy := satAdd a.dummy (passGaps { feed := [x, y] }) } ∧
    slipOf { feed := [x], drain := [y] } = max x.len y.len := by
  have hdrain : slipOf { feed := [x], drain := [y] } = slipOf { feed := [x, y] } := rfl
  rw [hdrain, slipOf_feed, ArrayUnit.holds_feed, sortHolds_two hx hy hxy, holdGroups_joined (by simpa using h)]
  simp

theorem holds_three (hx : 0 < x.len) (hy : 0 < y.len) (hz : 0 < z.len) (hxy : x.start ≤ y.start)
    (hyz : y.start ≤ z.start) (h : z.start < x.start + x.len) :
    slipOf { feed := [x, y, z] } = max (max x.len y.len) z.len ∧
    slipOf { feed := [z, x], drain := [y] } = max (max x.len y.len) z.len := by
  have hdrain : slipOf { feed := [z, x], drain := [y] } = slipOf { feed := [z, x, y] } := rfl
  rw [hdrain, slipOf_feed, slipOf_feed, sortHolds_three hx hy hz hxy hyz, sortHolds_three_last_first hx hy hz hxy,
    holdGroups_joined (by simp; omega)]
  refine ⟨by simp, ?_⟩
  split
  · rw [holdGroups_joined (by simp; omega)]
    simp; omega
  · split
    · rw [holdGroups_joined (by simp; omega)]
      simp; omega
    · rw [holdGroups_joined (by simp; omega)]
      simp

end

section
variable {s t u : State} {c : CoreId} {k : Core}

/-! A step of an effect on one core, made on a state that an issue has kept. -/

/-- A change of the core that an issue's own marks do not touch. -/
theorem coreBecomes_modCore (h : coreBecomes s t c k) (f : Core → Core) (hf : ∀ k, (f k).settled = f k.settled) :
    coreBecomes s (t.modCore c f) c (f k) := by
  obtain ⟨hout, hother, hcore⟩ := h
  refine ⟨hout.trans rfl, fun x hx => ?_, ?_⟩
  · rw [State.core_modCore, if_neg hx]
    exact hother x hx
  · rw [State.core_modCore_self, hf, hcore, hf]

theorem coreBecomes_issueKeeps (h : coreBecomes s t c k) (hk : t.issueKeeps u) : coreBecomes s u c k := by
  obtain ⟨hout, hother, hcore⟩ := h
  exact ⟨hout.trans hk.outside, fun x hx => (hk.settled x).trans (hother x hx), (hk.settled c).trans hcore⟩

/-- A change of the core's array alone leaves what is stored. -/
theorem storesAnd_modArray {ws : List Wr} (h : storesAnd s t c k ws) (f : ArrayUnit → ArrayUnit) :
    storesAnd s (t.modArray c f) c { k with array := f k.array } ws := by
  obtain ⟨hout, hstored, hcore, hother⟩ := h
  have ha : (t.core c).array = k.array := by
    have := congrArg Core.array hcore
    exact this
  have hset : ∀ k' : Core, ({ k' with array := f k'.array } : Core).besideWords =
      { k'.besideWords with array := f k'.besideWords.array } := fun _ => rfl
  have hpeek : ∀ (x : CoreId) (a : Nat), (t.modArray c f).peek x a = t.peek x a := by
    intro x a
    rw [State.peek, State.core_modArray]
    split
    · next hx => rw [hx]; rfl
    · rfl
  refine ⟨hout.trans rfl, ⟨fun w hw => ?_, fun x a hx => ?_⟩, ?_, fun x hx => ?_⟩
  · rw [hpeek]
    exact hstored.1 w hw
  · rw [hpeek]
    exact hstored.2 x a hx
  · rw [State.core_modArray, if_pos rfl, hset, hcore, ← hset]
  · rw [State.core_modArray, if_neg hx]
    exact hother x hx

/-! ACCOUT (R70). -/

/-- The same 128 values written to `n` rows from row `b` on. -/
def accFill (vs : List (BitVec 32)) (m : SMap 32) (b n : Nat) : SMap 32 :=
  (List.range n).foldl (fun m r => accSetRow m (b + r) vs) m

theorem accFill_succ (vs : List (BitVec 32)) (m : SMap 32) (b n : Nat) :
    accFill vs m b (n + 1) = smSetMany (accFill vs m b n) (128 * (b + n)) vs := by
  rw [accFill, List.range_succ, List.foldl_append]
  rfl

theorem accFill_wf {m : SMap 32} (h : smWf m = true) (vs : List (BitVec 32)) (b : Nat) :
    ∀ n, smWf (accFill vs m b n) = true
  | 0 => h
  | n + 1 => by
    rw [accFill_succ]
    exact smSetMany_wf _ (accFill_wf h vs b n)

theorem smGet_accFill {m : SMap 32} (h : smWf m = true) (v : BitVec 32) (b x : Nat) : ∀ n,
    smGet (accFill (List.replicate 128 v) m b n) x = if 128 * b ≤ x ∧ x < 128 * (b + n) then v else smGet m x
  | 0 => by
    rw [if_neg (by omega)]
    rfl
  | n + 1 => by
    rw [accFill_succ, smGet_smSetMany _ _ _ (accFill_wf h _ b n), List.length_replicate, smGet_accFill h v b x n]
    by_cases hin : 128 * (b + n) ≤ x ∧ x < 128 * (b + n) + 128
    · rw [if_pos hin, if_pos (by omega), List.getElem?_replicate, if_pos (by omega)]
      rfl
    · rw [if_neg hin]
      exact if_congr (by omega) rfl rfl

theorem State.issueKeeps.accoutWrites (h : s.issueKeeps u) (c d : CoreId) (o : AccoutOp) (f : Fmt) :
    u.accoutWrites c d o f = s.accoutWrites c d o f := by
  unfold State.accoutWrites
  rw [h.array]

/-- What an ACCOUT leaves in its array: the words that it writes are held no more, and CLEAR sets its rows to +0. -/
def ArrayUnit.accouted (a : ArrayUnit) (o : AccoutOp) (same : Bool) (ws : List Wr) : ArrayUnit :=
  { a.dropHeld same ws with
    acc := if o.clear then accFill (List.replicate 128 0) (a.dropHeld same ws).acc o.accBase.toNat o.count.toNat
      else (a.dropHeld same ws).acc }

theorem ArrayUnit.dropHeld_eq (a : ArrayUnit) (same : Bool) (ws : List Wr) :
    ∃ held, a.dropHeld same ws = { a with held := held } ∧ ∀ x ∈ held, x ∈ a.held := by
  cases same
  · exact ⟨a.held, rfl, fun _ h => h⟩
  · exact ⟨_, rfl, fun _ h => List.mem_of_mem_filter h⟩

theorem ArrayUnit.accouted_eq (a : ArrayUnit) (o : AccoutOp) (same : Bool) (ws : List Wr) :
    ∃ held, a.accouted o same ws = { a with
        acc := if o.clear then accFill (List.replicate 128 0) a.acc o.accBase.toNat o.count.toNat else a.acc,
        held := held } ∧ ∀ x ∈ held, x ∈ a.held := by
  obtain ⟨held, he, hm⟩ := a.dropHeld_eq same ws
  refine ⟨held, ?_, hm⟩
  unfold ArrayUnit.accouted
  rw [he]

theorem smGet_cleared {a : ArrayUnit} (hwf : smWf a.acc = true) (o : AccoutOp) (x : Nat) :
    smGet (if o.clear then accFill (List.replicate 128 0) a.acc o.accBase.toNat o.count.toNat else a.acc) x =
      if o.clear = true ∧ 128 * o.accBase.toNat ≤ x ∧ x < 128 * (o.accBase.toNat + o.count.toNat) then 0
      else smGet a.acc x := by
  cases o.clear
  · simp
  · simpa using smGet_accFill hwf 0 _ x _

/-- The words that the array's feeders hold are those of core `d`. -/
def State.feedersHold (u : State) (c d : CoreId) (a : ArrayUnit) : Bool :=
  match a.heldKey with
  | some k => decide (u.sel c k.asel = some d)
  | none => false

/-- The state in which an ACCOUT has stored its words and set its flags. -/
def State.accoutStored (u : State) (c d : CoreId) (o : AccoutOp) (f : Fmt) : State :=
  (u.wrAll (u.accoutWrites c d o f).1).flag c (u.accoutWrites c d o f).2

theorem State.accoutEffect_eq (c d : CoreId) (o : AccoutOp) (f : Fmt) (u : State) :
    State.accoutEffect c d o f u = (u.accoutStored c d o f).modArray c
      (fun a => a.accouted o ((u.accoutStored c d o f).feedersHold c d a) (u.accoutWrites c d o f).1) := (rfl)

theorem array_of_storesAnd {ws : List Wr} (h : storesAnd s t c k ws) : (t.core c).array = k.array := by
  obtain ⟨-, -, hcore, -⟩ := h
  have := congrArg Core.array hcore
  exact this

section
variable {i : Issue} {o : AccoutOp} {d : CoreId} {f : Fmt}

theorem accoutReject_pass (hd : o.dsel = 0 ∨ 4 ≤ o.dsel.toNat) (hr : o.rnd.toNat < 6) (hf : Fmt.ofCode o.dfmt = some f)
    (hsel : s.sel c o.dsel = some d) (hp : pastMem o.daddr.toNat (o.count.toNat * wordsFor 128 f.bits) = false)
    (hs : f.isMX = true → pastMem o.dscale.toNat (wordsFor (4 * o.count.toNat) 8) = false)
    (ha : o.count ≠ 0 → o.accBase.toNat + o.count.toNat ≤ 4096) : s.accoutReject c o = none := by
  have hfields : firstReason [(decide (o.dsel ≠ 0 ∧ o.dsel.toNat < 4), 2), (decide (6 ≤ o.rnd.toNat), 2),
      (decide (Fmt.ofCode o.dfmt = none), 2)] = none := by
    simpa [firstReason_eq_none, hf, hr] using fun h => hd.resolve_left h
  unfold State.accoutReject
  rw [hfields]
  simp only [hf]
  simpa [firstReason_eq_none, hsel, hp] using ⟨hs, ha⟩

theorem accoutPlan_eq (hf : Fmt.ofCode o.dfmt = some f) (hsel : s.sel i.core o.dsel = some d)
    (hrej : s.accoutReject i.core o = none) : State.accoutPlan i o s =
      .run (wrPartial (s.accoutWrites i.core d o f).1) (wrWords (s.accoutWrites i.core d o f).1) (fun _ => .now)
        (State.accoutEffect i.core d o f) := by
  simp only [State.accoutPlan, hrej, hf, hsel]

theorem wrWords_accoutWrites_nodup (s : State) (c d : CoreId) (o : AccoutOp) (f : Fmt) : (wrWords (s.accoutWrites c d o f).1).Nodup :=
  wrJoin_nodup _

/-- An ACCOUT on a state that an issue has kept. -/
theorem storesAnd_accoutEffect (hk : s.issueKeeps u) (hwf : s.memoriesWf) (c d : CoreId) (o : AccoutOp) (f : Fmt) :
    ∃ held, storesAnd s (State.accoutEffect c d o f u) c { s.core c with
        flags := (s.core c).flags ||| (s.accoutWrites c d o f).2,
        array := { (s.core c).array with
          acc := if o.clear then accFill (List.replicate 128 0) (s.core c).array.acc o.accBase.toNat o.count.toNat
            else (s.core c).array.acc,
          held := held } } (s.accoutWrites c d o f).1 ∧ ∀ x ∈ held, x ∈ (s.core c).array.held := by
  obtain ⟨held, he, hm⟩ := (s.core c).array.accouted_eq o ((u.accoutStored c d o f).feedersHold c d (s.core c).array)
    (s.accoutWrites c d o f).1
  refine ⟨held, ?_, hm⟩
  rw [← he, State.accoutEffect_eq, hk.accoutWrites]
  refine storesAnd_modArray (k := { s.core c with flags := (s.core c).flags ||| (s.accoutWrites c d o f).2 }) ?_
    (fun a => a.accouted o ((u.accoutStored c d o f).feedersHold c d a) (s.accoutWrites c d o f).1)
  rw [State.accoutStored, hk.accoutWrites]
  exact storesAnd_wrAll_flag hk hwf (wrWords_accoutWrites_nodup s c d o f) c _

theorem exec_accout (hr : s.Ready qArray i) (hwf : s.memoriesWf) (hf : Fmt.ofCode o.dfmt = some f)
    (hsel : s.sel i.core o.dsel = some d) (hrej : s.accoutReject i.core o = none)
    (hu : usable s (wrPartial (s.accoutWrites i.core d o f).1) (wrWords (s.accoutWrites i.core d o f).1)) :
    ∃ t held, exec (.accout i o) s = .next t ∧ storesAnd s t i.core { s.core i.core with
        flags := (s.core i.core).flags ||| (s.accoutWrites i.core d o f).2,
        array := { (s.core i.core).array with
          acc := if o.clear then accFill (List.replicate 128 0) (s.core i.core).array.acc o.accBase.toNat o.count.toNat
            else (s.core i.core).array.acc,
          held := held } } (s.accoutWrites i.core d o f).1 ∧ ∀ x ∈ held, x ∈ (s.core i.core).array.held := by
  have hp := accoutPlan_eq hf hsel hrej
  obtain ⟨u, hk, hx⟩ := State.present_usable (op := 0x21) (plan := State.accoutPlan i o) hr
    (by rw [hp]; exact planUsable_run.2 hu) (by rw [hp]; rfl) (by rw [hp]; rfl)
  obtain ⟨held, h, hm⟩ := storesAnd_accoutEffect hk hwf i.core d o f
  exact ⟨_, held, congrArg Host.Outcome.next hx, h, hm⟩

end

/-! EWISE (R71). -/

/-- What an EWISE of `n` values leaves in its array: the gap ends where a row runs, and the values are written. -/
def ArrayUnit.ewised (a : ArrayUnit) (now : BitVec 64) (gap n base cyc : Nat) (vs : List (BitVec 32)) : ArrayUnit :=
  let g := if n = 0 then a else a.endGap now gap
  { g with acc := smSetMany a.acc base vs, dummy := satAdd g.dummy cyc }

theorem ArrayUnit.ewised_acc (a : ArrayUnit) (now : BitVec 64) (gap n base cyc : Nat) (vs : List (BitVec 32)) :
    (a.ewised now gap n base cyc vs).acc = smSetMany a.acc base vs := rfl

theorem ArrayUnit.ewised_eq (a : ArrayUnit) (hs : a.state ≠ 7) (now : BitVec 64) (gap : Nat) (count : BitVec 12)
    (base cyc : Nat) (vs : List (BitVec 32)) : a.ewised now gap (128 * count.toNat) base cyc vs =
      { gapEnded a (a.ewised now gap (128 * count.toNat) base cyc vs) count.toNat with
        ready := if count = 0 then a.ready else false,
        acc := (a.ewised now gap (128 * count.toNat) base cyc vs).acc } := by
  by_cases hc : count = 0
  · simp [ArrayUnit.ewised, gapEnded, hc]
  · have hn : count.toNat ≠ 0 := fun h => hc (BitVec.eq_of_toNat_eq h)
    have hn' : 128 * count.toNat ≠ 0 := by omega
    cases hr : a.ready <;>
      simp only [ArrayUnit.ewised, gapEnded, ArrayUnit.endGap, ArrayUnit.getReady, hc, hn, hn', hs, hr, if_false,
        if_true, Bool.false_eq_true, or_false, or_true]

/-- The count and the flag of `n` bad T2 bytes. -/
def Core.countT2 (k : Core) (n : Nat) : Core :=
  { k with t2Bad := satAdd k.t2Bad n, flags := k.flags ||| (if n = 0 then 0 else flT2Bad) }

theorem Core.countT2_zero (k : Core) : k.countT2 0 = k := by
  have h : k.flags ||| 0 = k.flags := BitVec.or_zero
  rw [Core.countT2, satAdd_zero, if_pos rfl, h]

/-- Bad T2 bytes of a count of zero leave the state; others are counted, and the first in a step is logged (R44). -/
theorem State.issueKeeps_badT2 (s : State) (c : CoreId) (n a : Nat) :
    (s.modCore c (fun k => k.countT2 n)).issueKeeps (s.badT2 c n a) := by
  by_cases hn : n = 0
  · rw [hn, State.modCore_of_fixed (Core.countT2_zero _)]
    exact .refl s
  · unfold State.badT2 Core.countT2
    simp only [hn, if_false]
    split
    · exact .refl _
    · exact (State.issueKeeps_modCore _ c _ rfl).trans (State.issueKeeps_log ..)

section
variable {i : Issue} {o : EwiseOp} {fa fb : Fmt} {ca cb : CoreId}

theorem State.issueKeeps.ewiseResults (h : s.issueKeeps u) (c ca cb : CoreId) (o : EwiseOp) (fa fb : Fmt) :
    u.ewiseResults c ca cb o fa fb = s.ewiseResults c ca cb o fa fb := by
  unfold State.ewiseResults
  rw [h.array, h.peek_eq]

theorem ewiseEffect_eq (i : Issue) (ca cb : CoreId) (o : EwiseOp) (fa fb : Fmt) (u : State) : ∃ fl n x cyc,
    State.ewiseEffect i ca cb o fa fb u =
      ((u.modArray i.core (fun a => a.ewised u.time i.gap (128 * o.count.toNat) (128 * o.accBase.toNat) cyc
        ((u.ewiseResults i.core ca cb o fa fb).map (·.1)))).flag i.core fl).badT2 i.core n x ∧ (fb ≠ .t2 → n = 0) := by
  refine ⟨_, _, _, _, rfl, fun h => ?_⟩
  rw [if_neg h]

theorem ewiseReject_pass (ha : o.asel = 0 ∨ 4 ≤ o.asel.toNat) (hb : o.bsel = 0 ∨ 4 ≤ o.bsel.toNat) (hop : o.op ≠ 3)
    (hfa : Fmt.ofCode o.afmt = some fa) (hfb : Fmt.ofCode o.bfmt = some fb) (hea : fa.ewiseA = true)
    (heb : fb.ewiseB = true) (hca : s.sel c o.asel = some ca) (hcb : s.sel c o.bsel = some cb)
    (hpa : pastMem o.aaddr.toNat (wordsFor (128 * o.count.toNat) fa.bits) = false)
    (hpb : pastMem o.baddr.toNat (wordsFor (128 * o.count.toNat) fb.bits) = false)
    (hsa : fa.isMX = true → pastMem o.ascale.toNat (wordsFor (4 * o.count.toNat) 8) = false)
    (hsb : fb.isMX = true → pastMem o.bscale.toNat (wordsFor (4 * o.count.toNat) 8) = false)
    (hacc : o.count ≠ 0 → o.accBase.toNat + o.count.toNat ≤ 4096) : s.ewiseReject c o = none := by
  have hfields : firstReason [(decide (o.asel ≠ 0 ∧ o.asel.toNat < 4), 2), (decide (o.bsel ≠ 0 ∧ o.bsel.toNat < 4), 2),
      (decide (o.op = 3), 2), (decide (Fmt.ofCode o.afmt = none), 2), (decide (Fmt.ofCode o.bfmt = none), 2)] = none := by
    simpa [firstReason_eq_none, hfa, hfb] using ⟨fun h => ha.resolve_left h, fun h => hb.resolve_left h, hop⟩
  unfold State.ewiseReject
  dsimp only
  rw [hfields]
  simp only [hfa, hfb]
  simpa [firstReason_eq_none, hea, heb, hca, hcb, hpa, hpb] using ⟨hsa, hsb, hacc⟩

theorem ewisePlan_eq (hfa : Fmt.ofCode o.afmt = some fa) (hfb : Fmt.ofCode o.bfmt = some fb)
    (hca : s.sel i.core o.asel = some ca) (hcb : s.sel i.core o.bsel = some cb) (hrej : s.ewiseReject i.core o = none) :
    State.ewisePlan i o s =
      .run (State.ewiseReads ca cb o fa fb) [] (fun _ => .now) (State.ewiseEffect i ca cb o fa fb) := by
  simp only [State.ewisePlan, hrej, hfa, hfb, hca, hcb]

/-- An EWISE on a state that an issue has kept. -/
theorem coreBecomes_ewiseEffect (hk : s.issueKeeps u) (i : Issue) (ca cb : CoreId) (o : EwiseOp) (fa fb : Fmt) :
    ∃ fl n cyc, coreBecomes s (State.ewiseEffect i ca cb o fa fb u) i.core { s.core i.core with
        flags := (s.core i.core).flags ||| fl, t2Bad := satAdd (s.core i.core).t2Bad n,
        array := (s.core i.core).array.ewised s.time i.gap (128 * o.count.toNat) (128 * o.accBase.toNat) cyc
          ((s.ewiseResults i.core ca cb o fa fb).map (·.1)) } ∧ (fb ≠ .t2 → n = 0) := by
  obtain ⟨fl, n, x, cyc, he, hn⟩ := ewiseEffect_eq i ca cb o fa fb u
  refine ⟨fl ||| (if n = 0 then 0 else flT2Bad), n, cyc, ?_, hn⟩
  rw [he, hk.ewiseResults, hk.outside.time, ← BitVec.or_assoc]
  have harray := coreBecomes_modCore (hk.coreBecomes i.core) (fun k => { k with
    array := k.array.ewised s.time i.gap (128 * o.count.toNat) (128 * o.accBase.toNat) cyc
      ((s.ewiseResults i.core ca cb o fa fb).map (·.1)) }) fun _ => rfl
  have hflag := coreBecomes_modCore harray (fun k => { k with flags := k.flags ||| fl }) fun _ => rfl
  have hcount := coreBecomes_modCore hflag (fun k => k.countT2 n) fun _ => rfl
  exact coreBecomes_issueKeeps hcount (State.issueKeeps_badT2 ..)

theorem length_ewiseResults (c ca cb : CoreId) (o : EwiseOp) (fa fb : Fmt) :
    (s.ewiseResults c ca cb o fa fb).length = 128 * o.count.toNat := by
  rw [State.ewiseResults, List.length_map, List.length_range]

/-- Value `e` of an EWISE. -/
theorem getElem?_ewiseResults (c ca cb : CoreId) (o : EwiseOp) (fa fb : Fmt) {e : Nat} (he : e < 128 * o.count.toNat) :
    (s.ewiseResults c ca cb o fa fb)[e]? = some (ewiseOne o.op.toNat (fa.isInt && fb.isInt)
      (smGet (s.core c).array.acc (128 * o.accBase.toNat + e))
      (rdNum (s.peek ca) fa false o.aaddr.toNat o.ascale.toNat e)
      (rdNum (s.peek cb) fb false o.baddr.toNat o.bscale.toNat e)) := by
  have hx : 128 * (o.accBase.toNat + e / 128) + e % 128 = 128 * o.accBase.toNat + e := by omega
  rw [State.ewiseResults, List.getElem?_map, List.getElem?_range he, Option.map_some, ArrayUnit.accAt, hx]

/-- The accumulators after an EWISE: its values, and every other one as it was. -/
theorem smGet_ewised (hacc : smWf (s.core c).array.acc = true) (ca cb : CoreId) (o : EwiseOp) (fa fb : Fmt) (x : Nat) :
    smGet (smSetMany (s.core c).array.acc (128 * o.accBase.toNat) ((s.ewiseResults c ca cb o fa fb).map (·.1))) x =
      if 128 * o.accBase.toNat ≤ x ∧ x < 128 * o.accBase.toNat + 128 * o.count.toNat then
        (((s.ewiseResults c ca cb o fa fb)[x - 128 * o.accBase.toNat]?).map (·.1)).getD 0
      else smGet (s.core c).array.acc x := by
  rw [smGet_smSetMany _ _ _ hacc, List.length_map, length_ewiseResults, List.getElem?_map]

theorem exec_ewise (hr : s.Ready qArray i) (hfa : Fmt.ofCode o.afmt = some fa) (hfb : Fmt.ofCode o.bfmt = some fb)
    (hca : s.sel i.core o.asel = some ca) (hcb : s.sel i.core o.bsel = some cb) (hrej : s.ewiseReject i.core o = none)
    (hu : usable s (State.ewiseReads ca cb o fa fb) []) :
    ∃ t fl n cyc, exec (.ewise i o) s = .next t ∧ coreBecomes s t i.core { s.core i.core with
        flags := (s.core i.core).flags ||| fl, t2Bad := satAdd (s.core i.core).t2Bad n,
        array := (s.core i.core).array.ewised s.time i.gap (128 * o.count.toNat) (128 * o.accBase.toNat) cyc
          ((s.ewiseResults i.core ca cb o fa fb).map (·.1)) } ∧ (fb ≠ .t2 → n = 0) := by
  have hp := ewisePlan_eq hfa hfb hca hcb hrej
  obtain ⟨u, hk, hx⟩ := State.present_usable (op := 0x22) (plan := State.ewisePlan i o) hr
    (by rw [hp]; exact planUsable_run.2 hu) (by rw [hp]; rfl) (by rw [hp]; rfl)
  obtain ⟨fl, n, cyc, h, hn⟩ := coreBecomes_ewiseEffect hk i ca cb o fa fb
  exact ⟨_, fl, n, cyc, congrArg Host.Outcome.next hx, h, hn⟩

end

/-! FFENCE (R235). -/

theorem exec_ffence {i : Issue} (hr : s.Ready qArray i) : ∃ t, exec (.ffence i) s = .next t ∧
    coreBecomes s t i.core { s.core i.core with array := { (s.core i.core).array with held := [], heldKey := none } } := by
  obtain ⟨u, hk, hx⟩ := State.present_usable (op := 0x23) (plan := State.ffencePlan i) hr
    (planUsable_run.2 ⟨nofun, nofun⟩) rfl rfl
  exact ⟨_, congrArg Host.Outcome.next hx,
    coreBecomes_modCore (hk.coreBecomes i.core) (fun k => { k with array := k.array.fence }) fun _ => rfl⟩


end

/-- Settles O21: the groups of up to three holds are formed and counted; ACCOUT, EWISE and FFENCE have their effects
on a state that keeps what they read, and the values are looked up in the accumulators that they leave. -/
theorem holdsAccoutEwiseAndFfenceAct : Obligations.HoldsAccoutEwiseAndFfenceAct := by
  unfold Obligations.HoldsAccoutEwiseAndFfenceAct
  refine ⟨⟨fun a _ hx => holds_one a hx, fun a _ _ hx hy h => holds_apart a hx hy h,
    fun a _ _ hx hy hxy h => holds_overlapping a hx hy hxy h,
    fun _ _ _ hx hy hz hxy hyz h => holds_three hx hy hz hxy hyz h⟩, fun i s hr hwf haccs => ⟨?_, ?_, exec_ffence hr⟩⟩
  · intro o d f hd hrnd hf hsel hp hs ha ws hu
    obtain ⟨t, held, hx, hst, hm⟩ := exec_accout hr hwf hf hsel (accoutReject_pass hd hrnd hf hsel hp hs ha)
      (hu.elim (usable_of_calm · _ _) id)
    refine ⟨t, (s.accoutWrites i.core d o f).2, hx, ?_⟩
    dsimp only
    rw [array_of_storesAnd hst]
    exact ⟨hst, hm, smGet_cleared (haccs i.core) o⟩
  · intro o fa fb ca cb ha hb hop hfa hfb hea heb hca hcb hranges hacc hu
    obtain ⟨hpa, hpb, hsa, hsb⟩ := hranges
    obtain ⟨t, fl, n, cyc, hx, hbec, hn⟩ := exec_ewise hr hfa hfb hca hcb
      (ewiseReject_pass ha hb hop hfa hfb hea heb hca hcb hpa hpb hsa hsb hacc) hu
    refine ⟨t, fl, n, hx, ?_⟩
    dsimp only
    rw [array_of_coreBecomes hbec, ← ArrayUnit.ewised_eq _ (array_state_of_ready hr)]
    refine ⟨hbec, hn, fun e he => ?_, fun x hout => ?_⟩
    · rw [ArrayUnit.ewised_acc, smGet_ewised (haccs i.core), if_pos (by omega), Nat.add_sub_cancel_left,
        getElem?_ewiseResults _ _ _ _ _ _ he]
      rfl
    · rw [ArrayUnit.ewised_acc, smGet_ewised (haccs i.core), if_neg (by omega)]

end Sys2Proof.Machine
end

section
/-! PROOF. TILE (R81, R140 to R144, R176 to R179): the cells, scales and indices of its tile, and what the shadow
holds after it. -/

namespace Sys2Proof.Machine

open Claims

/-! Cells written row by row. -/

/-- Consecutive cells set one by one. -/
theorem foldl_smSet_range {w : Nat} (v : Nat → BitVec w) (m : SMap w) (a : Nat) : ∀ n,
    (List.range n).foldl (fun acc j => smSet acc (a + j) (v j)) m = smSetMany m a ((List.range n).map v)
  | 0 => rfl
  | n + 1 => by
    rw [List.range_succ, List.foldl_append, foldl_smSet_range v m a n, List.map_append, smSetMany_append,
      List.length_map, List.length_range]
    rfl

/-- A memory of `n` rows of `len` cells each, written row by row. -/
def cellRows {w : Nat} (len : Nat) (v : Nat → Nat → BitVec w) (n : Nat) : SMap w :=
  (List.range n).foldl (fun acc k => smSetMany acc (len * k) ((List.range len).map (v k))) []

section
variable {w : Nat} {len : Nat} {v : Nat → Nat → BitVec w}

theorem cellRows_succ (n : Nat) :
    cellRows len v (n + 1) = smSetMany (cellRows len v n) (len * n) ((List.range len).map (v n)) := by
  rw [cellRows, List.range_succ, List.foldl_append]
  rfl

theorem cellRows_wf : ∀ n, smWf (cellRows len v n) = true
  | 0 => smWf_nil
  | n + 1 => by
    rw [cellRows_succ]
    exact smSetMany_wf _ (cellRows_wf n)

theorem smGet_cellRows {x y : Nat} (hy : y < len) : ∀ n, x < n → smGet (cellRows len v n) (len * x + y) = v x y
  | n + 1, hx => by
    rw [cellRows_succ, smGet_smSetMany _ _ _ (cellRows_wf n), List.length_map, List.length_range]
    by_cases hn : x = n
    · subst hn
      rw [if_pos ⟨Nat.le_add_right .., Nat.add_lt_add_left hy _⟩, Nat.add_sub_cancel_left, List.getElem?_map,
        List.getElem?_range hy]
      rfl
    · have hxn : x < n := by omega
      have hbelow : len * x + y < len * n := by
        calc len * x + y < len * x + len := Nat.add_lt_add_left hy _
          _ = len * (x + 1) := (Nat.mul_succ ..).symm
          _ ≤ len * n := Nat.mul_le_mul_left _ hxn
      rw [if_neg (by omega)]
      exact smGet_cellRows hy n hxn

end

/-! The weights of a cell register (R63, R141). -/

theorem perReg_mul_bits_le {f : Fmt} (h : f.isWeight = true) : f.bits * f.perReg ≤ 16 := by
  cases f
  case fp32 => exact absurd h (by decide)
  case int32 => exact absurd h (by decide)
  all_goals decide

theorem packElems_lt (b : Nat) : ∀ es : List Nat, packElems b es < 2 ^ (b * es.length)
  | [] => by simp [packElems]
  | e :: es => by
    have hrest := packElems_lt b es
    have he : e % 2 ^ b < 2 ^ b := Nat.mod_lt _ (Nat.two_pow_pos b)
    calc packElems b (e :: es) = e % 2 ^ b + packElems b es * 2 ^ b := by
          simp only [packElems, List.foldr_cons, Nat.shiftLeft_eq]
      _ < 2 ^ b + packElems b es * 2 ^ b := Nat.add_lt_add_right he _
      _ = (packElems b es + 1) * 2 ^ b := by rw [Nat.add_mul, Nat.one_mul, Nat.add_comm]
      _ ≤ 2 ^ (b * es.length) * 2 ^ b := Nat.mul_le_mul_right _ hrest
      _ = 2 ^ (b * (e :: es).length) := by rw [← Nat.pow_add, List.length_cons, Nat.mul_succ]

/-- Weight `u` of a register that the weights fit in. -/
theorem packed_elem {b n width : Nat} (h : b * n ≤ width) (g : Nat → Nat) {u : Nat} (hu : u < n) :
    (BitVec.ofNat width (packElems b ((List.range n).map g))).toNat >>> (u * b) % 2 ^ b = g u % 2 ^ b := by
  have hlt : packElems b ((List.range n).map g) < 2 ^ width := by
    have hp := packElems_lt b ((List.range n).map g)
    rw [List.length_map, List.length_range] at hp
    exact hp.trans_le (Nat.pow_le_pow_right (by decide) h)
  rw [BitVec.toNat_ofNat, Nat.mod_eq_of_lt hlt, Nat.mul_comm u b, packElems_elem, List.getD_eq_getElem?_getD,
    List.getElem?_map, List.getElem?_range hu]
  rfl

/-! The tiles. -/

variable {s t u : State} {c m : CoreId} {o : TileOp} {f : Fmt} {i : Issue}

theorem tileCells_eq (rows : Nat) (idx : Nat → Nat → Nat × Nat) : s.tileCells m o f rows idx =
    cellRows 128 (fun k n => BitVec.ofNat 16 (packElems f.bits ((List.range f.perReg).map (fun u =>
      rdElem (s.peek m) f (o.waddr.toNat + (idx k (f.perReg * n + u)).1) (idx k (f.perReg * n + u)).2)))) rows := by
  unfold State.tileCells cellRows
  simp only [foldl_smSet_range, packElems, List.foldr_map]

theorem denseTile_cells (hf : f.isWeight = true) {x y v : Nat} (hx : x < 128) (hy : y < 128) (hv : v < f.perReg) :
    (smGet (s.denseTile m o f).cells (128 * x + y)).toNat >>> (v * f.bits) % 2 ^ f.bits =
      rdElem (s.peek m) f o.waddr.toNat ((x / groupRows o.sparse * (128 * f.perReg) + (f.perReg * y + v)) *
        groupRows o.sparse + x % groupRows o.sparse) % 2 ^ f.bits := by
  unfold State.denseTile
  dsimp only
  rw [tileCells_eq, smGet_cellRows hy _ hx, packed_elem (perReg_mul_bits_le hf) _ hv]
  simp only [Nat.add_zero, Nat.mul_assoc]

theorem denseTile_index (hs : o.sparse ≠ 0) {x y : Nat} (hx : x < 128) (hy : y < 128) :
    smGet (s.denseTile m o f).index (128 * x + y) = BitVec.ofNat 2 (s.nmIndex m o x y) := by
  have hlt : 128 * x + y < 128 * 128 := by omega
  have hdiv : (128 * x + y) / 128 = x := by omega
  have hmod : (128 * x + y) % 128 = y := by omega
  unfold State.denseTile
  dsimp only
  rw [if_neg hs, smGet_smSetMany _ _ _ smWf_nil, List.length_map, List.length_range, Nat.zero_add,
    if_pos ⟨Nat.zero_le _, hlt⟩, Nat.sub_zero, List.getElem?_map, List.getElem?_range hlt, Option.map_some, hdiv, hmod]
  rfl

theorem denseTile_scales (hf : f.isBlock = true) {b : Nat} (hb : b < 128 / groupRows o.sparse * 128 * f.perReg) :
    smGet (s.denseTile m o f).scales b = BitVec.ofNat 8 (rdScale (s.peek m) f o.waddr.toNat o.saddr.toNat b) := by
  unfold State.denseTile
  dsimp only
  rw [if_pos hf, smGet_smSetMany _ _ _ smWf_nil, List.length_map, List.length_range, Nat.zero_add,
    if_pos ⟨Nat.zero_le _, hb⟩, Nat.sub_zero, List.getElem?_map, List.getElem?_range hb]
  rfl

/-! The rows that a compacting TILE takes (R144). -/

theorem length_cmRows_le (start : Nat) : (s.cmRows m o start).1.length ≤ 128 := by
  unfold State.cmRows
  exact List.length_take_le ..

theorem mem_cmRows {start r : Nat} (h : r ∈ (s.cmRows m o start).1) :
    start ≤ r ∧ r < o.cmlen.toNat ∧ rdBits (s.peek m) o.cmaddr.toNat r 1 = 1 := by
  unfold State.cmRows at h
  obtain ⟨hr, hbit⟩ := List.mem_filter.1 (List.mem_of_mem_take h)
  obtain ⟨j, hj, rfl⟩ := List.mem_map.1 hr
  rw [List.mem_range] at hj
  exact ⟨Nat.le_add_right .., by omega, by simpa using hbit⟩


/-! What lets a TILE run (R134, R140). -/

theorem tileReject_pass (h : tileTakes s i o f m) : s.tileReject i.core o = none := by
  obtain ⟨hsel, hsp, hf, hcm, hw, hns, hm, hpw, hps, hpm, hpb, hpc, -, -⟩ := h
  have hfields : firstReason [(decide (o.wsel ≠ 0 ∧ o.wsel.toNat < 4), 2), (decide (o.sparse = 3), 2),
      (decide (Fmt.ofCode o.wfmt = none), 2), (o.cmpct && decide (o.sparse ≠ 0), 2)] = none := by
    simpa [firstReason_eq_none, hf] using ⟨fun h => hsel.resolve_left h, hsp, hcm⟩
  unfold State.tileReject
  rw [hfields]
  simp only [hf]
  simpa [firstReason_eq_none, hw, hm, hpw, -ite_mul] using ⟨hns, hps, hpm, hpb, hpc⟩

theorem tileReads_bitmap {x : CoreId × Nat}
    (h : x ∈ if o.bmen then [(m, o.bmaddr.toNat + o.bmidx.toNat / 256)] else []) : x ∈ s.tileReads c m o f :=
  List.mem_append_left _ h

/-- The words of the N:M indices are among those that a TILE reads. -/
theorem tileReads_indices {x : CoreId × Nat} (hcm : (s.core c).compacts o = false) (hs : o.sparse ≠ 0)
    (hk : s.tileSkipped m o = false) (h : x ∈ wordsAt m o.mdaddr.toNat 128) : x ∈ s.tileReads c m o f := by
  unfold State.tileReads
  rw [hk, hcm, if_neg Bool.false_ne_true, if_neg Bool.false_ne_true, if_neg hs]
  exact List.mem_append_right _ (List.mem_append_right _ h)

theorem compacts_of_sparse (h : o.cmpct = true → o.sparse = 0) (hs : o.sparse ≠ 0) (k : Core) :
    k.compacts o = false := by
  cases hc : o.cmpct
  · simp [Core.compacts, hc]
  · exact absurd (h hc) hs

theorem cmpct_of_compacts {k : Core} (h : k.compacts o = true) : o.cmpct = true := by
  rw [Core.compacts, Bool.and_eq_true] at h
  exact h.1

theorem tilePlan_eq (h : tileTakes s i o f m) : State.tilePlan i o s =
    .need (if o.bmen then [(m, o.bmaddr.toNat + o.bmidx.toNat / 256)] else [])
      (.need (if o.sparse = 1 ∧ s.tileSkipped m o = false then wordsAt m o.mdaddr.toNat 128 else [])
        (.run (s.tileReads i.core m o f) [] (fun _ => .now) (State.tileEffect i.core m o f))) := by
  have hrej := tileReject_pass h
  obtain ⟨-, -, hf, -, -, -, hm, -, -, -, -, -, hidx, hshadow⟩ := h
  have hbad : firstReason [(!s.tileSkipped m o && s.badIndices m o, 4)] = none := by
    simpa [firstReason_eq_none] using hidx
  simp only [State.tilePlan, hrej, Todo.unless, hshadow, hf, hm, hbad, ne_eq, not_true_eq_false, if_false]

theorem tilePlan_first (h : tileTakes s i o f m) : (State.tilePlan i o s).first =
    (if o.bmen then [(m, o.bmaddr.toNat + o.bmidx.toNat / 256)] else []) ++
      (if o.sparse = 1 ∧ s.tileSkipped m o = false then wordsAt m o.mdaddr.toNat 128 else []) := by
  rw [tilePlan_eq h]
  simp only [Todo.first, List.append_nil]

theorem tilePlan_usable (h : tileTakes s i o f m) (hu : usable s (s.tileReads i.core m o f) []) :
    planUsable s (State.tilePlan i o s) := by
  refine ⟨s.tileReads i.core m o f, [], fun _ => .now, State.tileEffect i.core m o f, by rw [tilePlan_eq h]; rfl, ?_⟩
  have hsub : ∀ x ∈ (State.tilePlan i o s).first, x ∈ s.tileReads i.core m o f := by
    intro x hx
    rw [tilePlan_first h] at hx
    obtain ⟨-, -, -, hcm, -⟩ := h
    rcases List.mem_append.1 hx with hx | hx
    · exact tileReads_bitmap hx
    · split at hx
      · next hs =>
        have hs1 : o.sparse ≠ 0 := by rw [hs.1]; decide
        exact tileReads_indices (compacts_of_sparse hcm hs1 _) hs1 hs.2 hx
      · exact absurd hx (by simp)
  have hsoft : (State.tilePlan i o s).soft = [] := by rw [tilePlan_eq h]; rfl
  obtain ⟨hg, hr⟩ := hu
  rw [List.append_nil] at hg
  rw [hsoft, List.append_nil]
  exact ⟨by rw [List.append_nil]; exact groupsOn_append.2 ⟨fun x hx => hg x (hsub x hx), hg⟩,
    readable_append.2 ⟨fun x hx => hr x (hsub x hx), hr⟩⟩

theorem exec_tile (hr : s.Ready qInfl i) (h : tileTakes s i o f m) (hu : usable s (s.tileReads i.core m o f) []) :
    ∃ u, s.issueKeeps u ∧ exec (.tile i o) s = .next (State.tileEffect i.core m o f u) := by
  have hp := tilePlan_eq h
  obtain ⟨u, hk, hx⟩ := State.present_usable (op := 0xA0) (plan := State.tilePlan i o) hr (tilePlan_usable h hu)
    (by rw [hp]; rfl) (by rw [hp]; rfl)
  exact ⟨u, hk, congrArg Host.Outcome.next hx⟩

/-! The effect of a TILE, by what it finds (R141, R143, R144). -/

/-- A skip mark for the array. -/
def Core.skipTile (k : Core) : Core :=
  { k with array := { k.array with shadow := some .skip }, inflSkip := satAdd k.inflSkip 1 }

def State.skipTile (s : State) (c : CoreId) : State :=
  (s.modArray c (fun a => { a with shadow := some .skip })).modCore c (fun k =>
    { k with inflSkip := satAdd k.inflSkip 1 })

theorem coreBecomes_skipTile {k : Core} (h : coreBecomes s t c k) : coreBecomes s (t.skipTile c) c k.skipTile :=
  coreBecomes_modCore
    (coreBecomes_modCore h (fun k => { k with array := { k.array with shadow := some .skip } }) fun _ => rfl)
    (fun k => { k with inflSkip := satAdd k.inflSkip 1 }) fun _ => rfl

/-- The cursor that a compacting TILE leaves. -/
def Core.setCursor (k : Core) (n : Nat) : Core := { k with cursor := BitVec.ofNat 16 n }

/-- A tile for the array, the flag of a scale that is NaN, and the count of bad T2 bytes. -/
def Core.loadTile (k : Core) (x : Tile) (fl : FmtFlags) : Core :=
  { k with array := { k.array with shadow := some (.tile x) }, flags := k.flags ||| fl }

def State.loadTile (s : State) (c : CoreId) (x : Tile) (fl : FmtFlags) (n a : Nat) : State :=
  ((s.modArray c (fun a => { a with shadow := some (.tile x) })).flag c fl).badT2 c n a

theorem coreBecomes_loadTile {k : Core} (h : coreBecomes s t c k) (x : Tile) (fl : FmtFlags) (n a : Nat) :
    coreBecomes s (t.loadTile c x fl n a) c ((k.loadTile x fl).countT2 n) := by
  have harray := coreBecomes_modCore h (fun k => { k with array := { k.array with shadow := some (.tile x) } })
    fun _ => rfl
  have hflag := coreBecomes_modCore harray (fun k => { k with flags := k.flags ||| fl }) fun _ => rfl
  exact coreBecomes_issueKeeps (coreBecomes_modCore hflag (·.countT2 n) fun _ => rfl) (State.issueKeeps_badT2 ..)

theorem tileEffect_skipped (h : s.tileSkipped m o = true) : State.tileEffect c m o f s = s.skipTile c := by
  unfold State.tileEffect
  simp only [h, if_true]
  rfl

theorem tileEffect_empty (h : s.tileSkipped m o = false) (hc : (s.core c).compacts o = true)
    (hr : (s.cmRows m o ((s.core c).cmStart o)).1 = []) : State.tileEffect c m o f s =
      (s.modCore c (·.setCursor (s.cmRows m o ((s.core c).cmStart o)).2)).skipTile c := by
  unfold State.tileEffect
  simp only [h, hc, hr, if_true, List.isEmpty_nil, Bool.false_eq_true, if_false]
  rfl

theorem tileEffect_dense (h : s.tileSkipped m o = false) (hc : (s.core c).compacts o = false) : ∃ fl n a,
    State.tileEffect c m o f s = s.loadTile c (s.denseTile m o f) fl n a ∧ (f ≠ .t2 → n = 0) := by
  unfold State.tileEffect
  simp only [h, hc, Bool.false_eq_true, if_false]
  refine ⟨_, _, _, rfl, fun hf => ?_⟩
  rw [if_neg hf]

theorem tileEffect_compact (h : s.tileSkipped m o = false) (hc : (s.core c).compacts o = true)
    (hr : (s.cmRows m o ((s.core c).cmStart o)).1 ≠ []) : ∃ fl n a, State.tileEffect c m o f s =
      (s.modCore c (·.setCursor (s.cmRows m o ((s.core c).cmStart o)).2)).loadTile c
        (s.compactTile m o f (s.cmRows m o ((s.core c).cmStart o)).1) fl n a ∧ (f ≠ .t2 → n = 0) := by
  unfold State.tileEffect
  simp only [h, hc, hr, if_true, List.isEmpty_iff, Bool.false_eq_true, if_false]
  refine ⟨_, _, _, rfl, fun hf => ?_⟩
  rw [if_neg hf]


/-! What a TILE finds is what it found before its issue. -/

theorem State.issueKeeps.tileSkipped (h : s.issueKeeps u) : u.tileSkipped m o = s.tileSkipped m o := by
  unfold State.tileSkipped
  rw [h.peek_eq]

theorem State.issueKeeps.cmRows (h : s.issueKeeps u) (start : Nat) : u.cmRows m o start = s.cmRows m o start := by
  unfold State.cmRows
  rw [h.peek_eq]

theorem State.issueKeeps.compacts (h : s.issueKeeps u) : (u.core c).compacts o = (s.core c).compacts o := by
  have hfixed := congrArg Core.fixedOrder (h.settled c)
  have hfixed' : (u.core c).fixedOrder = (s.core c).fixedOrder := hfixed
  rw [Core.compacts, hfixed', ← Core.compacts]

theorem State.issueKeeps.cmStart (h : s.issueKeeps u) : (u.core c).cmStart o = (s.core c).cmStart o := by
  have hcursor := congrArg Core.cursor (h.settled c)
  have hcursor' : (u.core c).cursor = (s.core c).cursor := hcursor
  rw [Core.cmStart, hcursor', ← Core.cmStart]

theorem State.issueKeeps.denseTile (h : s.issueKeeps u) : u.denseTile m o f = s.denseTile m o f := by
  unfold State.denseTile State.tileCells State.nmIndex
  rw [h.peek_eq]

theorem State.issueKeeps.compactTile (h : s.issueKeeps u) (rows : List Nat) :
    u.compactTile m o f rows = s.compactTile m o f rows := by
  unfold State.compactTile State.tileCells
  rw [h.peek_eq]

section
variable (hk : s.issueKeeps u)
include hk

theorem coreBecomes_tile_skipped (h : s.tileSkipped m o = true) :
    coreBecomes s (State.tileEffect c m o f u) c (s.core c).skipTile := by
  rw [tileEffect_skipped (hk.tileSkipped.trans h)]
  exact coreBecomes_skipTile (hk.coreBecomes c)

theorem coreBecomes_setCursor (n : Nat) :
    coreBecomes s (u.modCore c (·.setCursor n)) c ((s.core c).setCursor n) :=
  coreBecomes_modCore (hk.coreBecomes c) (·.setCursor n) fun _ => rfl

theorem coreBecomes_tile_empty (h : s.tileSkipped m o = false) (hc : (s.core c).compacts o = true)
    (hr : (s.cmRows m o ((s.core c).cmStart o)).1 = []) : coreBecomes s (State.tileEffect c m o f u) c
      ((s.core c).setCursor (s.cmRows m o ((s.core c).cmStart o)).2).skipTile := by
  rw [← hk.cmStart, ← hk.cmRows] at hr ⊢
  rw [tileEffect_empty (hk.tileSkipped.trans h) (hk.compacts.trans hc) hr]
  exact coreBecomes_skipTile (coreBecomes_setCursor hk _)

theorem coreBecomes_tile_dense (h : s.tileSkipped m o = false) (hc : (s.core c).compacts o = false) : ∃ fl n,
    coreBecomes s (State.tileEffect c m o f u) c (((s.core c).loadTile (s.denseTile m o f) fl).countT2 n) ∧
      (f ≠ .t2 → n = 0) := by
  obtain ⟨fl, n, a, he, hn⟩ := tileEffect_dense (c := c) (f := f) (hk.tileSkipped.trans h) (hk.compacts.trans hc)
  refine ⟨fl, n, ?_, hn⟩
  rw [he, hk.denseTile]
  exact coreBecomes_loadTile (hk.coreBecomes c) ..

theorem coreBecomes_tile_compact (h : s.tileSkipped m o = false) (hc : (s.core c).compacts o = true)
    (hr : (s.cmRows m o ((s.core c).cmStart o)).1 ≠ []) : ∃ fl n,
    coreBecomes s (State.tileEffect c m o f u) c
      ((((s.core c).setCursor (s.cmRows m o ((s.core c).cmStart o)).2).loadTile
        (s.compactTile m o f (s.cmRows m o ((s.core c).cmStart o)).1) fl).countT2 n) ∧ (f ≠ .t2 → n = 0) := by
  rw [← hk.cmStart, ← hk.cmRows] at hr
  obtain ⟨fl, n, a, he, hn⟩ := tileEffect_compact (f := f) (hk.tileSkipped.trans h) (hk.compacts.trans hc) hr
  refine ⟨fl, n, ?_, hn⟩
  rw [he, hk.compactTile, hk.cmStart, hk.cmRows]
  exact coreBecomes_loadTile (coreBecomes_setCursor hk _) ..

end

/-- Settles O26: what the bitmap and the channel mask leave decides which of its effects a TILE has; the tile's cells
are read back from the rows that it was filled with. -/
theorem tileFillsTheShadow : Obligations.TileFillsTheShadow := by
  unfold Obligations.TileFillsTheShadow
  intro i o f m s hr ht hu
  obtain ⟨u, hk, hx⟩ := exec_tile hr ht (hu.elim (usable_of_calm · _ _) id)
  have hweight : f.isWeight = true := by
    obtain ⟨-, -, -, -, hw, -⟩ := ht
    exact hw
  have hsparse : o.cmpct = true → o.sparse = 0 := by
    obtain ⟨-, -, -, hcm, -⟩ := ht
    exact hcm
  refine ⟨fun h => ⟨_, hx, coreBecomes_tile_skipped hk h⟩, fun h hc hrows => ⟨_, hx, coreBecomes_tile_empty hk h hc hrows⟩,
    fun h hrows => ?_⟩
  cases hc : (s.core i.core).compacts o
  · obtain ⟨fl, n, hb, hn⟩ := coreBecomes_tile_dense (f := f) hk h hc
    refine ⟨_, fl ||| (if n = 0 then 0 else flT2Bad), n, s.denseTile m o f, hx, ?_, hn, rfl, rfl,
      fun _ => ⟨rfl, ?_, ?_, ?_⟩, nofun⟩
    · rw [← BitVec.or_assoc]
      exact hb
    · exact fun x hx y hy v hv => denseTile_cells hweight hx hy hv
    · exact fun hs x hx y hy => denseTile_index hs hx hy
    · exact fun hf b hb => denseTile_scales hf hb
  · obtain ⟨fl, n, hb, hn⟩ := coreBecomes_tile_compact (f := f) hk h hc (hrows hc)
    refine ⟨_, fl ||| (if n = 0 then 0 else flT2Bad), n,
      s.compactTile m o f (s.cmRows m o ((s.core i.core).cmStart o)).1, hx, ?_, hn, rfl, ?_, nofun,
      fun _ => ⟨rfl, rfl, length_cmRows_le _, fun r hr => mem_cmRows hr⟩⟩
    · rw [← BitVec.or_assoc]
      exact hb
    · exact (hsparse (cmpct_of_compacts hc)).symm

end Sys2Proof.Machine
end

section
/-! PROOF. Packets put in motion by an engine of a core (R324, R332, R484), and what is in flight when an
instruction has its effect (R256). -/

namespace Sys2Proof.Machine

open Claims

variable {s t u v : State} {vc : Fin 8} {c : CoreId} {k : Core} {pkts rest : List Packet}

/-! Packets in motion. -/

/-- What decides where a packet goes, outside the cores: the chip, the routing unit and the links. -/
structure State.sameRoutes (s t : State) : Prop where
  chip : t.chipId = s.chipId
  rte : t.rte = s.rte
  links : t.links = s.links

theorem State.sameRoutes.isHere (h : s.sameRoutes t) : t.isHere = s.isHere := by
  funext p
  rw [State.isHere, h.chip, State.isHere]

theorem State.sameRoutes.route (h : s.sameRoutes t) : t.route = s.route := State.route_congr h.rte h.links

/-- Where a packet leaves: on the link of its route, or nowhere when it is for this chip. -/
def State.outLink (s : State) (vc : Fin 8) (p : Packet) : Option LinkId := if s.isHere p then none else s.route vc p

theorem State.sameRoutes.outLink (h : s.sameRoutes t) : t.outLink = s.outLink := by
  funext vc p
  rw [State.outLink, h.isHere, h.route, State.outLink]

/-- A partition that differs by its records alone, and not at all when it is unpaired. -/
def Part.records (a b : Part) : Prop := a = { b with ls := a.ls } ∧ (a.ls.paired = false → b = a)

theorem Part.records_refl (a : Part) : a.records a := ⟨rfl, fun _ => rfl⟩

theorem Part.records_trans {a b d : Part} (h : a.records b) (h' : b.records d) : a.records d := by
  obtain ⟨he, hp⟩ := h
  obtain ⟨he', hp'⟩ := h'
  refine ⟨?_, fun hn => ?_⟩
  · rw [he, he']
  · rw [hp' (by rwa [hp hn]), hp hn]

theorem Part.records_record (a : Part) (rank unit : Nat) (p : Packet) : a.records (a.record rank unit p) := by
  unfold Part.record
  split
  · next hp => exact ⟨rfl, fun hn => absurd (hp.symm.trans hn) (by decide)⟩
  · exact a.records_refl

/-- Packets have been added to those in motion, and to the records of paired partitions; nothing else has changed. -/
structure State.launched (s t : State) (vc : Fin 8) (pkts : List Packet) : Prop where
  outside : { t with transit := s.transit, parts := s.parts } = s
  transit : ∃ ms, t.transit = s.transit ++ ms ∧ ms.map (fun m => (m.vc, m.pkt)) = pkts.map (fun p => (vc, p)) ∧
    ∀ m ∈ ms, m.link = s.outLink vc m.pkt
  parts : ∀ p, (s.part p).records (t.part p)

theorem State.launched.sameRoutes (h : s.launched t vc pkts) : s.sameRoutes t := by
  have h' := h.outside
  refine ⟨?_, ?_, ?_⟩
  · have := congrArg State.chipId h'; exact this
  · have := congrArg State.rte h'; exact this
  · have := congrArg State.links h'; exact this

theorem State.launched.cores (h : s.launched t vc pkts) : t.cores = s.cores := by
  have := congrArg State.cores h.outside
  exact this

theorem State.launched_refl (s : State) : s.launched s vc [] :=
  ⟨rfl, ⟨[], (List.append_nil _).symm, rfl, nofun⟩, fun p => (s.part p).records_refl⟩

theorem State.launched.trans (h : s.launched u vc pkts) (h' : u.launched t vc rest) :
    s.launched t vc (pkts ++ rest) := by
  obtain ⟨ms, htransit, hmap, hlink⟩ := h.transit
  obtain ⟨ns, htransit', hmap', hlink'⟩ := h'.transit
  refine ⟨?_, ⟨ms ++ ns, ?_, ?_, ?_⟩, fun p => Part.records_trans (h.parts p) (h'.parts p)⟩
  · have := h.outside
    rw [← h'.outside] at this
    exact this
  · rw [htransit', htransit, List.append_assoc]
  · rw [List.map_append, List.map_append, hmap, hmap']
  · intro m hm
    rcases List.mem_append.1 hm with hm | hm
    · exact hlink m hm
    · rw [hlink' m hm, h.sameRoutes.outLink]

/-- A packet that is for this chip or finds a route is launched. -/
theorem State.launch_routed {p : Packet} (h : s.isHere p = true ∨ (s.route vc p).isSome = true) :
    ∃ path, s.launch vc p =
      some { s with transit := s.transit ++ [{ vc := vc, pkt := p, link := s.outLink vc p, path := path }] } := by
  unfold State.launch State.outLink
  by_cases hh : s.isHere p = true
  · rw [if_pos hh, if_pos hh]
    exact ⟨_, rfl⟩
  · obtain ⟨l, hl⟩ := Option.isSome_iff_exists.1 (h.resolve_left hh)
    rw [if_neg hh, if_neg hh, hl]
    exact ⟨_, rfl⟩

theorem State.send_routed {p : Packet} (h : s.isHere p = true ∨ (s.route vc p).isSome = true) (a : PartId)
    (rank unit : Nat) : ∃ t, s.send a rank unit vc p = some t ∧ s.launched t vc [p] := by
  have hroutes : s.sameRoutes (s.modPart a (fun k => k.record rank unit p)) := ⟨rfl, rfl, rfl⟩
  obtain ⟨path, he⟩ := State.launch_routed (s := s.modPart a (fun k => k.record rank unit p)) (vc := vc) (p := p)
    (by rwa [hroutes.isHere, hroutes.route])
  refine ⟨_, he, rfl, ⟨[_], rfl, rfl, fun m hm => ?_⟩, fun x => ?_⟩
  · rw [List.mem_singleton.1 hm, hroutes.outLink]
  · have hx : ((s.modPart a (fun k => k.record rank unit p)).part x) =
        if x = a then (s.part a).record rank unit p else s.part x := s.part_modPart a _ x
    change (s.part x).records ((s.modPart a (fun k => k.record rank unit p)).part x)
    rw [hx]
    split
    · next e => rw [e]; exact Part.records_record ..
    · exact Part.records_refl _

theorem State.sendAll_routed (a : PartId) (rank unit : Nat) : ∀ (pkts : List Packet) (s : State), routed s vc pkts →
    ∃ t, s.sendAll a rank unit vc pkts = (t, false) ∧ s.launched t vc pkts
  | [], s, _ => ⟨s, rfl, s.launched_refl⟩
  | p :: pkts, s, h => by
    obtain ⟨hp, hrest⟩ := List.forall_mem_cons.1 h
    obtain ⟨u, hu, hlu⟩ := State.send_routed hp a rank unit
    obtain ⟨t, ht, hlt⟩ := State.sendAll_routed a rank unit pkts u fun x hx => by
      rw [hlu.sameRoutes.isHere, hlu.sameRoutes.route]
      exact hrest x hx
    refine ⟨t, ?_, hlu.trans hlt⟩
    rw [State.sendAll, hu]
    exact ht

/-- Packets launched from a state that only the cores and the log set apart are in motion. -/
theorem State.launched.inMotion (h : u.launched t vc pkts) (hout : s.sameOutside u) : inMotion s t vc pkts := by
  have hout' : { u with cores := s.cores, evlog := s.evlog, draws := s.draws } = s := hout
  have htransit : u.transit = s.transit := by
    have := congrArg State.transit hout'
    exact this
  have hparts : u.part = s.part := by
    have := congrArg State.part hout'
    exact this
  have hpartlist : u.parts = s.parts := by
    have := congrArg State.parts hout'
    exact this
  have hroutes : s.sameRoutes u := by
    refine ⟨?_, ?_, ?_⟩
    · have := congrArg State.chipId hout'; exact this
    · have := congrArg State.rte hout'; exact this
    · have := congrArg State.links hout'; exact this
  obtain ⟨ms, hms, hmap, hlink⟩ := h.transit
  refine ⟨?_, ?_, ?_, fun p => ?_⟩
  · have hs := hout'
    rw [← h.outside, htransit, hpartlist] at hs
    exact hs.symm
  · rw [hms, htransit, List.map_append, hmap]
  · rw [hms, htransit, List.drop_left]
    intro m hm
    rw [hlink m hm, hroutes.outLink]
    rfl
  · rw [← hparts]
    exact h.parts p

/-- A core changed, and then packets launched. -/
theorem sentBy_of_coreBecomes (h : coreBecomes s u c k) (hl : u.launched t vc pkts) : sentBy s t c k vc pkts := by
  obtain ⟨hout, hother, hcore⟩ := h
  have ht : ∀ x, t.core x = u.core x := fun x => by rw [State.core, hl.cores, State.core]
  refine ⟨hl.inMotion hout, fun x hx => ?_, ?_⟩
  · rw [ht]
    exact hother x hx
  · rw [ht, hcore]


section
variable {s t u v : State} {vc : Fin 8} {c : CoreId} {k : Core} {q : QueueId} {op : BitVec 8} {i : Issue}

/-! The instructions in flight, before an instruction's own joins them. -/

/-- The instructions in flight on every core are the same. -/
structure State.sameInflight (s t : State) : Prop where
  core : ∀ x, (t.core x).inflight = (s.core x).inflight

theorem State.sameInflight_refl (s : State) : s.sameInflight s := ⟨fun _ => rfl⟩

theorem State.sameInflight.modCore (h : s.sameInflight t) {f : Core → Core} (hf : ∀ k, (f k).inflight = k.inflight) :
    s.sameInflight (t.modCore c f) := by
  refine ⟨fun x => ?_⟩
  rw [State.core_modCore]
  split
  · next e => rw [hf, e, h.core]
  · exact h.core x

theorem State.sameInflight.log (h : s.sameInflight t) (code : Nat) (src : BitVec 16) (p0 p1 p2 p3 : Nat) :
    s.sameInflight (t.log code src p0 p1 p2 p3) :=
  ⟨fun x => by rw [State.core_log, h.core]⟩

theorem State.sameInflight.addSlip (h : s.sameInflight t) (c : CoreId) (p : BitVec 16) (n : Nat) (l : BitVec 16)
    (mark : Marks → Bool) (set : Marks → Marks) : s.sameInflight (t.addSlip c q p n l mark set) := by
  unfold State.addSlip
  dsimp only
  split
  · refine ((h.modCore ?_).modCore ?_).log ..
    · exact fun _ => rfl
    · exact fun _ => rfl
  · exact h.modCore fun _ => rfl

theorem State.sameInflight_begun (s : State) (q : QueueId) (i : Issue) : s.sameInflight (s.begun q i) := by
  have hstall : s.sameInflight (s.addStall q i i.stalled) := by
    unfold State.addStall
    split
    · exact s.sameInflight_refl.modCore fun _ => rfl
    · exact s.sameInflight_refl
  unfold State.begun State.waitsMet
  split
  · exact hstall
  · exact (hstall.addSlip ..).modCore fun _ => rfl

theorem State.sameInflight.corrected (h : s.sameInflight t) (c : CoreId) (a : Nat) (syms : List (Nat × Nat)) (b : Bool) :
    s.sameInflight (t.corrected c a syms b) := by
  unfold State.corrected
  dsimp only
  split
  · exact h.modCore fun _ => rfl
  · refine ((h.modCore ?_).modCore ?_).log ..
    · exact fun _ => rfl
    · exact fun _ => rfl

theorem State.sameInflight.corrections : ∀ (l : List (CoreId × Nat)) {t : State}, s.sameInflight t →
    s.sameInflight (t.corrections l)
  | [], _, h => h
  | (c, a) :: l, t, h => by
    unfold State.corrections
    refine State.sameInflight.corrections l ?_
    split
    · exact h.corrected ..
    · exact h

theorem State.sameInflight.unhold (h : s.sameInflight t) (q : QueueId) (c : CoreId) : s.sameInflight (t.unhold q c) := by
  unfold State.unhold
  refine List.foldlRecOn (motive := fun t => s.sameInflight t) _ _ h fun t ht x _ => ?_
  split
  · exact ht
  · exact ht.modCore fun _ => rfl

/-- The instruction joins those in flight. -/
theorem State.inflight_started (s : State) (q : QueueId) (op : BitVec 8) (i : Issue) (reads : List (CoreId × Nat))
    (due : State → Until) (d : Until) (hd : ∀ u, due u = d) : ∃ e : Bool,
    ((s.started q op i reads due).core i.core).inflight = (s.core i.core).inflight ++
      [{ q := q, op := op, qpos := i.qpos, hdr := { i.hdr with kend := e }, due := d }] := by
  have hbefore : s.sameInflight (((s.begun q i).corrections reads).unhold q i.core) :=
    ((s.sameInflight_begun q i).corrections reads).unhold q i.core
  unfold State.started State.issued
  extract_lets u v k last w
  have hvec : s.sameInflight v := by
    unfold v
    split
    · exact hbefore.modCore fun _ => rfl
    · exact hbefore
  have hall : s.sameInflight w := hvec.modCore fun _ => rfl
  refine ⟨i.hdr.kend || last, ?_⟩
  rw [State.core_modCore_self, hall.core, hd]

end

end Sys2Proof.Machine
end

section
/-! PROOF. The instructions of the Mule and the forwarding PASS (R78, R88, R161 to R165). -/

namespace Sys2Proof.Machine

open Claims

section
variable {s t u v : State} {vc : Fin 8} {c : CoreId} {k : Core} {i : Issue}

theorem State.modCore_modCore (s : State) (c : CoreId) (f g : Core → Core) :
    (s.modCore c f).modCore c g = s.modCore c (fun k => g (f k)) := by
  have h := s.core_modCore_self c f
  rw [State.modCore_eq (s := s.modCore c f), h, State.modCore_eq, State.modCore_eq]
  simp [State.setCore]

/-! MSTREAM (R161). -/

theorem mstreamPlan_eq {o : StreamOp} (hp : o.passes ≠ 0) (hpart : o.part.toNat < 12) : State.mstreamPlan i o s =
    .run [] [] (fun _ => .now) (fun s =>
      s.modCore i.core (fun k => { k with streams := alSet k.streams o.stream.toNat (StreamOp.toStream o) })) := by
  have hrej : firstReason [(decide (o.passes = 0), 2), (decide (12 ≤ o.part.toNat), 3)] = none := by
    simpa [firstReason_eq_none] using ⟨hp, hpart⟩
  simp only [State.mstreamPlan, hrej]

theorem exec_mstream {o : StreamOp} (hr : s.Ready qMule i) (hp : o.passes ≠ 0) (hpart : o.part.toNat < 12) :
    ∃ t, exec (.mstream i o) s = .next t ∧ coreBecomes s t i.core { s.core i.core with
      streams := alSet (s.core i.core).streams o.stream.toNat (StreamOp.toStream o) } := by
  have he := mstreamPlan_eq (s := s) (i := i) hp hpart
  obtain ⟨u, hk, hx⟩ := State.present_usable (op := 0xE0) (plan := State.mstreamPlan i o) hr
    (by rw [he]; exact planUsable_run.2 ⟨nofun, nofun⟩) (by rw [he]; rfl) (by rw [he]; rfl)
  exact ⟨_, congrArg Host.Outcome.next hx, coreBecomes_modCore (hk.coreBecomes i.core)
    (fun k => { k with streams := alSet k.streams o.stream.toNat (StreamOp.toStream o) }) fun _ => rfl⟩

theorem streams_of_settled {k k' : Core} (h : k'.settled = k.settled) : k'.streams = k.streams := by
  have := congrArg Core.streams h
  exact this

/-! MREDUCE (R163, R164). -/

/-- Accumulator rows set to +0, and the others as they were. -/
theorem smGet_smFilter {w : Nat} (p : Nat → Bool) : ∀ (m : SMap w) (a : Nat),
    smGet (smFilter p m) a = if p a then smGet m a else 0
  | [], a => by simp [smFilter]
  | (x, v) :: m, a => by
    have ih : smGet (m.filter (fun c => p c.1)) a = if p a then smGet m a else 0 := smGet_smFilter p m a
    rw [smFilter, List.filter_cons]
    by_cases hx : x = a
    · subst hx
      cases hp : p x <;> simp [smGet, ih, hp]
    · cases p x <;> simp [smGet, ih, hx]

section
variable {o : ReduceOp}

theorem reduceReject_empty (he : reduceEmpty o = true)
    (hf : (s.core c).fixedOrder = true → o.sources.toNat ≤ 128) : s.reduceReject c o = none := by
  simpa [State.reduceReject, firstReason_eq_none, he] using hf

theorem reduceReject_pass (hf : (s.core c).fixedOrder = true → o.sources.toNat ≤ 128)
    (hacc : o.accBase.toNat + o.rows.toNat ≤ 4096)
    (hp : pastMem o.srclist.toNat (wordsFor o.sources.toNat 32) = false)
    (hs : s.special (partOf c) o.win.toNat = false) (hw : s.windowTaken (partOf c) o.win.toNat = false)
    (hregions : (s.core c).regions.length < 16) : s.reduceReject c o = none := by
  simpa [State.reduceReject, firstReason_eq_none, hp, hs, hw] using ⟨hf, fun _ => hacc, fun _ => hregions⟩

theorem mreducePlan_eq (he : reduceEmpty o = false) (hrej : s.reduceReject i.core o = none)
    (ha : ascending (s.srcList i.core o) = true)
    (hf : (s.core i.core).fixedOrder = true → (s.core i.core).reserved + o.sources.toNat ≤ 128) :
    State.mreducePlan i o s =
      .need (wordsAt i.core o.srclist.toNat (wordsFor o.sources.toNat 32))
        (.run (wordsAt i.core o.srclist.toNat (wordsFor o.sources.toNat 32)) [] (fun _ => .region o.win.toNat)
          (State.reduceEffect i.core o)) := by
  have hasc : firstReason [(!(ascending (s.srcList i.core o)), 4)] = none := by
    simp [firstReason_eq_none, ha]
  have hfix : ¬ ((s.core i.core).fixedOrder = true ∧ 128 < (s.core i.core).reserved + o.sources.toNat) := by
    rintro ⟨h, hlt⟩
    have := hf h
    omega
  simp only [State.mreducePlan, hrej, Todo.unless, he, hasc, Bool.false_eq_true, if_false, if_neg hfix]

theorem mreducePlan_nop (he : reduceEmpty o = true) (hrej : s.reduceReject i.core o = none) :
    State.mreducePlan i o s = .nop := by
  simp only [State.mreducePlan, hrej, Todo.unless, he, if_true]

/-- The region that a MREDUCE opens. -/
def State.regionOf (s : State) (c : CoreId) (o : ReduceOp) : Region :=
  { win := o.win, accBase := o.accBase, rows := o.rows, sources := s.srcList c o }

/-- What a MREDUCE leaves in its core: its region is open, and INIT sets its rows to +0. -/
def Core.reduced (k : Core) (o : ReduceOp) (r : Region) : Core :=
  { k with
    regions := k.regions ++ [r],
    array := { k.array with
      acc := if o.init then accZero k.array.acc o.accBase.toNat o.rows.toNat else k.array.acc } }

theorem reduceEffect_eq (h : (s.part (partOf c)).heldPkts = []) :
    State.reduceEffect c o s = s.modCore c (·.reduced o (s.regionOf c o)) := by
  unfold State.reduceEffect
  dsimp only
  rw [State.reland_of_no_heldPkts]
  · cases hi : o.init
    · simp only [Bool.false_eq_true, if_false, Core.reduced, hi]
      rfl
    · simp only [if_true, Core.reduced, hi, State.modArray, State.modCore_modCore]
      rfl
  · split <;> exact h

theorem smGet_reduced (k : Core) (r : Region) (x : Nat) : smGet (k.reduced o r).array.acc x =
    if o.init = true ∧ 128 * o.accBase.toNat ≤ x ∧ x < 128 * (o.accBase.toNat + o.rows.toNat) then 0
    else smGet k.array.acc x := by
  unfold Core.reduced
  dsimp only
  cases o.init
  · simp
  · rw [if_pos rfl, accZero, smGet_smFilter]
    by_cases h : 128 * o.accBase.toNat ≤ x ∧ x < 128 * (o.accBase.toNat + o.rows.toNat)
    · rw [if_neg (by simp; omega), if_pos ⟨rfl, h⟩]
    · rw [if_pos (by simp; omega), if_neg (by tauto)]

end

end

section
variable {s t u v : State} {vc : Fin 8} {c : CoreId} {k : Core} {i : Issue}

section
variable {o : ReduceOp}

theorem State.issueKeeps.regionOf (h : s.issueKeeps u) : u.regionOf c o = s.regionOf c o := by
  unfold State.regionOf State.srcList State.u32At
  rw [h.peek_eq]

/-- A MREDUCE that nothing rejects opens its region and stays in flight until that ends. -/
theorem exec_mreduce (hr : s.Ready qMule i) (he : reduceEmpty o = false) (hrej : s.reduceReject i.core o = none)
    (ha : ascending (s.srcList i.core o) = true)
    (hf : (s.core i.core).fixedOrder = true → (s.core i.core).reserved + o.sources.toNat ≤ 128)
    (hh : (s.part (partOf i.core)).heldPkts = [])
    (hu : usable s (wordsAt i.core o.srclist.toNat (wordsFor o.sources.toNat 32)) []) :
    ∃ (t : State) (e : Bool), exec (.mreduce i o) s = .next t ∧
      coreBecomes s t i.core ((s.core i.core).reduced o (s.regionOf i.core o)) ∧
      (t.core i.core).inflight = (s.core i.core).inflight ++
        [{ q := qMule, op := 0xE1, qpos := i.qpos, hdr := { i.hdr with kend := e }, due := .region o.win.toNat }] := by
  have hp := mreducePlan_eq he hrej ha hf
  obtain ⟨hg, hread⟩ := hu
  rw [List.append_nil] at hg
  have hfirst : (State.mreducePlan i o s).first = wordsAt i.core o.srclist.toNat (wordsFor o.sources.toNat 32) := by
    rw [hp]
    exact List.append_nil _
  have hx := State.present_started (op := 0xE1) (plan := State.mreducePlan i o) hr (by rwa [hfirst]) (by rwa [hfirst])
    (by rw [hp]; rfl) (by rw [hp]; rfl) (by rwa [List.append_nil]) hread
  have hk := s.issueKeeps_started qMule 0xE1 i (wordsAt i.core o.srclist.toNat (wordsFor o.sources.toNat 32))
    (fun _ => .region o.win.toNat)
  obtain ⟨e, hin⟩ := s.inflight_started qMule 0xE1 i (wordsAt i.core o.srclist.toNat (wordsFor o.sources.toNat 32))
    (fun _ => .region o.win.toNat) (.region o.win.toNat) fun _ => rfl
  rw [reduceEffect_eq (by rwa [hk.part]), hk.regionOf] at hx
  refine ⟨_, e, congrArg Host.Outcome.next hx,
    coreBecomes_modCore (hk.coreBecomes i.core) (·.reduced o (s.regionOf i.core o)) fun _ => rfl, ?_⟩
  rw [State.core_modCore_self]
  exact hin

theorem exec_mreduce_empty (hr : s.Ready qMule i) (he : reduceEmpty o = true)
    (hf : (s.core i.core).fixedOrder = true → o.sources.toNat ≤ 128) :
    ∃ t, exec (.mreduce i o) s = .next t ∧ coreBecomes s t i.core (s.core i.core) :=
  ⟨_, rfl, (State.present_nop (op := 0xE1) (plan := State.mreducePlan i o) hr
    (mreducePlan_nop he (reduceReject_empty he hf))).coreBecomes i.core⟩

end

/-! Rows fed into a stream (R88, R162, R324). -/

/-- A stream after an instruction has fed `n` rows into it (R161). -/
def Stream.fed (x : Stream) (n : Nat) : Stream :=
  { x with rows := if x.done + 1 = x.passes.toNat then 0 else x.rows + n,
           done := if x.done + 1 = x.passes.toNat then 0 else x.done + 1 }

/-- The core after the rows: their flags and the stream's counts. -/
def Core.fed (k : Core) (n : Nat) (x : Stream) (rows : Nat) (fl : FmtFlags) : Core :=
  { k with flags := k.flags ||| fl, streams := alSet k.streams n (x.fed rows) }

/-- The state in which the rows have been fed into the stream. -/
def State.fed (s : State) (c : CoreId) (n : Nat) (x : Stream) (rows : Nat) (fl : FmtFlags) : State :=
  (s.flag c fl).modCore c (fun k => { k with streams := alSet k.streams n (x.fed rows) })

theorem coreBecomes_fed (h : coreBecomes s t c k) (n : Nat) (x : Stream) (rows : Nat) (fl : FmtFlags) :
    coreBecomes s (t.fed c n x rows fl) c (k.fed n x rows fl) :=
  coreBecomes_modCore (coreBecomes_modCore h (fun k => { k with flags := k.flags ||| fl }) fun _ => rfl)
    (fun k => { k with streams := alSet k.streams n (x.fed rows) }) fun _ => rfl

theorem muleSend_eq (s : State) (c : CoreId) (n : Nat) (x : Stream) (b : Bool) (w : Nat) (rows : List (List (BitVec 32))) :
    s.muleSend c n x b w rows = (s.fed c n x rows.length (s.muleRows c x b rows).2).sendAll (partOf c)
      ((s.fed c n x rows.length (s.muleRows c x b rows).2).rankOf c) 1 (vcOf x.cls.toNat false)
      (s.mulePackets c x b w (s.muleRows c x b rows).1) := by
  unfold State.muleSend
  simp only [beq_iff_eq]
  rfl

theorem muleRows_congr (hp : u.peek c = s.peek c) (x : Stream) (b : Bool) (rows : List (List (BitVec 32))) :
    u.muleRows c x b rows = s.muleRows c x b rows := by
  unfold State.muleRows State.ridx State.u32At
  rw [hp]

theorem State.sameOutside.sameRoutes (h : s.sameOutside u) : s.sameRoutes u := by
  refine ⟨?_, ?_, ?_⟩
  · have := congrArg State.chipId h; exact this
  · have := congrArg State.rte h; exact this
  · have := congrArg State.links h; exact this

theorem State.sameOutside.rankOf (h : s.sameOutside u) : u.rankOf = s.rankOf := by
  have hd := congrArg State.domOff h
  change u.domOff = s.domOff at hd
  funext c
  unfold State.rankOf State.ranks State.enabled
  rw [hd]

theorem mulePackets_congr (h : s.sameOutside u) (x : Stream) (b : Bool) (w : Nat) (rows : List (Nat × List Byte)) :
    u.mulePackets c x b w rows = s.mulePackets c x b w rows := by
  unfold State.mulePackets State.mulePacket mkPacket
  rw [h.rankOf, h.sameRoutes.chip, h.sameRoutes.rte]

/-- Rows fed into a stream whose packets all find their way. -/
theorem muleSend_sentBy (h : coreBecomes s u c k) (hp : u.peek c = s.peek c) (n : Nat) (x : Stream) (b : Bool) (w : Nat)
    (rows : List (List (BitVec 32)))
    (hr : routed s (vcOf x.cls.toNat false) (s.mulePackets c x b w (s.muleRows c x b rows).1)) :
    ∃ t, u.muleSend c n x b w rows = (t, false) ∧
      sentBy s t c (k.fed n x rows.length (s.muleRows c x b rows).2) (vcOf x.cls.toNat false)
        (s.mulePackets c x b w (s.muleRows c x b rows).1) := by
  have hfed := coreBecomes_fed h n x rows.length (s.muleRows c x b rows).2
  have hout : s.sameOutside u := h.1
  have hroutes : s.sameRoutes (u.fed c n x rows.length (s.muleRows c x b rows).2) := State.sameOutside.sameRoutes hfed.1
  obtain ⟨t, ht, hl⟩ := State.sendAll_routed (s := u.fed c n x rows.length (s.muleRows c x b rows).2)
    (partOf c) ((u.fed c n x rows.length (s.muleRows c x b rows).2).rankOf c) 1 _ fun p hm => by
      rw [hroutes.isHere, hroutes.route]
      exact hr p hm
  refine ⟨t, ?_, sentBy_of_coreBecomes hfed hl⟩
  rw [muleSend_eq, muleRows_congr hp, mulePackets_congr hout]
  exact ht

end

section
variable {s t u v : State} {vc : Fin 8} {c m : CoreId} {k : Core} {i : Issue} {x : Stream}

/-! What a stream takes (R162, R166). -/

theorem badRidx_eq_false {l : List (BitVec 32)} (h : ∀ y ∈ l, y ≠ 0xFFFFFFFF → y.toNat < 4096) : badRidx l = false := by
  simpa [badRidx] using h

theorem badRidx_of_streamTakes {n : Nat} (h : streamTakes s c x n) : badRidx (s.ridx c x x.rows n) = false := by
  obtain ⟨-, hidx⟩ := h
  exact badRidx_eq_false hidx

theorem pastMem_empty (a : Nat) : pastMem a (wordsFor 0 32) = false := by
  simp [pastMem, wordsFor]

/-- The lists of a stream lie in memory for the rows that it is fed. -/
theorem pastMem_of_streamTakes {n : Nat} (h : streamTakes s c x n) :
    pastMem x.ridx.toNat (wordsFor (if n = 0 then 0 else x.rows + n) 32) = false ∧
    (x.rscen = true → pastMem x.rsc.toNat (wordsFor (if n = 0 then 0 else x.rows + n) 32) = false) := by
  obtain ⟨hr, -⟩ := h
  by_cases hn : n = 0
  · simp only [hn, if_true]
    exact ⟨pastMem_empty _, fun _ => pastMem_empty _⟩
  · simp only [hn, if_false]
    exact hr hn

/-- A plan whose first reads are among its reads. -/
theorem planUsable_need {a b w : List (CoreId × Nat)} {due : State → Until} {eff : State → State}
    (h : usable s (a ++ b) w) : planUsable s (.need a (.run (a ++ b) w due eff)) := by
  obtain ⟨hg, hr⟩ := h
  refine ⟨a ++ b, w, due, eff, rfl, ?_, ?_⟩
  · simp only [Todo.first, Todo.soft, List.append_nil, List.append_assoc]
    rw [List.append_assoc] at hg
    exact groupsOn_append.2 ⟨(groupsOn_append.1 hg).1, hg⟩
  · simp only [Todo.first, Todo.soft, List.append_nil]
    exact readable_append.2 ⟨(readable_append.1 hr).1, hr⟩

/-! MSEND (R165). -/

section
variable {o : MsendOp}

/-- The words that a MSEND reads beside its indices: the factors, and its rows where they lie in memory. -/
def msendReads (c m : CoreId) (o : MsendOp) (x : Stream) : List (CoreId × Nat) :=
  (if x.rscen then listWords x.rsc.toNat x.rows o.count.toNat else []).map (fun y => (c, y)) ++
    (if o.src then wordsAt m o.maddr.toNat (o.count.toNat * msendRowWords o) else [])

/-- The effect of a MSEND: its rows are fed into the stream, and a packet without a route stops the queue (R332). -/
def msendEffect (c m : CoreId) (o : MsendOp) (x : Stream) (s : State) : State :=
  let r := s.muleSend c o.stream.toNat x (o.fmt == 1) (msendW o) (s.msendRows c m o)
  if r.2 then r.1.broken c qMule else r.1

theorem msendReject_pass (hf : o.fmt.toNat < 2) (hw : o.w ≠ 3) (hsel : selNames s c o.msel)
    (hx : alGet (s.core c).streams o.stream.toNat = some x)
    (hacc : o.src = false → o.count ≠ 0 → o.accBase.toNat + o.count.toNat * msendW o ≤ 4096)
    (hmem : o.src = true → pastMem o.maddr.toNat (o.count.toNat * msendRowWords o) = false)
    (hs : streamTakes s c x o.count.toNat) : s.msendReject c o = none := by
  obtain ⟨hres, hnames⟩ := hsel
  obtain ⟨hridx, hrsc⟩ := pastMem_of_streamTakes hs
  have hmiss : (s.sel c o.msel).isNone = false := by
    rw [Option.isNone_eq_false_iff, Option.isSome_iff_ne_none]
    exact hnames
  have hcount : o.count.toNat ≠ 0 → o.count ≠ 0 := fun h h0 => h (by rw [h0]; rfl)
  have hspace : o.src = false → ¬ o.count.toNat = 0 → o.accBase.toNat + o.count.toNat * msendW o ≤ 4096 :=
    fun h0 hn => hacc h0 (hcount hn)
  unfold State.msendReject
  dsimp only
  rw [hx]
  refine firstReason_append_eq_none.2 ⟨?_, ?_⟩
  · simp only [firstReason_eq_none, xferSel, State.selMissing, hmiss, selector_taken hres]
    have hfmt : decide (2 ≤ o.fmt.toNat) = false := decide_eq_false (by omega)
    have hmem' : (o.src && pastMem o.maddr.toNat (o.count.toNat * msendRowWords o)) = false := by
      simpa using hmem
    simpa [hfmt, hmem'] using ⟨hw, hspace⟩
  · simpa [firstReason_eq_none, hridx] using hrsc

theorem msendPlan_eq (hrej : s.msendReject i.core o = none) (hn : o.count.toNat ≠ 0)
    (hx : alGet (s.core i.core).streams o.stream.toNat = some x)
    (hm : o.src = true → s.sel i.core o.msel = some m) (hm' : o.src = false → m = i.core)
    (hs : streamTakes s i.core x o.count.toNat) : State.msendPlan i o s =
      .need ((listWords x.ridx.toNat x.rows o.count.toNat).map (fun y => (i.core, y)))
        (.run ((listWords x.ridx.toNat x.rows o.count.toNat).map (fun y => (i.core, y)) ++ msendReads i.core m o x) []
          (fun _ => .now) (msendEffect i.core m o x)) := by
  have hbad : firstReason [(badRidx (s.ridx i.core x x.rows o.count.toNat), 4)] = none := by
    simp [firstReason_eq_none, badRidx_of_streamTakes hs]
  have hsrc : (if o.src then (s.sel i.core o.msel).getD i.core else i.core) = m := by
    cases h : o.src
    · exact (hm' h).symm
    · simp [hm h]
  simp only [State.msendPlan, hrej, Todo.unless, if_neg hn, hx, hsrc, hbad]
  rfl

theorem msendRows_congr (h : s.issueKeeps u) : u.msendRows c m o = s.msendRows c m o := by
  unfold State.msendRows
  rw [h.peek_eq, h.array]

theorem length_msendRows : (s.msendRows c m o).length = o.count.toNat := by
  simp [State.msendRows]

theorem exec_msend (hr : s.Ready qMule i) (hrej : s.msendReject i.core o = none) (hn : o.count.toNat ≠ 0)
    (hx : alGet (s.core i.core).streams o.stream.toNat = some x)
    (hm : o.src = true → s.sel i.core o.msel = some m) (hm' : o.src = false → m = i.core)
    (hs : streamTakes s i.core x o.count.toNat)
    (hu : usable s ((listWords x.ridx.toNat x.rows o.count.toNat).map (fun y => (i.core, y)) ++ msendReads i.core m o x) [])
    (hroute : routed s (vcOf x.cls.toNat false) (s.mulePackets i.core x (o.fmt == 1) (msendW o)
      (s.muleRows i.core x (o.fmt == 1) (s.msendRows i.core m o)).1)) :
    ∃ t, exec (.msend i o) s = .next t ∧ sentBy s t i.core
      ((s.core i.core).fed o.stream.toNat x o.count.toNat (s.muleRows i.core x (o.fmt == 1) (s.msendRows i.core m o)).2)
      (vcOf x.cls.toNat false) (s.mulePackets i.core x (o.fmt == 1) (msendW o)
        (s.muleRows i.core x (o.fmt == 1) (s.msendRows i.core m o)).1) := by
  have hp := msendPlan_eq hrej hn hx hm hm' hs
  obtain ⟨u, hk, hpres⟩ := State.present_usable (op := 0xE2) (plan := State.msendPlan i o) hr
    (by rw [hp]; exact planUsable_need hu) (by rw [hp]; rfl) (by rw [hp]; rfl)
  obtain ⟨t, ht, hsent⟩ := muleSend_sentBy (hk.coreBecomes i.core) (congrFun hk.peek_eq i.core) o.stream.toNat x
    (o.fmt == 1) (msendW o) (s.msendRows i.core m o) hroute
  rw [length_msendRows] at hsent
  refine ⟨t, congrArg Host.Outcome.next (hpres.trans ?_), hsent⟩
  rw [msendEffect, msendRows_congr hk, ht]
  rfl

end

end

section
variable {s t u v : State} {c : CoreId} {k : Core} {i : Issue} {x : Stream} {o : PassOp} {h : PassHolds}
  {src : CoreId} {wf af : Fmt} {w : Nat}

/-! PASS with forwarding (R67, R78, R88, R162). -/

/-- The rows that a PASS computes. -/
def State.passRows (s : State) (i : Issue) (o : PassOp) (src : CoreId) (wf af : Fmt) : List (List (BitVec 32)) :=
  (s.passOuts i o src wf af false).map (fun r => r.map (·.1))

theorem length_passRows : (s.passRows i o src wf af).length = rowsRun s i o src := by
  rw [State.passRows, List.length_map, length_passOuts]

theorem State.issueKeeps.passRows (hk : s.issueKeeps u) : u.passRows i o src wf af = s.passRows i o src wf af := by
  simp only [State.passRows, State.passOuts, State.passResults, freeRow, hk.array, hk.feedWord, hk.rowsRun, hk.draws]

/-- On a tile that suits the PASS its rows are the sums of the columns. -/
theorem passRows_eq (hs : ((s.core i.core).array.taken o).1.suits o) : s.passRows i o src wf af =
    (List.range (rowsRun s i o src)).map (fun r => (List.range (128 * wf.perReg)).map (fun y =>
      (columnF (actOf s i o src af r) ((s.core i.core).array.taken o).1 wf (y / wf.perReg) (y % wf.perReg)
        ((s.core i.core).array.passStart o wf.perReg r y)).1)) := by
  refine List.ext_getElem? fun r => ?_
  rw [State.passRows, List.getElem?_map, List.getElem?_map]
  by_cases hr : r < rowsRun s i o src
  · rw [passOuts_getElem? hs hr, List.getElem?_range hr, Option.map_some, Option.map_some, passRow, List.map_map]
    rfl
  · rw [List.getElem?_eq_none (by rw [length_passOuts]; omega), List.getElem?_eq_none (by rw [List.length_range]; omega)]
    rfl

/-- The effect of a forwarding PASS: the array and the flags of its core change, the counts follow, and then its rows are
fed into the stream. -/
theorem passEffect_forward (hwf : Fmt.ofCode o.wfmt = some wf) (haf : Fmt.ofCode o.afmt = some af)
    (hp : pairing wf af = some (w, false)) (hsel : s.sel i.core o.asel = some src) (hfwd : o.fwd = true)
    (hx : alGet (s.core i.core).streams o.fwdStream.toNat = some x) :
    ∃ f held reused fl v, f (s.core i.core).array = (s.core i.core).array.passed o h s.time i.gap (rowsRun s i o src)
        (s.core i.core).array.acc held reused ∧
      ((s.modArray i.core f).flag i.core fl).countKeeps v ∧
      State.passEffect i.core i o h s =
        (let r := v.muleSend i.core o.fwdStream.toNat x (o.fwdFmt == 1) wf.perReg (s.passRows i o src wf af)
         if r.2 then r.1.broken i.core qArray else r.1) := by
  unfold State.passEffect
  rw [hwf, haf, hsel]
  dsimp -zeta only
  extract_lets a isInt' words used reused kept res vals w' mixed scs fl acc now passed drawn counted slipped
  have hn : (if (a.taken o).2 then (0, none) else s.passLen i.core src o).1 = rowsRun s i o src := by
    rw [rowsRun, apply_ite Prod.fst]
  have hi : isInt' = false := by simp only [isInt', hp]
  have hdrawn : passed.countKeeps drawn := by
    unfold drawn
    split
    · exact ⟨rfl, fun _ => rfl, fun _ => rfl⟩
    · exact .refl _
  have hcounted : drawn.countKeeps counted := by
    unfold counted
    split
    · exact State.countKeeps_slotCount ..
    · exact .refl _
  have hslipped : passed.countKeeps slipped := hdrawn.trans (hcounted.trans (State.countKeeps_addSlip ..))
  have hacc : acc = a.acc := by simp only [acc, hfwd, if_true]
  have hvals : vals = s.passRows i o src wf af := by
    simp only [vals, res, hn, hi]
    rfl
  have hstream : alGet (slipped.core i.core).streams o.fwdStream.toNat = some x := by
    have hst : (slipped.core i.core).streams = (passed.core i.core).streams :=
      streams_of_settled (hslipped.settled i.core)
    rw [hst]
    unfold passed
    rw [core_modArray_flag, if_pos rfl]
    exact hx
  rw [if_pos hfwd, hstream]
  refine ⟨_, kept, reused, fl, slipped, ?_, hslipped, ?_⟩
  · simp only [hn, hacc]
    rfl
  · rw [hvals]

/-- A PASS on a state that an issue has kept, up to the feeding of its rows. -/
theorem coreBecomes_counted {f : ArrayUnit → ArrayUnit} {fl : FmtFlags} (hk : s.issueKeeps u)
    (hc : ((u.modArray c f).flag c fl).countKeeps v) : coreBecomes s v c { s.core c with
      flags := (s.core c).flags ||| fl, array := f (s.core c).array } := by
  have harray := coreBecomes_modCore (hk.coreBecomes c) (fun k => { k with array := f k.array }) fun _ => rfl
  obtain ⟨hout, hother, hcore⟩ :=
    coreBecomes_modCore harray (fun k => { k with flags := k.flags ||| fl }) fun _ => rfl
  exact ⟨hout.trans hc.outside, fun x hx => (hc.settled x).trans (hother x hx), (hc.settled c).trans hcore⟩

/-- A change of the array and the flags alone leaves the words of memory. -/
theorem peek_of_coreBecomes {a : ArrayUnit} {fl : FmtFlags}
    (hb : coreBecomes s v c { s.core c with flags := fl, array := a }) : v.peek c = s.peek c := by
  obtain ⟨-, -, hcore⟩ := hb
  funext x
  exact Core.settled_peek hcore x

/-- A forwarding PASS on a state that an issue has kept: its array and flags change, and its rows are sent. -/
theorem sentBy_passEffect (hk : s.issueKeeps u) (hwf : Fmt.ofCode o.wfmt = some wf) (haf : Fmt.ofCode o.afmt = some af)
    (hp : pairing wf af = some (w, false)) (hsel : s.sel i.core o.asel = some src) (hfwd : o.fwd = true)
    (hx : alGet (s.core i.core).streams o.fwdStream.toNat = some x)
    (hr : routed s (vcOf x.cls.toNat false) (s.mulePackets i.core x (o.fwdFmt == 1) wf.perReg
      (s.muleRows i.core x (o.fwdFmt == 1) (s.passRows i o src wf af)).1)) :
    ∃ held reused fl, sentBy s (State.passEffect i.core i o h u) i.core
      (Core.fed { s.core i.core with
        flags := (s.core i.core).flags ||| fl,
        array := (s.core i.core).array.passed o h s.time i.gap (rowsRun s i o src) (s.core i.core).array.acc held reused }
        o.fwdStream.toNat x (rowsRun s i o src) (s.muleRows i.core x (o.fwdFmt == 1) (s.passRows i o src wf af)).2)
      (vcOf x.cls.toNat false) (s.mulePackets i.core x (o.fwdFmt == 1) wf.perReg
        (s.muleRows i.core x (o.fwdFmt == 1) (s.passRows i o src wf af)).1) := by
  have hstreams : (u.core i.core).streams = (s.core i.core).streams := streams_of_settled (hk.settled i.core)
  obtain ⟨f, held, reused, fl, v, hf, hc, he⟩ := passEffect_forward (h := h) hwf haf hp
    (by rw [hk.outside.sel]; exact hsel) hfwd (by rw [hstreams]; exact hx)
  rw [hk.array, hk.rowsRun, hk.outside.time] at hf
  have hb := coreBecomes_counted hk hc
  rw [hf] at hb
  obtain ⟨t, ht, hsent⟩ := muleSend_sentBy hb (peek_of_coreBecomes hb) o.fwdStream.toNat x (o.fwdFmt == 1) wf.perReg
    (s.passRows i o src wf af) hr
  rw [length_passRows] at hsent
  refine ⟨held, reused, fl, ?_⟩
  rw [he, hk.passRows, ht]
  exact hsent

/-! The plan of a forwarding PASS. -/

theorem passFields_pass (ht : passTakes s i o src wf af w false) :
    firstReason [(decide (o.asel ≠ 0 ∧ o.asel.toNat < 4), 2), (decide (2 ≤ o.accMode.toNat), 2),
      (decide (o.sparse = 3), 2), (decide (2 ≤ o.fwdFmt.toNat), 2), (decide (Fmt.ofCode o.wfmt = none), 2),
      (decide (Fmt.ofCode o.afmt = none), 2)] = none := by
  obtain ⟨hasel, hmode, hsp, hff, hwf, haf, -⟩ := ht
  simp only [firstReason_eq_none, List.forall_mem_cons, selector_taken hasel, hwf, haf, decide_eq_false_iff_not]
  exact ⟨trivial, by omega, hsp, by omega, nofun, nofun, nofun⟩

/-- What no tile decides does not reject a forwarding PASS. -/
theorem passFixed_forward (ht : passTakes s i o src wf af w false)
    (hacc : o.len ≠ 0 → o.accMode = 1 → o.accBase.toNat + o.len.toNat * w ≤ 4096) :
    firstReason [(decide (o.sparse ≠ 0) && wf.noSparse, 6), (true && false, 6), (decide (some src = none), 3),
      (decide (4096 < o.accBase.toNat + o.len.toNat * w) && decide (o.len ≠ 0) && !(true && o.accMode == 0), 3),
      (true && (some x).isNone, 5)] = none := by
  obtain ⟨-, hmode, -, -, -, -, -, hno, -⟩ := ht
  have hspace : 4096 < o.accBase.toNat + o.len.toNat * w → ¬ o.len = 0 → o.accMode = 0 := by
    intro hlt hlen
    by_contra h0
    have hone : o.accMode = 1 := by bv_omega
    have := hacc hlen hone
    omega
  simpa [firstReason_eq_none] using ⟨hno, hspace⟩

/-- A forwarding PASS that its fields, its ranges and its stream let run is not rejected, whether or not its tile is
looked at. -/
theorem passRejectOn_forward (ht : passTakes s i o src wf af w false) (hfwd : o.fwd = true)
    (hacc : o.len ≠ 0 → o.accMode = 1 → o.accBase.toNat + o.len.toNat * w ≤ 4096)
    (hx : alGet (s.core i.core).streams o.fwdStream.toNat = some x)
    (hs : streamTakes s i.core x (rowsRun s i o src)) {tile : Option (Tile × Bool)}
    (htile : tile = none ∨ tile = some ((s.core i.core).array.taken o)) : s.passRejectOn i.core o tile = none := by
  have hfields := passFields_pass ht
  have hfixed := passFixed_forward (x := x) ht hacc
  obtain ⟨hridx, hrsc⟩ := pastMem_of_streamTakes hs
  have hbad := badRidx_of_streamTakes hs
  obtain ⟨-, -, -, -, hwf, haf, hp, -, hsel, ⟨hrange, hscale⟩, -⟩ := ht
  rw [State.passRejectOn, hfields]
  simp only [hwf, haf, hp, hsel, hfwd, hx]
  rcases htile with rfl | rfl
  · exact hfixed
  · refine firstReason_append_eq_none.2 ⟨hfixed, ?_⟩
    simp only [firstReason_eq_none, List.forall_mem_cons, Bool.true_and, Bool.or_eq_false_iff, Bool.and_eq_false_imp]
    exact ⟨hrange, hscale, ⟨hridx, hrsc⟩, hbad, nofun⟩

/-- The words that decide what a PASS runs, read before it. -/
theorem passCount_subset_passReads : ∀ y ∈ s.passCount i.core o, y ∈ s.passReads i.core o := by
  intro y hy
  unfold State.passCount at hy
  unfold State.passReads
  split at hy
  · exact List.mem_append_left _ hy
  · exact absurd hy (by simp)

theorem passPlan_forward (ht : passTakes s i o src wf af w false) (hfwd : o.fwd = true)
    (hacc : o.len ≠ 0 → o.accMode = 1 → o.accBase.toNat + o.len.toNat * w ≤ 4096)
    (hx : alGet (s.core i.core).streams o.fwdStream.toNat = some x)
    (hs : streamTakes s i.core x (rowsRun s i o src)) : State.passPlan i o h s =
      .need (s.passCount i.core o) (.need (s.passReads i.core o) (.stream (s.passFeeds i.core o)
        (.run (s.passReads i.core o) [] (fun _ => .pass) (State.passEffect i.core i o h)))) := by
  have hnone := passRejectOn_forward ht hfwd hacc hx hs (.inl rfl)
  have hsome := passRejectOn_forward ht hfwd hacc hx hs (.inr rfl)
  obtain ⟨-, -, -, -, -, -, -, -, -, -, hshadow⟩ := ht
  have htile := ArrayUnit.tileOf_eq hshadow
  simp only [State.passPlan, State.passReject, htile, hnone, hsome]
  rfl

/-- A forwarding PASS whose words are usable has its effect on a state that keeps the settled state. -/
theorem exec_pass_forward (hr : s.Ready qArray i) (ht : passTakes s i o src wf af w false) (hfwd : o.fwd = true)
    (hacc : o.len ≠ 0 → o.accMode = 1 → o.accBase.toNat + o.len.toNat * w ≤ 4096)
    (hx : alGet (s.core i.core).streams o.fwdStream.toNat = some x)
    (hs : streamTakes s i.core x (rowsRun s i o src))
    (hu : usable s (s.passReads i.core o ++ s.passFeeds i.core o) []) :
    ∃ u, s.issueKeeps u ∧ exec (.pass i o h) s = .next (State.passEffect i.core i o h u) := by
  have hp := passPlan_forward (h := h) ht hfwd hacc hx hs
  obtain ⟨hg, hread⟩ := hu
  rw [List.append_nil] at hg
  obtain ⟨hgr, hgf⟩ := groupsOn_append.1 hg
  obtain ⟨hrr, -⟩ := readable_append.1 hread
  refine ⟨s.startedOn qArray 0x20 i (s.passReads i.core o) (s.passFeeds i.core o) (fun _ => .pass),
    State.issueKeeps_startedOn hgf, congrArg Host.Outcome.next (State.present_startedOn (op := 0x20)
      (plan := State.passPlan i o h) (writes := []) hr ?_ ?_ (by rw [hp]; exact List.append_nil _) (by rw [hp]; rfl)
      (by rwa [List.append_nil]) hread)⟩
  · rw [hp]
    exact groupsOn_append.2 ⟨fun y hy => hgr y (passCount_subset_passReads y hy), groupsOn_append.2 ⟨hgr, nofun⟩⟩
  · rw [hp]
    exact readable_append.2 ⟨fun y hy => hrr y (passCount_subset_passReads y hy), readable_append.2 ⟨hrr, nofun⟩⟩

/-- The array after a forwarding PASS that nothing held keeps its accumulators and its counts of holds. -/
theorem ArrayUnit.passed_forward {a : ArrayUnit} {now : BitVec 64} {gap n : Nat} {held : List (Nat × MWord)}
    {reused : Bool} (hs : a.state ≠ 7) : a.passed o {} now gap n a.acc held reused =
      let b := a.passed o {} now gap n a.acc held reused
      { gapEnded a b n with
        active := (a.taken o).1, shadow := if o.swap then none else a.shadow, count := none, passAt := now,
        passHolds := {}, rowCount := satAdd a.rowCount n, heldKey := some (heldKeyOf o), held := b.held,
        reuse := b.reuse } := by
  obtain ⟨hfrozen, hfeed, hdrain⟩ := ArrayUnit.passed_unheld (a := a) (o := o) (now := now) (gap := gap) (n := n)
    (acc := a.acc) (held := held) (reused := reused)
  have he := ArrayUnit.passed_eq (o := o) (h := {}) (now := now) (gap := gap) (n := n) (acc := a.acc) (held := held)
    (reused := reused) hs
  dsimp only at he ⊢
  rw [hfrozen, hfeed, hdrain] at he
  exact he

end

section
variable {s t : State} {c : CoreId} {k : Core} {pkts : List Packet} {vc : Fin 8}

/-- A stream after its rows: its counts, and those of no other stream. -/
theorem alGet_fed {n rows : Nat} {x : Stream} {fl : FmtFlags} (h : (t.core c).settled = (k.fed n x rows fl).settled) :
    alGet (t.core c).streams n = some (x.fed rows) := by
  rw [streams_of_settled h, Core.fed, alGet_alSet, if_pos rfl]

theorem msendPlan_nop {i : Issue} {o : MsendOp} (hrej : s.msendReject i.core o = none) (hn : o.count = 0) :
    State.msendPlan i o s = .nop := by
  have h0 : o.count.toNat = 0 := by rw [hn]; rfl
  simp only [State.msendPlan, hrej, Todo.unless, h0, if_true]

/-- All the words that a MSEND reads. -/
theorem append_msendReads (c m : CoreId) (o : MsendOp) (x : Stream) :
    (listWords x.ridx.toNat x.rows o.count.toNat).map (fun y => (c, y)) ++ msendReads c m o x =
      (listWords x.ridx.toNat x.rows o.count.toNat ++
        (if x.rscen then listWords x.rsc.toNat x.rows o.count.toNat else [])).map (fun y => (c, y)) ++
      (if o.src then wordsAt m o.maddr.toNat (o.count.toNat * msendRowWords o) else []) := by
  rw [msendReads, List.map_append, List.append_assoc]

/-- Settles O34: every instruction has its effect on a state that keeps what it reads; the packets of a list that all
find their way are launched one after another. -/
theorem streamsAndRegionsCarryRows : Obligations.StreamsAndRegionsCarryRows := by
  unfold Obligations.StreamsAndRegionsCarryRows
  intro i s haccs
  refine ⟨?_, ?_, ?_, ?_, ?_⟩
  · intro o hr hp hpart
    obtain ⟨t, hx, hb⟩ := exec_mstream hr hp hpart
    have hst : (t.core i.core).streams = alSet (s.core i.core).streams o.stream.toNat (StreamOp.toStream o) :=
      streams_of_settled hb.2.2
    refine ⟨t, hx, ?_, ?_, fun n hn => ?_⟩
    · rw [hst]
      exact hb
    · rw [hst, alGet_alSet, if_pos rfl]
      rfl
    · rw [hst, alGet_alSet, if_neg (Ne.symm hn)]
  · intro o hr he hf
    exact exec_mreduce_empty hr (by simpa [reduceEmpty] using he) hf
  · intro o hr hrows hsources hf hacc hp ha hspecial hwin hregions hh hu
    have he : reduceEmpty o = false := by simpa [reduceEmpty] using ⟨hrows, hsources⟩
    obtain ⟨t, e, hx, hb, hin⟩ := exec_mreduce hr he
      (reduceReject_pass (fun h => (Nat.le_add_left ..).trans (hf h)) hacc hp hspecial hwin hregions) ha hf hh
      (hu.elim (usable_of_calm · _ _) id)
    refine ⟨t, hx, ?_, ⟨e, hin⟩, fun x => ?_⟩
    · rw [array_of_coreBecomes hb]
      exact hb
    · rw [array_of_coreBecomes hb]
      exact smGet_reduced ..
  · intro o m x hr hfmt hw hsel hm hm' hx hacc hmem hs
    have hrej := msendReject_pass hfmt hw hsel hx hacc hmem hs
    refine ⟨fun hn => ⟨_, rfl, (State.present_nop (op := 0xE2) (plan := State.msendPlan i o) hr
      (msendPlan_nop hrej hn)).coreBecomes i.core⟩, fun hn hu hroute => ?_⟩
    · obtain ⟨t, ht, hsent⟩ := exec_msend hr hrej hn hx hm hm' hs
        (by rw [append_msendReads]; exact hu.elim (usable_of_calm · _ _) id) hroute
      obtain ⟨-, -, hcore⟩ := id hsent
      refine ⟨t, ht, ?_, alGet_fed hcore⟩
      rw [streams_of_settled hcore]
      exact hsent
  · intro o src wf af w x hr ht hfwd hacc hx hs hu n tile res pkts hsuits hroute
    have hp : pairing wf af = some (w, false) := by
      obtain ⟨-, -, -, -, -, -, hp, -⟩ := ht
      exact hp
    obtain rfl := perReg_of_pairing hp
    have hres : s.passRows i o src wf af = res := passRows_eq hsuits
    obtain ⟨u, hk, hex⟩ := exec_pass_forward (h := {}) hr ht hfwd hacc hx hs (hu.elim (usable_of_calm · _ _) id)
    obtain ⟨-, -, -, -, hwf, haf, -, -, hsel, -⟩ := ht
    obtain ⟨held, reused, fl, hsent⟩ := sentBy_passEffect (h := {}) hk hwf haf hp hsel hfwd hx (by rw [hres]; exact hroute)
    rw [hres] at hsent
    obtain ⟨-, -, hcore⟩ := id hsent
    have harray := Core.settled_array hcore
    refine ⟨_, fl ||| (s.muleRows i.core x (o.fwdFmt == 1) res).2, hex, ?_, alGet_fed hcore⟩
    dsimp only
    rw [streams_of_settled hcore, harray, ← BitVec.or_assoc]
    have he := ArrayUnit.passed_forward (o := o) (now := s.time) (gap := i.gap) (n := rowsRun s i o src) (held := held)
      (reused := reused) (array_state_of_ready hr)
    dsimp only [Core.fed] at he ⊢
    rw [← he]
    exact hsent

end

end Sys2Proof.Machine
end

section
/-! PROOF. The register operations of the vector engine (R98 to R101, R106, R127): what one that nothing rejects makes of
its core, which ones are rejected, and the element-wise ones. -/

namespace Sys2Proof.Machine

open Claims

variable {s t : State}

/-! What an operation makes of the vector registers, beside the engine's counts. -/

/-- An operation on the vector registers that neither reads nor changes the engine's counts. -/
def onRegisters (eff : VectorUnit → VectorUnit × FmtFlags) : Prop :=
  ∀ u, eff u.uncounted = ((eff u).1.uncounted, (eff u).2)

theorem VectorUnit.uncounted_setP (u : VectorUnit) (n : BitVec 3) (x : BitVec 256) :
    (u.setP n x).uncounted = u.uncounted.setP n x := by
  unfold VectorUnit.setP
  split <;> rfl

theorem VectorUnit.uncounted_setS (u : VectorUnit) (n : BitVec 4) (x : BitVec 32) :
    (u.setS n x).uncounted = u.uncounted.setS n x := by
  unfold VectorUnit.setS
  split <;> rfl

theorem onRegisters_elementwise (o : VOp) (f : Nat → Nat → Nat → Nat → Nat × FmtFlags) :
    onRegisters (elementwise o f) := fun _ => rfl

/-- An operation on the registers makes the same of registers that differ in the engine's counts alone. -/
theorem onRegisters.congr {eff : VectorUnit → VectorUnit × FmtFlags} (h : onRegisters eff) {u v : VectorUnit}
    (huv : u.uncounted = v.uncounted) : (eff u).1.uncounted = (eff v).1.uncounted ∧ (eff u).2 = (eff v).2 :=
  Prod.ext_iff.1 ((h u).symm.trans ((congrArg eff huv).trans (h v)))

/-- A core after a register operation. -/
def Core.operated (k : Core) (eff : VectorUnit → VectorUnit × FmtFlags) : Core :=
  { k with vec := (eff k.vec).1, flags := k.flags ||| (eff k.vec).2 }

/-- The engine's counts are not part of the settled core. -/
theorem Core.settled_withVec (k : Core) {u v : VectorUnit} {fl fl' : FmtFlags} (hv : u.uncounted = v.uncounted)
    (hfl : fl = fl') : ({ k with vec := u, flags := k.flags ||| fl } : Core).settled =
      ({ k with vec := v, flags := k.flags ||| fl' } : Core).settled := by
  subst hfl
  exact congrArg (fun x => { k.settled with vec := x, flags := k.flags ||| fl }) hv

section
variable {op : BitVec 8} {i : Issue} {o : VOp} {rej : List (Bool × Nat)} {eff : VectorUnit → VectorUnit × FmtFlags}

/-- A register operation that nothing rejects. -/
theorem coreBecomes_vop (h : s.Ready qVec i) (hr : firstReason (vopCommon o ++ rej) = none) (heff : onRegisters eff) :
    coreBecomes s (s.present qVec op i (fun _ => vopTodo o i rej eff)) i.core ((s.core i.core).operated eff) := by
  obtain ⟨t, u, rfl, hv, hp, hs, hout, hother, -, hset⟩ := State.present_vop (op := op) (eff := eff) h hr
  have hu : u.uncounted = (s.core i.core).vec.uncounted := by simp only [VectorUnit.uncounted, hv, hp, hs]
  obtain ⟨hvec, hflags⟩ := heff.congr hu
  exact ⟨hout, hother, hset.trans (Core.settled_withVec _ hvec hflags)⟩

/-- A register operation that sets no flag. -/
theorem coreBecomes_vop_unflagged (h : s.Ready qVec i) (hr : firstReason (vopCommon o ++ rej) = none)
    (heff : onRegisters eff) (hfl : ∀ u, (eff u).2 = 0) :
    coreBecomes s (s.present qVec op i (fun _ => vopTodo o i rej eff)) i.core
      { s.core i.core with vec := (eff (s.core i.core).vec).1 } := by
  have hb := coreBecomes_vop (op := op) h hr heff
  have hflags : (s.core i.core).flags ||| 0 = (s.core i.core).flags := BitVec.or_zero
  rwa [Core.operated, hfl, hflags] at hb

/-- A register operation that is rejected. -/
theorem present_vop_rejected (h : s.Ready qVec i) {r : Nat} (hr : firstReason (vopCommon o ++ rej) = some r) :
    s.present qVec op i (fun _ => vopTodo o i rej eff) = (s.begun qVec i).rejectAt qVec i r :=
  State.present_reject h (by simp only [vopTodo, hr])

end

/-! The registers of a core that an instruction has made. -/

section
variable {c : CoreId} {k : Core}

theorem vreg_of_coreBecomes (h : coreBecomes s t c k) (n : BitVec 5) : (t.core c).vec.vreg n = k.vec.vreg n := by
  obtain ⟨-, -, hcore⟩ := h
  obtain ⟨hv, -, -⟩ := Core.settled_vec hcore
  rw [VectorUnit.vreg, VectorUnit.vreg, hv]

theorem mask_of_coreBecomes (h : coreBecomes s t c k) (n : BitVec 3) : (t.core c).vec.mask n = k.vec.mask n := by
  obtain ⟨-, -, hcore⟩ := h
  obtain ⟨-, hp, -⟩ := Core.settled_vec hcore
  rw [VectorUnit.mask, VectorUnit.mask, hp]

/-- A core of which only VD has changed, by elements. -/
theorem vdBecomes_of_setV {i : Issue} {o : VOp} {ty : Fmt} {fl : FmtFlags} {x : BitVec 2048} {r : Nat → Nat}
    (h : coreBecomes s t i.core { s.core i.core with
      vec := (s.core i.core).vec.setV o.vd x, flags := (s.core i.core).flags ||| fl })
    (hx : ∀ e < ty.lanes, elemOf x ty.bits e = r e) : vdBecomes s t i o ty fl r := by
  have hvd := (vreg_of_coreBecomes h o.vd).trans (VectorUnit.vreg_setV_self ..)
  rw [vdBecomes, hvd]
  exact ⟨h, hx⟩

/-- A register operation that writes VD alone. -/
theorem vdBecomes_vop {op : BitVec 8} {i : Issue} {o : VOp} {ty : Fmt} {rej : List (Bool × Nat)}
    {eff : VectorUnit → VectorUnit × FmtFlags} {fl : FmtFlags} {x : BitVec 2048} {r : Nat → Nat} (h : s.Ready qVec i)
    (hr : firstReason (vopCommon o ++ rej) = none) (heff : onRegisters eff)
    (hx : eff (s.core i.core).vec = ((s.core i.core).vec.setV o.vd x, fl))
    (hres : ∀ e < ty.lanes, elemOf x ty.bits e = r e) :
    vdBecomes s (s.present qVec op i (fun _ => vopTodo o i rej eff)) i o ty fl r := by
  have hb := coreBecomes_vop (op := op) h hr heff
  rw [Core.operated, hx] at hb
  exact vdBecomes_of_setV hb hres

end

/-! Types, and what the common checks pass or reject (R45, R99). -/

section
variable {et : BitVec 4} {ty : Fmt} {o : VOp} {rej : List (Bool × Nat)}

theorem mem_of_regType (h : regType et = some ty) :
    ty ∈ [Fmt.fp32, .int32, .bf16, .fp16, .e4m3, .e5m2, .int8] := by
  unfold regType at h
  split at h
  · split at h
    · rename_i hreg
      cases h
      simpa using hreg
    · cases h
  · cases h

/-- Elements fill a register, which they share evenly. -/
theorem regType_lanes (h : regType et = some ty) : 0 < ty.bits ∧ ty.bits ∣ 2048 ∧ ty.lanes ≤ 256 := by
  have hall : ∀ f ∈ [Fmt.fp32, .int32, .bf16, .fp16, .e4m3, .e5m2, .int8], 0 < f.bits ∧ f.bits ∣ 2048 ∧ f.lanes ≤ 256 := by
    decide
  exact hall ty (mem_of_regType h)

theorem firstReason_append_of_none {a b : List (Bool × Nat)} (h : firstReason a = none) :
    firstReason (a ++ b) = firstReason b := by
  have ha : a.find? (·.1) = none := Option.map_eq_none_iff.1 h
  rw [firstReason, List.find?_append, ha, Option.none_or]
  rfl

theorem vopType_eq (h : regType o.et = some ty) : vopType o = ty := by rw [vopType, h]; rfl

theorem vopCommon_pass (h : vopTakes o ty) : firstReason (vopCommon o) = none := by
  obtain ⟨hrnd, het⟩ := h
  simp only [firstReason_eq_none, vopCommon, List.forall_mem_cons, het, decide_eq_false_iff_not]
  exact ⟨by omega, nofun, nofun⟩

theorem vop_pass (h : vopTakes o ty) (hr : ∀ x ∈ rej, x.1 = false) : firstReason (vopCommon o ++ rej) = none :=
  firstReason_append_eq_none.2 ⟨vopCommon_pass h, firstReason_eq_none.2 hr⟩

/-- The first rejection beside the common ones. -/
theorem vop_reject (h : vopTakes o ty) : firstReason (vopCommon o ++ rej) = firstReason rej :=
  firstReason_append_of_none (vopCommon_pass h)

end

/-! Element-wise operations (R101, R106). -/

section
variable {c : Instr} {i : Issue} {o : VOp} {f : Nat → Nat → Nat → Nat → Nat × FmtFlags} {ty : Fmt}

/-- The result and flags of element `e` of an element-wise operation. -/
def laneResult (u : VectorUnit) (o : VOp) (ty : Fmt) (f : Nat → Nat → Nat → Nat → Nat × FmtFlags) (e : Nat) :
    Nat × FmtFlags :=
  f e (elemOf (u.vreg o.va) ty.bits e) (opB u o ty.bits e) (elemOf (u.vreg o.vc) ty.bits e)

theorem elementwise_eq (h : regType o.et = some ty) (u : VectorUnit) : elementwise o f u =
    (u.setV o.vd (merge (u.vreg o.vd) ty.bits (u.mask o.pm) o.mz fun e => (laneResult u o ty f e).1),
      activeFlags ty.lanes (u.mask o.pm) fun e => (laneResult u o ty f e).2) := by
  rw [elementwise, vopType_eq h]
  rfl

/-- Every element-wise instruction presents its rule with checks that it passes. -/
theorem exec_laneRule (h : laneRule c = some (i, o, f)) (ht : laneTakes c o ty) (s : State) : ∃ op rej,
    exec c s = .next (s.present qVec op i (fun _ => vopTodo o i rej (elementwise o f))) ∧
      firstReason (vopCommon o ++ rej) = none := by
  obtain ⟨hrnd, het, hmore⟩ := ht
  have hcommon : ∀ {rej : List (Bool × Nat)}, (∀ x ∈ rej, x.1 = false) → firstReason (vopCommon o ++ rej) = none :=
    fun hr => vop_pass ⟨hrnd, het⟩ hr
  unfold laneRule at h
  split at h
  case h_1 | h_2 | h_3 | h_4 | h_5 | h_6 | h_7 | h_8 | h_9 =>
    cases h
    exact ⟨_, [], rfl, hcommon nofun⟩
  case h_10 | h_11 | h_12 =>
    cases h
    refine ⟨_, shiftRej o, rfl, hcommon ?_⟩
    dsimp only at hmore
    simp [shiftRej, vopType_eq het, hmore]
  case h_13 =>
    cases h
    obtain ⟨hint, hfn⟩ := hmore
    refine ⟨_, vsfuRej o, rfl, hcommon ?_⟩
    simp [vsfuRej, vopType_eq het, hint, hfn]
  case h_14 => cases h

/-- An element-wise operation that nothing rejects. -/
theorem vdBecomes_elementwise {op : BitVec 8} {rej : List (Bool × Nat)} (h : s.Ready qVec i)
    (hr : firstReason (vopCommon o ++ rej) = none) (het : regType o.et = some ty) :
    let u := (s.core i.core).vec
    vdBecomes s (s.present qVec op i (fun _ => vopTodo o i rej (elementwise o f))) i o ty
      (activeFlags ty.lanes (u.mask o.pm) fun e => (laneResult u o ty f e).2)
      (fun e => if (u.mask o.pm).getLsbD e then (laneResult u o ty f e).1 % 2 ^ ty.bits
        else if o.mz then 0 else elemOf (u.vreg o.vd) ty.bits e) :=
  vdBecomes_vop h hr (onRegisters_elementwise o f) (elementwise_eq het _) fun _ he => elemOf_merge _ _ _ _ he

end

/-- Settles O12: every element-wise instruction presents its rule with checks that it passes, and such an operation
merges the results of its rule into VD. -/
theorem elementwiseInstructionsWriteTheirLanes : Obligations.ElementwiseInstructionsWriteTheirLanes := by
  intro c i o f ty s hrule hready htakes
  obtain ⟨op, rej, hx, hrej⟩ := exec_laneRule hrule htakes s
  obtain ⟨-, het, -⟩ := htakes
  exact ⟨_, hx, vdBecomes_elementwise hready hrej het⟩

end Sys2Proof.Machine
end

section
/-! PROOF. The integer elements of the vector engine (R115): results that wrap or clamp, shifts, and the bits of elements. -/

namespace Sys2Proof.Machine

open Claims

/-! Two's complement results. -/

section
variable {w : Nat} {x : Int}

theorem coe_intBits (w : Nat) (x : Int) : (intBits w x : Int) = x % 2 ^ w :=
  Int.toNat_of_nonneg (Int.emod_nonneg _ (by positivity))

theorem signedVal_emod (w a : Nat) : signedVal w a % 2 ^ w = (a : Int) % 2 ^ w := by
  have h : ((a % 2 ^ w : Nat) : Int) % 2 ^ w = (a : Int) % 2 ^ w := by push_cast; exact Int.emod_emod_of_dvd _ dvd_rfl
  unfold signedVal
  dsimp only
  split
  · exact h
  · rw [Int.sub_emod_right, h]

/-- Bits of an element are those of its signed value. -/
theorem coe_eq_signedVal_emod {a : Nat} (h : a < 2 ^ w) : (a : Int) = signedVal w a % 2 ^ w := by
  rw [signedVal_emod, Int.emod_eq_of_lt (Int.natCast_nonneg a) (by exact_mod_cast h)]

theorem clamped_below (h : x < -2 ^ (w - 1)) : clamped w x = -2 ^ (w - 1) :=
  max_eq_left ((min_le_right _ _).trans h.le)

theorem clamped_above (h : 2 ^ (w - 1) - 1 < x) : clamped w x = 2 ^ (w - 1) - 1 := by
  have hpow : (0 : Int) < 2 ^ (w - 1) := by positivity
  rw [clamped, min_eq_left h.le, max_eq_right (by omega)]

theorem clamped_within (hl : -2 ^ (w - 1) ≤ x) (hu : x ≤ 2 ^ (w - 1) - 1) : clamped w x = x := by
  rw [clamped, min_eq_right hu, max_eq_right hl]

theorem clampInt_eq (w : Nat) (x : Int) : clampInt w x = (clamped w x, decide (clamped w x ≠ x)) := by
  unfold clampInt
  split
  · next h => rw [clamped_below h, decide_eq_true h.ne']
  · split
    · next h => rw [clamped_above h, decide_eq_true h.ne]
    · next hl hu =>
      rw [clamped_within (not_lt.1 hl) (not_lt.1 hu)]
      simp

/-- What R115's table makes of the exact result `x`: it wraps under SAT = 0, and under SAT = 1 it clamps, with OVERFLOW
where it does. -/
def wrapsOrClamps (sat : Bool) (w : Nat) (x : Int) (r : Nat × FmtFlags) : Prop :=
  (sat = false → (r.1 : Int) = x % 2 ^ w ∧ r.2 = 0) ∧
  (sat = true → (r.1 : Int) = clamped w x % 2 ^ w ∧ r.2 = if clamped w x = x then 0 else flOverflow)

theorem wrapsOrClamps_intResult (sat : Bool) (w : Nat) (x : Int) : wrapsOrClamps sat w x (intResult sat w x) := by
  refine ⟨fun h => ?_, fun h => ?_⟩
  · subst h
    exact ⟨coe_intBits w x, rfl⟩
  · subst h
    rw [intResult, if_pos rfl, clampInt_eq]
    refine ⟨coe_intBits .., ?_⟩
    by_cases hc : clamped w x = x <;> simp [hc]

end

/-! Shifts. -/

section
variable {w a n : Nat}

/-- A left shift that drops what leaves the element wraps. -/
theorem shl_wraps (w a n : Nat) : ((if w ≤ n then 0 else (a <<< n) % 2 ^ w : Nat) : Int) = signedVal w a * 2 ^ n % 2 ^ w := by
  have hmod : signedVal w a * 2 ^ n % 2 ^ w = ((a * 2 ^ n % 2 ^ w : Nat) : Int) := by
    rw [Int.mul_emod, signedVal_emod, ← Int.mul_emod]
    push_cast
    rfl
  rw [hmod]
  split
  · next h =>
    rw [Nat.mod_eq_zero_of_dvd ((Nat.pow_dvd_pow 2 h).mul_left a)]
  · rw [Nat.shiftLeft_eq]

/-- A negative value multiplied by the whole range or more lies below it. -/
theorem clamped_mul_of_neg {x m : Int} (hw : 0 < w) (hx : x < 0) (hm : 2 ^ w ≤ m) :
    clamped w (x * m) = -2 ^ (w - 1) ∧ x * m < -2 ^ (w - 1) := by
  have hhalf : (2 : Int) ^ (w - 1) * 2 = 2 ^ w := pow_sub_one_mul hw.ne' 2
  have hpos : (0 : Int) < 2 ^ (w - 1) := by positivity
  have hlt : x * m < -2 ^ (w - 1) := by nlinarith
  exact ⟨clamped_below hlt, hlt⟩

/-- A positive value multiplied by the whole range or more lies above it. -/
theorem clamped_mul_of_pos {x m : Int} (hx : 0 < x) (hm : 2 ^ w ≤ m) :
    clamped w (x * m) = 2 ^ (w - 1) - 1 ∧ 2 ^ (w - 1) - 1 < x * m := by
  have hhalf : (2 : Int) ^ (w - 1) ≤ 2 ^ w := pow_le_pow_right₀ (by decide) (Nat.sub_le ..)
  have hm0 : 0 ≤ m := (by positivity : (0 : Int) ≤ 2 ^ w).trans hm
  have hlt : 2 ^ (w - 1) - 1 < x * m := by linarith [le_mul_of_one_le_left hm0 (show 1 ≤ x from hx)]
  exact ⟨clamped_above hlt, hlt⟩

/-- Results beyond the range on the same side are clamped alike. -/
theorem wrapsOrClamps_beyond {x y : Int} {r : Nat × FmtFlags} (h : wrapsOrClamps true w y r)
    (he : clamped w x = clamped w y) (hx : clamped w x ≠ x) (hy : clamped w y ≠ y) : wrapsOrClamps true w x r := by
  refine ⟨nofun, fun ht => ?_⟩
  obtain ⟨hr, hfl⟩ := h.2 ht
  rw [he, if_neg (he ▸ hx), hr, hfl, if_neg hy]
  exact ⟨rfl, rfl⟩

theorem shlSat_eq (w a n : Nat) : shlSat w a n = intResult true w (signedVal w a * 2 ^ min n w) := by
  unfold shlSat
  dsimp only
  split
  · next h =>
    have hpos : (0 : Int) < 2 ^ (w - 1) := by positivity
    rw [h, Int.zero_mul, intResult, if_pos rfl, clampInt_eq, clamped_within (by omega) (by omega)]
    simp [intBits]
  · rfl

/-- A saturating left shift clamps the exact result, though it shifts by the width at most. -/
theorem wrapsOrClamps_shlSat (hw : 0 < w) (a n : Nat) : wrapsOrClamps true w (signedVal w a * 2 ^ n) (shlSat w a n) := by
  have hr := wrapsOrClamps_intResult true w (signedVal w a * 2 ^ min n w)
  rw [← shlSat_eq] at hr
  rcases le_total n w with h | h
  · rwa [min_eq_left h] at hr
  · rw [min_eq_right h] at hr
    have hn : (2 : Int) ^ w ≤ 2 ^ n := pow_le_pow_right₀ (by decide) h
    rcases lt_trichotomy (signedVal w a) 0 with hx | hx | hx
    · obtain ⟨he, hlt⟩ := clamped_mul_of_neg hw hx hn
      obtain ⟨he', hlt'⟩ := clamped_mul_of_neg hw hx le_rfl
      exact wrapsOrClamps_beyond hr (he.trans he'.symm) (he ▸ hlt.ne') (he' ▸ hlt'.ne')
    · simpa only [hx, Int.zero_mul] using hr
    · obtain ⟨he, hlt⟩ := clamped_mul_of_pos hx hn
      obtain ⟨he', hlt'⟩ := clamped_mul_of_pos hx (le_refl ((2 : Int) ^ w))
      exact wrapsOrClamps_beyond hr (he.trans he'.symm) (he ▸ hlt.ne) (he' ▸ hlt'.ne)

/-- A logical right shift of the width or more leaves nothing. -/
theorem coe_shr (h : a < 2 ^ w) (n : Nat) : ((if w ≤ n then 0 else a >>> n : Nat) : Int) = (a : Int) / 2 ^ n % 2 ^ w := by
  have hdiv : (a : Int) / 2 ^ n % 2 ^ w = ((a / 2 ^ n : Nat) : Int) := by
    rw [Int.emod_eq_of_lt (by positivity) ((Int.ediv_le_self _ (by positivity)).trans_lt (by exact_mod_cast h))]
    push_cast
    rfl
  rw [hdiv]
  split
  · next hn => rw [Nat.div_eq_of_lt (h.trans_le (Nat.pow_le_pow_right (by decide) hn))]
  · rw [Nat.shiftRight_eq_div_pow]

theorem signedVal_between (w a : Nat) : -2 ^ w ≤ signedVal w a ∧ signedVal w a < 2 ^ w := by
  have hlt : ((a % 2 ^ w : Nat) : Int) < 2 ^ w := by exact_mod_cast Nat.mod_lt a (Nat.two_pow_pos w)
  have hnn : (0 : Int) ≤ ((a % 2 ^ w : Nat) : Int) := Int.natCast_nonneg _
  unfold signedVal
  dsimp only
  split <;> omega

/-- An arithmetic right shift by more than the width leaves the sign alone, as one by the width does. -/
theorem signedVal_sra (w a n : Nat) : signedVal w a / 2 ^ min n w = signedVal w a / 2 ^ n := by
  rcases le_total n w with h | h
  · rw [min_eq_left h]
  · rw [min_eq_right h]
    obtain ⟨hl, hu⟩ := signedVal_between w a
    have hn : (2 : Int) ^ w ≤ 2 ^ n := pow_le_pow_right₀ (by decide) h
    have hw : (0 : Int) < 2 ^ w := by positivity
    rcases lt_or_ge (signedVal w a) 0 with hx | hx
    · rw [Int.ediv_eq_neg_one_of_neg_of_le hx (by omega), Int.ediv_eq_neg_one_of_neg_of_le hx (by omega)]
    · rw [Int.ediv_eq_zero_of_lt hx hu, Int.ediv_eq_zero_of_lt hx (hu.trans_le hn)]

end

/-! The integer element-wise rules (R115). -/

section
variable {c : Instr} {i : Issue} {o : VOp} {f : Nat → Nat → Nat → Nat → Nat × FmtFlags} {ty : Fmt} {e a b d : Nat}

/-- The rules that wrap or clamp an exact result. -/
theorem wrapsOrClamps_laneRule (hrule : laneRule c = some (i, o, f)) (het : regType o.et = some ty)
    (hint : ty.isInt = true) {x : Int} (hx : intExact c ty.bits a b d = some x) :
    wrapsOrClamps o.sat ty.bits x (f e a b d) := by
  have hty := vopType_eq het
  unfold intExact at hx
  split at hx
  · cases hrule; cases hx
    simp only [vAddSub, hty, hint, if_true, Bool.false_eq_true, if_false]
    exact wrapsOrClamps_intResult ..
  · cases hrule; cases hx
    simp only [vAddSub, hty, hint, if_true]
    exact wrapsOrClamps_intResult ..
  · cases hrule; cases hx
    simp only [vMul, hty, hint, if_true]
    exact wrapsOrClamps_intResult ..
  · cases hrule; cases hx
    simp only [vFma, hty, hint, if_true]
    exact wrapsOrClamps_intResult ..
  · cases hrule; cases hx
    simp only [vShift, hty]
    cases o.sat with
    | false => exact ⟨fun _ => ⟨shl_wraps .., rfl⟩, nofun⟩
    | true => exact wrapsOrClamps_shlSat (regType_lanes het).1 ..
  · cases hx

/-- VMAX and VMIN on integers give the operand that is larger or smaller as a signed number. -/
theorem vMaxMin_int (het : regType o.et = some ty) (hint : ty.isInt = true) (ha : a < 2 ^ ty.bits) (hb : b < 2 ^ ty.bits)
    (mx : Bool) : ((vMaxMin mx o e a b d).1 : Int) =
        (if mx then max (signedVal ty.bits a) (signedVal ty.bits b) else min (signedVal ty.bits a) (signedVal ty.bits b)) %
          2 ^ ty.bits ∧
      (vMaxMin mx o e a b d).2 = 0 := by
  simp only [vMaxMin, vopType_eq het, hint, if_true, and_true]
  rcases lt_or_ge (signedVal ty.bits a) (signedVal ty.bits b) with h | h
  · cases mx
    · simp [h.not_ge, h.le, coe_eq_signedVal_emod ha]
    · simp [h.not_ge, h.le, coe_eq_signedVal_emod hb]
  · cases mx
    · simp [h, coe_eq_signedVal_emod hb]
    · simp [h, coe_eq_signedVal_emod ha]

/-- The rules that set no flag whatever SAT is. -/
theorem intPlain_laneRule (hrule : laneRule c = some (i, o, f)) (het : regType o.et = some ty)
    (hint : ty.isInt = true) (ha : a < 2 ^ ty.bits) (hb : b < 2 ^ ty.bits) {x : Int}
    (hx : intPlain c ty.bits a b = some x) : ((f e a b d).1 : Int) = x % 2 ^ ty.bits ∧ (f e a b d).2 = 0 := by
  have hty := vopType_eq het
  unfold intPlain at hx
  split at hx
  · cases hrule; cases hx
    exact vMaxMin_int het hint ha hb true
  · cases hrule; cases hx
    exact vMaxMin_int het hint ha hb false
  · cases hrule; cases hx
    simp only [vShift, hty]
    exact ⟨coe_shr ha _, trivial⟩
  · cases hrule; cases hx
    simp only [vShift, hty]
    exact ⟨(coe_intBits ..).trans (by rw [signedVal_sra]), trivial⟩
  · cases hx

end

/-! The bits of elements. -/

section
variable {w : Nat}

/-- A bit of a register, in its element. -/
theorem getLsbD_eq_testBit_elemOf (hw : 0 < w) (x : BitVec 2048) (b : Nat) :
    x.getLsbD b = (elemOf x w (b / w)).testBit (b % w) := by
  rw [elemOf, Nat.testBit_mod_two_pow, Nat.testBit_shiftRight, Nat.div_add_mod, decide_eq_true (Nat.mod_lt b hw),
    Bool.true_and]
  rfl

/-- An element-wise operation on the bits of its elements works on each bit of a register. -/
theorem getLsbD_of_vdBecomes {s t : State} {i : Issue} {o : VOp} {ty : Fmt} {fl : FmtFlags} {r : Nat → Nat}
    (het : regType o.et = some ty) (h : vdBecomes s t i o ty fl r) {b : Nat} (hb : b < 2048) :
    ((t.core i.core).vec.vreg o.vd).getLsbD b = (r (b / ty.bits)).testBit (b % ty.bits) := by
  obtain ⟨hw, hdvd, -⟩ := regType_lanes het
  rw [getLsbD_eq_testBit_elemOf hw, h.2 _ (Nat.div_lt_div_of_lt_of_dvd hdvd hb)]

end

section
variable {s : State} {i : Issue} {o : VOp} {ty : Fmt}

theorem present_shift_rejected {op : BitVec 8} {eff : VectorUnit → VectorUnit × FmtFlags} (h : s.Ready qVec i)
    (ht : vopTakes o ty) (hint : ty.isInt = false) :
    s.present qVec op i (fun _ => vopTodo o i (shiftRej o) eff) = (s.begun qVec i).rejectAt qVec i 2 := by
  refine present_vop_rejected h ((vop_reject ht).trans ?_)
  rw [shiftRej, vopType_eq ht.2, hint]
  rfl

/-- A bit of an active element after VAND, VOR or VXOR, of two vector operands. -/
theorem getLsbD_bitwise {op : BitVec 8} {k : Nat} (h : s.Ready qVec i) (ht : vopTakes o ty) {b : Nat} (hb : b < 2048)
    (hm : ((s.core i.core).vec.mask o.pm).getLsbD (b / ty.bits) = true) (hbs : o.bs = false) :
    (((s.present qVec op i (fun _ => vopTodo o i [] (elementwise o (vBits k)))).core i.core).vec.vreg o.vd).getLsbD b =
      ((vBits k 0 (elemOf ((s.core i.core).vec.vreg o.va) ty.bits (b / ty.bits))
        (elemOf ((s.core i.core).vec.vreg o.vb) ty.bits (b / ty.bits)) 0).1).testBit (b % ty.bits) := by
  obtain ⟨hw, -, -⟩ := regType_lanes ht.2
  have hopB : opB (s.core i.core).vec o ty.bits = elemOf ((s.core i.core).vec.vreg o.vb) ty.bits := by
    funext e
    simp only [opB, hbs, Bool.false_eq_true, if_false]
  rw [getLsbD_of_vdBecomes ht.2 (vdBecomes_elementwise h (vop_pass (rej := []) ht nofun) ht.2) hb, if_pos hm,
    Nat.testBit_mod_two_pow, decide_eq_true (Nat.mod_lt b hw), Bool.true_and, laneResult, hopB]
  rfl

end

/-- Settles O13: the rules that give an exact result wrap or clamp it, those that do not keep or shift an operand; shifts
of a float type fail their check, and the bits of a register are those of its elements. -/
theorem integerLanesFollowTheirTable : Obligations.IntegerLanesFollowTheirTable := by
  refine ⟨?_, ?_, ?_⟩
  · intro c i o f ty e a b d hrule htakes hint ha hb hd
    obtain ⟨-, het, -⟩ := htakes
    exact ⟨fun x hx => wrapsOrClamps_laneRule hrule het hint hx, fun x hx => intPlain_laneRule hrule het hint ha hb hx⟩
  · intro i o ty s hready het hrnd hint c hc
    have hrej : ∀ {op eff}, s.present qVec op i (fun _ => vopTodo o i (shiftRej o) eff) =
        (s.begun qVec i).rejectAt qVec i 2 := present_shift_rejected hready ⟨hrnd, het⟩ hint
    simp only [List.mem_cons, List.not_mem_nil, or_false] at hc
    rcases hc with rfl | rfl | rfl
    all_goals exact congrArg Host.Outcome.next hrej
  · intro i o ty s hready het hrnd c hc
    have ht : vopTakes o ty := ⟨hrnd, het⟩
    obtain ⟨hw, -, -⟩ := regType_lanes het
    simp only [List.mem_cons, List.not_mem_nil, or_false] at hc
    rcases hc with rfl | rfl | rfl
    · refine ⟨_, rfl, fun b hb hm hbs => (getLsbD_bitwise (k := 0) hready ht hb hm hbs).trans ?_⟩
      simp only [vBits, if_true, Nat.testBit_and, ← getLsbD_eq_testBit_elemOf hw]
    · refine ⟨_, rfl, fun b hb hm hbs => (getLsbD_bitwise (k := 1) hready ht hb hm hbs).trans ?_⟩
      simp only [vBits, one_ne_zero, if_true, if_false, Nat.testBit_or, ← getLsbD_eq_testBit_elemOf hw]
    · refine ⟨_, rfl, fun b hb hm hbs => (getLsbD_bitwise (k := 2) hready ht hb hm hbs).trans ?_⟩
      simp only [vBits, OfNat.ofNat_ne_zero, OfNat.ofNat_ne_one, if_false, Nat.testBit_xor,
        ← getLsbD_eq_testBit_elemOf hw]

end Sys2Proof.Machine
end

section
/-! PROOF. The special operands of the float elements of the vector engine (R113, R114). -/

namespace Sys2Proof.Machine

open Claims

/-! Operands of the exact operations (R53, R113). -/

namespace Num

variable {x y : Num}

theorem eq_nan_of_isNaN (h : x.isNaN = true) : x = .nan := by
  cases x with
  | nan => rfl
  | inf g => cases h
  | fin g m k => cases h

theorem isNaN_neg (x : Num) : x.neg.isNaN = x.isNaN := by cases x <;> rfl

theorem add_of_nan (rdn : Bool) (h : x.isNaN = true ∨ y.isNaN = true) : Num.add rdn x y = (.nan, 0) := by
  rcases h with h | h
  · rw [eq_nan_of_isNaN h]
    rfl
  · rw [eq_nan_of_isNaN h]
    cases x <;> rfl

theorem mul_of_nan (h : x.isNaN = true ∨ y.isNaN = true) : x.mul y = (.nan, 0) := by
  rcases h with h | h
  · rw [eq_nan_of_isNaN h]
    rfl
  · rw [eq_nan_of_isNaN h]
    cases x <;> rfl

theorem add_inf_opposite (rdn g : Bool) : Num.add rdn (.inf g) (.inf (!g)) = (.nan, flInvalid) := by cases g <;> rfl

theorem mul_inf_zero (g g' : Bool) (k : Int) : Num.mul (.inf g) (.fin g' 0 k) = (.nan, flInvalid) := rfl

theorem mul_zero_inf (g g' : Bool) (k : Int) : Num.mul (.fin g' 0 k) (.inf g) = (.nan, flInvalid) := rfl

/-- A product that is no NaN sets no flag. -/
theorem mul_flags (h : (x.mul y).1.isNaN = false) : (x.mul y).2 = 0 := by
  cases x with
  | nan => rfl
  | inf g =>
    cases y with
    | nan => rfl
    | inf g' => rfl
    | fin g' m k =>
      rcases m.eq_zero_or_pos with rfl | hm
      · cases h
      · exact congrArg Prod.snd (if_neg hm.ne')
  | fin g m k =>
    cases y with
    | nan => rfl
    | inf g' =>
      rcases m.eq_zero_or_pos with rfl | hm
      · cases h
      · exact congrArg Prod.snd (if_neg hm.ne')
    | fin g' m' k' => rfl

/-- Where the zeros do not decide, their order makes no difference. -/
theorem cmp_zeros (h : Num.cmp false x y ≠ 0) : Num.cmp true x y = Num.cmp false x y := by
  unfold Num.cmp at h ⊢
  split
  · next s m e t n f =>
    simp only [Bool.false_eq_true, false_and, and_false, if_false] at h ⊢
    rw [if_neg fun hd => h hd.1]
  · rfl

theorem add_zeros (k k' : Int) : (Dy.add ⟨0, k⟩ ⟨0, k'⟩).m = 0 := by
  unfold Dy.add
  split <;> simp

/-- −0 lies below +0 (R114). -/
theorem cmp_neg_zero_pos_zero (k k' : Int) : Num.cmp true (.fin true 0 k) (.fin false 0 k') < 0 := by
  simp [Num.cmp, Num.signed, add_zeros]

theorem cmp_pos_zero_neg_zero (k k' : Int) : 0 < Num.cmp true (.fin false 0 k) (.fin true 0 k') := by
  simp [Num.cmp, Num.signed, add_zeros]

end Num

/-! The float element-wise rules. -/

section
variable {o : VOp} {ty : Fmt} {e a b d : Nat}

/-- The float register types have a NaN (R35, R99). -/
theorem regType_float {et : BitVec 4} (het : regType et = some ty) (hint : ty.isInt = false) :
    ∃ g : FFmt, ty.elem = .flt g ∧ g.cls ≠ .c := by
  have h := mem_of_regType het
  simp only [List.mem_cons, List.not_mem_nil, or_false] at h
  rcases h with rfl | rfl | rfl | rfl | rfl | rfl | rfl
  case inr.inl | inr.inr.inr.inr.inr.inr => cases hint
  all_goals exact ⟨_, rfl, by decide⟩

/-- The canonical NaN of a type. -/
def Fmt.nan (ty : Fmt) : Nat := (ty.elem.encode 0 false 0 .nan).1

/-- A NaN becomes the canonical one, whatever the rounding, and sets no flag. -/
theorem toElem_nan (het : regType o.et = some ty) (hint : ty.isInt = false) : toElem o ty e .nan = (ty.nan, 0) := by
  obtain ⟨g, hg, hcls⟩ := regType_float het hint
  simp only [toElem, Fmt.nan, hg, Elem.encode, encodeFlt, if_neg hcls]
  rfl

section
variable (het : regType o.et = some ty) (hint : ty.isInt = false)
include het hint

/-! Exact results that are no number. -/

theorem vAddSub_of_nan {sub : Bool} {fl : FmtFlags} (h : (ty.elem.decode a).add (o.rnd == 2)
      (if sub then (ty.elem.decode b).neg else ty.elem.decode b) = (.nan, fl)) : vAddSub sub o e a b d = (ty.nan, fl) := by
  simp only [vAddSub, vopType_eq het, hint, Bool.false_eq_true, if_false, h, toElem_nan het hint]
  exact congrArg (Prod.mk _) BitVec.or_zero

theorem vMul_of_nan {fl : FmtFlags} (h : (ty.elem.decode a).mul (ty.elem.decode b) = (.nan, fl)) :
    vMul o e a b d = (ty.nan, fl) := by
  simp only [vMul, vopType_eq het, hint, Bool.false_eq_true, if_false, h, toElem_nan het hint]
  exact congrArg (Prod.mk _) BitVec.or_zero

theorem vFma_of_nan {p : Num} {fl : FmtFlags} (h : (ty.elem.decode a).mul (ty.elem.decode b) = (p, fl))
    (hp : p.add (o.rnd == 2) (ty.elem.decode d) = (.nan, 0)) : vFma o e a b d = (ty.nan, fl) := by
  simp only [vFma, vopType_eq het, hint, Bool.false_eq_true, if_false, h, hp, toElem_nan het hint]
  exact congrArg (Prod.mk _) (BitVec.or_zero.trans BitVec.or_zero)

theorem vMaxMin_of_nan {mx : Bool} (h : (ty.elem.decode a).isNaN = true ∨ (ty.elem.decode b).isNaN = true) :
    vMaxMin mx o e a b d = (ty.nan, 0) := by
  simp only [vMaxMin, vopType_eq het, hint, Bool.false_eq_true, if_false, Bool.or_eq_true, if_pos h]
  rfl

/-- VMAX and VMIN of two numbers take the operand that is larger or smaller. -/
theorem vMaxMin_of_num {mx : Bool} (hx : (ty.elem.decode a).isNaN = false) (hy : (ty.elem.decode b).isNaN = false) :
    vMaxMin mx o e a b d =
      (if decide (0 ≤ Num.cmp true (ty.elem.decode a) (ty.elem.decode b)) == mx then a else b, 0) := by
  simp only [vMaxMin, vopType_eq het, hint, hx, hy, Bool.or_false, Bool.false_eq_true, if_false]

theorem vMaxMin_of_cmp_neg (hx : (ty.elem.decode a).isNaN = false) (hy : (ty.elem.decode b).isNaN = false)
    (h : Num.cmp true (ty.elem.decode a) (ty.elem.decode b) < 0) :
    vMaxMin true o e a b d = (b, 0) ∧ vMaxMin false o e a b d = (a, 0) := by
  rw [vMaxMin_of_num het hint hx hy, vMaxMin_of_num het hint hx hy, decide_eq_false (not_le.2 h)]
  exact ⟨rfl, rfl⟩

theorem vMaxMin_of_cmp_pos (hx : (ty.elem.decode a).isNaN = false) (hy : (ty.elem.decode b).isNaN = false)
    (h : 0 < Num.cmp true (ty.elem.decode a) (ty.elem.decode b)) :
    vMaxMin true o e a b d = (a, 0) ∧ vMaxMin false o e a b d = (b, 0) := by
  rw [vMaxMin_of_num het hint hx hy, vMaxMin_of_num het hint hx hy, decide_eq_true h.le]
  exact ⟨rfl, rfl⟩

/-- VMAX and VMIN of two numbers give one of them. -/
theorem vMaxMin_mem {mx : Bool} (hx : (ty.elem.decode a).isNaN = false) (hy : (ty.elem.decode b).isNaN = false) :
    vMaxMin mx o e a b d = (a, 0) ∨ vMaxMin mx o e a b d = (b, 0) := by
  rw [vMaxMin_of_num het hint hx hy]
  split
  · exact .inl rfl
  · exact .inr rfl

end

end

/-- Settles O14: the exact operation of every special pair is a NaN with its flags, or VMAX and VMIN go by the comparison
that orders the zeros. -/
theorem floatSpecialsFollowTheirTable : Obligations.FloatSpecialsFollowTheirTable := by
  intro o ty e a b d het hint nan x y z
  refine ⟨fun h => ?_, fun g hx hy => ?_, fun g hx hy => ?_, fun g g' k hx hy => ?_, fun hx hy hz hp => ?_, fun hx hy => ?_⟩
  · have hmul : x.mul y = (.nan, 0) := Num.mul_of_nan h
    have hneg : x.isNaN = true ∨ y.neg.isNaN = true := by rwa [Num.isNaN_neg]
    exact ⟨vAddSub_of_nan het hint (Num.add_of_nan _ h), vAddSub_of_nan het hint (Num.add_of_nan _ hneg),
      vMul_of_nan het hint hmul, vFma_of_nan het hint hmul rfl, vMaxMin_of_nan het hint h, vMaxMin_of_nan het hint h⟩
  · refine vAddSub_of_nan het hint ?_
    change x.add _ y = _
    rw [hx, hy, Num.add_inf_opposite]
  · refine vAddSub_of_nan het hint ?_
    change x.add _ y.neg = _
    rw [hx, hy]
    exact Num.add_inf_opposite _ g
  · have hmul : x.mul y = (.nan, flInvalid) := by rw [hx, hy, Num.mul_inf_zero]
    have hmul' : y.mul x = (.nan, flInvalid) := by rw [hx, hy, Num.mul_zero_inf]
    exact ⟨vMul_of_nan het hint hmul, vMul_of_nan het hint hmul', vFma_of_nan het hint hmul rfl⟩
  · exact vFma_of_nan het hint (Prod.ext rfl (Num.mul_flags hp)) (Num.add_of_nan _ (.inr hz))
  · refine ⟨vMaxMin_mem het hint hx hy, vMaxMin_mem het hint hx hy, fun h => vMaxMin_of_cmp_neg het hint hx hy ?_,
      fun h => vMaxMin_of_cmp_pos het hint hx hy ?_⟩
    · change Num.cmp true x y < 0
      rcases h with h | ⟨k, k', hx, hy⟩
      · rwa [Num.cmp_zeros h.ne]
      · rw [hx, hy]
        exact Num.cmp_neg_zero_pos_zero k k'
    · change 0 < Num.cmp true x y
      rcases h with h | ⟨k, k', hx, hy⟩
      · rwa [Num.cmp_zeros h.ne']
      · rw [hx, hy]
        exact Num.cmp_pos_zero_neg_zero k k'

end Sys2Proof.Machine
end

section
/-! PROOF. The moves of the vector engine (R116, R120, R125): VSPLAT, VSEL, VEXPD, VCOMP and VCVT. -/

namespace Sys2Proof.Machine

open Claims

/-! Elements of registers that are built as a whole. -/

theorem elemOf_regOf_map {w : Nat} (f : Nat → Nat) {e : Nat} (he : e < 2048 / w) :
    elemOf (regOf w ((List.range (2048 / w)).map f)) w e = f e % 2 ^ w := by
  rw [elemOf_regOf _ ((Nat.mul_le_mul_left w he).trans (Nat.mul_div_le 2048 w)), List.getD_eq_getElem?_getD,
    List.getElem?_map, List.getElem?_range he]
  rfl

/-- An element keeps its value in a place of its own width. -/
theorem elemOf_mod (x : BitVec 2048) (w e : Nat) : elemOf x w e % 2 ^ w = elemOf x w e := Nat.mod_eq_of_lt (elemOf_lt x w e)

theorem VectorUnit.vreg_setS (u : VectorUnit) (n : BitVec 4) (x : BitVec 32) (m : BitVec 5) :
    (u.setS n x).vreg m = u.vreg m := by
  unfold VectorUnit.setS
  split <;> rfl

/-- What an inactive element holds afterwards (R101). -/
def inactiveElem (u : VectorUnit) (o : VOp) (ty : Fmt) (e : Nat) : Nat :=
  if o.mz then 0 else elemOf (u.vreg o.vd) ty.bits e

theorem inactiveElem_mod (u : VectorUnit) (o : VOp) (ty : Fmt) (e : Nat) :
    inactiveElem u o ty e % 2 ^ ty.bits = inactiveElem u o ty e := by
  unfold inactiveElem
  split
  · exact Nat.zero_mod _
  · exact elemOf_mod ..

section
variable {s : State} {i : Issue} {o : VOp} {ty src : Fmt}

/-! VSPLAT, VSEL and VEXPD (R116, R125). -/

theorem exec_vsplat (h : s.Ready qVec i) (ht : vopTakes o ty) :
    let u := (s.core i.core).vec
    ∃ t, exec (.vsplat i o) s = .next t ∧ vdBecomes s t i o ty 0 (fun e => if (u.mask o.pm).getLsbD e then
      (if o.bs then u.scalar o.sb else o.imm).toNat % 2 ^ ty.bits else inactiveElem u o ty e) := by
  refine ⟨_, rfl, vdBecomes_vop (rej := []) (eff := vSplat o) h (vop_pass ht nofun) (fun _ => rfl)
    (by rw [vSplat, vopType_eq ht.2]) fun e he => (elemOf_merge _ _ _ _ he).trans ?_⟩
  rw [Nat.mod_mod, inactiveElem]

theorem exec_vsel (h : s.Ready qVec i) (ht : vopTakes o ty) :
    let u := (s.core i.core).vec
    ∃ t, exec (.vsel i o) s = .next t ∧ vdBecomes s t i o ty 0 (fun e => if (u.mask o.pm).getLsbD e then
      elemOf (u.vreg o.va) ty.bits e
      else if o.bs then (u.scalar o.sb).toNat % 2 ^ ty.bits else elemOf (u.vreg o.vb) ty.bits e) := by
  refine ⟨_, rfl, vdBecomes_vop (rej := []) (eff := vSel o) h (vop_pass ht nofun) (fun _ => rfl)
    (by rw [vSel, vopType_eq ht.2]) fun e he => (elemOf_regOf_map _ he).trans ?_⟩
  simp only [opB, apply_ite (· % 2 ^ ty.bits), elemOf_mod, Nat.mod_mod]

theorem exec_vexpd (h : s.Ready qVec i) (ht : vopTakes o ty) :
    let u := (s.core i.core).vec
    let m := u.mask o.pm
    ∃ t, exec (.vexpd i o) s = .next t ∧ vdBecomes s t i o ty 0 (fun e => if m.getLsbD e then
      elemOf (u.vreg o.va) ty.bits (activeList e m).length else inactiveElem u o ty e) := by
  refine ⟨_, rfl, vdBecomes_vop (rej := []) (eff := vExpd o) h (vop_pass ht nofun) (fun _ => rfl)
    (by rw [vExpd, vopType_eq ht.2]) fun e he => (elemOf_merge _ _ _ _ he).trans ?_⟩
  rw [elemOf_mod]
  rfl

/-! VCOMP (R125). -/

theorem onRegisters_vComp (o : VOp) : onRegisters (vComp o) := by
  intro u
  simp only [vComp, VectorUnit.uncounted_setS]
  rfl

/-- VD after a VCOMP: the active elements of VA, then the inactive places. -/
def compressed (u : VectorUnit) (o : VOp) (ty : Fmt) : BitVec 2048 :=
  regOf ty.bits ((List.range ty.lanes).map fun e => match (activeList ty.lanes (u.mask o.pm))[e]? with
    | some k => elemOf (u.vreg o.va) ty.bits k
    | none => inactiveElem u o ty e)

theorem vComp_eq (het : regType o.et = some ty) (u : VectorUnit) : (vComp o u).1 =
    (u.setV o.vd (compressed u o ty)).setS o.sd (BitVec.ofNat 32 (activeList ty.lanes (u.mask o.pm)).length) := by
  rw [vComp, vopType_eq het]
  rfl

theorem elemOf_compressed (u : VectorUnit) (o : VOp) {e : Nat} (he : e < ty.lanes) :
    elemOf (compressed u o ty) ty.bits e = match (activeList ty.lanes (u.mask o.pm))[e]? with
      | some k => elemOf (u.vreg o.va) ty.bits k
      | none => inactiveElem u o ty e := by
  refine (elemOf_regOf_map _ he).trans ?_
  cases (activeList ty.lanes (u.mask o.pm))[e]? with
  | some k => exact elemOf_mod ..
  | none => exact inactiveElem_mod ..

/-- A VCOMP leaves VD compressed and the count of active elements in S[SD]. -/
theorem coreBecomes_vcomp (h : s.Ready qVec i) (ht : vopTakes o ty) :
    let u := (s.core i.core).vec
    ∃ t, exec (.vcomp i o) s = .next t ∧ coreBecomes s t i.core { s.core i.core with
      vec := (u.setV o.vd (compressed u o ty)).setS o.sd
        (BitVec.ofNat 32 (activeList ty.lanes (u.mask o.pm)).length) } := by
  refine ⟨_, rfl, ?_⟩
  rw [← vComp_eq ht.2]
  exact coreBecomes_vop_unflagged (rej := []) h (vop_pass ht nofun) (onRegisters_vComp o) fun _ => rfl

/-! VCVT (R120). -/

/-- The shape of a conversion gives its places. -/
theorem cvtPlaces_eq {ws wd part : Nat} (h : part < (cvtPlaces ws wd part).1) :
    let sh := cvtShape ws wd
    cvtPlaces ws wd part =
      (sh.1, sh.2.1, if sh.2.2 then 0 else part * sh.2.1, if sh.2.2 then part * sh.2.1 else 0) := by
  unfold cvtPlaces cvtShape at *
  split
  · next he =>
    rw [if_pos he] at h
    obtain rfl : part = 0 := Nat.lt_one_iff.1 h
    simp
  · split <;> rfl

section
variable (u : VectorUnit) (o : VOp) (src ty : Fmt) (n s0 d0 : Nat)

/-- The bits that a VCVT makes of element `s0 + (e − d0)` of VA for element `e` of VD. -/
def convertedBits (e : Nat) : Nat :=
  if src = ty then elemOf (u.vreg o.va) ty.bits (s0 + (e - d0))
  else (toElem o ty e (src.elem.decode (elemOf (u.vreg o.va) src.bits (s0 + (e - d0))))).1 % 2 ^ ty.bits

/-- Element `e` of VD after a VCVT of `n` elements from element `s0` of VA to element `d0` of VD. -/
def convertedElem (e : Nat) : Nat :=
  if e < d0 ∨ d0 + n ≤ e then elemOf (u.vreg o.vd) ty.bits e
  else if (u.mask o.pm).getLsbD e then convertedBits u o src ty s0 d0 e else inactiveElem u o ty e

/-- VD after a VCVT, as it is built. -/
def converted : BitVec 2048 :=
  regOf ty.bits ((List.range ty.lanes).map fun e =>
    if !decide (d0 ≤ e ∧ e < d0 + n) then elemOf (u.vreg o.vd) ty.bits e
    else if (u.mask o.pm).getLsbD e then
      (if src = ty then (elemOf (u.vreg o.va) src.bits (s0 + (e - d0)), 0)
       else toElem o ty e (src.elem.decode (elemOf (u.vreg o.va) src.bits (s0 + (e - d0))))).1
    else inactiveElem u o ty e)

theorem elemOf_converted {e : Nat} (he : e < ty.lanes) :
    elemOf (converted u o src ty n s0 d0) ty.bits e = convertedElem u o src ty n s0 d0 e := by
  refine (elemOf_regOf_map _ he).trans ?_
  rw [convertedElem]
  by_cases hin : d0 ≤ e ∧ e < d0 + n
  · have hplaced : ¬ (!decide (d0 ≤ e ∧ e < d0 + n)) = true := by simp [hin]
    have hnot : ¬ (e < d0 ∨ d0 + n ≤ e) := by omega
    rw [if_neg hplaced, if_neg hnot]
    split
    · rw [convertedBits]
      split
      · next hty => rw [hty]; exact elemOf_mod ..
      · rfl
    · exact inactiveElem_mod ..
  · have hkept : (!decide (d0 ≤ e ∧ e < d0 + n)) = true := by rw [decide_eq_false hin]; rfl
    have hor : e < d0 ∨ d0 + n ≤ e := by omega
    rw [if_pos hkept, if_pos hor]
    exact elemOf_mod ..

end

theorem vcvtRej_pass (ht : vopTakes o ty) (hsrc : regType o.srct = some src)
    (h : o.part.toNat < (cvtPlaces src.bits ty.bits o.part.toNat).1) : firstReason (vopCommon o ++ vcvtRej o) = none := by
  rw [cvtPlaces_eq h] at h
  refine vop_pass ht ?_
  simp only [vcvtRej, List.forall_mem_cons, cvtSrc, hsrc, vopType_eq ht.2, Option.getD_some, decide_eq_false_iff_not]
  exact ⟨nofun, not_le.2 h, nofun⟩

theorem vCvt_eq (het : regType o.et = some ty) (h : o.part.toNat < (cvtPlaces src.bits ty.bits o.part.toNat).1)
    (u : VectorUnit) : let p := cvtPlaces src.bits ty.bits o.part.toNat
      ∃ fl, vCvt o src u = (u.setV o.vd (converted u o src ty p.2.1 p.2.2.1 p.2.2.2), fl) := by
  rw [cvtPlaces_eq h, vCvt, vopType_eq het]
  exact ⟨_, rfl⟩

/-- A VCVT of a part that there is converts its elements. -/
theorem exec_vcvt (h : s.Ready qVec i) (ht : vopTakes o ty) (hsrc : regType o.srct = some src)
    (hpart : o.part.toNat < (cvtPlaces src.bits ty.bits o.part.toNat).1) :
    let p := cvtPlaces src.bits ty.bits o.part.toNat
    ∃ t fl, exec (.vcvt i o) s = .next t ∧
      vdBecomes s t i o ty fl (convertedElem (s.core i.core).vec o src ty p.2.1 p.2.2.1 p.2.2.2) := by
  have hcvt : cvtSrc o = src := by rw [cvtSrc, hsrc]; rfl
  obtain ⟨fl, hfl⟩ := vCvt_eq ht.2 hpart (s.core i.core).vec
  refine ⟨_, fl, rfl, vdBecomes_vop h (vcvtRej_pass ht hsrc hpart) (fun _ => rfl) ?_ fun e he => elemOf_converted _ _ _ _ _ _ _ he⟩
  rw [hcvt]
  exact hfl

end

/-- Settles O15: each move is a register operation that nothing rejects, and VD is read off by elements. -/
theorem vectorMovesPlaceTheirElements : Obligations.VectorMovesPlaceTheirElements := by
  intro i o ty s hready ht
  refine ⟨exec_vsplat hready ht, exec_vsel hready ht, exec_vexpd hready ht, ?_,
    fun src hsrc hpart => exec_vcvt hready ht hsrc hpart⟩
  obtain ⟨t, hx, hb⟩ := coreBecomes_vcomp hready ht
  have hvd : (t.core i.core).vec.vreg o.vd = compressed (s.core i.core).vec o ty := by
    rw [vreg_of_coreBecomes hb, VectorUnit.vreg_setS, VectorUnit.vreg_setV_self]
  refine ⟨t, hx, ?_⟩
  rw [hvd]
  exact ⟨hb, fun e he => elemOf_compressed _ _ he⟩

end Sys2Proof.Machine
end

section
/-! PROOF. Masks, scalars and reductions of the vector engine (R117 to R119, R123, R124). -/

namespace Sys2Proof.Machine

open Claims

/-! Masks (R100, R117, R118). -/

/-- The flags of a range, each at its bit. -/
theorem maskOf_eq_packFlags (n : Nat) (f : Nat → Bool) : maskOf n f = BitVec.ofNat 256 (packFlags f (List.range n)) := by
  have hidx : (List.range n).zipIdx = (List.range n).map fun e => (e, e) :=
    List.ext_getElem (by simp) (by simp)
  have hsum := foldr_shiftFlags f (List.range n) 0
  rw [hidx, List.foldr_map, Nat.shiftLeft_zero] at hsum
  rw [maskOf, ← hsum]
  simp only [Nat.add_comm]

theorem getLsbD_maskOf (n : Nat) (f : Nat → Bool) {e : Nat} (he : e < 256) :
    (maskOf n f).getLsbD e = (decide (e < n) && f e) := by
  rw [maskOf_eq_packFlags, BitVec.getLsbD_ofNat, testBit_packFlags, decide_eq_true he, Bool.true_and]
  by_cases hn : e < n
  · simp [hn]
  · simp [hn]

theorem VectorUnit.mask_setP (u : VectorUnit) (n : BitVec 3) (x : BitVec 256) {m : BitVec 3} (hm : m ≠ 0) :
    (u.setP n x).mask m = if m = n then x else u.mask m := by
  split
  · next h => rw [h, u.mask_setP_self x (h ▸ hm)]
  · next h =>
    by_cases hn : n = 0
    · rw [hn, u.setP_zero]
    · unfold VectorUnit.mask VectorUnit.setP
      have hv : n.toNat ≠ m.toNat := fun e => h (BitVec.eq_of_toNat_eq e.symm)
      rw [if_neg hm, if_neg hm, if_neg hn]
      exact Vector.getElem_set_ne n.isLt m.isLt hv

theorem VectorUnit.scalar_setS (u : VectorUnit) (n : BitVec 4) (x : BitVec 32) {m : BitVec 4} (hm : m ≠ 0) :
    (u.setS n x).scalar m = if m = n then x else u.scalar m := by
  split
  · next h => rw [h, u.scalar_setS_self x (h ▸ hm)]
  · next h =>
    by_cases hn : n = 0
    · rw [hn, u.setS_zero]
    · unfold VectorUnit.scalar VectorUnit.setS
      have hv : n.toNat ≠ m.toNat := fun e => h (BitVec.eq_of_toNat_eq e.symm)
      rw [if_neg hm, if_neg hm, if_neg hn]
      exact Vector.getElem_set_ne n.isLt m.isLt hv

section
variable {s : State} {i : Issue} {o : VOp} {ty : Fmt}

theorem onRegisters_vCmp (o : VOp) : onRegisters (vCmp o) := by
  intro u
  simp only [vCmp, VectorUnit.uncounted_setP]
  rfl

theorem onRegisters_vMop (o : VOp) : onRegisters (vMop o) := by
  intro u
  simp only [vMop, VectorUnit.uncounted_setP]
  rfl

theorem onRegisters_vSop (o : VOp) : onRegisters (vSop o) := by
  intro u
  simp only [vSop, VectorUnit.uncounted_setS]
  rfl

/-! Checks (R99, R100, R117 to R119). -/

/-- A type that is no register type is rejected before anything that an instruction checks itself. -/
theorem vop_reject_type {rej : List (Bool × Nat)} (hrnd : o.rnd.toNat < 6) (het : regType o.et = none) :
    firstReason (vopCommon o ++ rej) = some 2 := by
  simp [firstReason, vopCommon, het, hrnd]

theorem vcmpRej_reserved (hfn : 8 ≤ o.fn.toNat) : firstReason (vcmpRej o) = some 2 := by
  simp [firstReason, vcmpRej, hfn]

theorem mopRej_reserved (hfn : 7 ≤ o.fn.toNat) : firstReason (mopRej o) = some 2 := by
  simp [firstReason, mopRej, hfn]

theorem vcmpRej_pass (ht : vopTakes o ty) (hfn : o.fn.toNat < 8) (hpd : o.pd ≠ 0) :
    firstReason (vopCommon o ++ vcmpRej o) = none :=
  vop_pass ht (by simpa [vcmpRej, hfn] using hpd)

theorem mopRej_pass (ht : vopTakes o ty) (hfn : o.fn.toNat < 7) (hpd : o.pd ≠ 0) :
    firstReason (vopCommon o ++ mopRej o) = none :=
  vop_pass ht (by simpa [mopRej, hfn] using hpd)

theorem sopRej_pass (ht : vopTakes o ty) (hfn : o.fn.toNat < 4) (himm : o.fn = 2 → o.imm.toNat < ty.lanes)
    (hsd : o.sd ≠ 0) : firstReason (vopCommon o ++ sopRej o) = none :=
  vop_pass ht (by simpa [sopRej, hfn, vopType_eq ht.2] using ⟨himm, hsd⟩)

theorem vredRej_pass (ht : vopTakes o ty) (hfn : o.fn.toNat < 3) : firstReason (vopCommon o ++ vredRej o) = none :=
  vop_pass ht (by simp [vredRej, hfn])

/-! VCMP (R117). -/

/-- The comparison of R117 on two elements. -/
def cmpElems (ty : Fmt) (fn : BitVec 4) (a b : Nat) : Bool :=
  if ty.isInt then condOf fn.toNat (signedVal ty.bits a - signedVal ty.bits b)
  else if (ty.elem.decode a).isNaN || (ty.elem.decode b).isNaN then fn == 1 || fn == 7
  else condOf fn.toNat (Num.cmp false (ty.elem.decode a) (ty.elem.decode b))

theorem vCmpOne_eq (ty : Fmt) (fn : BitVec 4) (a b : Nat) : vCmpOne ty fn.toNat a b = cmpElems ty fn a b := by
  have hbeq : ∀ k : BitVec 4, (fn == k) = (fn.toNat == k.toNat) := fun k => by
    rw [Bool.eq_iff_iff, beq_iff_eq, beq_iff_eq, BitVec.toNat_inj]
  rw [cmpElems, hbeq, hbeq]
  rfl

/-- P[PD] after a VCMP. -/
def compared (u : VectorUnit) (o : VOp) (ty : Fmt) : BitVec 256 :=
  maskOf ty.lanes fun e => (u.mask o.pm).getLsbD e &&
    cmpElems ty o.fn (elemOf (u.vreg o.va) ty.bits e) (opB u o ty.bits e)

theorem vCmp_eq (het : regType o.et = some ty) (u : VectorUnit) : (vCmp o u).1 = u.setP o.pd (compared u o ty) := by
  simp only [vCmp, vopType_eq het, compared, vCmpOne_eq]

theorem coreBecomes_vcmp (h : s.Ready qVec i) (ht : vopTakes o ty) (hfn : o.fn.toNat < 8) (hpd : o.pd ≠ 0) :
    ∃ t, exec (.vcmp i o) s = .next t ∧ coreBecomes s t i.core { s.core i.core with
      vec := (s.core i.core).vec.setP o.pd (compared (s.core i.core).vec o ty) } := by
  refine ⟨_, rfl, ?_⟩
  rw [← vCmp_eq ht.2]
  exact coreBecomes_vop_unflagged h (vcmpRej_pass ht hfn hpd) (onRegisters_vCmp o) fun _ => rfl

/-! MOP and SOP (R118, R119). -/

theorem mopMask_eq_getD (a b : BitVec 256) {n : Nat} (hn : n < 7) : mopMask n a b =
    [a &&& b, a ||| b, a ^^^ b, a &&& ~~~b, ~~~a, BitVec.allOnes 256, 0].getD n 0 := by
  interval_cases n <;> rfl

theorem coreBecomes_mop (h : s.Ready qVec i) (ht : vopTakes o ty) (hfn : o.fn.toNat < 7) (hpd : o.pd ≠ 0) :
    ∃ t, exec (.mop i o) s = .next t ∧ coreBecomes s t i.core { s.core i.core with vec := (vMop o (s.core i.core).vec).1 } :=
  ⟨_, rfl, coreBecomes_vop_unflagged h (mopRej_pass ht hfn hpd) (onRegisters_vMop o) fun _ => rfl⟩

/-- A SOP leaves `x` in S[SD]. -/
theorem coreBecomes_sop {x : BitVec 32} (h : s.Ready qVec i) (ht : vopTakes o ty) (hfn : o.fn.toNat < 4)
    (himm : o.fn = 2 → o.imm.toNat < ty.lanes) (hsd : o.sd ≠ 0)
    (hx : (vSop o (s.core i.core).vec).1 = (s.core i.core).vec.setS o.sd x) :
    ∃ t, exec (.sop i o) s = .next t ∧
      coreBecomes s t i.core { s.core i.core with vec := (s.core i.core).vec.setS o.sd x } := by
  refine ⟨_, rfl, ?_⟩
  rw [← hx]
  exact coreBecomes_vop_unflagged h (sopRej_pass ht hfn himm hsd) (onRegisters_vSop o) fun _ => rfl

/-! VRED (R123, R124). -/

section
variable {α : Type} (f : α → α → α) (leaf : Nat → Option α)

/-- A level of the tree combines each pair of what it is given. -/
theorem redLevel_map_range : ∀ (k : Nat) (leaf : Nat → Option α),
    redLevel f ((List.range (2 * k)).map leaf) = (List.range k).map (pairTree f leaf 1)
  | 0, _ => rfl
  | k + 1, leaf => by
    have hlist : (List.range (2 * (k + 1))).map leaf = leaf 0 :: leaf 1 :: (List.range (2 * k)).map (fun e => leaf (e + 2)) := by
      rw [Nat.mul_succ, List.range_succ_eq_map, List.range_succ_eq_map]
      simp [Function.comp_def]
    rw [hlist, List.range_succ_eq_map, List.map_cons, List.map_map]
    exact congrArg (pairTree f leaf 1 0 :: ·) (redLevel_map_range k fun e => leaf (e + 2))

/-- A tree over the first level of a tree is the tree of one level more. -/
theorem pairTree_succ_leaf : ∀ n e, pairTree f (pairTree f leaf 1) n e = pairTree f leaf (n + 1) e
  | 0, _ => rfl
  | n + 1, e => by
    rw [pairTree, pairTree_succ_leaf n, pairTree_succ_leaf n, ← pairTree]

/-- The levels taken one after another are the pairwise tree over the index. -/
theorem redTree_eq_pairTree : ∀ (n : Nat) (leaf : Nat → Option α),
    redTree f n ((List.range (2 ^ n)).map leaf) = pairTree f leaf n 0
  | 0, _ => rfl
  | n + 1, leaf => by
    rw [redTree, Nat.pow_succ', redLevel_map_range, redTree_eq_pairTree n, pairTree_succ_leaf]

end

/-- The elements of a register are a power of two. -/
theorem two_pow_log2_lanes {et : BitVec 4} (h : regType et = some ty) : 2 ^ Nat.log2 ty.lanes = ty.lanes := by
  have hall : ∀ f ∈ [Fmt.fp32, .int32, .bf16, .fp16, .e4m3, .e5m2, .int8], 2 ^ Nat.log2 f.lanes = f.lanes := by decide
  exact hall ty (mem_of_regType h)

/-- An active element as an operand of the tree: its INT32 or FP32 bits. -/
def redLeaf (u : VectorUnit) (o : VOp) (ty : Fmt) (e : Nat) : Option (BitVec 32 × FmtFlags) :=
  if (u.mask o.pm).getLsbD e then
    some ((if ty.isInt then BitVec.ofInt 32 (signedVal ty.bits (elemOf (u.vreg o.va) ty.bits e))
           else widen ty (elemOf (u.vreg o.va) ty.bits e)), 0)
  else none

/-- The value of a reduction without an active element (R124). -/
def redEmpty (fn : BitVec 4) (int : Bool) : BitVec 32 :=
  if fn = 0 then 0
  else if int then (if fn = 1 then 0x80000000 else 0x7FFFFFFF)
  else if fn = 1 then 0xFF800000 else 0x7F800000

/-- The value and flags of a reduction. -/
def reduced (u : VectorUnit) (o : VOp) (ty : Fmt) : BitVec 32 × FmtFlags :=
  (pairTree (if ty.isInt then redIntNode o.fn.toNat o.sat else redFloat o.fn.toNat) (redLeaf u o ty)
    (Nat.log2 ty.lanes) 0).getD (redEmpty o.fn ty.isInt, 0)

theorem vRed_eq (het : regType o.et = some ty) (hfn : o.fn.toNat < 3) (u : VectorUnit) :
    vRed o u = (u.setV o.vd ((reduced u o ty).1.setWidth 2048), (reduced u o ty).2) := by
  obtain ⟨z, hz, he⟩ : ∃ z, z = redEmpty o.fn ty.isInt ∧ vRed o u =
      (fun r : BitVec 32 × FmtFlags => (u.setV o.vd (r.1.setWidth 2048), r.2))
        ((redTree (if ty.isInt then redIntNode o.fn.toNat o.sat else redFloat o.fn.toNat) (Nat.log2 ty.lanes)
          ((List.range ty.lanes).map (redLeaf u o ty))).getD (z, 0)) := by
    rw [vRed, vopType_eq het]
    refine ⟨_, ?_, rfl⟩
    rcases (by bv_omega : o.fn = 0 ∨ o.fn = 1 ∨ o.fn = 2) with h | h | h
    all_goals
      rw [h]
      cases ty.isInt <;> decide
  rw [he, hz, reduced, ← redTree_eq_pairTree, two_pow_log2_lanes het]

theorem coreBecomes_vred (h : s.Ready qVec i) (ht : vopTakes o ty) (hfn : o.fn.toNat < 3) :
    let k := s.core i.core
    ∃ t, exec (.vred i o) s = .next t ∧ coreBecomes s t i.core { k with
      vec := k.vec.setV o.vd ((reduced k.vec o ty).1.setWidth 2048), flags := k.flags ||| (reduced k.vec o ty).2 } := by
  refine ⟨_, rfl, ?_⟩
  have hb := coreBecomes_vop (op := 0x5E) (eff := vRed o) h (vredRej_pass ht hfn) fun _ => rfl
  rwa [Core.operated, vRed_eq ht.2 hfn] at hb

end

/-- Settles O16: each instruction is a register operation whose checks it passes or fails; the levels of VRED are the
pairwise tree over the index. -/
theorem masksScalarsAndReductionsAreWritten : Obligations.MasksScalarsAndReductionsAreWritten := by
  intro i o s hready hrnd
  have htakes : ∀ {ty}, regType o.et = some ty → vopTakes o ty := fun het => ⟨hrnd, het⟩
  have hrejected : ∀ {op rej eff}, firstReason (vopCommon o ++ rej) = some 2 →
      (.next (s.present qVec op i (fun _ => vopTodo o i rej eff)) : Out) = .next ((s.begun qVec i).rejectAt qVec i 2) :=
    fun hr => congrArg Host.Outcome.next (present_vop_rejected hready hr)
  refine ⟨fun ty het hfn hpd => ?_, fun het c hc => ?_, fun ty het hfn => ?_, fun hfn => ?_, fun hfn hpd het => ?_,
    fun hsd het => ?_, fun ty het hfn => coreBecomes_vred hready (htakes het) hfn⟩
  · obtain ⟨t, hx, hb⟩ := coreBecomes_vcmp hready (htakes het) hfn hpd
    have hmask : (t.core i.core).vec.mask o.pd = compared (s.core i.core).vec o ty := by
      rw [mask_of_coreBecomes hb, VectorUnit.mask_setP_self _ _ hpd]
    refine ⟨t, hx, ?_⟩
    rw [hmask]
    exact ⟨hb, fun e he => (getLsbD_maskOf _ _ he).trans (Bool.and_assoc ..).symm⟩
  · simp only [List.mem_cons, List.not_mem_nil, or_false] at hc
    rcases hc with rfl | rfl | rfl | rfl
    all_goals exact hrejected (vop_reject_type hrnd het)
  · exact hrejected ((vop_reject (htakes het)).trans (vcmpRej_reserved hfn))
  · cases het : regType o.et with
    | none => exact hrejected (vop_reject_type hrnd het)
    | some ty => exact hrejected ((vop_reject (htakes het)).trans (mopRej_reserved hfn))
  · obtain ⟨ty, het⟩ := Option.ne_none_iff_exists'.1 het
    dsimp only
    rw [← mopMask_eq_getD _ _ hfn]
    exact coreBecomes_mop hready (htakes het) hfn hpd
  · obtain ⟨ty, het⟩ := Option.ne_none_iff_exists'.1 het
    refine ⟨fun hfn => ?_, fun hfn => ?_, fun ty het => ⟨fun hfn himm => ?_, fun hfn => ?_⟩⟩
    · exact coreBecomes_sop hready (htakes het) (by rw [hfn]; decide) (by rw [hfn]; nofun) hsd (by rw [vSop, hfn]; rfl)
    · exact coreBecomes_sop hready (htakes het) (by rw [hfn]; decide) (by rw [hfn]; nofun) hsd (by rw [vSop, hfn]; rfl)
    · exact coreBecomes_sop hready (htakes het) (by rw [hfn]; decide) (fun _ => himm) hsd
        (by rw [vSop, hfn, vopType_eq het]; rfl)
    · exact coreBecomes_sop hready (htakes het) (by rw [hfn]; decide) (by rw [hfn]; nofun) hsd
        (by rw [vSop, hfn, vopType_eq het]; rfl)

end Sys2Proof.Machine
end

section
/-! PROOF. The registers that no write changes, and the destinations that are rejected (R98, R100, R112, R125). -/

namespace Sys2Proof.Machine

open Claims

section
variable {s : State} {i : Issue} {o : VOp} {ty : Fmt}

theorem vcmpRej_p0 (hfn : o.fn.toNat < 8) (hpd : o.pd = 0) : firstReason (vcmpRej o) = some 5 := by
  simp [firstReason, vcmpRej, hfn, hpd]

theorem mopRej_p0 (hfn : o.fn.toNat < 7) (hpd : o.pd = 0) : firstReason (mopRej o) = some 5 := by
  simp [firstReason, mopRej, hfn, hpd]

theorem sopRej_s0 (het : regType o.et = some ty) (hfn : o.fn.toNat < 4) (himm : o.fn = 2 → o.imm.toNat < ty.lanes)
    (hsd : o.sd = 0) : firstReason (sopRej o) = some 5 := by
  simpa [firstReason, sopRej, hfn, hsd, vopType_eq het, imp_iff_not_or] using himm

/-- A VCOMP whose count goes to S0 leaves the scalars. -/
theorem scalars_vcomp_s0 (h : s.Ready qVec i) (ht : vopTakes o ty) (hsd : o.sd = 0) :
    ∃ t, exec (.vcomp i o) s = .next t ∧ (t.core i.core).vec.r = (s.core i.core).vec.r := by
  obtain ⟨t, hx, -, -, hcore⟩ := coreBecomes_vcomp h ht
  obtain ⟨-, -, hr⟩ := Core.settled_vec hcore
  refine ⟨t, hx, hr.trans ?_⟩
  rw [hsd, VectorUnit.setS_zero]
  rfl

end

section
variable {s : State} {i : Issue} {o : VMemOp} {m : CoreId} {ty f : Fmt}

/-- What MLD and MST check beside the destination. -/
theorem maskRej_pass (hm : o.msel = 0 ∨ 4 ≤ o.msel.toNat) (hr : o.rnd.toNat < 6) (he : regType o.et = some ty)
    (hf : Fmt.ofCode o.mfmt = some f) (hsel : s.sel i.core o.msel = some m)
    (ha : o.addr.toNat + (s.core i.core).vec.eoff o < 2 ^ 20) : firstReason (s.maskRej i.core o) = none := by
  have hp : pastMem (o.addr.toNat + (s.core i.core).vec.eoff o) 1 = false :=
    decide_eq_false fun e => absurd e.2 (by omega)
  refine firstReason_append_eq_none.2 ⟨vmemFields_pass hm hr he hf, ?_⟩
  simp [firstReason_eq_none, hsel, hp]

theorem mldPlan_p0 (hrej : firstReason (s.maskRej i.core o) = none) (hp : o.vr.setWidth 3 = (0 : BitVec 3)) :
    State.mldPlan i o s = .reject 5 := by
  have h5 : firstReason (s.maskRej i.core o ++ [(decide (o.vr.setWidth 3 = (0 : BitVec 3)), 5)]) = some 5 := by
    rw [firstReason_append_of_none hrej, hp]
    rfl
  rw [State.mldPlan, h5]

end

/-- Settles O17: a write to P0 or S0 leaves the registers, every other write is read where it was made, and the checks on
the destination come after the others. -/
theorem hardwiredRegistersKeepTheirValues : Obligations.HardwiredRegistersKeepTheirValues := by
  refine ⟨fun u n x => ⟨u.mask_zero, VectorUnit.mask_zero _, fun m hm => u.mask_setP n x hm⟩,
    fun u n x => ⟨u.scalar_zero, VectorUnit.scalar_zero _, fun m hm => u.scalar_setS n x hm⟩, ?_, ?_⟩
  · intro i o ty s hready ht
    refine ⟨fun hpd hfn => ⟨?_, ?_⟩, fun hsd hfn himm => ?_, fun hsd => scalars_vcomp_s0 hready ht hsd⟩
    · exact congrArg Host.Outcome.next
        (present_vop_rejected hready ((vop_reject ht).trans (vcmpRej_p0 (by omega) hpd)))
    · exact congrArg Host.Outcome.next (present_vop_rejected hready ((vop_reject ht).trans (mopRej_p0 hfn hpd)))
    · exact congrArg Host.Outcome.next
        (present_vop_rejected hready ((vop_reject ht).trans (sopRej_s0 ht.2 hfn himm hsd)))
  · intro i o s hready hsel hrnd het hmf ha hp
    obtain ⟨ty, het⟩ := Option.ne_none_iff_exists'.1 het
    obtain ⟨f, hmf⟩ := Option.ne_none_iff_exists'.1 hmf
    have hown : s.sel i.core o.msel = some i.core := if_pos hsel
    exact congrArg Host.Outcome.next
      (State.present_reject hready (mldPlan_p0 (maskRej_pass (.inl hsel) hrnd het hmf hown ha) hp))

end Sys2Proof.Machine
end

section
/-! PROOF. The loads of the vector engine (R107, R108, R110, R112, R126): VLD, VXLD and MLD. -/

namespace Sys2Proof.Machine

open Claims

variable {s t u : State}

/-! Effects on the vector registers, made on a state that an issue has kept. -/

section
variable {c : CoreId} {k : Core}

theorem State.issueKeeps.uncounted (h : s.issueKeeps u) (c : CoreId) :
    (u.core c).vec.uncounted = (s.core c).vec.uncounted := congrArg Core.vec (h.settled c)

/-- A change of the vector registers is its value on those that there are. -/
theorem State.modVec_congr {f g : VectorUnit → VectorUnit} (h : f (s.core c).vec = g (s.core c).vec) :
    s.modVec c f = s.modVec c g :=
  congrArg (fun v => s.setCore c { s.core c with vec := v }) h

/-- What an effect makes of the vector registers, whatever the engine's counts. -/
theorem coreBecomes_modVec (h : coreBecomes s t c k) (g : VectorUnit → VectorUnit)
    (hg : ∀ v, g v.uncounted = (g v).uncounted) : coreBecomes s (t.modVec c g) c { k with vec := g k.vec } := by
  refine coreBecomes_modCore h (fun k => { k with vec := g k.vec }) fun k => ?_
  have hvec : (g k.vec).uncounted = g k.settled.vec := (hg k.vec).symm
  exact congrArg (fun v => { k.settled with vec := v }) hvec

end

section
variable {i : Issue} {o : VMemOp} {m : CoreId} {ty f : Fmt} {n : Nat}

theorem VectorUnit.eoff_uncounted (v : VectorUnit) (o : VMemOp) : v.uncounted.eoff o = v.eoff o := rfl

/-! VLD (R107, R108, R110). -/

/-- The element and flags that a VLD makes of element `e` of the region. -/
def loadElem (rd : Nat → MWord) (o : VMemOp) (ty f : Fmt) (v : VectorUnit) (e : Nat) : Nat × FmtFlags :=
  if f = ty then (rdElem rd f o.addr.toNat (v.eoff o + e), 0)
  else ty.elem.encode o.rnd.toNat o.sat (laneRand o.seed ty.bits e)
    (rdNum rd f (o.scm == 1) o.addr.toNat o.saddr.toNat (v.eoff o + e))

/-- The vector registers after a VLD, and its flags but that of bad T2 bytes. -/
def loaded (rd : Nat → MWord) (o : VMemOp) (ty f : Fmt) (v : VectorUnit) : VectorUnit × FmtFlags :=
  (v.setV o.vr (merge (v.vreg o.vr) ty.bits (v.mask o.pm) o.mz fun e => (loadElem rd o ty f v e).1),
    activeFlags ty.lanes (v.mask o.pm) (fun e => (loadElem rd o ty f v e).2) |||
      scaleFlags (scalesRead rd f (o.scm == 1) o.addr.toNat o.saddr.toNat (v.eoff o) ty.lanes))

theorem onRegisters_loaded (rd : Nat → MWord) (o : VMemOp) (ty f : Fmt) : onRegisters (loaded rd o ty f) := fun _ => rfl

/-- The bad T2 bytes of a VLD and the word of the first. -/
def loadBad (rd : Nat → MWord) (o : VMemOp) (ty f : Fmt) (v : VectorUnit) : Nat × Nat :=
  if f = .t2 then t2BadRange rd o.addr.toNat (v.eoff o / 32) (ty.lanes / 32) else (0, 0)

theorem vldEffect_eq (i : Issue) (o : VMemOp) (m : CoreId) (ty f : Fmt) (u : State) : State.vldEffect i o m ty f u =
    let v := (u.core i.core).vec
    let bad := loadBad (u.peek m) o ty f v
    ((u.modVec i.core fun v => (loaded (u.peek m) o ty f v).1).flag i.core (loaded (u.peek m) o ty f v).2).badT2 i.core
      bad.1 bad.2 := by
  simp only [State.vldEffect, loaded, loadElem, loadBad]
  exact congrArg (fun x : State => (x.flag i.core _).badT2 i.core _ _) (State.modVec_congr rfl)

/-- A VLD that nothing rejects. -/
theorem vldPlan_eq (h : vmemTakes s i o m ty f ty.lanes (loadScales o f)) (hb : f.isBlock = true → o.scm.toNat < 2) :
    State.vldPlan i o s = .run
      ((elemWords f o.addr.toNat ((s.core i.core).vec.eoff o) ty.lanes ++
        (if loadScales o f then scaleWords o.saddr.toNat ((s.core i.core).vec.eoff o) ty.lanes else [])).map
          (fun x => (m, x)))
      [] (fun _ => .now) (State.vldEffect i o m ty f) := by
  have hr := vmemRange_pass h
  obtain ⟨hm, hrnd, he, hf, hsel, -⟩ := h
  have hscm : (f.isBlock && decide (2 ≤ o.scm.toNat)) = false := by simpa using hb
  have hr' : firstReason ((f.isBlock && decide (2 ≤ o.scm.toNat), 2) ::
      s.vmemRange i.core o f ty.lanes (loadScales o f)) = none :=
    firstReason_eq_none.2 (List.forall_mem_cons.2 ⟨hscm, firstReason_eq_none.1 hr⟩)
  simp only [State.vldPlan, vmemFields_pass hm hrnd he hf, he, hf, hr', hsel]

/-- A VLD on a state that an issue has kept. -/
theorem coreBecomes_vldEffect (h : s.issueKeeps u) :
    let k := s.core i.core
    let r := loaded (s.peek m) o ty f k.vec
    coreBecomes s (State.vldEffect i o m ty f u) i.core
      (({ k with vec := r.1, flags := k.flags ||| r.2 } : Core).countT2 (loadBad (s.peek m) o ty f k.vec).1) := by
  have hv := h.uncounted i.core
  have hbad : loadBad (s.peek m) o ty f (u.core i.core).vec = loadBad (s.peek m) o ty f (s.core i.core).vec := by
    rw [loadBad, ← VectorUnit.eoff_uncounted, hv]
    rfl
  obtain ⟨-, hfl⟩ := (onRegisters_loaded (s.peek m) o ty f).congr hv
  rw [vldEffect_eq, h.peek_eq]
  dsimp only
  rw [hbad, hfl]
  have hvec := coreBecomes_modVec (h.coreBecomes i.core) (fun v => (loaded (s.peek m) o ty f v).1) fun _ => rfl
  have hflag := coreBecomes_modCore hvec
    (fun k => { k with flags := k.flags ||| (loaded (s.peek m) o ty f (s.core i.core).vec).2 }) fun _ => rfl
  exact coreBecomes_issueKeeps (coreBecomes_modCore hflag (·.countT2 _) fun _ => rfl) (State.issueKeeps_badT2 ..)

theorem activeFlags_zero (n : Nat) (m : BitVec 256) : activeFlags n m (fun _ => 0) = 0 := by
  have hzero : (fun (a : FmtFlags) (e : Nat) => if m.getLsbD e then a ||| (0 : FmtFlags) else a) = fun a _ => a := by
    funext a e
    split
    · exact BitVec.or_zero
    · rfl
  rw [activeFlags, hzero]
  exact List.foldl_fixed ..

/-- A VLD that keeps its format sets no flag. -/
theorem loaded_flags_same (rd : Nat → MWord) (hb : ty.isBlock = false) (v : VectorUnit) : (loaded rd o ty ty v).2 = 0 := by
  have hscales : scalesRead rd ty (o.scm == 1) o.addr.toNat o.saddr.toNat (v.eoff o) ty.lanes = [] := by
    simp [scalesRead, hb]
  have helems : (fun e => (loadElem rd o ty ty v e).2) = fun _ => 0 := by
    funext e
    rw [loadElem, if_pos rfl]
  simp only [loaded, hscales, helems, activeFlags_zero]
  rfl

theorem exec_vld (h : s.Ready qVec i) (ht : vmemTakes s i o m ty f ty.lanes (loadScales o f))
    (hb : f.isBlock = true → o.scm.toNat < 2)
    (hu : usable s ((elemWords f o.addr.toNat ((s.core i.core).vec.eoff o) ty.lanes ++
      (if loadScales o f then scaleWords o.saddr.toNat ((s.core i.core).vec.eoff o) ty.lanes else [])).map
        (fun x => (m, x))) []) :
    let k := s.core i.core
    let r := loaded (s.peek m) o ty f k.vec
    ∃ t, exec (.vld i o) s = .next t ∧ coreBecomes s t i.core
      (({ k with vec := r.1, flags := k.flags ||| r.2 } : Core).countT2 (loadBad (s.peek m) o ty f k.vec).1) := by
  have hp := vldPlan_eq ht hb
  obtain ⟨u, hk, hx⟩ := State.present_usable (op := 0x40) (plan := State.vldPlan i o) h
    (by rw [hp]; exact planUsable_run.2 hu) (by rw [hp]; rfl) (by rw [hp]; rfl)
  exact ⟨_, congrArg Host.Outcome.next hx, coreBecomes_vldEffect hk⟩

/-- The count of bad T2 bytes changes for T2 alone. -/
theorem satAdd_loadBad (x : BitVec 32) (rd : Nat → MWord) (v : VectorUnit) : satAdd x (loadBad rd o ty f v).1 =
    if f = .t2 then satAdd x (t2BadRange rd o.addr.toNat (v.eoff o / 32) (ty.lanes / 32)).1 else x := by
  unfold loadBad
  split
  · rfl
  · exact satAdd_zero x

/-- The flag of bad T2 bytes is that of T2 alone. -/
theorem loadBad_same (rd : Nat → MWord) (hb : ty.isBlock = false) (v : VectorUnit) : (loadBad rd o ty ty v).1 = 0 := by
  have hne : ty ≠ .t2 := fun h => by rw [h] at hb; exact absurd hb (by decide)
  rw [loadBad, if_neg hne]

/-! VXLD (R126). -/

theorem VectorUnit.vreg_advance (u : VectorUnit) (o : VMemOp) (n : Nat) (r : BitVec 5) :
    (u.advance o n).vreg r = u.vreg r := by
  unfold VectorUnit.advance
  split
  · rfl
  · exact VectorUnit.vreg_setS ..

/-- VR after a VXLD. -/
def expanded (rd : Nat → MWord) (o : VMemOp) (ty : Fmt) (v : VectorUnit) : BitVec 2048 :=
  merge (v.vreg o.vr) ty.bits (v.mask o.pm) o.mz fun e =>
    rdElem rd ty o.addr.toNat (v.eoff o + activeRank (v.mask o.pm) e)

/-- The vector registers after a VXLD: VR is loaded, and S[SOFF] passes the elements that were read. -/
def expandLoaded (rd : Nat → MWord) (o : VMemOp) (ty : Fmt) (v : VectorUnit) : VectorUnit :=
  (v.setV o.vr (expanded rd o ty v)).advance o (activeList ty.lanes (v.mask o.pm)).length

theorem expandLoaded_uncounted (rd : Nat → MWord) (o : VMemOp) (ty : Fmt) (v : VectorUnit) :
    expandLoaded rd o ty v.uncounted = (expandLoaded rd o ty v).uncounted :=
  (VectorUnit.advance_uncounted (v.setV o.vr (expanded rd o ty v))).symm

theorem vxldEffect_eq (i : Issue) (o : VMemOp) (m : CoreId) (ty : Fmt) (u : State) :
    State.vxldEffect i o m ty u = u.modVec i.core (expandLoaded (u.peek m) o ty) := rfl

/-- A VXLD that nothing rejects. -/
theorem vxldPlan_eq (hn : n = (activeList ty.lanes ((s.core i.core).vec.mask o.pm)).length)
    (h : vmemTakes s i o m ty ty n false) (hmf : o.mfmt = o.et) : State.vxldPlan i o s = .run
      ((elemWords ty o.addr.toNat ((s.core i.core).vec.eoff o) n).map (fun x => (m, x))) [] (fun _ => .now)
      (State.vxldEffect i o m ty) := by
  have hr := vmemRange_pass h
  obtain ⟨hm, hrnd, he, hf, hsel, -⟩ := h
  have hx : firstReason (xferFields o) = none :=
    firstReason_append_eq_none.2 ⟨vmemFields_pass hm hrnd he hf, firstReason_singleton.2 (decide_eq_false (not_not.2 hmf))⟩
  rw [hn] at hr ⊢
  simp only [State.vxldPlan, hx, he, hr, hsel]

theorem exec_vxld (h : s.Ready qVec i) (hn : n = (activeList ty.lanes ((s.core i.core).vec.mask o.pm)).length)
    (ht : vmemTakes s i o m ty ty n false) (hmf : o.mfmt = o.et)
    (hu : usable s ((elemWords ty o.addr.toNat ((s.core i.core).vec.eoff o) n).map (fun x => (m, x))) []) :
    ∃ t, exec (.vxld i o) s = .next t ∧
      coreBecomes s t i.core { s.core i.core with vec := expandLoaded (s.peek m) o ty (s.core i.core).vec } := by
  have hp := vxldPlan_eq hn ht hmf
  obtain ⟨u, hk, hx⟩ := State.present_usable (op := 0x42) (plan := State.vxldPlan i o) h
    (by rw [hp]; exact planUsable_run.2 hu) (by rw [hp]; rfl) (by rw [hp]; rfl)
  refine ⟨_, congrArg Host.Outcome.next hx, ?_⟩
  rw [vxldEffect_eq, hk.peek_eq]
  exact coreBecomes_modVec (hk.coreBecomes i.core) _ (expandLoaded_uncounted _ o ty)

/-! MLD (R112). -/

/-- An MLD that nothing rejects. -/
theorem mldPlan_eq (hrej : firstReason (s.maskRej i.core o) = none) (hsel : s.sel i.core o.msel = some m)
    (hp : o.vr.setWidth 3 ≠ (0 : BitVec 3)) :
    let a := o.addr.toNat + (s.core i.core).vec.eoff o
    State.mldPlan i o s = .run [(m, a)] [] (fun _ => .now)
      (fun u => u.modVec i.core (fun v => v.setP (o.vr.setWidth 3) (u.peek m a))) := by
  have hrej' : firstReason (s.maskRej i.core o ++ [(decide (o.vr.setWidth 3 = (0 : BitVec 3)), 5)]) = none :=
    firstReason_append_eq_none.2 ⟨hrej, firstReason_singleton.2 (decide_eq_false hp)⟩
  simp only [State.mldPlan, hrej', hsel]

theorem exec_mld (h : s.Ready qVec i) (hrej : firstReason (s.maskRej i.core o) = none)
    (hsel : s.sel i.core o.msel = some m) (hp : o.vr.setWidth 3 ≠ (0 : BitVec 3))
    (hu : usable s [(m, o.addr.toNat + (s.core i.core).vec.eoff o)] []) :
    ∃ t, exec (.mld i o) s = .next t ∧ coreBecomes s t i.core { s.core i.core with
      vec := (s.core i.core).vec.setP (o.vr.setWidth 3) (s.peek m (o.addr.toNat + (s.core i.core).vec.eoff o)) } := by
  have hpl := mldPlan_eq hrej hsel hp
  obtain ⟨u, hk, hx⟩ := State.present_usable (op := 0x44) (plan := State.mldPlan i o) h
    (by rw [hpl]; exact planUsable_run.2 hu) (by rw [hpl]; rfl) (by rw [hpl]; rfl)
  refine ⟨_, congrArg Host.Outcome.next hx, ?_⟩
  rw [hk.peek_eq]
  exact coreBecomes_modVec (hk.coreBecomes i.core) _ fun v => (VectorUnit.uncounted_setP ..).symm

end

/-- Settles O18: a load that nothing rejects runs a plan that writes no word; what it makes of the vector registers is
read off a state that keeps what it reads. -/
theorem vectorLoadsWriteTheirRegister : Obligations.VectorLoadsWriteTheirRegister := by
  intro i o m ty f s hready
  refine ⟨fun ht hb hu => ?_, fun ht hmf hu => ?_, fun hm hrnd he hf hsel ha hp hu =>
    exec_mld hready (maskRej_pass hm hrnd he hf hsel ha) hsel hp hu⟩
  · obtain ⟨t, hx, hbec⟩ := exec_vld hready ht hb hu
    have hvr : (t.core i.core).vec.vreg o.vr = _ := (vreg_of_coreBecomes hbec o.vr).trans (VectorUnit.vreg_setV_self ..)
    obtain ⟨-, -, het, -⟩ := ht
    obtain ⟨-, hblock, -⟩ := regType_eq_some het
    refine ⟨t, (loaded (s.peek m) o ty f (s.core i.core).vec).2 |||
      (if (loadBad (s.peek m) o ty f (s.core i.core).vec).1 = 0 then 0 else flT2Bad), hx, ?_, ?_, fun e he => ?_⟩
    · rintro rfl
      rw [loaded_flags_same _ hblock, loadBad_same _ hblock]
      rfl
    · rw [hvr, ← satAdd_loadBad, ← BitVec.or_assoc]
      exact hbec
    · rw [hvr, elemOf_merge _ _ _ _ he, loadElem, apply_ite Prod.fst]
  · obtain ⟨t, hx, hbec⟩ := exec_vxld hready rfl ht hmf hu
    have hvr : (t.core i.core).vec.vreg o.vr = expanded (s.peek m) o ty (s.core i.core).vec := by
      rw [vreg_of_coreBecomes hbec, expandLoaded, VectorUnit.vreg_advance, VectorUnit.vreg_setV_self]
    refine ⟨t, hx, ?_, fun e he => ?_⟩
    · rw [hvr]
      exact hbec
    · rw [hvr, expanded, elemOf_merge _ _ _ _ he]
      rfl

end Sys2Proof.Machine
end

section
/-! PROOF. A reduce region that waits too long stops its step, and the stop does not leave its core's array as it was. -/

namespace Sys2Proof.Machine

open Claims

/-! The limit on a reduce region's wait (R166). -/

/-- Partition 0 runs a step, in which core 0 has a reduce region for window 4 and its array is ready for an instruction. -/
def reduceWaits : State :=
  { State.reset with
    parts := State.reset.parts.set 0 { state := 3, stepping := true }
    cores := State.reset.cores.set 0
      { regions := [{ win := 4, accBase := 0, rows := 2, sources := [8] }], array := { ready := true } } }

theorem running_reduceWaits : running reduceWaits (partOf 0) := by
  unfold running
  decide +kernel

theorem reduceWaits_region : ∃ r ∈ (reduceWaits.core 0).regions, r.win = 4 := by
  decide +kernel

/-- The core once the region's wait has been too long: it is halted, so its array is no longer ready (R209). -/
theorem exec_mreduceTimeout_reduceWaits {t : State} (h : exec (.mreduceTimeout 0 4) reduceWaits = .next t) :
    (t.core 0).array.ready = false := by
  have hstop : exec (.mreduceTimeout 0 4) reduceWaits = .next _ := rfl
  rw [hstop] at h
  cases h
  decide +kernel

/-- Refutes O41: it says that a MREDUCE_TIMEOUT leaves the array of its core as it was, of every array. The stop of the
step halts the partition's cores (R209), and an array that was ready for an instruction is ready no longer. -/
theorem not_waitLimitsStopTheStep : ¬ Obligations.WaitLimitsStopTheStep := by
  rintro ⟨-, hcore, -⟩
  obtain ⟨-, hreduce, -⟩ := hcore 0 reduceWaits running_reduceWaits
  obtain ⟨-, htimeout⟩ := hreduce 4
  obtain ⟨t, ht, -, -, harray, -⟩ := htimeout reduceWaits_region
  have hready : (t.core 0).array.ready = false := exec_mreduceTimeout_reduceWaits ht
  rw [harray] at hready
  exact absurd hready (by decide +kernel)

end Sys2Proof.Machine
end

section
/-! PROOF. A TGET of a word that the write-combine buffer lists twice (R225, R229). -/

namespace Sys2Proof.Machine

open Claims

/-- A TGET of one word into word 100, from window 0 of partition 1 of chip 5. -/
def getOneWord : XferOp := { chip := 5, part := 1, laddr := 100, len := 1 }

/-- A step runs in partition 0 of chip 5, and core 0's write-combine buffer lists word 100 twice. -/
def doublyBuffered : State :=
  { State.reset with
    parts := State.reset.parts.set 0 { state := 3, stepping := true }
    cores := State.reset.cores.set 0 { wc := [⟨0, 100, 1⟩, ⟨0, 100, 2⟩] }
    domains := Vector.replicate 148 0
    chipId := 5 }

theorem ready_doublyBuffered : doublyBuffered.Ready qXfer { core := 0 } := by
  unfold State.Ready
  decide +kernel

theorem sendTakes_doublyBuffered : sendTakes doublyBuffered { core := 0 } getOneWord 0 := by
  simp only [sendTakes, selNames]
  decide +kernel

theorem memoriesWf_doublyBuffered : doublyBuffered.memoriesWf := by
  unfold State.memoriesWf
  decide +kernel

theorem routed_doublyBuffered : routed doublyBuffered (vcOf getOneWord.cls.toNat false)
    (doublyBuffered.getPackets 0 getOneWord (doublyBuffered.core 0).freeTag) := by
  unfold routed
  decide +kernel

/-- The entries are written oldest first, so that the bank is left with the later one, while the engine reads the word
from the earlier one. -/
theorem exec_tget_doublyBuffered {t : State} (h : exec (.tget { core := 0 } getOneWord) doublyBuffered = .next t) :
    t.peek 0 100 = 2 ∧ doublyBuffered.xferWord 0 0 100 = 1 := by
  have hget : exec (.tget { core := 0 } getOneWord) doublyBuffered = .next _ := rfl
  rw [hget] at h
  cases h
  decide +kernel

/-- Refutes O32: it says of every write-combine buffer that a TGET leaves the words of its range as the transfer engine
read them. Of a buffer that lists a word twice (which `wcOk` excludes, and O32 does not ask for it) the bank is left with
the other entry. -/
theorem not_sendsAndGetsPutTheirPacketsInMotion : ¬ Obligations.SendsAndGetsPutTheirPacketsInMotion := by
  intro h
  obtain ⟨-, -, hget, -⟩ := h { core := 0 } getOneWord 0 doublyBuffered ready_doublyBuffered sendTakes_doublyBuffered
  obtain ⟨t, ht, -, -, -, hwords⟩ := hget (by decide) memoriesWf_doublyBuffered (by decide +kernel) (by decide +kernel)
    (by decide +kernel) routed_doublyBuffered
  obtain ⟨hbank, hread⟩ := exec_tget_doublyBuffered ht
  have hword := hwords 0 100
  rw [if_pos (by decide), hbank, hread] at hword
  exact absurd hword (by decide)

end Sys2Proof.Machine
end

section
/-! PROOF. TWIN (R157, R158): it opens or closes a window of its core's partition. -/

namespace Sys2Proof.Machine

open Claims

variable {s t u : State} {i : Issue} {o : XferOp} {c : CoreId} {p : PartId}

theorem alGet_alDel {α : Type} (l : List (Nat × α)) (n m : Nat) :
    alGet (alDel l n) m = if m = n then none else alGet l m := by
  unfold alGet alDel
  rw [List.find?_filter]
  split
  · next h =>
    subst h
    rw [Option.map_eq_none_iff, List.find?_eq_none]
    simp
  · next h =>
    congr 2
    funext x
    by_cases hx : x.1 = m <;> simp [hx, h]

/-- The windows of a partition are `l`; its other fields, the other partitions and all but the cores' issue are as they
were. -/
structure State.windowsBecome (s t : State) (p : PartId) (l : List (Nat × Window)) : Prop where
  cores : ∀ x : CoreId, (t.core x).settled = (s.core x).settled
  outside : s = { t with cores := s.cores, evlog := s.evlog, draws := s.draws, parts := s.parts }
  windows : (t.part p).windows = l
  part : s.part p = { t.part p with windows := (s.part p).windows }
  parts : ∀ x : PartId, x ≠ p → t.part x = s.part x

theorem windowsBecome_modPart (h : s.issueKeeps u) (p : PartId) (f : List (Nat × Window) → List (Nat × Window)) :
    s.windowsBecome (u.modPart p (fun k => { k with windows := f k.windows })) p (f (s.part p).windows) where
  cores x := h.settled x
  outside := by
    have hout : { u with cores := s.cores, evlog := s.evlog, draws := s.draws } = s := h.outside
    have hparts := congrArg State.parts hout
    change u.parts = s.parts at hparts
    rw [← hparts]
    exact hout.symm
  windows := by rw [State.part_modPart_self, h.part]
  part := by rw [State.part_modPart_self, h.part]
  parts x hx := by rw [State.part_modPart, if_neg hx, h.part]

/-! What lets a TWIN run (R134, R157, R168). -/

theorem selMissing_of_selNames {sel : BitVec 3} (h : selNames s c sel) : (s.selMissing c sel).1 = false := by
  rw [State.selMissing, Option.isNone_eq_false_iff, Option.isSome_iff_ne_none]
  exact h.2

theorem twinReject_pass (hl : o.lsel = 0) (hd : selNames s c o.dsel) (hm : o.wmode ≠ 3)
    (hs : s.special (partOf c) o.win.toNat = false)
    (hopen : o.wmode ≠ 0 → (o.acen = true → o.arrv ≠ 0) ∧ pastMem o.laddr.toNat o.len.toNat = false ∧
      (o.len ≠ 0 → s.windowTaken (partOf c) o.win.toNat = false)) : s.twinReject c o = none := by
  have hsel : (xferSel o.dsel).1 = false := selector_taken hd.1
  simp only [State.twinReject, firstReason_eq_none, List.forall_mem_cons, hsel, selMissing_of_selNames hd, hs]
  by_cases h0 : o.wmode = 0
  · simp [hl, h0]
  · obtain ⟨harr, hmem, htaken⟩ := hopen h0
    simp only [hl, hm, hmem]
    by_cases hn : o.len = 0
    · simpa [hn] using fun _ => harr
    · simpa [hn, htaken hn] using fun _ => harr

/-- A TWIN that nothing rejects has its effect. -/
theorem exec_twin (hr : s.Ready qXfer i) (h : s.twinReject i.core o = none) :
    ∃ u, s.issueKeeps u ∧ exec (.twin i o) s = .next (State.twinEffect i.core o u) := by
  have hp : State.twinPlan i o s = .run [] [] (fun _ => .now) (State.twinEffect i.core o) := by
    simp only [State.twinPlan, h]
  obtain ⟨u, hk, hx⟩ := State.present_usable (op := 0xD3) (plan := State.twinPlan i o) hr
    (by rw [hp]; exact planUsable_run.2 ⟨nofun, nofun⟩) (by rw [hp]; rfl) (by rw [hp]; rfl)
  exact ⟨u, hk, congrArg Host.Outcome.next hx⟩

theorem twinEffect_close (h : o.wmode = 0) (u : State) : State.twinEffect c o u =
    u.modPart (partOf c) (fun k => { k with windows := alDel k.windows o.win.toNat }) := by
  simp only [State.twinEffect, h, if_true]

theorem twinEffect_empty (h : o.wmode ≠ 0) (hn : o.len = 0) (u : State) : State.twinEffect c o u = u := by
  simp only [State.twinEffect, h, hn, if_false, if_true]

/-- Where nothing is held at the ingress, a TWIN opens its window and no packet lands. -/
theorem twinEffect_open (h : o.wmode ≠ 0) (hn : o.len ≠ 0) (hh : (u.part (partOf c)).heldPkts = []) :
    State.twinEffect c o u =
      u.modPart (partOf c) (fun k => { k with windows := alSet k.windows o.win.toNat (XferOp.window o c) }) := by
  simp only [State.twinEffect, h, hn, if_false]
  refine State.reland_of_no_heldPkts _ _ ?_
  rw [State.part_modPart_self]
  exact hh

/-- Settles O33: a TWIN that nothing rejects has its effect on a state that keeps the partitions; closing takes its
window's entries away, and opening puts one in their place, where no packet waits for it. -/
theorem windowsOpenAndClose : Obligations.WindowsOpenAndClose := by
  intro i o s hr hl hd hm hs p k
  refine ⟨fun h0 => ?_, fun h0 harr hmem => ⟨fun hn => ?_, fun hn htaken hheld => ?_⟩⟩
  · obtain ⟨u, hk, hx⟩ := exec_twin hr (twinReject_pass hl hd hm hs fun h => absurd h0 h)
    rw [twinEffect_close h0] at hx
    have hw := windowsBecome_modPart hk p (fun l => alDel l o.win.toNat)
    refine ⟨_, hx, hw.cores, hw.outside, ?_, fun n hne => ?_, hw.part, hw.parts⟩
    · rw [hw.windows, alGet_alDel, if_pos rfl]
    · rw [hw.windows, alGet_alDel, if_neg hne]
  · obtain ⟨u, hk, hx⟩ := exec_twin hr (twinReject_pass hl hd hm hs fun _ => ⟨harr, hmem, fun h => absurd hn h⟩)
    rw [twinEffect_empty h0 hn] at hx
    exact ⟨u, hx, hk.coreBecomes i.core⟩
  · obtain ⟨u, hk, hx⟩ := exec_twin hr (twinReject_pass hl hd hm hs fun _ => ⟨harr, hmem, fun _ => htaken⟩)
    rw [twinEffect_open h0 hn (by rw [hk.part]; exact hheld)] at hx
    have hw := windowsBecome_modPart hk p (fun l => alSet l o.win.toNat (XferOp.window o i.core))
    refine ⟨_, hx, hw.cores, hw.outside, ?_, fun n hne => ?_, hw.part, hw.parts⟩
    · rw [hw.windows, alGet_alSet, if_pos rfl]
      rfl
    · rw [hw.windows, alGet_alSet, if_neg hne.symm]

end Sys2Proof.Machine
end

section
/-! PROOF. DGATHER and DSCATTER (R17, R145, R146): what lets them run, and the rows that they copy. -/

namespace Sys2Proof.Machine

open Claims

variable {s t u : State}

/-! Plans that read, before their end, words that are among those which they read at it. -/

section
variable {q : QueueId} {op : BitVec 8} {i : Issue} {plan : State → Todo} {reads writes : List (CoreId × Nat)}
  {due : State → Until} {eff : State → State}

/-- Such a plan has its effect on the state in which the instruction has issued. -/
theorem State.present_eq_started (h : s.Ready q i) (hp : (plan s).last = .run reads writes due eff)
    (hs : (plan s).soft = []) (hf : ∀ x ∈ (plan s).first, x ∈ reads) (hu : calm s ∨ usable s reads writes) :
    s.present q op i plan = eff (s.started q op i reads due) := by
  have husable : usable s reads writes := hu.elim (usable_of_calm · _ _) id
  obtain ⟨hg, hr⟩ := husable
  exact State.present_started h (fun x hx => hg x (List.mem_append_left _ (hf x hx))) (fun x hx => hr x (hf x hx)) hs hp hg hr

/-- Such a plan has its effect on a state that keeps the settled state. -/
theorem State.present_keeps (h : s.Ready q i) (hp : (plan s).last = .run reads writes due eff) (hs : (plan s).soft = [])
    (hf : ∀ x ∈ (plan s).first, x ∈ reads) (hu : calm s ∨ usable s reads writes) :
    ∃ u, s.issueKeeps u ∧ s.present q op i plan = eff u :=
  ⟨_, s.issueKeeps_started q op i reads due, State.present_eq_started h hp hs hf hu⟩

end

/-- A change of registers beside the memory leaves what is stored. -/
theorem storesAnd_modCore {c : CoreId} {k : Core} {ws : List Wr} {f : Core → Core} (h : storesAnd s t c k ws)
    (hm : ∀ k : Core, (f k).memory = k.memory) (hf : ∀ k : Core, (f k).besideWords = f k.besideWords) :
    storesAnd s (t.modCore c f) c (f k) ws := by
  obtain ⟨hout, hstored, hcore, hother⟩ := h
  refine ⟨hout.trans rfl, State.stored_congr hstored (fun _ _ => rfl) fun x a => ?_, ?_, fun x hx => ?_⟩
  · unfold State.peek
    rw [State.core_modCore]
    split
    · next e => rw [e, hm]
    · rfl
  · rw [State.core_modCore_self, hf, hcore, ← hf]
  · rw [State.core_modCore, if_neg hx]
    exact hother x hx

/-! Rows written one after another. -/

/-- Rows of words, each written from its address on. -/
def State.pokeRows (s : State) (b : CoreId) (rows : List (Nat × List MWord)) : State :=
  rows.foldl (fun s r => s.pokeMany b r.1 r.2) s

/-- A row covers an address. -/
def covers (r : Nat × List MWord) (y : Nat) : Prop := r.1 ≤ y ∧ y < r.1 + r.2.length

theorem State.storeKeeps_pokeRows (b : CoreId) : ∀ (rows : List (Nat × List MWord)) (s : State),
    s.storeKeeps (s.pokeRows b rows)
  | [], s => .refl s
  | r :: rows, s => (State.storeKeeps_pokeMany b r.2 r.1 s).trans (State.storeKeeps_pokeRows b rows _)

theorem State.pokeRows_memoriesWf (b : CoreId) : ∀ (rows : List (Nat × List MWord)) (s : State), s.memoriesWf →
    (s.pokeRows b rows).memoriesWf
  | [], _, h => h
  | r :: rows, _, h => State.pokeRows_memoriesWf b rows _ (State.pokeMany_memoriesWf b r.2 _ r.1 h)

/-- A word that no row covers is as it was. -/
theorem State.peek_pokeRows_other {b c : CoreId} {y : Nat} : ∀ (rows : List (Nat × List MWord)) (s : State), s.memoriesWf →
    (c = b → ∀ r ∈ rows, ¬ covers r y) → (s.pokeRows b rows).peek c y = s.peek c y
  | [], _, _, _ => rfl
  | r :: rows, s, h, hy => by
    have hr : ¬ (c = b ∧ r.1 ≤ y ∧ y < r.1 + r.2.length) := fun e => hy e.1 r List.mem_cons_self e.2
    refine (State.peek_pokeRows_other rows _ (State.pokeMany_memoriesWf b r.2 s r.1 h)
      fun e x hx => hy e x (List.mem_cons_of_mem _ hx)).trans ?_
    rw [State.peek_pokeMany b r.2 r.1 s h, if_neg hr]

/-- A word that a row covers, and none after it, is that row's. -/
theorem State.peek_pokeRows_last {b : CoreId} {r : Nat × List MWord} {j : Nat} {pre post : List (Nat × List MWord)}
    (h : s.memoriesWf) (hj : j < r.2.length) (hpost : ∀ x ∈ post, ¬ covers x (r.1 + j)) :
    (s.pokeRows b (pre ++ r :: post)).peek b (r.1 + j) = r.2.getD j 0 := by
  have hpre := State.pokeRows_memoriesWf b pre s h
  have hrow := State.pokeMany_memoriesWf b r.2 _ r.1 hpre
  rw [State.pokeRows, List.foldl_append]
  refine (State.peek_pokeRows_other post _ hrow fun _ => hpost).trans ?_
  refine (State.peek_pokeMany b r.2 r.1 _ hpre b (r.1 + j)).trans ?_
  rw [if_pos ⟨rfl, by omega, by omega⟩, Nat.add_sub_cancel_left]

/-- Rows made of the state as it is when each of them is written. -/
def State.writeRows {α : Type} (b : CoreId) (f : State → α → Option (Nat × List MWord)) (l : List α) (s : State) : State :=
  l.foldl (fun s x => s.pokeRows b (f s x).toList) s

/-- Rows that are made of words outside the region which they are written to are those of the state before them. -/
theorem State.writeRows_eq {α : Type} {b : CoreId} {f : State → α → Option (Nat × List MWord)} {D : Nat → Prop} :
    ∀ {l : List α} {s : State}, s.memoriesWf → (∀ u, ∀ x ∈ l, ∀ r, f u x = some r → ∀ y, covers r y → D y) →
    (∀ u v : State, (∀ c y, (c = b → ¬ D y) → v.peek c y = u.peek c y) → ∀ x ∈ l, f v x = f u x) →
    State.writeRows b f l s = s.pokeRows b (l.filterMap (f s))
  | [], _, _, _, _ => rfl
  | x :: l, s, h, hin, hout => by
    have hrest : ∀ y ∈ l, f (s.pokeRows b (f s x).toList) y = f s y := fun y hy =>
      hout s _ (fun c z hz => State.peek_pokeRows_other _ s h fun e r hr hcov =>
        hz e (hin s x List.mem_cons_self r (Option.mem_toList.1 hr) z hcov)) y (List.mem_cons_of_mem _ hy)
    have htail := State.writeRows_eq (State.pokeRows_memoriesWf b (f s x).toList s h)
      (fun u y hy => hin u y (List.mem_cons_of_mem _ hy)) (fun u v huv y hy => hout u v huv y (List.mem_cons_of_mem _ hy))
    rw [List.filterMap_congr hrest] at htail
    refine htail.trans ?_
    cases hx : f s x with
    | none => rw [List.filterMap_cons_none hx]; rfl
    | some r => rw [List.filterMap_cons_some hx]; rfl

/-! The rows of DGATHER and DSCATTER (R146). -/

section
variable {i : Issue} {o : DispOp} {a b : CoreId}

/-- The words of a source row. -/
def State.srcRow (s : State) (a : CoreId) (o : DispOp) (k : Nat) : List MWord :=
  s.peekMany a (o.saddr.toNat + k * o.roww.toNat) o.roww.toNat

/-- What DGATHER writes for an entry of the list: the row and its address, or nothing. -/
def State.gatherRow (a : CoreId) (o : DispOp) (s : State) (x : BitVec 32 × Nat) : Option (Nat × List MWord) :=
  if x.1 = noIndex then
    if o.empty = 1 then some (o.daddr.toNat + x.2 * o.roww.toNat, List.replicate o.roww.toNat 0) else none
  else some (o.daddr.toNat + x.2 * o.roww.toNat, s.srcRow a o x.1.toNat)

/-- What DSCATTER writes for an entry of the list. -/
def State.scatterRow (a : CoreId) (o : DispOp) (s : State) (x : BitVec 32 × Nat) : Option (Nat × List MWord) :=
  if x.1 = noIndex then none else some (o.daddr.toNat + x.1.toNat * o.roww.toNat, s.srcRow a o x.2)

theorem gatherRows_eq_writeRows : ∀ (l : List (BitVec 32 × Nat)) (u : State),
    u.gatherRows a b o l = State.writeRows b (State.gatherRow a o) l u
  | [], _ => rfl
  | (x, k) :: l, u => by
    rw [State.gatherRows, gatherRows_eq_writeRows l]
    refine congrArg (State.writeRows b (State.gatherRow a o) l) ?_
    unfold State.gatherRow
    by_cases hx : x = noIndex
    · by_cases he : o.empty = 1
      · simp only [hx, he, if_true]
        rfl
      · simp only [hx, he, if_true, if_false]
        rfl
    · simp only [hx, if_false]
      rfl

theorem scatterRows_eq_writeRows : ∀ (l : List (BitVec 32 × Nat)) (u : State),
    u.scatterRows a b o l = State.writeRows b (State.scatterRow a o) l u
  | [], _ => rfl
  | (x, k) :: l, u => by
    rw [State.scatterRows, scatterRows_eq_writeRows l]
    refine congrArg (State.writeRows b (State.scatterRow a o) l) ?_
    unfold State.scatterRow
    by_cases hx : x = noIndex
    · simp only [hx, if_true]
      rfl
    · simp only [hx, if_false]
      rfl

@[simp] theorem State.srcRow_length (s : State) (k : Nat) : (s.srcRow a o k).length = o.roww.toNat := by
  simp [State.srcRow, State.peekMany]

theorem State.srcRow_getD (s : State) {j : Nat} (k : Nat) (hj : j < o.roww.toNat) :
    (s.srcRow a o k).getD j 0 = s.peek a (o.saddr.toNat + k * o.roww.toNat + j) := by
  simp [State.srcRow, State.peekMany, List.getD_eq_getElem?_getD, hj]

/-- A source row is read as it was, as long as its words are as they were. -/
theorem State.srcRow_congr {k : Nat}
    (h : ∀ j < o.roww.toNat, u.peek a (o.saddr.toNat + k * o.roww.toNat + j) = s.peek a (o.saddr.toNat + k * o.roww.toNat + j)) :
    u.srcRow a o k = s.srcRow a o k := by
  simp only [State.srcRow, State.peekMany]
  exact List.map_congr_left fun j hj => h j (List.mem_range.1 hj)

/-- Where the row of an entry stands. -/
theorem gatherRow_place {x : BitVec 32 × Nat} {r : Nat × List MWord} (h : s.gatherRow a o x = some r) :
    r.1 = o.daddr.toNat + x.2 * o.roww.toNat ∧ r.2.length = o.roww.toNat := by
  unfold State.gatherRow at h
  split at h
  · split at h
    · cases h
      exact ⟨rfl, List.length_replicate⟩
    · cases h
  · cases h
    exact ⟨rfl, s.srcRow_length _⟩

theorem scatterRow_place {x : BitVec 32 × Nat} {r : Nat × List MWord} (h : s.scatterRow a o x = some r) :
    x.1 ≠ noIndex ∧ r.1 = o.daddr.toNat + x.1.toNat * o.roww.toNat ∧ r.2.length = o.roww.toNat := by
  unfold State.scatterRow at h
  split at h
  · cases h
  · next hx =>
    cases h
    exact ⟨hx, rfl, s.srcRow_length _⟩

/-- Word `j` of row `k` of `n` rows lies among their words. -/
theorem row_word_lt {k n w j : Nat} (hk : k < n) (hj : j < w) : k * w + j < n * w :=
  calc k * w + j < (k + 1) * w := by rw [Nat.succ_mul]; omega
    _ ≤ n * w := Nat.mul_le_mul_right w hk

/-- Rows of one length that have a word in common are one row. -/
theorem row_eq_of_word {k n w y : Nat} (hk : k * w ≤ y ∧ y < k * w + w) (hn : n * w ≤ y ∧ y < n * w + w) : k = n := by
  rcases Nat.lt_trichotomy k n with h | h | h
  · have := row_word_lt (w := w) (j := w - 1) h (by omega)
    omega
  · exact h
  · have := row_word_lt (w := w) (j := w - 1) h (by omega)
    omega

/-- DGATHER's rows are made of its source as it was before it, where its destination lies apart from its table. -/
theorem gatherRows_eq {l : List (BitVec 32)} (h : u.memoriesWf)
    (hidx : ∀ x ∈ l, x ≠ noIndex → x.toNat < o.nrows.toNat)
    (hd : a ≠ b ∨ o.saddr.toNat + o.nrows.toNat * o.roww.toNat ≤ o.daddr.toNat ∨
      o.daddr.toNat + l.length * o.roww.toNat ≤ o.saddr.toNat) :
    u.gatherRows a b o l.zipIdx = u.pokeRows b (l.zipIdx.filterMap (u.gatherRow a o)) := by
  rw [gatherRows_eq_writeRows]
  refine State.writeRows_eq (D := fun y => o.daddr.toNat ≤ y ∧ y < o.daddr.toNat + l.length * o.roww.toNat) h ?_ ?_
  · intro v x hx r hr y ⟨hlo, hhi⟩
    obtain ⟨h1, h2⟩ := gatherRow_place hr
    have hlt : x.2 < l.length := by simpa using (List.mem_zipIdx' hx).1
    have := row_word_lt (w := o.roww.toNat) (j := y - r.1) hlt (by omega)
    omega
  · intro v v' hv x hx
    unfold State.gatherRow
    split
    · rfl
    · next hne =>
      refine congrArg (fun r => some (_, r)) (State.srcRow_congr fun j hj => hv _ _ fun e => ?_)
      have hmem : x.1 ∈ l := (List.mem_zipIdx' hx).2 ▸ List.getElem_mem _
      have := row_word_lt (hidx x.1 hmem hne) hj
      have hd' := hd.resolve_left (not_not.2 e)
      omega

/-- DSCATTER's rows likewise. -/
theorem scatterRows_eq {l : List (BitVec 32)} (h : u.memoriesWf)
    (hidx : ∀ x ∈ l, x ≠ noIndex → x.toNat < o.nrows.toNat)
    (hd : a ≠ b ∨ o.saddr.toNat + l.length * o.roww.toNat ≤ o.daddr.toNat ∨
      o.daddr.toNat + o.nrows.toNat * o.roww.toNat ≤ o.saddr.toNat) :
    u.scatterRows a b o l.zipIdx = u.pokeRows b (l.zipIdx.filterMap (u.scatterRow a o)) := by
  rw [scatterRows_eq_writeRows]
  refine State.writeRows_eq (D := fun y => o.daddr.toNat ≤ y ∧ y < o.daddr.toNat + o.nrows.toNat * o.roww.toNat) h ?_ ?_
  · intro v x hx r hr y ⟨hlo, hhi⟩
    obtain ⟨hne, h1, h2⟩ := scatterRow_place hr
    have hmem : x.1 ∈ l := (List.mem_zipIdx' hx).2 ▸ List.getElem_mem _
    have := row_word_lt (w := o.roww.toNat) (j := y - r.1) (hidx x.1 hmem hne) (by omega)
    omega
  · intro v v' hv x hx
    unfold State.scatterRow
    split
    · rfl
    · refine congrArg (fun r => some (_, r)) (State.srcRow_congr fun j hj => hv _ _ fun e => ?_)
      have hlt : x.2 < l.length := by simpa using (List.mem_zipIdx' hx).1
      have := row_word_lt hlt hj
      have hd' := hd.resolve_left (not_not.2 e)
      omega

/-- A list around one of its entries, with the numbers of the entries. -/
theorem zipIdx_split {α : Type} {l : List α} {r : Nat} {x : α} (h : l[r]? = some x) :
    l.zipIdx = (l.take r).zipIdx ++ (x, r) :: (l.drop (r + 1)).zipIdx (r + 1) := by
  obtain ⟨hr, rfl⟩ := List.getElem?_eq_some_iff.1 h
  conv_lhs => rw [← List.take_append_drop r l, List.drop_eq_getElem_cons hr, List.zipIdx_append, List.zipIdx_cons]
  simp [Nat.min_eq_left hr.le]

/-- What DGATHER leaves in destination row `r`. -/
theorem peek_gatherRows {l : List (BitVec 32)} (h : u.memoriesWf) {r j : Nat} {x : BitVec 32} (hx : l[r]? = some x)
    (hj : j < o.roww.toNat) :
    (u.pokeRows b (l.zipIdx.filterMap (u.gatherRow a o))).peek b (o.daddr.toNat + r * o.roww.toNat + j) =
      if x ≠ noIndex then u.peek a (o.saddr.toNat + x.toNat * o.roww.toNat + j)
      else if o.empty = 1 then 0 else u.peek b (o.daddr.toNat + r * o.roww.toNat + j) := by
  have hrows : ∀ {n : Nat} {l' : List (BitVec 32)}, (∀ y ∈ l'.zipIdx n, y.2 ≠ r) →
      ∀ q ∈ (l'.zipIdx n).filterMap (u.gatherRow a o), ¬ covers q (o.daddr.toNat + r * o.roww.toNat + j) := by
    intro n l' hl' q hq ⟨hlo, hhi⟩
    obtain ⟨y, hy, hyq⟩ := List.mem_filterMap.1 hq
    obtain ⟨h1, h2⟩ := gatherRow_place hyq
    exact hl' y hy (row_eq_of_word (w := o.roww.toNat) (y := r * o.roww.toNat + j) (by omega) (by omega))
  have hpost := hrows (n := r + 1) (l' := l.drop (r + 1)) fun y hy => by
    have := List.le_snd_of_mem_zipIdx hy
    omega
  have hpre := hrows (n := 0) (l' := l.take r) fun y hy => by
    have := List.snd_lt_of_mem_zipIdx hy
    rw [List.length_take] at this
    omega
  rw [zipIdx_split hx, List.filterMap_append]
  cases hg : u.gatherRow a o (x, r) with
  | none =>
    rw [List.filterMap_cons_none hg, State.peek_pokeRows_other _ u h fun _ q hq => (List.mem_append.1 hq).elim (hpre q) (hpost q)]
    unfold State.gatherRow at hg
    by_cases hn : x = noIndex
    · have he : o.empty ≠ 1 := fun e => by simp [hn, e] at hg
      rw [if_neg (not_not.2 hn), if_neg he]
    · simp [hn] at hg
  | some q =>
    obtain ⟨h1, h2⟩ := gatherRow_place hg
    rw [List.filterMap_cons_some hg, ← h1, State.peek_pokeRows_last h (by omega) (by rw [h1]; exact hpost)]
    unfold State.gatherRow at hg
    by_cases hn : x = noIndex
    · by_cases he : o.empty = 1
      · simp only [hn, he, if_true, Option.some.injEq] at hg
        rw [if_neg (not_not.2 hn), if_pos he, ← hg]
        simp [List.getD_eq_getElem?_getD, hj]
      · simp only [hn, he, if_true, if_false] at hg
        cases hg
    · simp only [hn, if_false, Option.some.injEq] at hg
      rw [if_pos hn, ← hg]
      exact u.srcRow_getD x.toNat hj

/-- What DSCATTER leaves in the row that an entry names, when no later entry names it. -/
theorem peek_scatterRows {l : List (BitVec 32)} (h : u.memoriesWf) {r j : Nat} {x : BitVec 32} (hx : l[r]? = some x)
    (hn : x ≠ noIndex) (hlast : x ∉ l.drop (r + 1)) (hj : j < o.roww.toNat) :
    (u.pokeRows b (l.zipIdx.filterMap (u.scatterRow a o))).peek b (o.daddr.toNat + x.toNat * o.roww.toNat + j) =
      u.peek a (o.saddr.toNat + r * o.roww.toNat + j) := by
  have hg : u.scatterRow a o (x, r) = some (o.daddr.toNat + x.toNat * o.roww.toNat, u.srcRow a o r) := if_neg hn
  rw [zipIdx_split hx, List.filterMap_append, List.filterMap_cons_some hg,
    State.peek_pokeRows_last (r := (o.daddr.toNat + x.toNat * o.roww.toNat, u.srcRow a o r)) h (by simpa using hj)]
  · exact u.srcRow_getD r hj
  · intro q hq ⟨hlo, hhi⟩
    obtain ⟨y, hy, hyq⟩ := List.mem_filterMap.1 hq
    obtain ⟨-, h1, h2⟩ := scatterRow_place hyq
    dsimp only at hlo hhi
    have he := row_eq_of_word (w := o.roww.toNat) (k := y.1.toNat) (n := x.toNat) (y := x.toNat * o.roww.toNat + j)
      (by omega) (by omega)
    exact hlast (BitVec.eq_of_toNat_eq he ▸ List.fst_mem_of_mem_zipIdx hy)

/-- Beyond its rows DGATHER writes nothing. -/
theorem peek_gatherRows_other {l : List (BitVec 32)} (h : u.memoriesWf) {c : CoreId} {y : Nat}
    (hy : c ≠ b ∨ y < o.daddr.toNat ∨ o.daddr.toNat + l.length * o.roww.toNat ≤ y) :
    (u.pokeRows b (l.zipIdx.filterMap (u.gatherRow a o))).peek c y = u.peek c y := by
  refine State.peek_pokeRows_other _ u h ?_
  rintro e q hq ⟨hlo, hhi⟩
  obtain ⟨x, hx, hxq⟩ := List.mem_filterMap.1 hq
  obtain ⟨h1, h2⟩ := gatherRow_place hxq
  have := row_word_lt (w := o.roww.toNat) (j := y - q.1) (List.mem_zipIdx' hx).1 (by omega)
  have hy' := hy.resolve_left (not_not.2 e)
  omega

/-- Beyond the rows that its list names DSCATTER writes nothing. -/
theorem peek_scatterRows_other {l : List (BitVec 32)} (h : u.memoriesWf) {c : CoreId} {y : Nat}
    (hy : c ≠ b ∨ ∀ x ∈ l, x ≠ noIndex → (y < o.daddr.toNat + x.toNat * o.roww.toNat ∨
      o.daddr.toNat + x.toNat * o.roww.toNat + o.roww.toNat ≤ y)) :
    (u.pokeRows b (l.zipIdx.filterMap (u.scatterRow a o))).peek c y = u.peek c y := by
  refine State.peek_pokeRows_other _ u h ?_
  rintro e q hq ⟨hlo, hhi⟩
  obtain ⟨x, hx, hxq⟩ := List.mem_filterMap.1 hq
  obtain ⟨hne, h1, h2⟩ := scatterRow_place hxq
  have hy' := hy.resolve_left (not_not.2 e) x.1 (List.fst_mem_of_mem_zipIdx hx) hne
  omega

/-! What lets DGATHER and DSCATTER run (R134, R145, R146). -/

theorem dispStatic_pass (h : dispNames s i o a b) : firstReason (s.dispStatic i.core o) = none := by
  obtain ⟨hs, hd, he, ha, hb⟩ := h
  simp only [State.dispStatic, dispFields, firstReason_eq_none, List.forall_mem_append, List.forall_mem_cons,
    selector_taken hs, selector_taken hd, ha, hb]
  simpa using he

theorem idx_of_dispTakes {gather : Bool} (h : dispTakes s i o a b gather) :
    ∀ x ∈ s.dispIdx i.core o, x ≠ noIndex → x.toNat < o.nrows.toNat := by
  obtain ⟨-, -, -, -, -, -, -, hidx⟩ := h
  exact hidx

theorem dispTodo_empty {gather : Bool} (h : dispNames s i o a b) (he : dispEmpty o = true) (go : CoreId → CoreId → Todo) :
    s.dispTodo i o gather go = .nop := by
  simp only [State.dispTodo, dispStatic_pass h, Todo.unless, he, if_true]

theorem dispTodo_eq {gather : Bool} (h : dispTakes s i o a b gather) (go : CoreId → CoreId → Todo) :
    s.dispTodo i o gather go = .need (if o.cntInd then [(i.core, o.cntAddr.toNat)] else [])
      (.need (dispListWords i.core o (s.dispCount i.core o)) (go a b)) := by
  obtain ⟨hnames, hc, hw, hn, hi, hs, hd, hidx⟩ := h
  have hstatic := dispStatic_pass hnames
  obtain ⟨-, -, -, ha, hb⟩ := hnames
  have he : dispEmpty o = false := by
    simpa [dispEmpty, and_assoc] using And.intro hc (And.intro hw hn)
  have hr : firstReason (dispRanges o gather (s.dispCount i.core o)) = none := by
    simp only [dispRanges, firstReason_eq_none, List.forall_mem_cons, hi, hs, hd]
    simp
  have hbad : badIdx o (s.dispIdx i.core o) = false := by
    simpa [badIdx, noIndex] using hidx
  simp only [State.dispTodo, hstatic, Todo.unless, he, ha, hb, hr, hbad, firstReason_singleton.2, Bool.false_eq_true, if_false]

/-- A plan that reads the lists first, and then them and more, has its effect. -/
theorem present_dispTodo {op : BitVec 8} {gather : Bool} {plan : State → Todo} {go : CoreId → CoreId → Todo}
    {rows writes : List (CoreId × Nat)} {eff : State → State} (hr : s.Ready qDisp i)
    (hp : plan s = s.dispTodo i o gather go) (h : dispTakes s i o a b gather)
    (hgo : go a b = .run (s.dispLists i.core o ++ rows) writes (fun _ => .now) eff)
    (hu : calm s ∨ usable s (s.dispLists i.core o ++ rows) writes) :
    ∃ u, s.issueKeeps u ∧ s.present qDisp op i plan = eff u := by
  rw [dispTodo_eq h, hgo] at hp
  refine State.present_keeps hr (by rw [hp]; rfl) (by rw [hp]; rfl) (fun x hx => ?_) hu
  rw [hp] at hx
  simp only [Todo.first, List.append_nil] at hx
  exact List.mem_append_left _ hx

end

/-- Settles O24: each runs a plan that writes one row after another, made of words outside the rows that it writes. A
DGATHER writes a destination row once; of the rows that a DSCATTER writes to one place the last stays. -/
theorem dispatchMovesItsRows : Obligations.DispatchMovesItsRows := by
  intro i o a b s hr hwf l w
  refine ⟨fun hn he => ?_, fun ht hd hu => ?_, fun ht hd hu => ?_⟩
  · have hempty : dispEmpty o = true := by simpa [dispEmpty, or_assoc] using he
    exact ⟨⟨_, rfl, (State.present_nop (op := 0x90) (plan := State.gatherPlan i o) hr (dispTodo_empty hn hempty _)).storesAnd i.core⟩,
      _, rfl, (State.present_nop (op := 0x91) (plan := State.scatterPlan i o) hr (dispTodo_empty hn hempty _)).storesAnd i.core⟩
  · obtain ⟨u, hk, hx⟩ := present_dispTodo (op := 0x90) (plan := State.gatherPlan i o) hr rfl ht rfl hu
    have hwf' := hk.memoriesWf hwf
    rw [gatherRows_eq hwf' (idx_of_dispTakes ht) hd] at hx
    have hkeeps := hk.storeKeeps.trans (State.storeKeeps_pokeRows b (l.zipIdx.filterMap (u.gatherRow a o)) u)
    refine ⟨_, congrArg Host.Outcome.next hx, hkeeps.outside, hkeeps.beside, fun r x hlx j hj => ?_, fun c y hy => ?_⟩
    · rw [peek_gatherRows hwf' hlx hj]
      simp only [hk.peek]
      rfl
    · rw [peek_gatherRows_other hwf' hy, hk.peek]
  · obtain ⟨u, hk, hx⟩ := present_dispTodo (op := 0x91) (plan := State.scatterPlan i o) hr rfl ht rfl hu
    have hwf' := hk.memoriesWf hwf
    rw [scatterRows_eq hwf' (idx_of_dispTakes ht) hd] at hx
    have hkeeps := hk.storeKeeps.trans (State.storeKeeps_pokeRows b (l.zipIdx.filterMap (u.scatterRow a o)) u)
    refine ⟨_, congrArg Host.Outcome.next hx, hkeeps.outside, hkeeps.beside, fun r x hlx hn hlast j hj => ?_, fun c y hy => ?_⟩
    · rw [peek_scatterRows hwf' hlx hn hlast hj, hk.peek]
    · rw [peek_scatterRows_other hwf' hy, hk.peek]

end Sys2Proof.Machine
end

section
/-! PROOF. DSLOT (R147, R148, R196, R197): the plan keeps the capacities and enters every choice once, and the instruction
stores it. -/

namespace Sys2Proof.Machine

open Claims

section
variable {o : DslotOp} {ch : Nat → Nat → Choice} {p p' : SlotPlan} {t r : Nat}

/-! What the placing of one choice can do (R148). -/

/-- A choice takes a regular slot of its own expert or of a backup's, or an overflow slot of its own, or stays residual. -/
inductive SlotPlan.Placed (o : DslotOp) (ch : Nat → Nat → Choice) (p : SlotPlan) (t r : Nat) : SlotPlan → Prop where
  | regular (j : Nat) (g : BitVec 32) (used : List (Nat × Nat)) (h : fillOf p.fill (ch t j).expert < o.cap.toNat) :
      SlotPlan.Placed o ch p t r { p.put t r (ch t j).expert (fillOf p.fill (ch t j).expert) g with
        fill := bump p.fill (ch t j).expert, used := used }
  | overflow (j : Nat) (g : BitVec 32) (h : fillOf p.ofill (ch t j).expert < o.ocap.toNat) :
      SlotPlan.Placed o ch p t r { p.put t r (ch t j).expert (o.cap.toNat + fillOf p.ofill (ch t j).expert) g with
        ofill := bump p.ofill (ch t j).expert, nover := p.nover + 1 }
  | residual : SlotPlan.Placed o ch p t r { p with comb := (t, r, 0xFFFF, 0xFFFF, 0) :: p.comb, nres := p.nres + 1 }

/-- A backup has room for one more. -/
theorem SlotPlan.backup_room {j : Nat} (h : p.backup o ch t = some j) :
    fillOf p.fill (ch t (o.k.toNat + j)).expert < o.cap.toNat := by
  have := List.find?_some h
  simp only [Bool.and_eq_true, decide_eq_true_eq] at this
  exact this.2

theorem SlotPlan.placed_place (o : DslotOp) (ch : Nat → Nat → Choice) (p : SlotPlan) (t r : Nat) :
    SlotPlan.Placed o ch p t r (p.place o ch r t) := by
  unfold SlotPlan.place
  dsimp only
  split
  · next h => exact .regular r _ p.used h
  · split
    · split
      · next j hj => exact .regular (o.k.toNat + j) _ ((t, j) :: p.used) (SlotPlan.backup_room hj)
      · exact .residual
    · split
      · next h => exact .overflow r _ h.2
      · exact .residual

/-- What holds of the empty plan and is kept by every placing holds of the whole plan. -/
theorem dslotPlan_induction {P : SlotPlan → Prop} (h0 : P {})
    (hstep : ∀ p t r p', P p → SlotPlan.Placed o ch p t r p' → P p') : P (dslotPlan o ch) := by
  unfold dslotPlan
  refine List.foldlRecOn (motive := P) _ _ h0 fun p hp r _ => ?_
  exact List.foldlRecOn (motive := P) _ _ hp fun p hp t _ => hstep p t r _ hp (p.placed_place o ch t r)

/-! The capacities (R148). -/

theorem fillOf_bump (l : List (Nat × Nat)) (e x : Nat) : fillOf (bump l e) x = fillOf l x + if e = x then 1 else 0 := by
  unfold bump
  rw [fillOf, alGet_alSet]
  by_cases h : e = x
  · simp [h]
  · simp [h, fillOf]

/-- The fills are within the capacities, and every slot that is taken lies below its expert's fill, once. -/
structure SlotPlan.Within (o : DslotOp) (p : SlotPlan) : Prop where
  fill : ∀ e, fillOf p.fill e ≤ o.cap.toNat
  ofill : ∀ e, fillOf p.ofill e ≤ o.ocap.toNat
  slot : ∀ x ∈ p.slots, x.2.1 < fillOf p.fill x.1 ∨
    (o.cap.toNat ≤ x.2.1 ∧ x.2.1 < o.cap.toNat + fillOf p.ofill x.1)
  nodup : (p.slots.map (fun x => (x.1, x.2.1))).Nodup

theorem fillOf_bump_le {l : List (Nat × Nat)} {e n : Nat} (h : ∀ x, fillOf l x ≤ n) (he : fillOf l e < n) (x : Nat) :
    fillOf (bump l e) x ≤ n := by
  rw [fillOf_bump]
  split
  · next hx => rw [← hx]; exact he
  · exact h x

theorem SlotPlan.Within.placed (h : p.Within o) (hp : SlotPlan.Placed o ch p t r p') : p'.Within o := by
  obtain ⟨hfill, hofill, hslot, hnodup⟩ := h
  cases hp with
  | residual => exact ⟨hfill, hofill, hslot, hnodup⟩
  | regular j g used he =>
    refine ⟨fillOf_bump_le hfill he, hofill, List.forall_mem_cons.2 ⟨?_, fun x hx => ?_⟩, List.nodup_cons.2 ⟨?_, hnodup⟩⟩
    · dsimp only
      rw [fillOf_bump, if_pos rfl]
      omega
    · dsimp only [SlotPlan.put]
      rw [fillOf_bump]
      have := hslot x hx
      omega
    · intro hmem
      obtain ⟨x, hx, hxe⟩ := List.mem_map.1 hmem
      obtain ⟨h1, h2⟩ := Prod.mk.inj hxe
      dsimp only at h1 h2
      have := hslot x hx
      rw [h1, h2] at this
      omega
  | overflow j g he =>
    refine ⟨hfill, fillOf_bump_le hofill he, List.forall_mem_cons.2 ⟨?_, fun x hx => ?_⟩, List.nodup_cons.2 ⟨?_, hnodup⟩⟩
    · dsimp only
      rw [fillOf_bump, if_pos rfl]
      omega
    · dsimp only [SlotPlan.put]
      rw [fillOf_bump]
      have := hslot x hx
      omega
    · intro hmem
      obtain ⟨x, hx, hxe⟩ := List.mem_map.1 hmem
      obtain ⟨h1, h2⟩ := Prod.mk.inj hxe
      dsimp only at h1 h2
      have hs := hslot x hx
      have hf := hfill x.1
      rw [h1] at hs hf
      rw [h2] at hs
      omega

theorem within_dslotPlan (o : DslotOp) (ch : Nat → Nat → Choice) : (dslotPlan o ch).Within o := by
  refine dslotPlan_induction (P := SlotPlan.Within o) ⟨fun e => ?_, fun e => ?_, nofun, List.nodup_nil⟩
    fun _ _ _ _ h hp => h.placed hp
  · exact Nat.zero_le _
  · exact Nat.zero_le _

theorem SlotPlan.Within.slot_lt (h : p.Within o) {x : Nat × Nat × Nat} (hx : x ∈ p.slots) :
    x.2.1 < o.cap.toNat + o.ocap.toNat := by
  have hs := h.slot x hx
  have hf := h.fill x.1
  have ho := h.ofill x.1
  omega

/-! The combine list (R148). -/

/-- The token and the choice of an entry of the combine list. -/
def combKey (x : Nat × Nat × Nat × Nat × BitVec 32) : Nat × Nat := (x.1, x.2.1)

theorem SlotPlan.Placed.keys (hp : SlotPlan.Placed o ch p t r p') : p'.comb.map combKey = (t, r) :: p.comb.map combKey := by
  cases hp <;> rfl

/-- The choices in the order in which R148 places them. -/
def dslotOrder (o : DslotOp) : List (Nat × Nat) :=
  (List.range o.k.toNat).flatMap (fun r => (List.range o.tokens.toNat).map (fun t => (t, r)))

theorem dslotPlan_eq_foldl (o : DslotOp) (ch : Nat → Nat → Choice) :
    dslotPlan o ch = (dslotOrder o).foldl (fun p x => p.place o ch x.2 x.1) {} := by
  simp only [dslotPlan, dslotOrder, List.foldl_flatMap, List.foldl_map]

theorem keys_foldl_place : ∀ (l : List (Nat × Nat)) (p : SlotPlan),
    (l.foldl (fun p x => p.place o ch x.2 x.1) p).comb.map combKey = l.reverse ++ p.comb.map combKey
  | [], _ => rfl
  | x :: l, p => by
    rw [List.foldl_cons, keys_foldl_place l, (p.placed_place o ch x.1 x.2).keys, List.reverse_cons, List.append_assoc]
    rfl

theorem mem_dslotOrder : (t, r) ∈ dslotOrder o ↔ t < o.tokens.toNat ∧ r < o.k.toNat := by
  simp [dslotOrder, and_comm]

theorem dslotOrder_nodup (o : DslotOp) : (dslotOrder o).Nodup := by
  refine List.nodup_flatMap.2 ⟨fun r _ => List.nodup_range.map fun _ _ e => (Prod.mk.inj e).1,
    List.nodup_range.imp fun hne x hx hy => ?_⟩
  obtain ⟨a, -, rfl⟩ := List.mem_map.1 hx
  obtain ⟨b, -, hb⟩ := List.mem_map.1 hy
  exact hne (Prod.mk.inj hb).2.symm

/-- Every choice has one entry. -/
theorem comb_once (ht : t < o.tokens.toNat) (hr : r < o.k.toNat) :
    ((dslotPlan o ch).comb.filter (fun x => x.1 == t && x.2.1 == r)).length = 1 := by
  have hkeys : (dslotPlan o ch).comb.map combKey = (dslotOrder o).reverse := by
    rw [dslotPlan_eq_foldl, keys_foldl_place]
    exact List.append_nil _
  have hcount : (dslotOrder o).reverse.count (t, r) = 1 :=
    List.count_eq_one_of_mem (List.nodup_reverse.2 (dslotOrder_nodup o)) (List.mem_reverse.2 (mem_dslotOrder.2 ⟨ht, hr⟩))
  rw [← List.countP_eq_length_filter, ← hcount, ← hkeys, List.count, List.countP_map]
  rfl

/-! The counts (R196, R197). -/

/-- The residual entries and the overflow slots are counted. -/
structure SlotPlan.Counts (o : DslotOp) (p : SlotPlan) : Prop where
  within : p.Within o
  nres : p.nres = (p.comb.filter (fun x => x.2.2.1 == 0xFFFF)).length
  nover : p.nover = (p.slots.filter (fun x => decide (o.cap.toNat ≤ x.2.1))).length

theorem SlotPlan.Counts.placed (he : ∀ t j, (ch t j).expert < o.e.toNat) (h : p.Counts o)
    (hp : SlotPlan.Placed o ch p t r p') : p'.Counts o := by
  obtain ⟨hwithin, hnres, hnover⟩ := h
  refine ⟨hwithin.placed hp, ?_, ?_⟩
  all_goals
    cases hp with
    | residual => simp [hnres, hnover]
    | regular j g used hj =>
      have hne : (ch t j).expert ≠ 0xFFFF := by have := he t j; omega
      simp [SlotPlan.put, hnres, hnover, hne, hj]
    | overflow j g hj =>
      have hne : (ch t j).expert ≠ 0xFFFF := by have := he t j; omega
      simp [SlotPlan.put, hnres, hnover, hne]

theorem counts_dslotPlan (he : ∀ t j, (ch t j).expert < o.e.toNat) : (dslotPlan o ch).Counts o :=
  dslotPlan_induction (P := SlotPlan.Counts o)
    ⟨⟨fun _ => Nat.zero_le _, fun _ => Nat.zero_le _, nofun, List.nodup_nil⟩, rfl, rfl⟩ fun _ _ _ _ h hp => h.placed he hp

end

/-! What lets a DSLOT run, and what it stores (R134, R147, R148). -/

section
variable {s u : State} {i : Issue} {o : DslotOp} {c : CoreId}

theorem dslotReject_empty (hp : o.policy ≠ 3) (he : dslotEmpty o = true) : dslotReject o = none := by
  have h0 : pastMem o.caddr.toNat (wordsFor 0 64) = false := by simp [pastMem, wordsFor]
  simpa [dslotReject, firstReason_eq_none, he, h0] using hp

theorem dslotReject_pass (hp : o.policy ≠ 3) (he : dslotEmpty o = false)
    (hc : pastMem o.caddr.toNat (wordsFor (o.tokens.toNat * (o.k.toNat + o.alt.toNat)) 64) = false)
    (hsl : pastMem o.sladdr.toNat (wordsFor (o.e.toNat * (o.cap.toNat + o.ocap.toNat)) 32) = false)
    (hf : pastMem o.fladdr.toNat (2 * o.e.toNat) = false)
    (hcb : pastMem o.cbaddr.toNat (wordsFor (o.tokens.toNat * o.k.toNat) 64) = false) : dslotReject o = none := by
  simpa [dslotReject, firstReason_eq_none, he, hc, hsl, hf, hcb] using hp

theorem dslotBad_pass
    (h : ∀ t < o.tokens.toNat, ∀ j < o.k.toNat + o.alt.toNat, (s.choice c o t j).expert < o.e.toNat) :
    s.dslotBad c o = none := by
  simpa [State.dslotBad, firstReason_eq_none] using fun _ => h

/-- The list of choices. -/
def dslotList (c : CoreId) (o : DslotOp) : List (CoreId × Nat) :=
  wordsAt c o.caddr.toNat (wordsFor (o.tokens.toNat * (o.k.toNat + o.alt.toNat)) 64)

/-- What a DSLOT does: it stores a plan and adds to the two counts. -/
def State.dslotStores (c : CoreId) (o : DslotOp) (p : SlotPlan) (s : State) : State :=
  (s.wrAll (dslotWrites c o p)).modCore c (fun k => { k with
    dispOverflow := satAdd k.dispOverflow p.nover, dispResid := satAdd k.dispResid p.nres })

theorem dslotTodo_empty (hr : dslotReject o = none) (he : dslotEmpty o = true) : State.dslotTodo i o s = .nop := by
  simp only [State.dslotTodo, hr, Todo.unless, he, if_true]

theorem dslotTodo_eq (hr : dslotReject o = none) (he : dslotEmpty o = false) (hb : s.dslotBad i.core o = none) :
    State.dslotTodo i o s = .need (dslotList i.core o)
      (.run (dslotList i.core o ++ wrPartial (dslotWrites i.core o (dslotPlan o (s.choice i.core o))))
        (wrWords (dslotWrites i.core o (dslotPlan o (s.choice i.core o)))) (fun _ => .now)
        (State.dslotStores i.core o (dslotPlan o (s.choice i.core o)))) := by
  simp only [State.dslotTodo, hr, Todo.unless, he, hb, Bool.false_eq_true, if_false]
  rfl

/-- The plan of a DSLOT is stored and its counts are added. -/
theorem storesAnd_dslotStores (h : s.issueKeeps u) (hwf : s.memoriesWf) (p : SlotPlan) :
    storesAnd s (u.dslotStores c o p) c { s.core c with
      dispOverflow := satAdd (s.core c).dispOverflow p.nover, dispResid := satAdd (s.core c).dispResid p.nres }
      (dslotWrites c o p) :=
  storesAnd_modCore (f := fun k => { k with
    dispOverflow := satAdd k.dispOverflow p.nover, dispResid := satAdd k.dispResid p.nres })
    (storesAnd_wrAll h hwf (wrJoin_nodup _)) (fun _ => rfl) fun _ => rfl

end

/-- Settles O25: of every placing one of three things is true, so that the plan keeps its capacities and its counts, and
its choices are entered in their order; a DSLOT that nothing rejects stores the plan of its list. -/
theorem dslotStoresAPlanWithinCapacities : Obligations.DslotStoresAPlanWithinCapacities := by
  refine ⟨fun o ch => ?_, fun i o s hr hwf hp => ⟨fun he => ?_, fun he hc hsl hf hcb hidx => ?_⟩⟩
  · have hw := within_dslotPlan o ch
    exact ⟨fun e => ⟨hw.fill e, hw.ofill e⟩, fun x hx => hw.slot_lt hx, hw.nodup, fun t r ht hr => comb_once ht hr,
      fun he => ⟨(counts_dslotPlan he).nres, (counts_dslotPlan he).nover⟩⟩
  · exact ⟨_, rfl, (State.present_nop (op := 0x92) (plan := State.dslotTodo i o) hr
      (dslotTodo_empty (dslotReject_empty hp he) he)).storesAnd i.core⟩
  · intro p ws hu
    have hplan := dslotTodo_eq (i := i) (dslotReject_pass hp he hc hsl hf hcb) he (dslotBad_pass hidx)
    obtain ⟨u, hk, hx⟩ := State.present_keeps (op := 0x92) (plan := State.dslotTodo i o) hr (by rw [hplan]; rfl)
      (by rw [hplan]; rfl) (fun x hx => by
        rw [hplan] at hx
        simp only [Todo.first, List.append_nil] at hx
        exact List.mem_append_left _ hx) hu
    exact ⟨_, congrArg Host.Outcome.next hx, storesAnd_dslotStores hk hwf p⟩

end Sys2Proof.Machine
end

section
/-! PROOF. The fields of a key-value descriptor (R153), and the events that an issue logs before its effect (R208, R266). -/

namespace Sys2Proof.Machine

open Claims

/-! A field of a word that is replaced. -/

theorem testBit_wordField (w : MWord) (lo n k : Nat) :
    (wordField w lo n).testBit k = (decide (k < n) && w.getLsbD (lo + k)) := by
  rw [wordField, Nat.testBit_mod_two_pow, Nat.testBit_shiftRight, BitVec.getLsbD]

theorem wordField_wordSetField_self (w : MWord) {lo n v : Nat} (h : lo + n ≤ 256) (hv : v < 2 ^ n) :
    wordField (wordSetField w lo n v) lo n = v := by
  apply Nat.eq_of_testBit_eq
  intro k
  rw [testBit_wordField, getLsbD_wordSetField]
  by_cases hk : k < n
  · simp [hk, show lo + k < 256 by omega]
  · have hz : v.testBit k = false :=
      Nat.testBit_lt_two_pow (lt_of_lt_of_le hv (Nat.pow_le_pow_right (by omega) (by omega)))
    simp [hk, hz]

theorem wordField_wordSetField_apart (w : MWord) {lo n lo' n' : Nat} (v : Nat) (h' : lo' + n' ≤ 256)
    (h : lo + n ≤ lo' ∨ lo' + n' ≤ lo) : wordField (wordSetField w lo n v) lo' n' = wordField w lo' n' := by
  apply Nat.eq_of_testBit_eq
  intro k
  rw [testBit_wordField, testBit_wordField, getLsbD_wordSetField]
  by_cases hk : k < n'
  · simp [hk, show lo' + k < 256 by omega, show ¬ (lo ≤ lo' + k ∧ lo' + k < lo + n) by omega]
  · simp [hk]

theorem extract_wordSetField_apart (w : MWord) {lo n lo' n' : Nat} (v : Nat) (h' : lo' + n' ≤ 256)
    (h : lo + n ≤ lo' ∨ lo' + n' ≤ lo) : (wordSetField w lo n v).extractLsb' lo' n' = w.extractLsb' lo' n' := by
  apply BitVec.eq_of_getLsbD_eq
  intro k hk
  rw [BitVec.getLsbD_extractLsb', BitVec.getLsbD_extractLsb', getLsbD_wordSetField]
  simp [hk, show lo' + k < 256 by omega, show ¬ (lo ≤ lo' + k ∧ lo' + k < lo + n) by omega]

/-! Descriptors (R153). -/

section
variable (w : MWord) (n : Nat)

theorem dClen_dSetClen (h : n < 2 ^ 8) : dClen (dSetClen w n) = n := wordField_wordSetField_self w (by decide) h
theorem dTlen_dSetTlen (h : n < 2 ^ 8) : dTlen (dSetTlen w n) = n := wordField_wordSetField_self w (by decide) h
theorem dFull_dSetFull : dFull (dSetFull w) = true := by
  rw [dFull, dSetFull, wordField_wordSetField_self w (by decide) (by decide)]
  rfl
@[simp] theorem dTlen_dSetFull : dTlen (dSetFull w) = dTlen w := wordField_wordSetField_apart w _ (by decide) (by decide)
@[simp] theorem dClen_dSetFull : dClen (dSetFull w) = dClen w := wordField_wordSetField_apart w _ (by decide) (by decide)
@[simp] theorem dClen_dSetTlen : dClen (dSetTlen w n) = dClen w := wordField_wordSetField_apart w _ (by decide) (by decide)
@[simp] theorem dFull_dSetTlen : dFull (dSetTlen w n) = dFull w := by
  rw [dFull, dSetTlen, wordField_wordSetField_apart w _ (by decide) (by decide), dFull]
@[simp] theorem dFull_dSetClen : dFull (dSetClen w n) = dFull w := by
  rw [dFull, dSetClen, wordField_wordSetField_apart w _ (by decide) (by decide), dFull]

/-- A field between bits 160 and 175, or bit 208, is none of those that appending and committing leave. -/
theorem kvSameBeside_wordSetField {lo m : Nat} (v : Nat) (h : 160 ≤ lo ∧ lo + m ≤ 176 ∨ lo = 208 ∧ m = 1) :
    kvSameBeside w (wordSetField w lo m v) := by
  refine ⟨?_, ?_, ?_, ?_, ?_, ?_⟩
  · exact extract_wordSetField_apart w v (by decide) (by omega)
  · exact wordField_wordSetField_apart w v (by decide) (by omega)
  · exact wordField_wordSetField_apart w v (by decide) (by omega)
  · exact wordField_wordSetField_apart w v (by decide) (by omega)
  · rw [dHashed, wordField_wordSetField_apart w v (by decide) (by omega), dHashed]
  · exact wordField_wordSetField_apart w v (by decide) (by omega)

theorem kvSameBeside_dSetTlen : kvSameBeside w (dSetTlen w n) :=
  kvSameBeside_wordSetField w n (.inl ⟨by decide, by decide⟩)

theorem kvSameBeside_trans {w w' w'' : MWord} (h : kvSameBeside w w') (h' : kvSameBeside w' w'') : kvSameBeside w w'' := by
  obtain ⟨h1, h2, h3, h4, h5, h6⟩ := h
  obtain ⟨g1, g2, g3, g4, g5, g6⟩ := h'
  exact ⟨g1.trans h1, g2.trans h2, g3.trans h3, g4.trans h4, g5.trans h5, g6.trans h6⟩

theorem kvSameBeside_dCommit : kvSameBeside w (dCommit w n) := by
  have hlen : kvSameBeside w (dSetTlen (dSetClen w (dClen w + n)) 0) :=
    kvSameBeside_trans (kvSameBeside_wordSetField w (dClen w + n) (.inl ⟨by decide, by decide⟩)) (kvSameBeside_dSetTlen _ 0)
  unfold dCommit
  dsimp only
  split
  · exact kvSameBeside_trans hlen (kvSameBeside_wordSetField _ 1 (.inr ⟨rfl, rfl⟩))
  · exact hlen

/-- What a commit makes of CLEN, TLEN and FULL (R155). -/
theorem dCommit_fields (h : dClen w + n ≤ 64) : dClen (dCommit w n) = dClen w + n ∧ dTlen (dCommit w n) = 0 ∧
    dFull (dCommit w n) = (dFull w || decide (dClen w + n = 64)) := by
  have hlen := dClen_dSetClen w (dClen w + n) (by omega)
  have hzero := dTlen_dSetTlen (dSetClen w (dClen w + n)) 0 (by decide)
  unfold dCommit
  dsimp only
  split
  · next he => exact ⟨by rw [dClen_dSetFull, dClen_dSetTlen, hlen], by rw [dTlen_dSetFull, hzero], by simp [dFull_dSetFull, he]⟩
  · next hne => simp [hlen, hzero, hne]

end

/-! The events that an issue logs before its effect (R208, R266). -/

section
variable {s : State} {q : QueueId} {op : BitVec 8} {i : Issue} {c m : CoreId} {reads : List (CoreId × Nat)}
  {due : State → Until}

theorem State.unhold_evlog (s : State) (q : QueueId) (c : CoreId) : (s.unhold q c).evlog = s.evlog := by
  unfold State.unhold
  refine List.foldlRecOn (motive := fun (t : State) => t.evlog = s.evlog) _ _ rfl fun t ht x _ => ?_
  split
  · exact ht
  · exact ht

theorem State.issued_evlog (s : State) (q : QueueId) (op : BitVec 8) (i : Issue) (due : Until) :
    (s.issued q op i due).evlog = s.evlog := by
  unfold State.issued
  dsimp only
  split <;> rfl

/-- An instruction that reads words of two cores logs three events at most before its effect. -/
theorem State.started_length_le (h : ofCores c m reads) :
    (s.started q op i reads due).evlog.queue.length ≤ s.evlog.queue.length + 3 := by
  have hbegun := s.begun_length_le q i
  have hcorr := State.corrections_length_le (s := s.begun q i) h
  unfold State.started
  dsimp only
  rw [State.issued_evlog, State.unhold_evlog]
  omega

/-- A plan that reads words of two cores has its effect on a state that keeps the settled state and logs little. -/
theorem State.present_keeps_room {plan : State → Todo} {writes : List (CoreId × Nat)} {eff : State → State} (h : s.Ready q i)
    (hp : (plan s).last = .run reads writes due eff) (hs : (plan s).soft = []) (hf : ∀ x ∈ (plan s).first, x ∈ reads)
    (hc : ofCores c m reads) (hu : calm s ∨ usable s reads writes) :
    ∃ u, s.issueKeeps u ∧ u.evlog.queue.length ≤ s.evlog.queue.length + 3 ∧ s.present q op i plan = eff u :=
  ⟨_, s.issueKeeps_started q op i reads due, State.started_length_le hc, State.present_eq_started h hp hs hf hu⟩

/-- What is logged on a state in which an instruction has issued is there. -/
theorem State.loggedAfter_log (u t : State) (h : u.evlog.queue.length ≤ s.evlog.queue.length + 3) (ht : t.evlog = u.evlog)
    (code : Nat) (src : BitVec 16) (p0 p1 p2 p3 : Nat) :
    loggedAfter s (t.log code src p0 p1 p2 p3) code src p0 p1 p2 p3 := fun hroom =>
  logged_log t code src p0 p1 p2 p3 (by rw [ht]; omega)

end

end Sys2Proof.Machine
end

section
/-! PROOF. KAPPEND, KCOMMIT and KDISCARD (R153 to R155): what lets them run, and the words that they store. -/

namespace Sys2Proof.Machine

open Claims

section
variable {s t u : State} {i : Issue} {o : KvOp} {c m : CoreId} {n : Nat}

/-! What lets a key-value instruction run (R134, R153, R154). -/

theorem pastMem_one {a : Nat} (h : a < 2 ^ 20) : pastMem a 1 = false := by
  simp [pastMem]
  omega

theorem kvCommon_pass (h : kvFieldsOk s c o) : ∀ x ∈ s.kvCommon c o, x.1 = false := by
  obtain ⟨hsel, hnames, h0, h16, hd, hmem⟩ := h
  simp only [State.kvCommon, List.forall_mem_cons, selector_taken hsel, pastMem_one hmem]
  exact ⟨trivial, by simpa using ⟨h0, h16⟩, decide_eq_false hd, decide_eq_false hnames, trivial, nofun⟩

theorem kvBadN_pass (h : o.cntInd = false → o.n.toNat ≤ 64) : kvBadN o = false := by
  cases hc : o.cntInd
  · simpa [kvBadN, hc] using h hc
  · simp [kvBadN, hc]

/-- No reason of the instruction's fields rejects a counting instruction. -/
theorem kvReject_pass (h : kvFieldsOk s c o) (hn : o.cntInd = false → o.n.toNat ≤ 64) :
    firstReason ((kvBadN o, 2) :: s.kvCommon c o) = none := by
  rw [firstReason_eq_none, List.forall_mem_cons]
  exact ⟨kvBadN_pass hn, kvCommon_pass h⟩

theorem kvNext_of_ne {w : MWord} (h : dNext w ≠ 0xFFFF) : kvNext o w = some (dNext w) := if_neg h

theorem kvNext_of_eq {w : MWord} (h : dNext w = 0xFFFF) : kvNext o w = none := if_pos h

theorem kvNextBad_pass (h : kvNextOk s c o) : kvNextBad o (s.desc c o o.desc.toNat) = false := by
  unfold kvNextBad
  by_cases hd : dNext (s.desc c o o.desc.toNat) = 0xFFFF
  · rw [kvNext_of_eq hd]
  · rw [kvNext_of_ne hd]
    exact pastMem_one (h hd)

theorem kvZero_of_count (h : s.kvCount c o ≠ 0) : kvZero o = false := by
  cases hc : o.cntInd
  · simpa [kvZero, State.kvCount, hc, ← BitVec.toNat_inj] using h
  · simp [kvZero, hc]

/-! A count of 0 (R17, R268). -/

/-- What KAPPEND and KCOMMIT do with a count of 0, given or read. -/
def kvIdle (c : CoreId) (o : KvOp) : Todo :=
  if kvZero o then .nop else .need (kvCountRead c o) (.run (kvCountRead c o) [] (fun _ => .now) (fun s => s))

theorem State.present_kvIdle {op : BitVec 8} {plan : State → Todo} (hr : s.Ready qKv i) (hp : plan s = kvIdle i.core o)
    (hu : calm s ∨ usable s (kvCountRead i.core o) []) : storesAnd s (s.present qKv op i plan) i.core (s.core i.core) [] := by
  by_cases hz : kvZero o
  · exact (State.present_nop hr (hp.trans (if_pos hz))).storesAnd i.core
  · have hplan := hp.trans (if_neg hz)
    obtain ⟨u, hk, hx⟩ := State.present_keeps (op := op) (plan := plan) hr (by rw [hplan]; rfl) (by rw [hplan]; rfl)
      (fun x hx => by simpa [hplan, Todo.first] using hx) hu
    rw [hx]
    exact hk.storesAnd i.core

theorem kappendPlan_idle (h : kvFieldsOk s i.core o) (hn : o.cntInd = false → o.n.toNat ≤ 64) (h0 : s.kvCount i.core o = 0) :
    State.kappendPlan i o s = kvIdle i.core o := by
  obtain ⟨m, hm⟩ := Option.ne_none_iff_exists'.1 h.2.1
  simp only [State.kappendPlan, kvReject_pass h hn, Todo.unless, hm, h0, if_true]
  rfl

theorem kcommitPlan_idle (h : kvFieldsOk s i.core o) (hn : o.cntInd = false → o.n.toNat ≤ 64) (h0 : s.kvCount i.core o = 0) :
    State.kcommitPlan i o s = kvIdle i.core o := by
  simp only [State.kcommitPlan, kvReject_pass h hn, Todo.unless, h0, if_true]
  rfl

/-! The plans of counts above 0. -/

theorem kcommitPlan_eq (h : kvFieldsOk s i.core o) (hn : o.cntInd = false → o.n.toNat ≤ 64) (h0 : s.kvCount i.core o ≠ 0)
    (hnext : kvNextOk s i.core o) :
    let n := s.kvCount i.core o
    let ws := s.kcommitWrites i.core o n
    State.kcommitPlan i o s = .need (kvCountRead i.core o) (.need (kvDescRead i.core o)
      (.run (kvCountRead i.core o ++ s.kvDescReads i.core o) (wrWords ws) (fun _ => .now) (fun s =>
        if s.kvTentative i.core o < n then (s.wrAll ws).kvClamped i.core o n else s.wrAll ws))) := by
  simp only [State.kcommitPlan, kvReject_pass h hn, Todo.unless, kvZero_of_count h0, h0,
    firstReason_singleton.2 (kvNextBad_pass hnext), Bool.false_eq_true, if_false]

theorem kdiscardPlan_eq (h : kvFieldsOk s i.core o) (hnext : kvNextOk s i.core o) :
    State.kdiscardPlan i o s = .need (kvDescRead i.core o)
      (.run (s.kvDescReads i.core o) (wrWords (s.kdiscardWrites i.core o)) (fun _ => .now)
        (fun u => u.wrAll (s.kdiscardWrites i.core o))) := by
  simp only [State.kdiscardPlan, firstReason_eq_none.2 (kvCommon_pass h), Todo.unless,
    firstReason_singleton.2 (kvNextBad_pass hnext)]

theorem kappendDesc_pass (hnext : kvNextOk s c o) (hlen : dClen (s.desc c o o.desc.toNat) < 64)
    (hn : n ≤ 128 - dClen (s.desc c o o.desc.toNat))
    (hmore : 64 - dClen (s.desc c o o.desc.toNat) < n → dNext (s.desc c o o.desc.toNat) ≠ 0xFFFF)
    (hsrc : pastMem o.srcaddr.toNat (n * o.roww.toNat) = false) (htok : pastMem o.tokaddr.toNat (wordsFor n 32) = false)
    (hown : kvAreaBad o (s.desc c o o.desc.toNat) (dClen (s.desc c o o.desc.toNat))
      (min n (64 - dClen (s.desc c o o.desc.toNat))) = false) : s.kappendDesc c o n = none := by
  have hnone : ((kvNext o (s.desc c o o.desc.toNat)).isNone &&
      decide (n - min n (64 - dClen (s.desc c o o.desc.toNat)) ≠ 0)) = false := by
    by_cases h : 64 - dClen (s.desc c o o.desc.toNat) < n
    · rw [kvNext_of_ne (hmore h)]
      rfl
    · simp
      omega
  simp only [State.kappendDesc, kvSplit, firstReason_eq_none, List.forall_mem_cons]
  exact ⟨decide_eq_false (by omega), kvNextBad_pass hnext, decide_eq_false (by omega), hnone, hsrc, htok, hown, nofun⟩

theorem kappendNext_pass (hlen : dNext (s.desc c o o.desc.toNat) ≠ 0xFFFF →
      dClen (s.desc c o (dNext (s.desc c o o.desc.toNat))) = 0)
    (harea : dNext (s.desc c o o.desc.toNat) ≠ 0xFFFF → kvAreaBad o (s.desc c o (dNext (s.desc c o o.desc.toNat))) 0
      (n - min n (64 - dClen (s.desc c o o.desc.toNat))) = false) : s.kappendNext c o n = none := by
  unfold State.kappendNext
  dsimp only
  by_cases h : dNext (s.desc c o o.desc.toNat) = 0xFFFF
  · rw [kvNext_of_eq h]
    rfl
  · rw [kvNext_of_ne h]
    simp [firstReason_eq_none, hlen h, harea h, kvSplit]

theorem kappendPlan_eq (h : kvFieldsOk s i.core o) (hn : o.cntInd = false → o.n.toNat ≤ 64) (hm : s.sel i.core o.ssel = some m)
    (h0 : s.kvCount i.core o ≠ 0) (hdesc : s.kappendDesc i.core o (s.kvCount i.core o) = none)
    (hnext : s.kappendNext i.core o (s.kvCount i.core o) = none) :
    let n := s.kvCount i.core o
    let ws := s.kappendWrites i.core m o n
    State.kappendPlan i o s = .need (kvCountRead i.core o) (.need (kvDescRead i.core o) (.need (s.kvNextRead i.core o)
      (.run (kvCountRead i.core o ++ s.kvDescReads i.core o ++ wordsAt m o.srcaddr.toNat (n * o.roww.toNat) ++
        wordsAt m o.tokaddr.toNat (wordsFor n 32) ++ wrPartial ws) (wrWords ws) (fun _ => .now) (fun u => u.wrAll ws)))) := by
  simp only [State.kappendPlan, kvReject_pass h hn, Todo.unless, kvZero_of_count h0, hm, h0, hdesc, hnext, Bool.false_eq_true,
    if_false]

/-! The two descriptors that KCOMMIT and KDISCARD write (R155). -/

/-- The words of DESC and, where it has one, of its NEXT. -/
def State.kvPair (s : State) (c : CoreId) (o : KvOp) (d : MWord) (next : MWord → MWord) : List Wr :=
  { core := c, addr := dAddr o o.desc.toNat, data := d } ::
  (match kvNext o (s.desc c o o.desc.toNat) with
   | some k => [{ core := c, addr := dAddr o k, data := next (s.desc c o k) }]
   | none => [])

/-- The last of whole words that are written stays. -/
theorem State.peek_wrAll_last (h : s.memoriesWf) (ws : List Wr) {w : Wr} (hw : w.mask = ~~~0) :
    (s.wrAll (ws ++ [w])).peek w.core w.addr = w.data := by
  rw [State.wrAll, List.foldl_append]
  refine (State.peek_wr_same w (State.wrAll_memoriesWf h ws)).trans ?_
  rw [hw]
  exact whole_replaces _ _

section
variable {d : MWord} {next : MWord → MWord}

theorem kvPair_of_next (h : dNext (s.desc c o o.desc.toNat) ≠ 0xFFFF) : s.kvPair c o d next =
    [{ core := c, addr := dAddr o o.desc.toNat, data := d },
     { core := c, addr := dAddr o (dNext (s.desc c o o.desc.toNat)),
       data := next (s.desc c o (dNext (s.desc c o o.desc.toNat))) }] := by
  rw [State.kvPair, kvNext_of_ne h]

theorem kvPair_of_no_next (h : dNext (s.desc c o o.desc.toNat) = 0xFFFF) : s.kvPair c o d next =
    [{ core := c, addr := dAddr o o.desc.toNat, data := d }] := by
  rw [State.kvPair, kvNext_of_eq h]

theorem kvPair_nodup (h : dNext (s.desc c o o.desc.toNat) ≠ o.desc.toNat) : (wrWords (s.kvPair c o d next)).Nodup := by
  by_cases hd : dNext (s.desc c o o.desc.toNat) = 0xFFFF
  · simp [kvPair_of_no_next hd, wrWords]
  · simpa [kvPair_of_next hd, wrWords, dAddr] using h.symm

/-- NEXT's word is written last. -/
theorem peek_kvPair_next (hd : dNext (s.desc c o o.desc.toNat) ≠ 0xFFFF) (hu : u.memoriesWf) :
    (u.wrAll (s.kvPair c o d next)).desc c o (dNext (s.desc c o o.desc.toNat)) =
      next (s.desc c o (dNext (s.desc c o o.desc.toNat))) := by
  rw [kvPair_of_next hd]
  exact State.peek_wrAll_last hu [_] (w := ⟨c, dAddr o (dNext (s.desc c o o.desc.toNat)), _, ~~~0⟩) rfl

/-- DESC's word stays where NEXT is another descriptor. -/
theorem peek_kvPair_desc (h : dNext (s.desc c o o.desc.toNat) ≠ o.desc.toNat) (hu : u.memoriesWf) :
    (u.wrAll (s.kvPair c o d next)).desc c o o.desc.toNat = d :=
  (State.stored_wrAll _ u hu (kvPair_nodup h)).peek_whole (w := ⟨c, dAddr o o.desc.toNat, d, ~~~0⟩) List.mem_cons_self rfl

end

theorem kcommitWrites_eq (s : State) (c : CoreId) (o : KvOp) (n : Nat) : s.kcommitWrites c o n =
    s.kvPair c o (dCommit (s.desc c o o.desc.toNat) (min n (dTlen (s.desc c o o.desc.toNat))))
      (fun w => dCommit w (min (n - min n (dTlen (s.desc c o o.desc.toNat))) (dTlen w))) := rfl

theorem kdiscardWrites_eq (s : State) (c : CoreId) (o : KvOp) : s.kdiscardWrites c o =
    s.kvPair c o (dSetTlen (s.desc c o o.desc.toNat) 0) (fun w => dSetTlen w 0) := rfl

theorem kcommitWrites_nodup (h : dNext (s.desc c o o.desc.toNat) ≠ o.desc.toNat) : (wrWords (s.kcommitWrites c o n)).Nodup := by
  rw [kcommitWrites_eq]
  exact kvPair_nodup h

theorem peek_kcommit_desc (h : dNext (s.desc c o o.desc.toNat) ≠ o.desc.toNat) (hu : u.memoriesWf) :
    (u.wrAll (s.kcommitWrites c o n)).desc c o o.desc.toNat =
      dCommit (s.desc c o o.desc.toNat) (min n (dTlen (s.desc c o o.desc.toNat))) := by
  rw [kcommitWrites_eq, peek_kvPair_desc h hu]

theorem peek_kcommit_next (hd : dNext (s.desc c o o.desc.toNat) ≠ 0xFFFF) (hu : u.memoriesWf) :
    (u.wrAll (s.kcommitWrites c o n)).desc c o (dNext (s.desc c o o.desc.toNat)) =
      dCommit (s.desc c o (dNext (s.desc c o o.desc.toNat))) (min (n - min n (dTlen (s.desc c o o.desc.toNat)))
        (dTlen (s.desc c o (dNext (s.desc c o o.desc.toNat))))) := by
  rw [kcommitWrites_eq, peek_kvPair_next hd hu]

theorem peek_kdiscard_next (hd : dNext (s.desc c o o.desc.toNat) ≠ 0xFFFF) (hu : u.memoriesWf) :
    (u.wrAll (s.kdiscardWrites c o)).desc c o (dNext (s.desc c o o.desc.toNat)) =
      dSetTlen (s.desc c o (dNext (s.desc c o o.desc.toNat))) 0 := by
  rw [kdiscardWrites_eq, peek_kvPair_next hd hu]

/-- What KDISCARD makes of NEXT, where that is DESC itself, it makes of DESC. -/
theorem peek_kdiscard_desc (hu : u.memoriesWf) :
    (u.wrAll (s.kdiscardWrites c o)).desc c o o.desc.toNat = dSetTlen (s.desc c o o.desc.toNat) 0 := by
  by_cases h : dNext (s.desc c o o.desc.toNat) = o.desc.toNat
  · by_cases hd : dNext (s.desc c o o.desc.toNat) = 0xFFFF
    · rw [kdiscardWrites_eq, kvPair_of_no_next hd]
      exact State.peek_wrAll_last hu [] (w := ⟨c, dAddr o o.desc.toNat, _, ~~~0⟩) rfl
    · have hnext := peek_kdiscard_next hd hu
      rwa [h] at hnext
  · rw [kdiscardWrites_eq, peek_kvPair_desc h hu]

theorem mem_kvPair {w : Wr} {d : MWord} {next : MWord → MWord} (h : w ∈ s.kvPair c o d next) :
    w = { core := c, addr := dAddr o o.desc.toNat, data := d } ∨
      dNext (s.desc c o o.desc.toNat) ≠ 0xFFFF ∧ w =
        { core := c, addr := dAddr o (dNext (s.desc c o o.desc.toNat)),
          data := next (s.desc c o (dNext (s.desc c o o.desc.toNat))) } := by
  by_cases hd : dNext (s.desc c o o.desc.toNat) = 0xFFFF
  · rw [kvPair_of_no_next hd, List.mem_singleton] at h
    exact .inl h
  · rw [kvPair_of_next hd, List.mem_cons, List.mem_singleton] at h
    exact h.imp_right (And.intro hd)

theorem stored_kdiscardWrites (hu : u.memoriesWf) : u.stored (u.wrAll (s.kdiscardWrites c o)) (s.kdiscardWrites c o) := by
  refine ⟨fun w hw => ?_, fun x a h => State.peek_wrAll_other _ u hu x a h⟩
  obtain rfl | ⟨hd, rfl⟩ := mem_kvPair (kdiscardWrites_eq s c o ▸ hw)
  · rw [whole_replaces]
    exact peek_kdiscard_desc hu
  · rw [whole_replaces]
    exact peek_kdiscard_next hd hu

/-- What is stored stays, whatever an issue does after it. -/
theorem storesAnd_issueKeeps {k : Core} {ws : List Wr} (h : storesAnd s t c k ws) (hk : t.issueKeeps u) :
    storesAnd s u c k ws := by
  obtain ⟨hout, hstored, hcore, hother⟩ := h
  exact ⟨hout.trans hk.outside, State.stored_congr hstored (fun _ _ => rfl) hk.words,
    (hk.storeKeeps.beside c).trans hcore, fun x hx => (hk.storeKeeps.beside x).trans (hother x hx)⟩

theorem storesAnd_of_stored (h : s.issueKeeps u) {ws : List Wr} (hs : u.stored (u.wrAll ws) ws) :
    storesAnd s (u.wrAll ws) c (s.core c) ws := by
  have hk : s.storeKeeps (u.wrAll ws) := h.storeKeeps.trans (State.storeKeeps_wrAll ws u)
  exact ⟨hk.outside, State.stored_congr hs h.words fun _ _ => rfl, hk.beside c, fun x _ => hk.beside x⟩

/-! What the instructions do. -/

theorem exec_kappend (hr : s.Ready qKv i) {ws : List Wr} (hws : s.kappendWrites i.core m o (s.kvCount i.core o) = ws)
    (hf : kvFieldsOk s i.core o) (hn : o.cntInd = false → o.n.toNat ≤ 64) (hm : s.sel i.core o.ssel = some m)
    (h0 : s.kvCount i.core o ≠ 0) (hdesc : s.kappendDesc i.core o (s.kvCount i.core o) = none)
    (hnext : s.kappendNext i.core o (s.kvCount i.core o) = none)
    (hu : calm s ∨ usable s (kvCountRead i.core o ++ s.kvDescReads i.core o ++
      wordsAt m o.srcaddr.toNat (s.kvCount i.core o * o.roww.toNat) ++
      wordsAt m o.tokaddr.toNat (wordsFor (s.kvCount i.core o) 32) ++ wrPartial ws) (wrWords ws)) :
    ∃ u, s.issueKeeps u ∧ exec (.kappend i o) s = .next (u.wrAll ws) := by
  subst hws
  have hp := kappendPlan_eq (i := i) hf hn hm h0 hdesc hnext
  obtain ⟨u, hk, hx⟩ := State.present_keeps (op := 0xC0) (plan := State.kappendPlan i o) hr (by rw [hp]; rfl)
    (by rw [hp]; rfl) (fun x hx => by
      rw [hp] at hx
      simp only [Todo.first, List.mem_append, List.not_mem_nil, or_false] at hx
      simp only [State.kvDescReads, List.mem_append]
      obtain h | h | h := hx <;> simp [h]) hu
  exact ⟨u, hk, congrArg Host.Outcome.next hx⟩

theorem exec_kdiscard (hr : s.Ready qKv i) (hf : kvFieldsOk s i.core o) (hnext : kvNextOk s i.core o)
    (hu : calm s ∨ usable s (s.kvDescReads i.core o) (wrWords (s.kdiscardWrites i.core o))) :
    ∃ u, s.issueKeeps u ∧ exec (.kdiscard i o) s = .next (u.wrAll (s.kdiscardWrites i.core o)) := by
  have hp := kdiscardPlan_eq (i := i) hf hnext
  obtain ⟨u, hk, hx⟩ := State.present_keeps (op := 0xC2) (plan := State.kdiscardPlan i o) hr (by rw [hp]; rfl)
    (by rw [hp]; rfl) (fun x hx => by
      rw [hp] at hx
      simp only [Todo.first, List.append_nil] at hx
      exact List.mem_append_left _ hx) hu
  exact ⟨u, hk, congrArg Host.Outcome.next hx⟩

theorem kvTentative_congr (h : s.sameWords u) : u.kvTentative c o = s.kvTentative c o := by
  have hd : ∀ n, u.desc c o n = s.desc c o n := fun n => h _ _
  simp only [State.kvTentative, hd]

/-- KCOMMIT writes its descriptors, and logs EV_KV_COUNT where its count was clamped. -/
theorem exec_kcommit (hr : s.Ready qKv i) {n : Nat} (hcount : s.kvCount i.core o = n) (hf : kvFieldsOk s i.core o)
    (hn : o.cntInd = false → o.n.toNat ≤ 64) (h0 : n ≠ 0) (hnext : kvNextOk s i.core o)
    (hu : calm s ∨ usable s (kvCountRead i.core o ++ s.kvDescReads i.core o) (wrWords (s.kcommitWrites i.core o n))) :
    ∃ u t, s.issueKeeps u ∧ exec (.kcommit i o) s = .next t ∧ (u.wrAll (s.kcommitWrites i.core o n)).issueKeeps t ∧
      (s.kvTentative i.core o < n → loggedAfter s t 0x000C (srcCore i.core) o.desc.toNat n 0 0) := by
  subst hcount
  have hp := kcommitPlan_eq (i := i) hf hn h0 hnext
  have hreads : ofCores i.core i.core (kvCountRead i.core o ++ s.kvDescReads i.core o) :=
    ofCores_append.2 ⟨ofCores_kvCountRead, ofCores_append.2 ⟨ofCores_kvDescRead, ofCores_kvNextRead⟩⟩
  obtain ⟨u, hk, hlen, hx⟩ := State.present_keeps_room (op := 0xC1) (plan := State.kcommitPlan i o) hr (by rw [hp]; rfl)
    (by rw [hp]; rfl) (fun x hx => by
      rw [hp] at hx
      simp only [Todo.first, List.append_nil] at hx
      exact (List.mem_append.1 hx).elim (List.mem_append_left _)
        fun hx => List.mem_append_right _ (List.mem_append_left _ hx)) hreads hu
  refine ⟨u, _, hk, congrArg Host.Outcome.next hx, ?_, fun h => ?_⟩
  · split
    · exact State.issueKeeps_log _ ..
    · exact .refl _
  · rw [if_pos (by rwa [kvTentative_congr hk.words])]
    exact State.loggedAfter_log u _ hlen (State.wrAll_evlog _ u) 0x000C (srcCore i.core) o.desc.toNat (s.kvCount i.core o) 0 0

end

/-- Settles O28: appending stores the joined writes of its rows and descriptors; committing and discarding store the word
of DESC and then that of NEXT, which is the later one where both are one word. -/
theorem kvBlocksAppendAndCommit : Obligations.KvBlocksAppendAndCommit := by
  refine ⟨fun w n h => ?_, fun i o s hr hwf hf => ⟨fun hn h0 hu => ?_, fun m hm hn => ?_, fun hnext hn h0 => ?_,
    fun hnext => ?_⟩⟩
  · obtain ⟨hc, ht, hfull⟩ := dCommit_fields w n h
    exact ⟨hc, ht, hfull, kvSameBeside_dCommit w n, dTlen_dSetTlen w n (by omega), dClen_dSetTlen w n, dFull_dSetTlen w n,
      kvSameBeside_dSetTlen w n⟩
  · exact ⟨⟨_, rfl, State.present_kvIdle hr (kappendPlan_idle hf hn h0) hu⟩,
      _, rfl, State.present_kvIdle hr (kcommitPlan_idle hf hn h0) hu⟩
  · intro hnext h0 hlen hle hmore hfirst hsrc htok hown hother ws hu
    obtain ⟨u, hk, hx⟩ := exec_kappend hr rfl hf hn hm h0 (kappendDesc_pass hnext hlen hle hmore hsrc htok hown)
      (kappendNext_pass hfirst hother) hu
    exact ⟨_, hx, storesAnd_wrAll hk hwf (wrJoin_nodup _)⟩
  · intro ws hu
    obtain ⟨u, t, hk, hx, ht, hlog⟩ := exec_kcommit hr rfl hf hn h0 hnext hu
    have hu' := hk.memoriesWf hwf
    refine ⟨t, hx, fun hne => ⟨storesAnd_issueKeeps (storesAnd_wrAll hk hwf (kcommitWrites_nodup hne)) ht, ?_⟩, fun hd => ?_,
      fun x a ha => ?_, hlog⟩
    · exact (ht.words _ _).trans (peek_kcommit_desc hne hu')
    · exact (ht.words _ _).trans (peek_kcommit_next hd hu')
    · rw [ht.words, State.peek_wrAll_other ws u hu' x a ha, hk.words]
  · intro ws hu
    obtain ⟨u, hk, hx⟩ := exec_kdiscard hr hf hnext hu
    have hu' := hk.memoriesWf hwf
    exact ⟨_, hx, storesAnd_of_stored hk (stored_kdiscardWrites hu'), peek_kdiscard_desc hu', fun hd => peek_kdiscard_next hd hu'⟩

end Sys2Proof.Machine
end

section
/-! PROOF. KHASH, KFIND and KREF (R153 to R156): what lets them run, and what they store and count. -/

namespace Sys2Proof.Machine

open Claims

section
variable {s t u : State} {i : Issue} {o : KvOp} {c m : CoreId} {n : Nat}

/-! What they take from memory depends on its words alone. -/

theorem State.sameWords.peek_eq (h : s.sameWords u) : u.peek = s.peek := funext fun x => funext fun a => h x a

theorem kvTokens_congr (h : s.sameWords u) : u.kvTokens = s.kvTokens := by
  have hu : u.u32At = s.u32At := by
    funext x a k
    simp only [State.u32At, h.peek_eq]
  funext x a
  simp only [State.kvTokens, hu]

theorem desc_congr (h : s.sameWords u) : u.desc = s.desc := by
  funext x o n
  exact h _ _

theorem kvParent_congr (h : s.sameWords u) : u.kvParent c o = s.kvParent c o := by
  simp only [State.kvParent, desc_congr h]

theorem kvFree_congr (h : s.sameWords u) : u.kvFree c o = s.kvFree c o := by
  funext x
  simp only [State.kvFree, h.peek_eq]

theorem kvEntryOf_congr (h : s.sameWords u) : u.kvEntryOf c o = s.kvEntryOf c o := by
  funext x
  simp only [State.kvEntryOf, h.peek_eq]

theorem kvFound_congr (h : s.sameWords u) : u.kvFound c m o = s.kvFound c m o := by
  have heq : u.kvEqual c o = s.kvEqual c o := by
    funext toks d
    simp only [State.kvEqual, kvTokens_congr h, desc_congr h]
  have hcand : u.kvCandidates c o = s.kvCandidates c o := by
    funext x ns
    simp only [State.kvCandidates, h.peek_eq]
  simp only [State.kvFound, h.peek_eq, kvTokens_congr h, kvParent_congr h, heq, hcand]

/-! What lets them run (R134, R153, R154). -/

theorem kvIndexRej_pass (h : kvIndexOk s c o) : ∀ x ∈ kvIndexRej o, x.1 = false := by
  obtain ⟨⟨-, -, -, h16, -⟩, hix⟩ := h
  simp only [kvIndexRej, List.forall_mem_singleton, pastMem, Nat.min_eq_left h16]
  exact decide_eq_false fun hx => absurd hx.2 (by omega)

theorem kvParentRej_pass (h : o.parent ≠ 0xFFFF → dAddr o o.parent.toNat < 2 ^ 20) : ∀ x ∈ kvParentRej o, x.1 = false := by
  simp only [kvParentRej, List.forall_mem_singleton, Bool.and_eq_false_iff, decide_eq_false_iff_not]
  by_cases hp : o.parent = 0xFFFF
  · exact .inl (not_not.2 hp)
  · exact .inr (pastMem_one (h hp))

theorem pastMem_of_le {a n : Nat} (h : a + n ≤ 2 ^ 20) : pastMem a n = false :=
  decide_eq_false fun hx => absurd hx.2 (by omega)

/-! KHASH (R155). -/

theorem khashReject_pass (h : kvIndexOk s c o) (hp : o.parent ≠ 0xFFFF → dAddr o o.parent.toNat < 2 ^ 20) :
    firstReason (s.kvCommon c o ++ kvIndexRej o ++ kvParentRej o) = none := by
  rw [firstReason_eq_none, List.forall_mem_append, List.forall_mem_append]
  exact ⟨⟨kvCommon_pass h.1, kvIndexRej_pass h⟩, kvParentRej_pass hp⟩

theorem khashPlan_idle (h : kvIndexOk s i.core o) (hp : o.parent ≠ 0xFFFF → dAddr o o.parent.toNat < 2 ^ 20)
    (hd : dFull (s.desc i.core o o.desc.toNat) = false ∨ dHashed (s.desc i.core o o.desc.toNat) = true) :
    State.khashPlan i o s = .need (kvDescRead i.core o) (.run (kvDescRead i.core o) [] (fun _ => .now) (fun s => s)) := by
  simp only [State.khashPlan, khashReject_pass h hp, Todo.unless, hd, if_true]

/-- The hash that KHASH gives to DESC. -/
def State.kvOwnHash (s : State) (c : CoreId) (o : KvOp) : BitVec 128 :=
  kvHash (s.kvParent c o) (dSpace (s.desc c o o.desc.toNat)) (s.kvTokens c (dBase (s.desc c o o.desc.toNat)))

theorem khashPlan_eq (h : kvIndexOk s i.core o) (hp : o.parent ≠ 0xFFFF → dAddr o o.parent.toNat < 2 ^ 20)
    (hfull : dFull (s.desc i.core o o.desc.toNat) = true) (hhash : dHashed (s.desc i.core o o.desc.toNat) = false)
    (hparent : o.parent ≠ 0xFFFF → dHashed (s.desc i.core o o.parent.toNat) = true)
    (hbase : dBase (s.desc i.core o o.desc.toNat) + 8 ≤ 2 ^ 20) :
    State.khashPlan i o s = .need (kvDescRead i.core o) (.need (kvParentRead i.core o)
      (.run (kvDescRead i.core o ++ kvParentRead i.core o ++ wordsAt i.core (dBase (s.desc i.core o o.desc.toNat)) 8 ++
        (List.range 8).map (fun k => (i.core, kvProbe o (s.kvOwnHash i.core o) k)))
        (kvDescRead i.core o) (fun _ => .now) (State.khashEffect i.core o))) := by
  have hpar : (decide (o.parent ≠ 0xFFFF) && !dHashed (s.desc i.core o o.parent.toNat)) = false := by
    by_cases hx : o.parent = 0xFFFF
    · simp [hx]
    · simp [hparent hx]
  simp only [State.khashPlan, khashReject_pass h hp, Todo.unless, hfull, hhash, firstReason_singleton.2 (pastMem_of_le hbase),
    firstReason_singleton.2 hpar, Bool.false_eq_true, Bool.true_eq_false, or_self, if_false]
  rfl

/-- DESC's word with the hash. -/
def State.kvHashedDesc (s : State) (c : CoreId) (o : KvOp) : MWord :=
  dSetHashed (dSetHash (s.desc c o o.desc.toNat) (s.kvOwnHash c o)) true

theorem State.wr_whole (s : State) (c : CoreId) (a : Nat) (w : MWord) : s.wr { core := c, addr := a, data := w } = s.poke c a w :=
  if_pos rfl

theorem khashEffect_slot (h : s.sameWords u) {a : Nat} (hf : s.kvFree c o (s.kvOwnHash c o) = some a) :
    State.khashEffect c o u = u.wrAll [{ core := c, addr := dAddr o o.desc.toNat, data := s.kvHashedDesc c o },
      { core := c, addr := a, data := ixEntry (s.kvOwnHash c o) o.desc.toNat (dSpace (s.desc c o o.desc.toNat)) }] := by
  rw [State.kvOwnHash] at hf
  simp only [State.khashEffect, desc_congr h, kvParent_congr h, kvTokens_congr h, kvFree_congr h, hf, State.kvHashedDesc,
    State.kvOwnHash, State.wrAll, List.foldl, State.wr_whole]

theorem khashEffect_full (h : s.sameWords u) (hf : s.kvFree c o (s.kvOwnHash c o) = none) :
    State.khashEffect c o u = ((u.wrAll [{ core := c, addr := dAddr o o.desc.toNat, data := s.kvHashedDesc c o }]).modCore c
      (fun k => { k with indexFull := satAdd k.indexFull 1 })).log 0x000D (srcCore c) o.desc.toNat 0 0 0 := by
  rw [State.kvOwnHash] at hf
  simp only [State.khashEffect, desc_congr h, kvParent_congr h, kvTokens_congr h, kvFree_congr h, hf, State.kvHashedDesc,
    State.kvOwnHash, State.wrAll, List.foldl, State.wr_whole]

theorem extract_wordSetField_self (w : MWord) {lo n : Nat} (h : lo + n ≤ 256) (v : BitVec n) :
    (wordSetField w lo n v.toNat).extractLsb' lo n = v := by
  apply BitVec.eq_of_getLsbD_eq
  intro k hk
  rw [BitVec.getLsbD_extractLsb', getLsbD_wordSetField]
  simp [hk, show lo + k < 256 by omega, BitVec.getLsbD]

theorem dHash_dSetHashed (w : MWord) (x : BitVec 128) (b : Bool) : dHash (dSetHashed (dSetHash w x) b) = x :=
  (extract_wordSetField_apart _ _ (by decide) (by decide)).trans (extract_wordSetField_self w (by decide) x)

theorem dHashed_dSetHashed (w : MWord) : dHashed (dSetHashed w true) = true := by
  rw [dHashed, dSetHashed, wordField_wordSetField_self w (by decide) (by decide)]
  rfl

theorem kvHashedDesc_fields (s : State) (c : CoreId) (o : KvOp) :
    dHash (s.kvHashedDesc c o) = s.kvOwnHash c o ∧ dHashed (s.kvHashedDesc c o) = true :=
  ⟨dHash_dSetHashed _ _ _, dHashed_dSetHashed _⟩

/-- A slot of the index is one of the probes. -/
theorem kvFree_probe {x : BitVec 128} {a : Nat} (h : s.kvFree c o x = some a) : ∃ k < 8, a = kvProbe o x k := by
  obtain ⟨k, hk, rfl⟩ := List.mem_map.1 (List.mem_of_find?_eq_some h)
  exact ⟨k, List.mem_range.1 hk, rfl⟩

theorem exec_khash (hr : s.Ready qKv i) (h : kvIndexOk s i.core o) (hp : o.parent ≠ 0xFFFF → dAddr o o.parent.toNat < 2 ^ 20)
    (hfull : dFull (s.desc i.core o o.desc.toNat) = true) (hhash : dHashed (s.desc i.core o o.desc.toNat) = false)
    (hparent : o.parent ≠ 0xFFFF → dHashed (s.desc i.core o o.parent.toNat) = true)
    (hbase : dBase (s.desc i.core o o.desc.toNat) + 8 ≤ 2 ^ 20)
    (hu : calm s ∨ usable s (kvDescRead i.core o ++ kvParentRead i.core o ++
      wordsAt i.core (dBase (s.desc i.core o o.desc.toNat)) 8 ++
      (List.range 8).map (fun k => (i.core, kvProbe o (s.kvOwnHash i.core o) k))) (kvDescRead i.core o)) :
    ∃ u, s.issueKeeps u ∧ u.evlog.queue.length ≤ s.evlog.queue.length + 3 ∧
      exec (.khash i o) s = .next (State.khashEffect i.core o u) := by
  have hplan := khashPlan_eq (i := i) h hp hfull hhash hparent hbase
  have hreads : ofCores i.core i.core (kvDescRead i.core o ++ kvParentRead i.core o ++
      wordsAt i.core (dBase (s.desc i.core o o.desc.toNat)) 8 ++
      (List.range 8).map (fun k => (i.core, kvProbe o (s.kvOwnHash i.core o) k))) :=
    ofCores_append.2 ⟨ofCores_append.2 ⟨ofCores_append.2 ⟨ofCores_kvDescRead, ofCores_kvParentRead⟩,
      ofCores_wordsAt_own _ _⟩, ofCores_map _ _ fun _ => .inl rfl⟩
  obtain ⟨u, hk, hlen, hx⟩ := State.present_keeps_room (op := 0xC3) (plan := State.khashPlan i o) hr (by rw [hplan]; rfl)
    (by rw [hplan]; rfl) (fun x hx => by
      rw [hplan] at hx
      simp only [Todo.first, List.append_nil] at hx
      exact List.mem_append_left _ (List.mem_append_left _ hx)) hreads hu
  exact ⟨u, hk, hlen, congrArg Host.Outcome.next hx⟩

/-- Where a probe is free, KHASH writes DESC and its entry. -/
theorem khash_slot (hk : s.issueKeeps u) (hwf : s.memoriesWf) {a : Nat} (hf : s.kvFree c o (s.kvOwnHash c o) = some a)
    (ha : a ≠ dAddr o o.desc.toNat) : storesAnd s (State.khashEffect c o u) c (s.core c)
      [{ core := c, addr := dAddr o o.desc.toNat, data := s.kvHashedDesc c o },
       { core := c, addr := a, data := ixEntry (s.kvOwnHash c o) o.desc.toNat (dSpace (s.desc c o o.desc.toNat)) }] := by
  rw [khashEffect_slot hk.words hf]
  refine storesAnd_wrAll hk hwf ?_
  simpa [wrWords] using ha.symm

/-- Where none is, it writes DESC and counts. -/
theorem khash_full (hk : s.issueKeeps u) (hwf : s.memoriesWf) (hf : s.kvFree c o (s.kvOwnHash c o) = none) :
    storesAnd s (State.khashEffect c o u) c { s.core c with indexFull := satAdd (s.core c).indexFull 1 }
      [{ core := c, addr := dAddr o o.desc.toNat, data := s.kvHashedDesc c o }] := by
  rw [khashEffect_full hk.words hf]
  refine storesAnd_issueKeeps ?_ (State.issueKeeps_log _ ..)
  exact storesAnd_modCore (f := fun k => { k with indexFull := satAdd k.indexFull 1 })
    (storesAnd_wrAll hk hwf (List.nodup_singleton _)) (fun _ => rfl) fun _ => rfl

/-- What KHASH makes of DESC, the index and the count. -/
theorem khash_effect (hk : s.issueKeeps u) (hwf : s.memoriesWf) (hlen : u.evlog.queue.length ≤ s.evlog.queue.length + 3)
    (hprobe : ∀ x < 8, kvProbe o (s.kvOwnHash c o) x ≠ dAddr o o.desc.toNat) :
    let t := State.khashEffect c o u
    let free := s.kvFree c o (s.kvOwnHash c o)
    s.sameOutside t ∧
    (∀ x : CoreId, (t.core x).besideWords = (if x = c ∧ free = none then
      { s.core c with indexFull := satAdd (s.core c).indexFull 1 }.besideWords else (s.core x).besideWords)) ∧
    dHash (t.desc c o o.desc.toNat) = s.kvOwnHash c o ∧ dHashed (t.desc c o o.desc.toNat) = true ∧
    (∀ a, free = some a → t.peek c a = ixEntry (s.kvOwnHash c o) o.desc.toNat (dSpace (s.desc c o o.desc.toNat))) ∧
    (free = none → loggedAfter s t 0x000D (srcCore c) o.desc.toNat 0 0 0) ∧
    (∀ (x : CoreId) (a : Nat), (x, a) ≠ (c, dAddr o o.desc.toNat) → (x = c → free ≠ some a) → t.peek x a = s.peek x a) := by
  intro t free
  obtain ⟨hfields, hmark⟩ := kvHashedDesc_fields s c o
  cases hfree : free with
  | some a =>
    obtain ⟨n, hn, rfl⟩ := kvFree_probe hfree
    obtain ⟨hout, hstored, hcore, hother⟩ := khash_slot hk hwf hfree (hprobe n hn)
    have hdesc : t.desc c o o.desc.toNat = s.kvHashedDesc c o := hstored.peek_whole List.mem_cons_self rfl
    refine ⟨hout, fun x => ?_, by rw [hdesc, hfields], by rw [hdesc, hmark], fun a ha => ?_, nofun, fun x a hd ha => ?_⟩
    · rw [if_neg fun hx => nomatch hx.2]
      by_cases hx : x = c
      · rw [hx, hcore]
      · exact hother x hx
    · obtain rfl := Option.some.inj ha
      exact hstored.peek_whole (List.mem_cons_of_mem _ List.mem_cons_self) rfl
    · refine hstored.2 x a ?_
      simp only [wrWords, List.map, List.mem_cons, List.not_mem_nil, or_false, not_or]
      exact ⟨hd, fun e => ha (congrArg Prod.fst e) (congrArg some (congrArg Prod.snd e).symm)⟩
  | none =>
    obtain ⟨hout, hstored, hcore, hother⟩ := khash_full hk hwf hfree
    have hdesc : t.desc c o o.desc.toNat = s.kvHashedDesc c o := hstored.peek_whole List.mem_cons_self rfl
    refine ⟨hout, fun x => ?_, by rw [hdesc, hfields], by rw [hdesc, hmark], nofun, fun _ => ?_, fun x a hd _ => ?_⟩
    · by_cases hx : x = c
      · rw [if_pos ⟨hx, rfl⟩, hx, hcore]
      · rw [if_neg fun h => hx h.1, hother x hx]
    · have ht : t = _ := khashEffect_full hk.words hfree
      rw [ht]
      refine State.loggedAfter_log u _ hlen ?_ 0x000D (srcCore c) o.desc.toNat 0 0 0
      exact State.wrAll_evlog [_] u
    · refine hstored.2 x a ?_
      simpa only [wrWords, List.map, List.mem_singleton] using hd

/-! KFIND (R155). -/

theorem kfindReject_pass (h : kvIndexOk s c o) (hp : o.parent ≠ 0xFFFF → dAddr o o.parent.toNat < 2 ^ 20)
    (hsrc : o.srcaddr.toNat + 8 ≤ 2 ^ 20) :
    firstReason (s.kvCommon c o ++ kvIndexRej o ++ kvParentRej o ++ [(pastMem o.srcaddr.toNat 8, 3)]) = none := by
  rw [firstReason_append_eq_none, khashReject_pass h hp, firstReason_singleton]
  exact ⟨rfl, pastMem_of_le hsrc⟩

theorem kvCand_pass {cand : List Nat} (h : kvCandsOk s c o cand) : kvCandRej o cand = none ∧
    firstReason [(cand.any (fun d => pastMem (dBase (s.desc c o d)) 8), 3)] = none := by
  simp only [kvCandRej, firstReason_singleton, List.any_eq_false]
  exact ⟨fun d hd => by simp [(h d hd).1, pastMem_one (h d hd).2.1], fun d hd => by simp [pastMem_of_le (h d hd).2.2]⟩

/-- A KFIND that nothing rejects reads the argument words, the probes, the descriptors and their IDs. -/
theorem kfindPlan_last (h : kvIndexOk s i.core o) (hm : s.sel i.core o.ssel = some m)
    (hp : o.parent ≠ 0xFFFF → dAddr o o.parent.toNat < 2 ^ 20) (hsrc : o.srcaddr.toNat + 8 ≤ 2 ^ 20)
    (hcand : let ns := (wordLane (s.peek i.core o.cntaddr.toNat) 1).toNat
      kvCandsOk s i.core o (s.kvCandidates i.core o (kvHash (s.kvParent i.core o) ns (s.kvTokens m o.srcaddr.toNat)) ns)) :
    (State.kfindPlan i o s).soft = [] ∧ ∃ reads, (State.kfindPlan i o s).last =
      .run reads [(i.core, o.cntaddr.toNat)] (fun _ => .now) (State.kfindEffect i.core m o) := by
  obtain ⟨hc, hb⟩ := kvCand_pass hcand
  simp only [State.kfindPlan, kfindReject_pass h hp hsrc, Todo.unless, hm, hc, hb]
  exact ⟨rfl, _, rfl⟩

/-- Writes to words that are all different, on a state that has changed a core beside its words. -/
theorem storesAnd_wrAll_of {k : Core} {ws : List Wr} (h : storesAnd s u c k []) (hu : u.memoriesWf) (hn : (wrWords ws).Nodup) :
    storesAnd s (u.wrAll ws) c k ws := by
  obtain ⟨hout, hstored, hcore, hother⟩ := h
  have hk := State.storeKeeps_wrAll ws u
  exact ⟨hout.trans hk.outside, State.stored_congr (State.stored_wrAll ws u hu hn) (fun x a => hstored.2 x a nofun) fun _ _ => rfl,
    (hk.beside c).trans hcore, fun x hx => (hk.beside x).trans (hother x hx)⟩

/-- The state in which KFIND has counted its false matches. -/
def State.kvCounted (s : State) (c : CoreId) (n : Nat) : State :=
  s.modCore c (fun k => { k with hashFalse := satAdd k.hashFalse n })

theorem storesAnd_kvCounted (hk : s.issueKeeps u) (n : Nat) : storesAnd s (u.kvCounted c n) c
    { s.core c with hashFalse := satAdd (s.core c).hashFalse n } [] :=
  storesAnd_modCore (f := fun k => { k with hashFalse := satAdd k.hashFalse n }) (hk.storesAnd c) (fun _ => rfl) fun _ => rfl

theorem kvCounted_memoriesWf (hu : u.memoriesWf) (n : Nat) : (u.kvCounted c n).memoriesWf := by
  intro x
  rw [State.kvCounted, State.core_modCore]
  split
  · exact hu c
  · exact hu x

/-- The word that KFIND answers in (R155). -/
theorem kfindEffect_none (h : s.sameWords u) (hf : (s.kvFound c m o).2 = none) : State.kfindEffect c m o u =
    (u.kvCounted c (s.kvFound c m o).1).wrAll [kvResult c o 0xFFFFFFFF] := by
  simp only [State.kfindEffect, kvFound_congr h, hf]
  rfl

theorem kfindEffect_some (h : s.sameWords u) (hf : (s.kvFound c m o).2 = some n) : State.kfindEffect c m o u =
    (u.kvCounted c (s.kvFound c m o).1).wrAll
      [{ core := c, addr := dAddr o n, data := dSetRefs (s.desc c o n) (min 65535 (dRefs (s.desc c o n) + 1)) },
       kvResult c o n] := by
  have hdesc : (u.modCore c (fun k => { k with hashFalse := satAdd k.hashFalse (s.kvFound c m o).1 })).desc c o n =
      s.desc c o n := (storesAnd_kvCounted (State.issueKeeps.refl u) (s.kvFound c m o).1).2.1.2 c (dAddr o n) nofun |>.trans (h _ _)
  simp only [State.kfindEffect, kvFound_congr h, hf, hdesc, State.wrAll, List.foldl, State.wr_whole]
  rfl

/-! KREF (R155). -/

/-- Whether the REFS of a KREF's descriptor reach 0, and its index entry. -/
def State.krefDead (s : State) (c : CoreId) (o : KvOp) : Option Nat :=
  if dHashed (s.desc c o o.desc.toNat) then s.kvEntryOf c o (s.desc c o o.desc.toNat) else none

/-- REFS after a KREF. -/
def State.krefRefs (s : State) (c : CoreId) (o : KvOp) : Int := max 0 (min 65535 (kvRefSum o (s.desc c o o.desc.toNat)))

/-- EV_KV_COUNT where REFS were clamped at 0. -/
def State.krefLogged (s : State) (c : CoreId) (o : KvOp) : State :=
  if kvRefSum o (s.desc c o o.desc.toNat) < 0 then s.kvClamped c o (BitVec.ofInt 32 o.delta.toInt).toNat else s

theorem krefPlan_eq (h : kvIndexOk s i.core o) : State.krefPlan i o s = .need (kvDescRead i.core o)
    (.run (kvDescRead i.core o ++ [(i.core, o.cntaddr.toNat)] ++
      (if kvRefSum o (s.desc i.core o o.desc.toNat) ≤ 0 ∧ dHashed (s.desc i.core o o.desc.toNat) then
        (List.range 8).map (fun k => (i.core, kvProbe o (dHash (s.desc i.core o o.desc.toNat)) k)) else []))
      [(i.core, dAddr o o.desc.toNat), (i.core, o.cntaddr.toNat)] (fun _ => .now) (State.krefEffect i.core o)) := by
  have hrej : firstReason (s.kvCommon i.core o ++ kvIndexRej o) = none := by
    rw [firstReason_eq_none, List.forall_mem_append]
    exact ⟨kvCommon_pass h.1, kvIndexRej_pass h⟩
  simp only [State.krefPlan, hrej, Todo.unless]

theorem State.issueKeeps_krefLogged (s : State) (c : CoreId) (o : KvOp) : s.issueKeeps (s.krefLogged c o) := by
  unfold State.krefLogged
  split
  · exact State.issueKeeps_log ..
  · exact .refl s

/-- REFS above 0 are stored, and the answer is none. -/
theorem krefEffect_live (h : s.sameWords u) (hr : s.krefRefs c o ≠ 0) : State.krefEffect c o u =
    (u.krefLogged c o).wrAll
      [{ core := c, addr := dAddr o o.desc.toNat, data := dSetRefs (s.desc c o o.desc.toNat) (s.krefRefs c o).toNat },
       kvResult c o 0xFFFFFFFF] := by
  have hpos : (s.krefRefs c o).toNat ≠ 0 := by
    have : 0 ≤ s.krefRefs c o := le_max_left _ _
    omega
  rw [State.krefRefs] at hpos
  simp only [State.krefEffect, desc_congr h, hpos, if_false, State.krefLogged, State.krefRefs, State.wrAll, List.foldl,
    State.wr_whole]

/-- At 0 the mark and the index entry go, and the answer is DESC. -/
theorem krefEffect_dead (h : s.sameWords u) (hu : u.memoriesWf) (hr : s.krefRefs c o = 0)
    (hne : ∀ a, s.krefDead c o = some a → a ≠ dAddr o o.desc.toNat) : State.krefEffect c o u =
    (u.krefLogged c o).wrAll
      ({ core := c, addr := dAddr o o.desc.toNat, data := dSetHashed (dSetRefs (s.desc c o o.desc.toNat) 0) false } ::
      ((s.krefDead c o).toList.map (fun a => { core := c, addr := a, data := wordSetField (s.peek c a) 144 8 2 }) ++
      [kvResult c o o.desc.toNat])) := by
  have hzero : (max 0 (min 65535 (kvRefSum o (s.desc c o o.desc.toNat)))).toNat = 0 := by
    rw [← State.krefRefs, hr]
    rfl
  have hdead : (if dHashed (s.desc c o o.desc.toNat) then (u.krefLogged c o).kvEntryOf c o (s.desc c o o.desc.toNat) else none) =
      s.krefDead c o := by
    rw [kvEntryOf_congr fun x a => ((u.issueKeeps_krefLogged c o).words x a).trans (h x a)]
    rfl
  rw [State.krefLogged, desc_congr h] at hdead
  cases hd : s.krefDead c o with
  | none =>
    rw [hd] at hdead
    simp only [State.krefEffect, desc_congr h, hzero, if_true, hdead, State.krefLogged]
    rfl
  | some a =>
    rw [hd] at hdead
    simp only [State.krefEffect, desc_congr h, hzero, if_true, hdead, State.krefLogged]
    have hk := u.issueKeeps_krefLogged c o
    have hpeek : ∀ w, ((u.krefLogged c o).poke c (dAddr o o.desc.toNat) w).peek c a = s.peek c a := fun w =>
      (State.peek_poke_other _ _ _ _ _ _ (hk.memoriesWf hu c) fun e => hne a hd (congrArg Prod.snd e)).trans
        ((hk.words c a).trans (h c a))
    rw [State.krefLogged, desc_congr h] at hpeek
    simp only [hpeek, State.wrAll, Option.toList_some, List.map, List.cons_append, List.nil_append, List.foldl, State.wr_whole]

theorem krefEffect_evlog (c : CoreId) (o : KvOp) (u : State) : (State.krefEffect c o u).evlog = (u.krefLogged c o).evlog := by
  have hwr : ∀ (t : State) (x : Wr), (t.wr x).evlog = t.evlog := fun t x => State.wrAll_evlog [x] t
  unfold State.krefEffect
  dsimp only
  split
  · rw [hwr]
    cases (if dHashed (u.desc c o o.desc.toNat) then
      State.kvEntryOf (if kvRefSum o (u.desc c o o.desc.toNat) < 0 then
        u.kvClamped c o (BitVec.ofInt 32 o.delta.toInt).toNat else u) c o (u.desc c o o.desc.toNat) else none) <;> rfl
  · rw [hwr]
    rfl

theorem exec_kref (hr : s.Ready qKv i) (h : kvIndexOk s i.core o)
    (hu : calm s ∨ usable s (kvDescRead i.core o ++ [(i.core, o.cntaddr.toNat)] ++
      (if kvRefSum o (s.desc i.core o o.desc.toNat) ≤ 0 ∧ dHashed (s.desc i.core o o.desc.toNat) then
        (List.range 8).map (fun k => (i.core, kvProbe o (dHash (s.desc i.core o o.desc.toNat)) k)) else []))
      [(i.core, dAddr o o.desc.toNat), (i.core, o.cntaddr.toNat)]) :
    ∃ u, s.issueKeeps u ∧ u.evlog.queue.length ≤ s.evlog.queue.length + 3 ∧
      exec (.kref i o) s = .next (State.krefEffect i.core o u) := by
  have hp := krefPlan_eq (i := i) h
  have hreads : ofCores i.core i.core (kvDescRead i.core o ++ [(i.core, o.cntaddr.toNat)] ++
      (if kvRefSum o (s.desc i.core o o.desc.toNat) ≤ 0 ∧ dHashed (s.desc i.core o o.desc.toNat) then
        (List.range 8).map (fun k => (i.core, kvProbe o (dHash (s.desc i.core o o.desc.toNat)) k)) else [])) := by
    simp only [ofCores_append, ofCores_ite]
    exact ⟨⟨ofCores_kvDescRead, by simp⟩, fun _ => ofCores_map _ _ fun _ => .inl rfl, fun _ => ofCores_nil⟩
  obtain ⟨u, hk, hlen, hx⟩ := State.present_keeps_room (op := 0xC5) (plan := State.krefPlan i o) hr (by rw [hp]; rfl)
    (by rw [hp]; rfl) (fun x hx => by
      rw [hp] at hx
      simp only [Todo.first, List.append_nil] at hx
      exact List.mem_append_left _ (List.mem_append_left _ hx)) hreads hu
  exact ⟨u, hk, hlen, congrArg Host.Outcome.next hx⟩

/-- The order of a list of writes is not seen in what is stored. -/
theorem storesAnd_perm {k : Core} {ws ws' : List Wr} (h : storesAnd s t c k ws) (hp : ws.Perm ws') : storesAnd s t c k ws' := by
  obtain ⟨hout, ⟨hin, hrest⟩, hcore, hother⟩ := h
  exact ⟨hout, ⟨fun w hw => hin w (hp.mem_iff.2 hw), fun x a ha => hrest x a fun hm => ha ((hp.map _).mem_iff.1 hm)⟩,
    hcore, hother⟩

/-- What a KREF stores while REFS stay above 0. -/
theorem kref_live (hk : s.issueKeeps u) (hwf : s.memoriesWf) (hne : dAddr o o.desc.toNat ≠ o.cntaddr.toNat)
    (hr : s.krefRefs c o ≠ 0) : storesAnd s (State.krefEffect c o u) c (s.core c)
      [{ core := c, addr := dAddr o o.desc.toNat, data := dSetRefs (s.desc c o o.desc.toNat) (s.krefRefs c o).toNat },
       kvResult c o 0xFFFFFFFF] := by
  rw [krefEffect_live hk.words hr]
  exact storesAnd_wrAll (hk.trans (u.issueKeeps_krefLogged c o)) hwf (by simpa [wrWords, kvResult] using hne)

/-- What it stores when REFS reach 0. -/
theorem kref_dead (hk : s.issueKeeps u) (hwf : s.memoriesWf) (hne : dAddr o o.desc.toNat ≠ o.cntaddr.toNat)
    (hr : s.krefRefs c o = 0)
    (hdead : ∀ a, s.krefDead c o = some a → a ≠ dAddr o o.desc.toNat ∧ a ≠ o.cntaddr.toNat) :
    storesAnd s (State.krefEffect c o u) c (s.core c)
      ([{ core := c, addr := dAddr o o.desc.toNat, data := dSetHashed (dSetRefs (s.desc c o o.desc.toNat) 0) false },
        kvResult c o o.desc.toNat] ++
      (s.krefDead c o).toList.map (fun a => { core := c, addr := a, data := wordSetField (s.peek c a) 144 8 2 })) := by
  rw [krefEffect_dead hk.words (hk.memoriesWf hwf) hr fun a ha => (hdead a ha).1]
  refine storesAnd_perm (storesAnd_wrAll (hk.trans (u.issueKeeps_krefLogged c o)) hwf ?_)
    ((List.perm_append_singleton _ _).cons _)
  cases hd : s.krefDead c o with
  | none => simpa [wrWords, kvResult] using hne
  | some a => simpa [wrWords, kvResult, hne, (hdead a hd).2] using (hdead a hd).1.symm

end

/-- Settles O29: a KHASH writes DESC and its slot, or counts; a KFIND counts and then writes what its search found; a KREF
logs and then writes DESC, the dead entry and its answer. -/
theorem kvIndexHashesFindsAndCounts : Obligations.KvIndexHashesFindsAndCounts := by
  intro i o s hr hwf hf c k d h
  refine ⟨fun hp => ⟨fun hd hu => ?_, fun hfull hhash hparent hbase hu hprobe => ?_⟩, fun m hm hp hsrc hcand hu => ?_, ?_⟩
  · have hplan := khashPlan_idle hf hp hd
    obtain ⟨u, hk, hx⟩ := State.present_keeps (op := 0xC3) (plan := State.khashPlan i o) hr (by rw [hplan]; rfl)
      (by rw [hplan]; rfl) (fun x hx => by
        rw [hplan] at hx
        simp only [Todo.first, List.append_nil] at hx
        exact hx) hu
    exact ⟨_, congrArg Host.Outcome.next hx, hk.storesAnd c⟩
  · obtain ⟨u, hk, hlen, hx⟩ := exec_khash hr hf hp hfull hhash hparent hbase hu
    exact ⟨_, hx, khash_effect hk hwf hlen hprobe⟩
  · intro found res
    obtain ⟨hsoft, reads, hlast⟩ := kfindPlan_last hf hm hp hsrc hcand
    obtain ⟨u, hk, hx⟩ := State.present_usable (op := 0xC4) (plan := State.kfindPlan i o) hr
      (hu.elim (planUsable_of_calm · hlast) id) hsoft hlast
    have hcounted := storesAnd_kvCounted (c := c) hk found.1
    have hwf' := kvCounted_memoriesWf (c := c) (hk.memoriesWf hwf) found.1
    refine ⟨_, congrArg Host.Outcome.next hx, fun hnone => ?_, fun n hn hne => ?_⟩
    · rw [kfindEffect_none hk.words hnone]
      have hres : res = kvResult c o 0xFFFFFFFF := by
        simp only [res, found, hnone, Option.getD_none]
        rfl
      rw [hres]
      exact storesAnd_wrAll_of hcounted hwf' (List.nodup_singleton _)
    · rw [kfindEffect_some hk.words hn]
      have hres : res = kvResult c o n := by
        simp only [res, found, hn, Option.getD_some]
        rfl
      rw [hres]
      exact storesAnd_wrAll_of hcounted hwf' (by simpa [wrWords, kvResult] using hne)
  · intro r dead hu hne
    obtain ⟨u, hk, hlen, hx⟩ := exec_kref hr hf hu
    refine ⟨_, hx, fun hneg hroom => ?_, fun hr0 => kref_live hk hwf hne hr0, fun hr0 hdead => ?_⟩
    · have hsum : kvRefSum o (s.desc i.core o o.desc.toNat) < 0 := hneg
      rw [krefEffect_evlog, State.krefLogged, desc_congr hk.words, if_pos hsum]
      exact State.loggedAfter_log u u hlen rfl 0x000C (srcCore c) o.desc.toNat (BitVec.ofInt 32 o.delta.toInt).toNat 0 0 hroom
    · have hstores := kref_dead hk hwf hne hr0 hdead
      have hd : s.krefDead c o = dead := rfl
      rw [hd] at hstores
      cases hdead : dead with
      | none =>
        rw [hdead] at hstores
        exact hstores
      | some a =>
        rw [hdead] at hstores
        exact hstores

end Sys2Proof.Machine
end

section
/-! PROOF. TCOPY and TDRAIN (R158, R225, R229, R230): the write-combine buffer, and the words that pass through it. -/

namespace Sys2Proof.Machine

open Claims

section
variable {s t u v : State} {c o a b : CoreId} {x : CoreId} {y n : Nat} {w : MWord} {l : List WcEntry}

/-! An issue holds nothing more at the bank groups (R213). -/

/-- Whatever is held at a bank group of `t` is held there in `s`. -/
def State.holdsLess (s t : State) : Prop := ∀ x : CoreId, (t.core x).memory.held ⊆ (s.core x).memory.held

theorem State.holdsLess.trans (h : s.holdsLess t) (h' : t.holdsLess u) : s.holdsLess u := fun x =>
  List.Subset.trans (h' x) (h x)

theorem State.holdsLess_of_memory (h : ∀ x : CoreId, (t.core x).memory = (s.core x).memory) : s.holdsLess t := fun x => by
  rw [h x]
  exact List.Subset.refl _

theorem State.holdsLess_modMem {f : Memory → Memory} (h : ∀ m : Memory, (f m).held ⊆ m.held) (s : State) (c : CoreId) :
    s.holdsLess (s.modMem c f) := fun x => by
  rw [State.core_modMem]
  split
  · next e => rw [e]; exact h _
  · exact List.Subset.refl _

theorem State.memory_modCore {f : Core → Core} (h : ∀ k : Core, (f k).memory = k.memory) (s : State) (c x : CoreId) :
    ((s.modCore c f).core x).memory = (s.core x).memory := by
  rw [State.core_modCore]
  split
  · next e => rw [e, h]
  · rfl

theorem State.holdsLess_corrected (s : State) (c : CoreId) (n : Nat) (syms : List (Nat × Nat)) (scrub : Bool) :
    s.holdsLess (s.corrected c n syms scrub) := by
  unfold State.corrected
  dsimp only
  generalize hu : s.modMem c _ = u
  have h : s.holdsLess u := by
    rw [← hu]
    exact State.holdsLess_modMem (by intro _; exact List.Subset.refl _) s c
  split
  · exact h
  · refine h.trans (State.holdsLess_of_memory fun x => ?_)
    rw [State.core_log]
    exact State.memory_modCore (by intro _; rfl) u c x

theorem State.holdsLess_corrections : ∀ (l : List (CoreId × Nat)) (s : State), s.holdsLess (s.corrections l)
  | [], s => State.holdsLess_of_memory fun _ => rfl
  | (c, n) :: l, s => by
    unfold State.corrections
    refine State.holdsLess.trans ?_ (State.holdsLess_corrections l _)
    split
    · exact s.holdsLess_corrected c n _ false
    · exact State.holdsLess_of_memory fun _ => rfl

theorem State.holdsLess_unhold (s : State) (q : QueueId) (c : CoreId) : s.holdsLess (s.unhold q c) := by
  unfold State.unhold
  refine List.foldlRecOn (motive := s.holdsLess) _ _ (State.holdsLess_of_memory fun _ => rfl) fun t ht x _ => ?_
  split
  · exact ht
  · exact ht.trans (State.holdsLess_modMem (fun _ => List.filter_subset_self _) t x)

theorem State.memory_issued (s : State) (q : QueueId) (op : BitVec 8) (i : Issue) (due : Until) (x : CoreId) :
    ((s.issued q op i due).core x).memory = (s.core x).memory := by
  unfold State.issued
  refine (State.memory_modCore (by intro _; rfl) _ i.core x).trans ((State.memory_modQueue ..).trans ?_)
  split
  · exact State.memory_modCore (by intro _; rfl) s i.core x
  · rfl

theorem State.holdsLess_started (s : State) (q : QueueId) (op : BitVec 8) (i : Issue) (reads : List (CoreId × Nat))
    (due : State → Until) : s.holdsLess (s.started q op i reads due) :=
  (State.holdsLess_of_memory fun x => s.memory_begun x).trans <| (State.holdsLess_corrections reads _).trans <|
    (State.holdsLess_unhold _ q i.core).trans (State.holdsLess_of_memory fun _ => State.memory_issued ..)

theorem State.mustHold_eq_none {ws : List (CoreId × Nat)} : s.mustHold ws = none ↔ ∀ x ∈ ws,
    (s.core x.1).memory.bgState[(s.core x.1).memory.group x.2] = 0 ∧
    ∀ h ∈ (s.core x.1).memory.held, h.inGroup ((s.core x.1).memory.group x.2).val = false := by
  simp [State.mustHold, List.find?_eq_none]

theorem State.mustHold_append {ws ws' : List (CoreId × Nat)} :
    s.mustHold (ws ++ ws') = none ↔ s.mustHold ws = none ∧ s.mustHold ws' = none := by
  simp only [State.mustHold_eq_none, List.forall_mem_append]

/-- Words that nothing holds back are so after an issue. -/
theorem State.issueKeeps.mustHold (hk : s.issueKeeps u) (hl : s.holdsLess u) {ws : List (CoreId × Nat)}
    (h : s.mustHold ws = none) : u.mustHold ws = none := by
  rw [State.mustHold_eq_none] at h ⊢
  intro x hx
  obtain ⟨hon, hheld⟩ := h x hx
  have hsettled := congrArg Core.memory (hk.settled x.1)
  have hilv : (u.core x.1).memory.ilv = (s.core x.1).memory.ilv := (congrArg Memory.ilv hsettled :)
  have hbg : (u.core x.1).memory.bgState = (s.core x.1).memory.bgState := (congrArg Memory.bgState hsettled :)
  have hgroup : (u.core x.1).memory.group x.2 = (s.core x.1).memory.group x.2 := by simp only [Memory.group, hilv]
  simp only [hgroup, hbg]
  exact ⟨hon, fun h hh => hheld h (hl x.1 hh)⟩

/-- A plan that reads has its effect on a state that keeps the settled state and holds nothing more. -/
theorem State.present_keeps_holds {q : QueueId} {op : BitVec 8} {i : Issue} {plan : State → Todo}
    {reads writes : List (CoreId × Nat)} {due : State → Until} {eff : State → State} (h : s.Ready q i)
    (hp : (plan s).last = .run reads writes due eff) (hs : (plan s).soft = []) (hf : ∀ x ∈ (plan s).first, x ∈ reads)
    (hu : calm s ∨ usable s reads writes) :
    ∃ u, s.issueKeeps u ∧ s.holdsLess u ∧ s.present q op i plan = eff u :=
  ⟨_, s.issueKeeps_started q op i reads due, s.holdsLess_started q op i reads due, State.present_eq_started h hp hs hf hu⟩

/-! The buffer (R229). -/

/-- The words that a list of entries holds. -/
def wcKeys (l : List WcEntry) : List (CoreId × Nat) := l.map (fun e => (e.core, e.addr))

theorem wcFind_eq_none : wcFind l x y = none ↔ (x, y) ∉ wcKeys l := by
  simp only [wcFind, Option.map_eq_none_iff, List.find?_eq_none, wcKeys, List.mem_map, Bool.and_eq_true, beq_iff_eq,
    Prod.mk.injEq, not_exists, not_and]

theorem wcFind_append (l l' : List WcEntry) (x : CoreId) (y : Nat) :
    wcFind (l ++ l') x y = (wcFind l x y).or (wcFind l' x y) := by
  simp only [wcFind, List.find?_append, Option.map_or]

/-- A word that either part of a buffer may hold. -/
theorem wcFind_getD_append {l' : List WcEntry} (h : (wcKeys (l ++ l')).Nodup) (x : CoreId) (y : Nat) (w : MWord) :
    (wcFind l' x y).getD ((wcFind l x y).getD w) = (wcFind (l ++ l') x y).getD w := by
  rw [wcFind_append]
  cases hl : wcFind l x y with
  | none => rfl
  | some d =>
    have hin : (x, y) ∈ wcKeys l := by
      by_contra hx
      rw [wcFind_eq_none.2 hx] at hl
      cases hl
    have hout : wcFind l' x y = none := by
      rw [wcFind_eq_none]
      intro hx
      rw [wcKeys, List.map_append] at h
      exact List.disjoint_of_nodup_append h hin hx
    rw [hout]
    rfl

theorem wcFind_filter (l : List WcEntry) (p : CoreId → Nat → Bool) (x : CoreId) (y : Nat) :
    wcFind (l.filter (fun e => p e.core e.addr)) x y = if p x y then wcFind l x y else none := by
  unfold wcFind
  rw [List.find?_filter]
  split
  · next hp =>
    congr 2
    funext e
    by_cases he : e.core = x ∧ e.addr = y
    · simp [he.1, he.2, hp]
    · have hne : (e.core == x && e.addr == y) = false := by simpa using he
      simp [hne]
  · next hp =>
    rw [Option.map_eq_none_iff, List.find?_eq_none]
    intro e _
    by_cases he : e.core = x ∧ e.addr = y
    · simp [he.1, he.2, hp]
    · have hne : (e.core == x && e.addr == y) = false := by simpa using he
      simp [hne]

theorem wcKeys_wcPut (l : List WcEntry) (o : CoreId) (n : Nat) (w : MWord) :
    wcKeys (wcPut l o n w) = if (o, n) ∈ wcKeys l then wcKeys l else wcKeys l ++ [(o, n)] := by
  unfold wcPut
  by_cases h : (o, n) ∈ wcKeys l
  · have hs : (wcFind l o n).isSome = true := by
      rw [Option.isSome_iff_ne_none, Ne, wcFind_eq_none, not_not]
      exact h
    rw [if_pos hs, if_pos h, wcKeys, wcKeys, List.map_map]
    refine List.map_congr_left fun e _ => ?_
    simp only [Function.comp]
    split
    · rfl
    · rfl
  · rw [wcFind_eq_none.2 h, if_neg h]
    simp [wcKeys]

theorem wcFind_wcPut (l : List WcEntry) (o : CoreId) (n : Nat) (w : MWord) (x : CoreId) (y : Nat) :
    wcFind (wcPut l o n w) x y = if x = o ∧ y = n then some w else wcFind l x y := by
  unfold wcPut
  by_cases h : (wcFind l o n).isSome = true
  · rw [if_pos h]
    have hkey : ∀ e : WcEntry, ((if e.core = o ∧ e.addr = n then { e with data := w } else e).core == x &&
        (if e.core = o ∧ e.addr = n then { e with data := w } else e).addr == y) = (e.core == x && e.addr == y) := fun e => by
      split <;> rfl
    simp only [wcFind, List.find?_map, Function.comp_def, hkey] at h ⊢
    cases hf : l.find? (fun e => e.core == x && e.addr == y) with
    | none =>
      rw [if_neg]
      · rfl
      · rintro ⟨rfl, rfl⟩
        rw [hf] at h
        exact Bool.noConfusion h
    | some e =>
      have hp := List.find?_some hf
      simp only [Bool.and_eq_true, beq_iff_eq] at hp
      obtain ⟨rfl, rfl⟩ := hp
      by_cases he : e.core = o ∧ e.addr = n
      · simp [he]
      · simp [he]
  · have hnone : wcFind l o n = none := by simpa using h
    rw [if_neg h, wcFind_append]
    by_cases he : x = o ∧ y = n
    · obtain ⟨rfl, rfl⟩ := he
      rw [hnone, if_pos ⟨rfl, rfl⟩]
      simp [wcFind]
    · have hne : ((o == x) && (n == y)) = false := by
        rw [Bool.and_eq_false_iff, beq_eq_false_iff_ne, beq_eq_false_iff_ne]
        by_cases hx : x = o
        · exact .inr fun hy => he ⟨hx, hy.symm⟩
        · exact .inl (Ne.symm hx)
      rw [if_neg he]
      simp [wcFind, hne]

theorem wcKeys_wcPut_nodup (h : (wcKeys l).Nodup) (o : CoreId) (n : Nat) (w : MWord) : (wcKeys (wcPut l o n w)).Nodup := by
  rw [wcKeys_wcPut]
  split
  · exact h
  · next hn => exact List.nodup_append.2 ⟨h, List.nodup_singleton _, fun k hk k' hk' e => hn (List.mem_singleton.1 hk' ▸ e ▸ hk)⟩

theorem wcPut_length_le (l : List WcEntry) (o : CoreId) (n : Nat) (w : MWord) : (wcPut l o n w).length ≤ l.length + 1 := by
  have hlen : ∀ l : List WcEntry, (wcKeys l).length = l.length := fun l => List.length_map _
  rw [← hlen, ← hlen, wcKeys_wcPut]
  split <;> simp

/-! Some entries are written to their banks, the others stay (R229). -/

/-- Core `c` keeps the entries `kept` in its buffer, and the banks have received `old`. -/
structure State.rebuffered (s t : State) (c : CoreId) (kept old : List WcEntry) : Prop where
  outside : s.sameOutside t
  others : ∀ x : CoreId, x ≠ c → (t.core x).besideWords = (s.core x).besideWords
  self : (t.core c).besideWords = Core.besideWords { s.core c with wc := kept }
  bank : ∀ (x : CoreId) (y : Nat), t.peek x y = (wcFind old x y).getD (s.peek x y)
  wf : t.memoriesWf
  holds : ∀ ws, t.mustHold ws = s.mustHold ws

theorem State.rebuffered.wc {kept old : List WcEntry} (h : s.rebuffered t c kept old) : (t.core c).wc = kept :=
  (congrArg Core.wc h.self :)

theorem State.mustHold_congr (h : ∀ x : CoreId, (t.core x).memory = (s.core x).memory) (ws : List (CoreId × Nat)) :
    t.mustHold ws = s.mustHold ws := by
  simp only [State.mustHold, h]

theorem State.mustHold_wrAll : ∀ (xs : List Wr) (s : State) (ws : List (CoreId × Nat)), (s.wrAll xs).mustHold ws = s.mustHold ws
  | [], _, _ => rfl
  | x :: xs, s, ws => (State.mustHold_wrAll xs (s.wr x) ws).trans (by rw [State.wr_eq, State.mustHold_poke])

theorem State.rebuffered_flush (hwf : s.memoriesWf) {kept old : List WcEntry} (hn : (wcKeys old).Nodup)
    (hf : s.mustHold (wcKeys old) = none) :
    s.rebuffered ((s.modCore c (fun k => { k with wc := kept })).flush old) c kept old := by
  have hmem : ∀ x : CoreId, ((s.modCore c (fun k => { k with wc := kept })).core x).memory = (s.core x).memory := fun x =>
    State.memory_modCore (by intro _; rfl) s c x
  have hcore : ∀ x : CoreId, (s.modCore c (fun k => { k with wc := kept })).core x =
      if x = c then { s.core c with wc := kept } else s.core x := s.core_modCore c _
  have hout : s.sameOutside (s.modCore c (fun k => { k with wc := kept })) := rfl
  generalize s.modCore c (fun k => { k with wc := kept }) = u at hmem hcore hout
  have hfree : u.mustHold (old.map (fun e => (e.core, e.addr))) = none := (State.mustHold_congr hmem _).trans hf
  have huwf : u.memoriesWf := fun x => by rw [hmem]; exact hwf x
  have hpeek : ∀ x y, u.peek x y = s.peek x y := fun x y => by unfold State.peek; rw [hmem]
  rw [State.flush_eq_wrAll hfree]
  have hk := State.storeKeeps_wrAll (old.map WcEntry.wr) u
  refine ⟨hout.trans hk.outside, fun x hx => ?_, ?_, fun x y => ?_, State.wrAll_memoriesWf huwf _, fun ws => ?_⟩
  · rw [hk.beside, hcore, if_neg hx]
  · rw [hk.beside, hcore, if_pos rfl]
  · rw [peek_of_stored_wc (State.stored_wrAll _ u huwf (by rw [wrWords_wc]; exact hn)), hpeek]
  · rw [State.mustHold_wrAll, State.mustHold_congr hmem]

/-- The buffer lists a word once, holds 64 at most, and nothing holds back what it would write. -/
structure State.bufferFree (s : State) (c : CoreId) : Prop where
  wf : s.memoriesWf
  ok : wcOk (s.core c)
  free : s.mustHold (wcKeys (s.core c).wc) = none

/-- Words `ws` have been written from word `n` of core `o` through the buffer of core `c`. -/
structure State.copied (s t : State) (c o : CoreId) (n : Nat) (ws : List MWord) : Prop where
  outside : s.sameOutside t
  others : ∀ x : CoreId, x ≠ c → (t.core x).besideWords = (s.core x).besideWords
  self : (t.core c).besideWords = Core.besideWords { s.core c with wc := (t.core c).wc }
  read : ∀ (x : CoreId) (y : Nat), t.xferWord c x y =
    if x = o ∧ n ≤ y ∧ y < n + ws.length then ws.getD (y - n) 0 else s.xferWord c x y
  bank : ∀ (x : CoreId) (y : Nat), ¬ (x = o ∧ n ≤ y ∧ y < n + ws.length) → wcFind (s.core c).wc x y = none →
    t.peek x y = s.peek x y ∧ wcFind (t.core c).wc x y = none

theorem mustHold_subset {ws ws' : List (CoreId × Nat)} (h : ws' ⊆ ws) (hw : s.mustHold ws = none) : s.mustHold ws' = none := by
  rw [State.mustHold_eq_none] at hw ⊢
  exact fun x hx => hw x (h hx)

/-- One word that is written keeps the buffer so, and is read back. -/
theorem wcWrite_copied (h : s.bufferFree c) (hn : s.mustHold [(o, n)] = none) (w : MWord) :
    (s.wcWrite c o n w).bufferFree c ∧ s.copied (s.wcWrite c o n w) c o n [w] ∧
    ∀ ws, (s.wcWrite c o n w).mustHold ws = s.mustHold ws := by
  obtain ⟨hlen, hnodup⟩ := h.ok
  have hput := wcKeys_wcPut_nodup hnodup o n w
  have hle := wcPut_length_le (s.core c).wc o n w
  have hfree : s.mustHold (wcKeys (wcPut (s.core c).wc o n w)) = none := by
    rw [wcKeys_wcPut]
    split
    · exact h.free
    · exact State.mustHold_append.2 ⟨h.free, hn⟩
  have hfind := wcFind_wcPut (s.core c).wc o n w
  unfold State.wcWrite
  dsimp only
  generalize wcPut (s.core c).wc o n w = l at hput hle hfree hfind
  have hparts : wcKeys (l.take (l.length - 64)) ++ wcKeys (l.drop (l.length - 64)) = wcKeys l := by
    rw [wcKeys, wcKeys, ← List.map_append, List.take_append_drop, wcKeys]
  have hold : s.mustHold (wcKeys (l.take (l.length - 64))) = none ∧ s.mustHold (wcKeys (l.drop (l.length - 64))) = none :=
    State.mustHold_append.1 (hparts ▸ hfree)
  have hnd := List.nodup_append.1 (hparts ▸ hput)
  obtain ⟨hdold, hdkept, -⟩ := hnd
  have hr := State.rebuffered_flush (c := c) (kept := l.drop (l.length - 64)) h.wf hdold hold.1
  have hwc := hr.wc
  refine ⟨⟨hr.wf, ⟨?_, ?_⟩, ?_⟩, ⟨hr.outside, hr.others, ?_, fun x y => ?_, fun x y hxy hnone => ?_⟩, hr.holds⟩
  · rw [hwc, List.length_drop]
    omega
  · rw [hwc]
    exact hdkept
  · rw [hwc, hr.holds]
    exact hold.2
  · rw [hwc]
    exact hr.self
  · rw [State.xferWord, hwc, hr.bank, wcFind_getD_append (by rw [List.take_append_drop]; exact hput), List.take_append_drop,
      hfind, List.length_singleton]
    by_cases he : x = o ∧ y = n
    · obtain ⟨rfl, rfl⟩ := he
      rw [if_pos ⟨rfl, rfl⟩, if_pos ⟨rfl, le_refl _, Nat.lt_succ_self _⟩, Nat.sub_self]
      rfl
    · rw [if_neg he, if_neg fun hx => he ⟨hx.1, by omega⟩]
      rfl
  · have hl := hfind x y
    rw [if_neg fun he => hxy ⟨he.1, by simp [he.2]⟩, hnone, ← List.take_append_drop (l.length - 64) l, wcFind_append,
      Option.or_eq_none_iff] at hl
    rw [hr.bank, hwc, hl.1]
    exact ⟨rfl, hl.2⟩

theorem State.copied.trans {ws ws' : List MWord} (h : s.copied t c o n ws) (h' : t.copied u c o (n + ws.length) ws') :
    s.copied u c o n (ws ++ ws') := by
  have hwc : ∀ k k' : Core, k.besideWords = k'.besideWords → ∀ l : List WcEntry,
      Core.besideWords { k with wc := l } = Core.besideWords { k' with wc := l } := fun k k' he l =>
    congrArg (fun b : Core => { b with wc := l }) he
  refine ⟨h.outside.trans h'.outside, fun x hx => (h'.others x hx).trans (h.others x hx),
    h'.self.trans (hwc _ _ h.self _), fun x y => ?_, fun x y hxy hnone => ?_⟩
  · rw [h'.read, h.read, List.length_append]
    by_cases hlt : y < n + ws.length
    · rw [if_neg fun hx => absurd hx.2.1 (by omega)]
      by_cases hx : x = o ∧ n ≤ y
      · rw [if_pos ⟨hx.1, hx.2, hlt⟩, if_pos ⟨hx.1, hx.2, by omega⟩, List.getD_append _ _ _ _ (by omega)]
      · rw [if_neg fun he => hx ⟨he.1, he.2.1⟩, if_neg fun he => hx ⟨he.1, he.2.1⟩]
    · rw [if_neg (c := x = o ∧ n ≤ y ∧ y < n + ws.length) fun he => hlt he.2.2]
      by_cases hx : x = o ∧ y < n + ws.length + ws'.length
      · rw [if_pos ⟨hx.1, by omega, hx.2⟩, if_pos ⟨hx.1, by omega, by omega⟩, List.getD_append_right _ _ _ _ (by omega)]
        congr 1
        omega
      · rw [if_neg fun he => hx ⟨he.1, he.2.2⟩, if_neg fun he => hx ⟨he.1, by omega⟩]
  · rw [List.length_append] at hxy
    obtain ⟨hb, hf⟩ := h.bank x y (fun he => hxy ⟨he.1, he.2.1, by omega⟩) hnone
    obtain ⟨hb', hf'⟩ := h'.bank x y (fun he => hxy ⟨he.1, by omega, by omega⟩) hf
    exact ⟨hb'.trans hb, hf'⟩

theorem wordsAt_succ (c : CoreId) (n k : Nat) : wordsAt c n (k + 1) = (c, n) :: wordsAt c (n + 1) k := by
  simp only [wordsAt, List.range_succ_eq_map, List.map_cons, List.map_map, Nat.add_zero]
  refine congrArg _ (List.map_congr_left fun j _ => ?_)
  simp only [Function.comp, Nat.succ_eq_add_one]
  rw [Nat.add_assoc, Nat.add_comm 1 j]

/-- All words that are written are read back, and the buffer stays as it must. -/
theorem wcWrites_copied : ∀ (ws : List MWord) (n : Nat) (s : State), s.bufferFree c →
    s.mustHold (wordsAt o n ws.length) = none →
    (s.wcWrites c o n ws).bufferFree c ∧ s.copied (s.wcWrites c o n ws) c o n ws
  | [], n, s, h, _ => ⟨h, rfl, fun _ _ => rfl, rfl, fun x y => by
      rw [if_neg fun hx => absurd hx.2.2 (by simp; omega)]
      rfl, fun _ _ _ hnone => ⟨rfl, hnone⟩⟩
  | w :: ws, n, s, h, hn => by
    rw [List.length_cons, wordsAt_succ] at hn
    obtain ⟨hfirst, hrest⟩ := State.mustHold_cons hn
    obtain ⟨hb, hc, hholds⟩ := wcWrite_copied h hfirst w
    obtain ⟨hb', hc'⟩ := wcWrites_copied ws (n + 1) _ hb (by rw [hholds]; exact hrest)
    exact ⟨hb', hc.trans hc'⟩

end

section
variable {s t u : State} {i : Issue} {o : XferOp} {a b c : CoreId}

/-! TCOPY (R158, R225). -/

theorem selMissing_of_sel {sel : BitVec 3} {m : CoreId} (h : s.sel c sel = some m) : (s.selMissing c sel).1 = false := by
  rw [State.selMissing, h]
  rfl

theorem tcopyReject_pass (hl : o.lsel = 0 ∨ 4 ≤ o.lsel.toNat) (ha : s.sel c o.lsel = some a)
    (hd : o.dsel = 0 ∨ 4 ≤ o.dsel.toNat) (hb : s.sel c o.dsel = some b) (hsrc : pastMem o.laddr.toNat o.len.toNat = false)
    (hdst : pastMem o.daddr.toNat o.len.toNat = false) : s.tcopyReject c o = none := by
  simp only [State.tcopyReject, firstReason_eq_none, List.forall_mem_cons, selMissing_of_sel ha, selMissing_of_sel hb, hsrc, hdst]
  exact ⟨selector_taken hl, selector_taken hd, trivial, trivial, trivial, trivial, nofun⟩

theorem tcopyPlan_eq (hrej : s.tcopyReject i.core o = none) (ha : s.sel i.core o.lsel = some a)
    (hb : s.sel i.core o.dsel = some b) (hn : o.len ≠ 0) (ht : (s.core i.core).tags.length < 256)
    (hsrc : s.getOverlaps i.core a o.laddr.toNat o.len.toNat = false)
    (hdst : s.getOverlaps i.core b o.daddr.toNat o.len.toNat = false) :
    State.tcopyPlan i o s = .run (s.xferReads i.core a o.laddr.toNat o.len.toNat) (wordsAt b o.daddr.toNat o.len.toNat)
      (fun _ => .release (s.core i.core).freeTag) (State.tcopyEffect i.core a b o (s.core i.core).freeTag) := by
  have hfree : s.tagFree i.core false = true := by simp [State.tagFree, ht]
  simp only [State.tcopyPlan, hrej, Todo.unless, ha, hb, hn, if_false, hfree, hsrc, hdst, Bool.true_eq_false,
    Bool.false_eq_true, or_self]

/-- The buffer is as it must be after an issue, too. -/
theorem State.issueKeeps.wc (h : s.issueKeeps u) (c : CoreId) : (u.core c).wc = (s.core c).wc :=
  (congrArg Core.wc (h.settled c) :)

theorem State.issueKeeps.xferWord (h : s.issueKeeps u) (c x : CoreId) (y : Nat) : u.xferWord c x y = s.xferWord c x y := by
  rw [State.xferWord, State.xferWord, h.wc, h.peek]

theorem State.issueKeeps.bufferFree (h : s.issueKeeps u) (hl : s.holdsLess u) (hb : s.bufferFree c) : u.bufferFree c :=
  ⟨h.memoriesWf hb.wf, by unfold wcOk; rw [h.wc]; exact hb.ok, by rw [h.wc]; exact h.mustHold hl hb.free⟩

/-- The tag that a TCOPY holds (R159). -/
def copyTag (o : XferOp) (n : Nat) : Tag :=
  { tag := n, kind := 0, owed := o.len.toNat, lsel := o.dsel, laddr := o.daddr, len := o.len.toNat }

theorem tcopyEffect_eq (n : Nat) (u : State) : State.tcopyEffect c a b o n u =
    (u.modCore c (fun k => { k with tags := k.tags ++ [copyTag o n] })).wcWrites c b o.daddr.toNat
      (u.xferWords c a o.laddr.toNat o.len.toNat) := rfl

@[simp] theorem State.xferWords_length (s : State) (c x : CoreId) (y n : Nat) : (s.xferWords c x y n).length = n := by
  simp [State.xferWords]

theorem State.xferWords_getD (s : State) {j n : Nat} (c x : CoreId) (y : Nat) (hj : j < n) :
    (s.xferWords c x y n).getD j 0 = s.xferWord c x (y + j) := by
  simp [State.xferWords, List.getD_eq_getElem?_getD, hj]

/-- What a TCOPY's effect makes of its core, the buffer and the words. -/
theorem tcopyEffect_copied (hk : s.issueKeeps u) (hless : s.holdsLess u) (hb : s.bufferFree c)
    (hdest : s.mustHold (wordsAt b o.daddr.toNat o.len.toNat) = none) (n : Nat) :
    let t := State.tcopyEffect c a b o n u
    s.sameOutside t ∧ (∀ x : CoreId, x ≠ c → (t.core x).besideWords = (s.core x).besideWords) ∧
    (t.core c).besideWords = Core.besideWords { s.core c with
      wc := (t.core c).wc, tags := (s.core c).tags ++ [copyTag o n] } ∧ wcOk (t.core c) ∧
    (∀ j < o.len.toNat, t.xferWord c b (o.daddr.toNat + j) = s.xferWord c a (o.laddr.toNat + j)) ∧
    ∀ (x : CoreId) (y : Nat), (x ≠ b ∨ y < o.daddr.toNat ∨ o.daddr.toNat + o.len.toNat ≤ y) →
      t.xferWord c x y = s.xferWord c x y ∧ (wcFind (s.core c).wc x y = none → t.peek x y = s.peek x y) := by
  intro t
  have hub := hk.bufferFree hless hb
  have hmem : ∀ x : CoreId, ((u.modCore c (fun k => { k with tags := k.tags ++ [copyTag o n] })).core x).memory =
      (u.core x).memory := State.memory_modCore (by intro _; rfl) u c
  have hcore : ∀ x : CoreId, (u.modCore c (fun k => { k with tags := k.tags ++ [copyTag o n] })).core x =
      if x = c then { u.core c with tags := (u.core c).tags ++ [copyTag o n] } else u.core x := u.core_modCore c _
  have hout : u.sameOutside (u.modCore c (fun k => { k with tags := k.tags ++ [copyTag o n] })) := rfl
  have ht : t = (u.modCore c (fun k => { k with tags := k.tags ++ [copyTag o n] })).wcWrites c b o.daddr.toNat
      (u.xferWords c a o.laddr.toNat o.len.toNat) := tcopyEffect_eq n u
  generalize u.modCore c (fun k => { k with tags := k.tags ++ [copyTag o n] }) = v at hmem hcore hout ht
  have hvc : v.core c = { u.core c with tags := (u.core c).tags ++ [copyTag o n] } := (hcore c).trans (if_pos rfl)
  have hvwc : (v.core c).wc = (s.core c).wc := by rw [hvc]; exact hk.wc c
  have hvpeek : ∀ x y, v.peek x y = s.peek x y := fun x y => by
    rw [← hk.peek]
    unfold State.peek
    rw [hmem]
  have hvread : ∀ x y, v.xferWord c x y = s.xferWord c x y := fun x y => by rw [State.xferWord, State.xferWord, hvwc, hvpeek]
  have hvb : v.bufferFree c := by
    refine ⟨fun x => by rw [hmem]; exact hub.wf x, ?_, ?_⟩
    · unfold wcOk
      rw [hvwc]
      exact hb.ok
    · rw [hvwc, State.mustHold_congr hmem, ← hk.wc c]
      exact hub.free
  obtain ⟨htb, hc⟩ := wcWrites_copied (o := b) (u.xferWords c a o.laddr.toNat o.len.toNat) o.daddr.toNat v hvb (by
    rw [State.xferWords_length, State.mustHold_congr hmem]
    exact hk.mustHold hless hdest)
  rw [← ht] at htb hc
  refine ⟨hk.outside.trans (hout.trans hc.outside), fun x hx => ?_, ?_, htb.ok, fun j hj => ?_, fun x y hxy => ?_⟩
  · rw [hc.others x hx, hcore, if_neg hx]
    exact hk.storeKeeps.beside x
  · rw [hc.self, hvc]
    exact congrArg (fun b : Core => { b with wc := (t.core c).wc, tags := b.tags ++ [copyTag o n] }) (hk.storeKeeps.beside c)
  · rw [hc.read, State.xferWords_length, if_pos ⟨rfl, by omega, by omega⟩, Nat.add_sub_cancel_left,
      State.xferWords_getD u c a _ hj, hk.xferWord]
  · have hne : ¬ (x = b ∧ o.daddr.toNat ≤ y ∧ y < o.daddr.toNat + (u.xferWords c a o.laddr.toNat o.len.toNat).length) := by
      rw [State.xferWords_length]
      rintro ⟨hx, hlo, hhi⟩
      exact hxy.elim (fun h => h hx) (by omega)
    refine ⟨by rw [hc.read, if_neg hne, hvread], fun hnone => ?_⟩
    rw [(hc.bank x y hne (by rw [hvwc]; exact hnone)).1, hvpeek]

/-! TDRAIN (R230). -/

theorem usable_nil : usable s [] [] := by
  refine ⟨fun _ h => ?_, fun _ h => ?_⟩
  · cases h
  · cases h

/-- The entries of a range go to their banks, the others stay. -/
theorem wcFlush_rebuffered (hb : s.bufferFree c) (p : CoreId → Nat → Bool) :
    s.rebuffered (s.wcFlush c (fun e => p e.core e.addr)) c ((s.core c).wc.filter (fun e => !p e.core e.addr))
      ((s.core c).wc.filter (fun e => p e.core e.addr)) := by
  have hsub : (wcKeys ((s.core c).wc.filter (fun e => p e.core e.addr))).Sublist (wcKeys (s.core c).wc) :=
    List.Sublist.map _ List.filter_sublist
  exact State.rebuffered_flush hb.wf (hb.ok.2.sublist hsub) (mustHold_subset hsub.subset hb.free)

theorem wcFlush_read (hb : s.bufferFree c) (p : CoreId → Nat → Bool) (x : CoreId) (y : Nat) :
    (s.wcFlush c (fun e => p e.core e.addr)).peek x y = (if p x y then s.xferWord c x y else s.peek x y) ∧
    (s.wcFlush c (fun e => p e.core e.addr)).xferWord c x y = s.xferWord c x y := by
  have hr := wcFlush_rebuffered hb p
  have hnot := wcFind_filter (s.core c).wc (fun a b => !p a b) x y
  have hpeek : (s.wcFlush c (fun e => p e.core e.addr)).peek x y = if p x y then s.xferWord c x y else s.peek x y := by
    rw [hr.bank, wcFind_filter]
    split
    · rfl
    · rfl
  refine ⟨hpeek, ?_⟩
  rw [State.xferWord, hr.wc, hnot, hpeek]
  cases hp : p x y
  · rfl
  · rfl

theorem tdrainPlan_eq (hl : o.lsel = 0 ∨ 4 ≤ o.lsel.toNat) (ha : s.sel i.core o.lsel = some a)
    (hd : o.dsel = 0 ∨ 4 ≤ o.dsel.toNat) (hb : s.sel i.core o.dsel = some b)
    (hsrc : pastMem o.laddr.toNat o.len.toNat = false) (hc : s.copyOverlaps i.core a o.laddr.toNat o.len.toNat = false) :
    State.tdrainPlan i o s = .run [] [] (fun _ => .now) (fun s => s.wcFlush i.core (fun e => e.core == a &&
      decide (o.laddr.toNat ≤ e.addr ∧ e.addr < o.laddr.toNat + o.len.toNat))) := by
  have hrej : firstReason [xferSel o.lsel, xferSel o.dsel, s.selMissing i.core o.lsel, s.selMissing i.core o.dsel,
      (pastMem o.laddr.toNat o.len.toNat, 3)] = none := by
    simp only [firstReason_eq_none, List.forall_mem_cons, selMissing_of_sel ha, selMissing_of_sel hb, hsrc]
    exact ⟨selector_taken hl, selector_taken hd, trivial, trivial, trivial, nofun⟩
  simp only [State.tdrainPlan, hrej, Todo.unless, ha, hc, Bool.false_eq_true, if_false]

end

/-- Settles O31: a TCOPY reads its words before it writes the first, and each that it writes is read back from the buffer or,
once it has left that, from its bank; a TDRAIN writes the entries of its range and keeps the others. -/
theorem copiesAndDrainsMoveTheirWords : Obligations.CopiesAndDrainsMoveTheirWords := by
  intro i o a b s hr hwf hok hl ha hsrc c k n hd hb
  refine ⟨fun hdst => ⟨fun hn => ?_, fun hn htags hosrc hodst hu hfree => ?_⟩, fun hover hfree => ?_⟩
  · have hplan : State.tcopyPlan i o s = .nop := by
      have h0 : o.len = 0 := BitVec.eq_of_toNat_eq hn
      simp only [State.tcopyPlan, tcopyReject_pass hl ha hd hb hsrc hdst, Todo.unless, h0, if_true]
    exact ⟨_, rfl, (State.present_nop (op := 0xD0) (plan := State.tcopyPlan i o) hr hplan).coreBecomes c⟩
  · have hplan := tcopyPlan_eq (i := i) (tcopyReject_pass hl ha hd hb hsrc hdst) ha hb
      (fun h => hn (congrArg BitVec.toNat h)) htags hosrc hodst
    obtain ⟨u, hk, hless, hx⟩ := State.present_keeps_holds (op := 0xD0) (plan := State.tcopyPlan i o) hr
      (by rw [hplan]; rfl) (by rw [hplan]; rfl) (fun x hx => by rw [hplan] at hx; cases hx) hu
    obtain ⟨hdest, hbuffer⟩ := State.mustHold_append.1 hfree
    exact ⟨_, congrArg Host.Outcome.next hx, tcopyEffect_copied hk hless ⟨hwf, hok, hbuffer⟩ hdest _⟩
  · have hplan := tdrainPlan_eq (i := i) hl ha hd hb hsrc hover
    obtain ⟨u, hk, hless, hx⟩ := State.present_keeps_holds (op := 0xD4) (plan := State.tdrainPlan i o) hr
      (by rw [hplan]; rfl) (by rw [hplan]; rfl) (fun x hx => by rw [hplan] at hx; cases hx) (.inr usable_nil)
    have hb := hk.bufferFree hless (c := c) ⟨hwf, hok, hfree⟩
    have hr := wcFlush_rebuffered hb (fun x y => x == a && decide (o.laddr.toNat ≤ y ∧ y < o.laddr.toNat + n))
    have hread := wcFlush_read hb (fun x y => x == a && decide (o.laddr.toNat ≤ y ∧ y < o.laddr.toNat + n))
    refine ⟨_, congrArg Host.Outcome.next hx, hk.outside.trans hr.outside,
      fun x hxc => (hr.others x hxc).trans (hk.storeKeeps.beside x), ?_, fun x y => ?_⟩
    · refine hr.self.trans ?_
      rw [hk.wc]
      exact congrArg (fun b : Core => { b with wc := (s.core c).wc.filter (fun e =>
        !(e.core == a && decide (o.laddr.toNat ≤ e.addr ∧ e.addr < o.laddr.toNat + n))) }) (hk.storeKeeps.beside c)
    · obtain ⟨hp, hw⟩ := hread x y
      rw [hk.xferWord] at hp hw
      rw [hk.peek] at hp
      refine ⟨hw, hp.trans ?_⟩
      simp only [Bool.and_eq_true, beq_iff_eq, decide_eq_true_eq]

end Sys2Proof.Machine
end

section
/-! PROOF. Packets that arrive at their partition (R158, R160, R239): the answers, and the words that land or are read. -/

namespace Sys2Proof.Machine

open Claims

section
variable {s t u v : State} {q : Packet} {p : PartId} {c : CoreId} {w : Window} {st : Nat}

/-! Answers (R323, R324). -/

/-- What a packet puts in motion: itself, where it is for this chip or has a route. -/
def State.motionOf (s : State) (vc : Fin 8) (a : Packet) : List Moving :=
  if s.isHere a then [{ vc := vc, pkt := a, path := ownPath vc a none }]
  else match s.route vc a with
    | some l => [{ vc := vc, pkt := a, link := some l, path := ownPath vc a (some l) }]
    | none => []

theorem State.reply_eq (s : State) (vc : Fin 8) (a : Packet) :
    s.reply vc a = { s with transit := s.transit ++ s.motionOf vc a } := by
  unfold State.reply State.launch State.motionOf
  split
  · rfl
  · cases s.route vc a with
    | none => simp
    | some l => rfl

theorem State.sameRoutes.motionOf (h : s.sameRoutes t) : t.motionOf = s.motionOf := by
  funext vc a
  rw [State.motionOf, State.motionOf, h.isHere, h.route]

theorem State.sameRoutes.mkPacket (h : s.sameRoutes t) : mkPacket t = mkPacket s := by
  funext p rank chip part kind kflags win rest payload
  rw [Machine.mkPacket, Machine.mkPacket, h.chip, h.rte]

theorem arrived_eq (s : State) (q : Packet) : arrived s q = { s with transit := (Claims.arrived s q).transit } := by
  unfold arrived State.arrive
  split <;> rfl

/-- A state that has the routes of `s` and whose packets in motion are those left once `q` has been taken off. -/
structure State.took (s v : State) (q : Packet) : Prop where
  routes : s.sameRoutes v
  transit : v.transit = (Claims.arrived s q).transit

theorem took_arrived (s : State) (q : Packet) : s.took (Claims.arrived s q) q := by
  rw [arrived_eq]
  exact ⟨⟨rfl, rfl, rfl⟩, rfl⟩

theorem State.took.reply (h : s.took v q) (a : Packet) : answeredWith s (v.reply (answerVc s q) a) q a := by
  rw [State.reply_eq, answeredWith]
  change v.transit ++ v.motionOf (answerVc s q) a = _
  rw [h.transit, h.routes.motionOf]
  rfl

/-- The flag of a packet that asks for an answer (R324). -/
theorem field_kflags (q : Packet) : q.field 44 1 = q.kflags % 2 :=
  (Nat.mod_mod_of_dvd _ (by decide)).symm

/-- A WRITE is answered where it asks for it, and the state is otherwise as it was. -/
theorem State.took.ackWrite (h : s.took v q) (p : PartId) (st : Nat) :
    let t := v.ackWrite p (s.arrive q).1 q st
    t = { v with transit := t.transit } ∧ (q.kflags % 2 = 1 → answeredWith s t q (ackOf s p q st)) ∧
    (q.kflags % 2 = 0 → t.transit = (Claims.arrived s q).transit) := by
  intro t
  have hack : mkPacket v p 0 (q.field 16 14) (q.field 34 4) 1 0 0 (respFields q st) [] = ackOf s p q st := by
    rw [h.routes.mkPacket]
    rfl
  by_cases hf : q.kflags % 2 = 1
  · have ht : t = v.reply (answerVc s q) (ackOf s p q st) := by
      rw [← hack]
      exact if_pos ((field_kflags q).trans hf)
    rw [ht]
    exact ⟨by rw [State.reply_eq], fun _ => h.reply _, fun h0 => absurd hf (by omega)⟩
  · have ht : t = v := if_neg (by rw [field_kflags]; exact hf)
    rw [ht]
    exact ⟨rfl, fun h1 => absurd h1 hf, fun _ => h.transit⟩

/-- A READ_REQ is answered. -/
theorem State.took.readResp (h : s.took v q) (p : PartId) (rank st off : Nat) (ws : List MWord) :
    let t := v.readResp p rank (s.arrive q).1 q st off ws
    t = { v with transit := t.transit } ∧ answeredWith s t q (respOf s p rank q st off ws) := by
  intro t
  have ht : t = v.reply (answerVc s q) (respOf s p rank q st off ws) := by
    change v.reply _ (Machine.mkPacket v _ _ _ _ _ _ _ _ _) = _
    rw [h.routes.mkPacket]
    rfl
  rw [ht]
  exact ⟨by rw [State.reply_eq], h.reply _⟩

/-! What comes to the window checks (R160). -/

theorem partOfNat_val (p : PartId) : partOfNat p.val = p := Fin.ext (Nat.mod_eq_of_lt p.isLt)

/-- A well-formed WRITE or READ_REQ is landed at its partition. -/
theorem rx_eq {kind : Nat} (h : packetFor s q kind p) (hk : kind ≠ 4) :
    s.rx kind q = (Claims.arrived s q).landPacket p (s.arrive q).1 q := by
  obtain ⟨hkind, hbad, hpart, -⟩ := h
  have hq : partOfNat q.dstPart = p := by rw [hpart, partOfNat_val]
  have h4 : q.kind ≠ 4 := hkind ▸ hk
  simp only [State.rx, hkind, ne_eq, not_true_eq_false, if_false, hbad, Bool.false_eq_true, hq, hk, false_and, ite_self]
  rfl

theorem execRxWrite_eq (h : packetFor s q 0 p) (hs : s.special p q.win = false) :
    exec (.rxWrite q) s = .next ((Claims.arrived s q).landPacket p (s.arrive q).1 q) := by
  obtain ⟨hkind, hbad, hpart, hsleep⟩ := h
  change Host.Outcome.next _ = _
  rw [if_neg, rx_eq ⟨hkind, hbad, hpart, hsleep⟩ (by decide)]
  rw [hpart, partOfNat_val, hs]
  exact fun h => Bool.noConfusion h.2

theorem execRxReadReq_eq (h : packetFor s q 2 p) :
    exec (.rxReadReq q) s = .next ((Claims.arrived s q).landPacket p (s.arrive q).1 q) :=
  congrArg Host.Outcome.next (rx_eq h (by decide))

/-- A packet whose checks fail is discarded. -/
theorem landPacket_discard {vc : Fin 8} (hs : s.special p q.win = false) (h4 : q.kind ≠ 4)
    (hw : alGet (s.part p).windows q.win = some w)
    (hst : s.windowStatus p w q (if q.kind = 2 then q.rlen else q.length) = st) (h0 : st ≠ 0) :
    s.landPacket p vc q = s.discardAt p vc q st := by
  simp only [State.landPacket, hs, Bool.false_eq_true, if_false, h4, hw, hst, h0, ne_eq, not_false_eq_true, if_true]

theorem landPacket_write {vc : Fin 8} (h : packetFor s q 0 p) (hs : s.special p q.win = false)
    (hw : alGet (s.part p).windows q.win = some w) (hst : s.windowStatus p w q q.length = 0) :
    s.landPacket p vc q = s.landWords p vc w q := by
  obtain ⟨hkind, -, -, hsleep⟩ := h
  have h4 : q.kind ≠ 4 := by rw [hkind]; decide
  have h2 : q.kind ≠ 2 := by rw [hkind]; decide
  simp only [State.landPacket, hs, Bool.false_eq_true, if_false, h4, h2, hw, hst, hsleep, ne_eq, not_true_eq_false, false_and]

theorem landPacket_read {vc : Fin 8} (h : packetFor s q 2 p) (hs : s.special p q.win = false)
    (hw : alGet (s.part p).windows q.win = some w) (hst : s.windowStatus p w q q.rlen = 0)
    (hlo : 0 < q.rlen) (hhi : q.rlen ≤ 128) : s.landPacket p vc q = s.serveRead p vc w q := by
  obtain ⟨hkind, -, -, hsleep⟩ := h
  have h4 : (2 : Nat) ≠ 4 := by decide
  have hlen : ¬ (q.rlen = 0 ∨ 128 < q.rlen) := by omega
  simp only [State.landPacket, hs, Bool.false_eq_true, if_false, h4, hw, hst, hsleep, hlen, ne_eq, not_true_eq_false,
    and_false, hkind, if_true]

theorem packetFor_arrived {kind : Nat} (h : packetFor s q kind p) : packetFor (arrived s q) q kind p := by
  rw [arrived_eq]
  exact h

/-- A packet that is not badly formed carries as many words as its LENGTH says (R325). -/
theorem payload_length (h : Packet.bad q = false) : q.payload.length = q.length := by
  simp only [Packet.bad, Bool.or_eq_false_iff, bne_eq_false_iff_eq] at h
  exact h.1.2

/-! A WRITE lands (R160, R239). -/

/-- A core whose counter has grown, where it grows at all. -/
def Core.bumped (k : Core) (x : BitVec 5) (n : Nat) : Core := if n = 0 then k else k.bump x n

theorem Core.counter_bumped (k : Core) (x : BitVec 5) (n : Nat) (m : BitVec 5) : (k.bumped x n).counter m =
    { k.counter m with count := (k.counter m).count + if m = x then BitVec.ofNat 12 n else 0 } := by
  have he : (if x = m then BitVec.ofNat 12 n else 0) = if m = x then BitVec.ofNat 12 n else 0 := by simp only [eq_comm]
  unfold Core.bumped
  split
  · next hn => simp [hn]
  · rw [Core.counter_bump, he]

theorem Core.bumped_eq (k : Core) (x : BitVec 5) (n : Nat) : k.bumped x n = { k with counters := (k.bumped x n).counters } := by
  unfold Core.bumped
  split <;> rfl

/-- The state in which a WRITE has landed and is not yet answered. -/
def State.landed (s : State) (p : PartId) (w : Window) (q : Packet) : State :=
  let r := w.arrive q.payload.length
  let v := (s.pokeMany w.core (w.laddr.toNat + q.woff) q.payload).modPart p
    (fun k => { k with windows := alSet k.windows q.win r.2 })
  if r.1 = 0 then v else v.modCore w.core (fun k => k.bump w.acnt r.1)

theorem landWords_eq {vc : Fin 8} (h : s.mustHold (wordsAt w.core (w.laddr.toNat + q.woff) q.payload.length) = none) :
    s.landWords p vc w q = (s.landed p w q).ackWrite p vc q 0 := by
  simp only [State.landWords, h, State.landed]

theorem State.pokeMany_eq (c : CoreId) : ∀ (ws : List MWord) (a : Nat) (s : State),
    s.pokeMany c a ws = { s with cores := (s.pokeMany c a ws).cores }
  | [], _, _ => rfl
  | w :: ws, a, s => (State.pokeMany_eq c ws (a + 1) (s.poke c a w)).trans rfl

theorem State.core_pokeMany_other {x : CoreId} (h : x ≠ c) : ∀ (ws : List MWord) (a : Nat) (s : State),
    (s.pokeMany c a ws).core x = s.core x
  | [], _, _ => rfl
  | w :: ws, a, s => (State.core_pokeMany_other h ws (a + 1) (s.poke c a w)).trans ((s.core_poke c x a w).trans (if_neg h))

theorem State.landed_eq (s : State) (p : PartId) (w : Window) (q : Packet) :
    s.landed p w q = { s with cores := (s.landed p w q).cores, parts := (s.landed p w q).parts } := by
  unfold State.landed
  rw [State.pokeMany_eq]
  dsimp only
  split <;> rfl

theorem State.core_landed (s : State) (p : PartId) (w : Window) (q : Packet) (x : CoreId) : (s.landed p w q).core x =
    if x = w.core then ((s.pokeMany w.core (w.laddr.toNat + q.woff) q.payload).core w.core).bumped w.acnt
      (w.arrive q.payload.length).1
    else s.core x := by
  have hother : x ≠ w.core → (s.pokeMany w.core (w.laddr.toNat + q.woff) q.payload).core x = s.core x := fun h =>
    State.core_pokeMany_other h _ _ _
  unfold State.landed Core.bumped
  dsimp only
  by_cases hx : x = w.core
  · subst hx
    rw [if_pos rfl]
    split
    · rfl
    · rw [State.core_modCore_self]
      rfl
  · rw [if_neg hx]
    split
    · exact hother hx
    · rw [State.core_modCore, if_neg hx]
      exact hother hx

theorem State.part_landed (s : State) (p : PartId) (w : Window) (q : Packet) (x : PartId) : (s.landed p w q).part x =
    if x = p then { s.part p with windows := alSet (s.part p).windows q.win (w.arrive q.payload.length).2 } else s.part x := by
  have hpart : ∀ y, (s.pokeMany w.core (w.laddr.toNat + q.woff) q.payload).part y = s.part y := fun y => by
    rw [State.pokeMany_eq]
    rfl
  unfold State.landed
  dsimp only
  split
  · rw [State.part_modPart, hpart, hpart]
  · rw [State.part_modCore, State.part_modPart, hpart, hpart]

theorem State.peek_landed (h : s.memoriesWf) (p : PartId) (w : Window) (q : Packet) (x : CoreId) (y : Nat) :
    (s.landed p w q).peek x y = if x = w.core ∧ w.laddr.toNat + q.woff ≤ y ∧
      y < w.laddr.toNat + q.woff + q.payload.length then q.payload.getD (y - (w.laddr.toNat + q.woff)) 0 else s.peek x y := by
  rw [← State.peek_pokeMany w.core q.payload _ s h]
  unfold State.peek
  rw [State.core_landed]
  by_cases hx : x = w.core
  · rw [if_pos hx, hx, Core.bumped_eq]
  · rw [if_neg hx, State.core_pokeMany_other hx]

theorem Core.besideWords_counters {k k' : Core} (h : k'.besideWords = k.besideWords) (x : Vector Counter 32) :
    Core.besideWords { k' with counters := x } = Core.besideWords { k with counters := x } :=
  congrArg (fun b : Core => { b with counters := x }) h

/-- Beside its words the window's core changes by its counters. -/
theorem State.besideWords_landed (s : State) (p : PartId) (w : Window) (q : Packet) :
    ((s.landed p w q).core w.core).besideWords =
      Core.besideWords { s.core w.core with counters := ((s.landed p w q).core w.core).counters } := by
  rw [State.core_landed, if_pos rfl, Core.bumped_eq]
  exact Core.besideWords_counters ((State.storeKeeps_pokeMany w.core q.payload (w.laddr.toNat + q.woff) s).beside w.core) _

theorem State.counter_landed (s : State) (p : PartId) (w : Window) (q : Packet) (m : BitVec 5) :
    ((s.landed p w q).core w.core).counter m = { (s.core w.core).counter m with
      count := ((s.core w.core).counter m).count +
        if m = w.acnt then BitVec.ofNat 12 (w.arrive q.payload.length).1 else 0 } := by
  have hcounters : ((s.pokeMany w.core (w.laddr.toNat + q.woff) q.payload).core w.core).counters =
      (s.core w.core).counters :=
    (congrArg Core.counters ((State.storeKeeps_pokeMany w.core q.payload (w.laddr.toNat + q.woff) s).beside w.core) :)
  have hcounter : ((s.pokeMany w.core (w.laddr.toNat + q.woff) q.payload).core w.core).counter m =
      (s.core w.core).counter m := congrArg (fun l => l[m.toNat]) hcounters
  rw [State.core_landed, if_pos rfl, Core.counter_bumped, hcounter]

/-- What is left of a window's arrivals, and how often they have been full (R160). -/
theorem Window.arrive_eq (w : Window) (n : Nat) : w.arrive n =
    ((if w.acen = true ∧ w.arrv ≠ 0 then (w.count + n) / w.arrv.toNat else 0),
      { w with count := if w.acen = true ∧ w.arrv ≠ 0 then (w.count + n) % w.arrv.toNat else w.count }) := by
  unfold Window.arrive
  split <;> rfl

/-- An accepted WRITE lands and is answered. -/
theorem exec_rxWrite_lands (h : packetFor s q 0 p) (hs : s.special p q.win = false)
    (hw : alGet (s.part p).windows q.win = some w) (hst : s.windowStatus p w q q.length = 0)
    (hm : s.mustHold (wordsAt w.core (w.laddr.toNat + q.woff) q.length) = none) :
    exec (.rxWrite q) s = .next (((arrived s q).landed p w q).ackWrite p (s.arrive q).1 q 0) := by
  rw [execRxWrite_eq h hs]
  rw [landPacket_write (packetFor_arrived h) (by rw [arrived_eq]; exact hs) (by rw [arrived_eq]; exact hw)
    (by rw [arrived_eq]; exact hst), landWords_eq (by rw [arrived_eq, payload_length h.2.1]; exact hm)]

theorem State.took.landed (h : s.took u q) (p : PartId) (w : Window) : s.took (u.landed p w q) q := by
  rw [State.landed_eq]
  exact ⟨⟨h.routes.chip, h.routes.rte, h.routes.links⟩, h.transit⟩

/-- What the landing of a WRITE that has left the spines changes. -/
theorem landed_arrived (h : s.memoriesWf) (hlen : q.payload.length = q.length) (p : PartId) (w : Window) :
    let t := (arrived s q).landed p w q
    let a := w.laddr.toNat + q.woff
    s = { t with cores := s.cores, parts := s.parts, transit := s.transit } ∧
    (∀ (x : CoreId) (y : Nat), t.peek x y =
      if x = w.core ∧ a ≤ y ∧ y < a + q.length then q.payload.getD (y - a) 0 else s.peek x y) ∧
    (∀ x : CoreId, x ≠ w.core → t.core x = s.core x) ∧
    (t.core w.core).besideWords = Core.besideWords { s.core w.core with counters := (t.core w.core).counters } ∧
    (∀ m : BitVec 5, (t.core w.core).counter m = { (s.core w.core).counter m with
      count := ((s.core w.core).counter m).count + if m = w.acnt then BitVec.ofNat 12 (w.arrive q.length).1 else 0 }) ∧
    ∀ x : PartId, t.part x =
      if x = p then { s.part p with windows := alSet (s.part p).windows q.win (w.arrive q.length).2 } else s.part x := by
  rw [arrived_eq]
  refine ⟨?_, fun x y => ?_, fun x hx => ?_, ?_, fun m => ?_, fun x => ?_⟩
  · rw [State.landed_eq]
  · exact hlen ▸ State.peek_landed (s := { s with transit := (arrived s q).transit }) h p w q x y
  · exact (State.core_landed ..).trans (if_neg hx)
  · exact State.besideWords_landed ..
  · exact hlen ▸ State.counter_landed { s with transit := (arrived s q).transit } p w q m
  · exact hlen ▸ State.part_landed { s with transit := (arrived s q).transit } p w q x

/-! A READ_REQ is served (R160). -/

/-- Where the words of a READ_REQ lie in its TGET: what its tag says, or a free value (R324, Assumption 21). -/
theorem readOffset_cases (s : State) (q : Packet) : (s.readOffset q).2 = { s with draws := (s.readOffset q).2.draws } ∧
    ∀ (p : PartId) (c : CoreId) (x : Tag), q.srcChip = s.chipId.toNat → q.srcPart = p.val →
      s.coreOfRank p q.srcRank = some c → (s.core c).tags.find? (fun y => y.tag == q.tag && y.kind == 2) = some x →
      (s.readOffset q).1 = q.woff - x.woff.toNat := by
  refine ⟨?_, fun p c x hchip hpart hcore htag => ?_⟩
  · unfold State.readOffset
    dsimp only
    generalize (if q.srcChip = s.chipId.toNat ∧ q.srcPart < 12 then
      (s.coreOfRank (partOfNat q.srcPart) q.srcRank).bind
        (fun c => (s.core c).tags.find? (fun x => x.tag == q.tag && x.kind == 2)) else none) = own
    cases own with
    | none =>
      unfold State.draw
      dsimp only
    | some x => rfl
  · have hp : partOfNat q.srcPart = p := by rw [hpart, partOfNat_val]
    have hlt : q.srcPart < 12 := hpart ▸ p.isLt
    simp only [State.readOffset, hchip, hlt, and_self, if_true, hp, hcore, Option.bind_some, htag]

theorem State.sameOutside.eq (h : s.sameOutside t) : t = { s with cores := t.cores, evlog := t.evlog, draws := t.draws } := by
  unfold State.sameOutside at h
  rw [← h]

theorem ranks_congr (h : t.domOff = s.domOff) : t.ranks = s.ranks := by
  funext p
  unfold State.ranks State.enabled
  rw [h]

theorem coreOfRank_congr (h : t.domOff = s.domOff) : t.coreOfRank = s.coreOfRank := by
  funext p r
  rw [State.coreOfRank, State.coreOfRank, ranks_congr h]

theorem rankOf_congr (h : t.domOff = s.domOff) : t.rankOf = s.rankOf := by
  funext c
  rw [State.rankOf, State.rankOf, ranks_congr h]

/-- The state in which the words of a READ_REQ have been read, and the offset of its answer. -/
def State.readOut (s : State) (w : Window) (q : Packet) : Nat × State :=
  (s.corrections (wordsAt w.core (w.laddr.toNat + q.woff) q.rlen)).readOffset q

theorem serveRead_eq {vc : Fin 8} (hm : s.mustHold (wordsAt w.core (w.laddr.toNat + q.woff) q.rlen) = none)
    (hr : s.readable (wordsAt w.core (w.laddr.toNat + q.woff) q.rlen)) :
    s.serveRead p vc w q = (s.readOut w q).2.readResp p ((s.readOut w q).2.rankOf w.core) vc q 0 (s.readOut w q).1
      ((s.readOut w q).2.peekMany w.core (w.laddr.toNat + q.woff) q.rlen) := by
  simp only [State.serveRead, hm, State.firstBad_eq_none.2 hr, State.readOut]

/-- Reading the words keeps the state but for what the corrections of reads and free values change. -/
theorem issueKeeps_corrections_readOut (s : State) (w : Window) (q : Packet) :
    s.issueKeeps (s.corrections (wordsAt w.core (w.laddr.toNat + q.woff) q.rlen)) ∧
    (s.readOut w q).2 = { s.corrections (wordsAt w.core (w.laddr.toNat + q.woff) q.rlen) with
      draws := (s.readOut w q).2.draws } :=
  ⟨State.issueKeeps_corrections _ s, (readOffset_cases _ q).1⟩

/-- What a state keeps of `s` that corrects reads and draws a value once a packet has been taken off. -/
theorem issueKeeps_after_arrival (hk : (Claims.arrived s q).issueKeeps u) (hv : v = { u with draws := v.draws }) : s.took v q ∧
    s = { v with cores := s.cores, evlog := s.evlog, transit := s.transit, draws := s.draws } ∧
    s.sameWords v ∧ ∀ c : CoreId, (v.core c).settled = (s.core c).settled := by
  have hwords := hk.words
  have hsettled := hk.settled
  have htransit : v.transit = (Claims.arrived s q).transit := by rw [hv, hk.outside.eq]
  have hout := hk.outside.eq
  have ha := arrived_eq s q
  generalize Claims.arrived s q = r at hwords hsettled hout ha
  rw [ha] at hwords hsettled
  refine ⟨⟨⟨?_, ?_, ?_⟩, ?_⟩, ?_, fun c a => ?_, fun c => ?_⟩
  · rw [hv, hout, ha]
  · rw [hv, hout, ha]
  · rw [hv, hout, ha]
  · exact htransit
  · rw [hv, hout, ha]
  · rw [hv]; exact hwords c a
  · rw [hv]; exact hsettled c

/-- A READ_REQ within its window is answered with its words, and nothing else changes but what reads change. -/
theorem exec_rxReadReq_serves (h : packetFor s q 2 p) (hs : s.special p q.win = false)
    (hw : alGet (s.part p).windows q.win = some w) (hst : s.windowStatus p w q q.rlen = 0) (hlo : 0 < q.rlen)
    (hhi : q.rlen ≤ 128) (hm : s.mustHold (wordsAt w.core (w.laddr.toNat + q.woff) q.rlen) = none)
    (hr : s.readable (wordsAt w.core (w.laddr.toNat + q.woff) q.rlen)) :
    ∃ v off, exec (.rxReadReq q) s = .next (v.readResp p (s.rankOf w.core) (s.arrive q).1 q 0 off
        (s.peekMany w.core (w.laddr.toNat + q.woff) q.rlen)) ∧
      s.took v q ∧ s = { v with cores := s.cores, evlog := s.evlog, transit := s.transit, draws := s.draws } ∧
      s.sameWords v ∧ (∀ c : CoreId, (v.core c).settled = (s.core c).settled) ∧
      ∀ (p' : PartId) (c : CoreId) (x : Tag), q.srcChip = s.chipId.toNat → q.srcPart = p'.val →
        s.coreOfRank p' q.srcRank = some c → (s.core c).tags.find? (fun y => y.tag == q.tag && y.kind == 2) = some x →
        off = q.woff - x.woff.toNat := by
  have hland := landPacket_read (vc := (s.arrive q).1) (packetFor_arrived h) (by rw [arrived_eq]; exact hs)
    (by rw [arrived_eq]; exact hw) (by rw [arrived_eq]; exact hst) hlo hhi
  rw [serveRead_eq (by rw [arrived_eq]; exact hm) (by rw [arrived_eq]; exact hr)] at hland
  obtain ⟨hk, hdraw⟩ := issueKeeps_corrections_readOut (arrived s q) w q
  obtain ⟨htook, hout, hwords, hsettled⟩ := issueKeeps_after_arrival hk hdraw
  have hdom : ((arrived s q).readOut w q).2.domOff = s.domOff := (congrArg State.domOff hout).symm
  have hpeek : ((arrived s q).readOut w q).2.peekMany = s.peekMany := by
    funext c a n
    simp only [State.peekMany, hwords c]
  rw [rankOf_congr hdom, hpeek] at hland
  refine ⟨_, ((arrived s q).readOut w q).1, ?_, htook, hout, hwords, hsettled, fun p' c x hchip hpart hcore htag => ?_⟩
  · rw [execRxReadReq_eq h, hland]
  · obtain ⟨htook', hout', -, hsettled'⟩ := issueKeeps_after_arrival (v := (arrived s q).corrections
      (wordsAt w.core (w.laddr.toNat + q.woff) q.rlen)) hk rfl
    have hdom' : ((arrived s q).corrections (wordsAt w.core (w.laddr.toNat + q.woff) q.rlen)).domOff = s.domOff :=
      (congrArg State.domOff hout').symm
    refine (readOffset_cases _ q).2 p' c x (by rw [htook'.routes.chip]; exact hchip) hpart ?_ ?_
    · rw [coreOfRank_congr hdom']
      exact hcore
    · exact (congrArg (fun l => List.find? (fun y : Tag => y.tag == q.tag && y.kind == 2) l)
        (congrArg Core.tags (hsettled' c))).trans htag

/-! A packet that fails a check (R160). -/

/-- The log entry of a discarded packet. -/
def State.discardLogged (s : State) (p : PartId) (q : Packet) (st : Nat) : State :=
  (Claims.arrived s q).log 0x0009 (srcPart p) q.win q.srcChip q.srcPart (if st = 1 then stDENIED else stBOUNDS)

/-- An event beside a packet that has left the spines. -/
theorem took_log (s : State) (q : Packet) (code : Nat) (src : BitVec 16) (p0 p1 p2 p3 : Nat) :
    let v := (Claims.arrived s q).log code src p0 p1 p2 p3
    s.took v q ∧ s = { v with evlog := s.evlog, transit := s.transit } ∧ logged s v code src p0 p1 p2 p3 := by
  intro v
  have hlog : logged (Claims.arrived s q) v code src p0 p1 p2 p3 :=
    logged_log _ code src p0 p1 p2 p3
  obtain ⟨e, he, -⟩ := (Claims.arrived s q).log_eq code src p0 p1 p2 p3
  have hv : v = { Claims.arrived s q with evlog := e } := he
  have ht := took_arrived s q
  rw [hv] at hlog ⊢
  refine ⟨⟨⟨ht.routes.chip, ht.routes.rte, ht.routes.links⟩, ht.transit⟩, ?_, ?_⟩
  · rw [arrived_eq]
  · rw [arrived_eq] at hlog
    exact hlog

theorem took_discardLogged (s : State) (p : PartId) (q : Packet) (st : Nat) : s.took (s.discardLogged p q st) q ∧
    s = { s.discardLogged p q st with evlog := s.evlog, transit := s.transit } ∧
    logged s (s.discardLogged p q st) 0x0009 (srcPart p) q.win q.srcChip q.srcPart (if st = 1 then stDENIED else stBOUNDS) :=
  took_log ..

theorem discardAt_write (h : q.kind = 0) : (arrived s q).discardAt p (s.arrive q).1 q st =
    (s.discardLogged p q st).ackWrite p (s.arrive q).1 q st := if_pos h

theorem discardAt_read (h : q.kind = 2) : (arrived s q).discardAt p (s.arrive q).1 q st =
    (s.discardLogged p q st).readResp p 0 (s.arrive q).1 q st 0 [] := by
  have h0 : q.kind ≠ 0 := by rw [h]; decide
  exact (if_neg h0).trans (if_pos h)

theorem exec_rxWrite_discards (h : packetFor s q 0 p) (hs : s.special p q.win = false)
    (hw : alGet (s.part p).windows q.win = some w) (hst : s.windowStatus p w q q.length = st) (h0 : st ≠ 0) :
    exec (.rxWrite q) s = .next ((s.discardLogged p q st).ackWrite p (s.arrive q).1 q st) := by
  have h2 : q.kind ≠ 2 := by rw [h.1]; decide
  have h4 : q.kind ≠ 4 := by rw [h.1]; decide
  rw [execRxWrite_eq h hs, landPacket_discard (w := w) (st := st) (by rw [arrived_eq]; exact hs) h4
    (by rw [arrived_eq]; exact hw) (by rw [if_neg h2, arrived_eq]; exact hst) h0, discardAt_write h.1]

theorem exec_rxReadReq_discards (h : packetFor s q 2 p) (hs : s.special p q.win = false)
    (hw : alGet (s.part p).windows q.win = some w) (hst : s.windowStatus p w q q.rlen = st) (h0 : st ≠ 0) :
    exec (.rxReadReq q) s = .next ((s.discardLogged p q st).readResp p 0 (s.arrive q).1 q st 0 []) := by
  have h4 : q.kind ≠ 4 := by rw [h.1]; decide
  rw [execRxReadReq_eq h, landPacket_discard (w := w) (st := st) (by rw [arrived_eq]; exact hs) h4
    (by rw [arrived_eq]; exact hw) (by rw [if_pos h.1, arrived_eq]; exact hst) h0, discardAt_read h.1]

end

/-- Settles O39: a packet that is taken off the spines lands or is read, or is discarded and logged, and what answers it
goes by the routes as they were. -/
theorem packetsLandInTheirWindows : Obligations.PacketsLandInTheirWindows := by
  intro q p w s hwf hs hw a k src
  refine ⟨fun h hst hm => ?_, fun h hst hlo hhi hm hr => ?_, fun st hst12 => ?_⟩
  · intro n left
    have hlen := payload_length h.2.1
    obtain ⟨hout, hpeek, hcore, hself, hcounter, hpart⟩ := landed_arrived hwf hlen p w
    obtain ⟨ht, hack, hno⟩ := ((took_arrived s q).landed p w).ackWrite p 0
    have harr : w.arrive q.length = (n, { w with count := left }) := w.arrive_eq q.length
    rw [harr] at hcounter hpart
    refine ⟨_, exec_rxWrite_lands h hs hw hst hm, ?_, fun j hj => ?_, fun c y hy => ?_, fun c hc => ?_, ?_, fun m => ?_, ?_,
      fun x hx => ?_, ?_, fun x hx => ?_, hack, hno⟩
    · rw [ht]
      exact hout
    · rw [ht]
      refine (hpeek w.core (a + j)).trans ((if_pos ⟨rfl, by omega, by omega⟩).trans ?_)
      rw [Nat.add_sub_cancel_left]
    · rw [ht]
      exact (hpeek c y).trans (if_neg fun e => hy.elim (fun h => h e.1) (by omega))
    · rw [ht]
      exact hcore c hc
    · rw [ht]
      exact hself
    · rw [ht]
      exact hcounter m
    · rw [ht]
      refine (congrArg (fun k : Part => alGet k.windows q.win) ((hpart p).trans (if_pos rfl))).trans ?_
      exact (alGet_alSet _ _ _ _).trans (if_pos rfl)
    · rw [ht]
      refine (congrArg (fun k : Part => alGet k.windows x) ((hpart p).trans (if_pos rfl))).trans ?_
      exact (alGet_alSet _ _ _ _).trans (if_neg hx.symm)
    · rw [ht]
      exact (congrArg (fun k' : Part => { k' with windows := k.windows }) ((hpart p).trans (if_pos rfl))).symm
    · rw [ht]
      exact (hpart x).trans (if_neg hx)
  · obtain ⟨v, off, hx, htook, hout, hwords, hsettled, hoff⟩ := exec_rxReadReq_serves h hs hw hst hlo hhi hm hr
    obtain ⟨ht, hans⟩ := htook.readResp p (s.rankOf w.core) 0 off (s.peekMany w.core a q.rlen)
    refine ⟨_, off, hx, ?_, ?_, ?_, hans, hoff⟩
    · rw [ht]
      exact hout
    · rw [ht]
      exact hwords
    · rw [ht]
      exact hsettled
  · have h0 : st ≠ 0 := by omega
    obtain ⟨htook, hout, hlog⟩ := took_discardLogged s p q st
    refine ⟨fun h hst => ?_, fun h hst => ?_⟩
    · obtain ⟨ht, hack, -⟩ := htook.ackWrite p st
      refine ⟨_, exec_rxWrite_discards h hs hw hst h0, ?_, ?_, hack⟩
      · rw [ht]
        exact hout
      · rw [ht]
        exact hlog
    · obtain ⟨ht, hans⟩ := htook.readResp p 0 st 0 []
      refine ⟨_, exec_rxReadReq_discards h hs hw hst h0, ?_, ?_, hans⟩
      · rw [ht]
        exact hout
      · rw [ht]
        exact hlog

end Sys2Proof.Machine
end

section
/-! PROOF. Answers at their cores (R159, R344), and writes of the safety partition's registers (R370). -/

namespace Sys2Proof.Machine

open Claims

section
variable {s t u v : State} {q : Packet} {p : PartId} {c m : CoreId} {x : Tag}

/-! Where an answer goes. -/

theorem partOf_of_coreOfRank {r : Nat} (h : s.coreOfRank p r = some c) : partOf c = p :=
  mem_coresOf.1 (List.mem_filter.1 (List.mem_of_getElem? h)).1

theorem respCore_eq (hp : q.dstPart = p.val) (hc : s.coreOfRank p q.dstRank = some c) : (arrived s q).respCore q = some c := by
  rw [State.respCore, hp, partOfNat_val, arrived_eq]
  exact hc

theorem core_arrived (s : State) (q : Packet) (c : CoreId) : (arrived s q).core c = s.core c := by
  rw [arrived_eq]
  rfl

theorem part_arrived (s : State) (q : Packet) (p : PartId) : (arrived s q).part p = s.part p := by
  rw [arrived_eq]
  rfl

theorem evlog_arrived (s : State) (q : Packet) : (arrived s q).evlog = s.evlog := by
  rw [arrived_eq]

theorem exec_rxWriteAck (hk : q.kind = 1) (hb : Packet.bad q = false) :
    exec (.rxWriteAck q) s = .next ((arrived s q).takeAck q) := by
  change Host.Outcome.next _ = _
  rw [if_neg (not_not.2 hk), hb]
  rfl

theorem exec_rxReadResp (hk : q.kind = 3) (hb : Packet.bad q = false) :
    exec (.rxReadResp q) s = .next ((arrived s q).takeResp (s.arrive q).1 q) := by
  change Host.Outcome.next _ = _
  rw [if_neg (not_not.2 hk), hb]
  rfl

/-! What the core of an answer becomes (R159). -/

theorem onlyCore_modCore (s : State) (c : CoreId) (f : Core → Core) : onlyCore s (s.modCore c f) c (f (s.core c)) :=
  ⟨rfl, s.core_modCore_self c f, fun x hx => (s.core_modCore c f x).trans (if_neg hx)⟩

theorem onlyCore_answered (s : State) (c : CoreId) (x : Tag) : onlyCore s (s.answered c x) c (tagAnswered (s.core c) x) := by
  unfold State.answered tagAnswered
  split
  · exact onlyCore_modCore s c (fun k => k.tagDone x.tag)
  · exact onlyCore_modCore s c (fun k => k.setTag { x with owed := x.owed - 1 })

theorem answered_evlog (s : State) (c : CoreId) (x : Tag) : (s.answered c x).evlog = s.evlog := by
  unfold State.answered
  split <;> rfl

theorem tagOf_tag {k : Core} {n : Nat} (h : k.tagOf n = some x) : x.tag = n := by
  simpa using List.find?_some h

theorem takeAck_late (hr : s.respCore q = some c) (ht : (s.core c).tagOf q.tag = none) : s.takeAck q = s.lateResp c := by
  simp only [State.takeAck, hr, ht]

theorem takeAck_ok (hr : s.respCore q = some c) (ht : (s.core c).tagOf q.tag = some x) (hk : x.kind = 1) (ha : x.ack = true)
    (h0 : q.status = 0) : s.takeAck q = s.answered c x := by
  simp only [State.takeAck, hr, ht, hk, ha, and_self, if_true, h0]

theorem takeAck_fails (hr : s.respCore q = some c) (ht : (s.core c).tagOf q.tag = some x) (hk : x.kind = 1)
    (ha : x.ack = true) (h0 : q.status ≠ 0) : s.takeAck q = s.xferFail c x.tag (respStatus q.status) (respCause q.status) := by
  simp only [State.takeAck, hr, ht, hk, ha, and_self, if_true, h0, if_false]

section
variable {vc : Fin 8}

theorem takeResp_late (hr : s.respCore q = some c) (ht : (s.core c).tagOf q.tag = none) : s.takeResp vc q = s.lateResp c := by
  simp only [State.takeResp, hr, ht]

theorem takeResp_fails (hr : s.respCore q = some c) (ht : (s.core c).tagOf q.tag = some x) (hk : x.kind = 2)
    (h0 : q.status ≠ 0) : s.takeResp vc q = s.xferFail c x.tag (respStatus q.status) (respCause q.status) := by
  simp only [State.takeResp, hr, ht, hk, ne_eq, not_true_eq_false, h0, not_false_eq_true, if_true, if_false]

theorem takeResp_ok (hr : s.respCore q = some c) (ht : (s.core c).tagOf q.tag = some x) (hk : x.kind = 2)
    (h0 : q.status = 0) (hm : s.sel c x.lsel = some m)
    (hh : s.mustHold (wordsAt m (x.laddr.toNat + q.roff) q.payload.length) = none) :
    s.takeResp vc q = (s.pokeMany m (x.laddr.toNat + q.roff) q.payload).answered c x := by
  simp only [State.takeResp, hr, ht, hk, ne_eq, not_true_eq_false, h0, if_false, hm, hh]

end

/-- Words that are written change the memory of their core alone. -/
theorem State.core_pokeMany_memory (m : CoreId) (y : CoreId) : ∀ (ws : List MWord) (a : Nat) (s : State),
    (s.pokeMany m a ws).core y = { s.core y with memory := ((s.pokeMany m a ws).core y).memory }
  | [], _, _ => rfl
  | w :: ws, a, s => by
    have hpoke : (s.poke m a w).core y = { s.core y with memory := ((s.poke m a w).core y).memory } := by
      rw [State.core_poke]
      split
      · next e => rw [e]
      · rfl
    refine (State.core_pokeMany_memory m y ws (a + 1) (s.poke m a w)).trans ?_
    rw [hpoke]
    rfl

theorem tagAnswered_memory (k : Core) (M : Memory) (x : Tag) :
    tagAnswered { k with memory := M } x = { tagAnswered k x with memory := M } := by
  unfold tagAnswered
  split <;> rfl

theorem memory_answered (s : State) (c : CoreId) (x : Tag) (y : CoreId) : ((s.answered c x).core y).memory = (s.core y).memory := by
  unfold State.answered
  split
  · exact State.memory_modCore (by intro _; rfl) s c y
  · exact State.memory_modCore (by intro _; rfl) s c y

/-- A memory that changes by its words alone does so beside any core. -/
theorem Core.besideWords_memory {k k' : Core} {M : Memory} (hm : k'.memory = k.memory)
    (h : Core.besideWords { k with memory := M } = k.besideWords) : Core.besideWords { k' with memory := M } = k'.besideWords := by
  refine (congrArg (fun b : Core => { k'.besideWords with memory := b.memory }) h).trans ?_
  simp only [Core.besideWords, Core.settled, hm]

/-- What the answer of a TGET leaves (R158, R159). -/
theorem pokeMany_answered (h : s.memoriesWf) (a : Nat) (ws : List MWord) (c : CoreId) (x : Tag) :
    let t := (s.pokeMany m a ws).answered c x
    s.sameOutside t ∧ t.evlog = s.evlog ∧
    (∀ (y : CoreId) (z : Nat), t.peek y z = if y = m ∧ a ≤ z ∧ z < a + ws.length then ws.getD (z - a) 0 else s.peek y z) ∧
    (∀ y : CoreId, y ≠ c → (t.core y).besideWords = (s.core y).besideWords) ∧
    (t.core c).besideWords = Core.besideWords (tagAnswered (s.core c) x) ∧
    (t.core c).tags = (tagAnswered (s.core c) x).tags ∧ (t.core c).inflight = (tagAnswered (s.core c) x).inflight := by
  intro t
  have hk := State.storeKeeps_pokeMany m ws a s
  obtain ⟨hout, hself, hother⟩ := onlyCore_answered (s.pokeMany m a ws) c x
  have hcore := State.core_pokeMany_memory m c ws a s
  have ht : t.core c = { tagAnswered (s.core c) x with memory := ((s.pokeMany m a ws).core c).memory } := by
    rw [hself, hcore, tagAnswered_memory]
  refine ⟨hk.outside.trans hout, ?_, fun y z => ?_, fun y hy => ?_, ?_, by rw [ht], by rw [ht]⟩
  · rw [answered_evlog, State.pokeMany_eq]
  · rw [← State.peek_pokeMany m ws a s h]
    unfold State.peek
    rw [memory_answered]
  · rw [hother y hy]
    exact hk.beside y
  · rw [ht]
    have hmem : (tagAnswered (s.core c) x).memory = (s.core c).memory := by
      unfold tagAnswered
      split <;> rfl
    exact Core.besideWords_memory hmem ((congrArg Core.besideWords hcore).symm.trans (hk.beside c))

/-! An answer that is not OK (R159, R344). -/

/-- The state in which a tag is given up and its end is logged. -/
def State.tagFailed (s : State) (c : CoreId) (n status : Nat) : State :=
  ((s.modCore c (fun k => k.dropTag n)).modQueue c qXfer (fun k => { k with state := 4 })).log 0x0008 (srcCore c) n status 0 0

theorem xferFail_eq (s : State) (c : CoreId) (n status cause : Nat) :
    s.xferFail c n status cause = (s.tagFailed c n status).stopStep (partOf c) status cause := rfl

theorem part_tagFailed (s : State) (c : CoreId) (n status : Nat) (p : PartId) : (s.tagFailed c n status).part p = s.part p :=
  State.part_log ..

theorem core_tagFailed (s : State) (c : CoreId) (n status : Nat) : (s.tagFailed c n status).core c =
    { (s.core c).dropTag n with queues := (s.core c).queues.set qXfer { (s.core c).queue qXfer with state := 4 } } := by
  rw [State.tagFailed, State.core_log, State.core_modQueue, if_pos rfl, State.core_modCore_self]
  rfl

theorem peek_tagFailed (s : State) (c : CoreId) (n status : Nat) (y : CoreId) (z : Nat) :
    (s.tagFailed c n status).peek y z = s.peek y z := by
  unfold State.peek
  rw [State.tagFailed, State.core_log, State.memory_modQueue, State.memory_modCore (by intro _; rfl)]

/-- A stopped step ends its requests (R209, R363, R409). -/
theorem stopped_stopStep (h : running s p) (st cause : Nat) : stopped s (s.stopStep p st cause) p st cause := by
  obtain ⟨hs, hstate⟩ := h
  have hpart : (s.stopStep p st cause).part p = { (s.part p).stop s.time st cause with stops := [] } := by
    rw [State.part_stopStep s p p st cause hstate, if_pos rfl]
  rw [stopped, hpart]
  exact ⟨rfl, rfl, rfl, fun n x hx hr => Part.stop_ends (s.part p) s.time st cause hs hx hr⟩

theorem tagOf_halt_dropTag (k : Core) (n : Nat) (l : Vector Queue 10) :
    ({ k.dropTag n with queues := l } : Core).halt.tagOf n = none := by
  rw [Core.tagOf, List.find?_eq_none]
  intro y hy
  obtain ⟨hy, -⟩ := List.mem_filter.1 hy
  obtain ⟨-, hne⟩ := List.mem_filter.1 hy
  simpa using hne

/-- What the failure of a tag leaves. -/
theorem xferFail_stops (hr : running s (partOf c)) (n status cause : Nat) :
    let t := s.xferFail c n status cause
    s.sameWords t ∧ (t.core c).tagOf n = none ∧ ((t.core c).queue qXfer).state = 4 ∧ stopped s t (partOf c) status cause ∧
    logged s t 0x0008 (srcCore c) n status 0 0 := by
  intro t
  have hpart := part_tagFailed s c n status (partOf c)
  have hrun : running (s.tagFailed c n status) (partOf c) := running_congr hpart hr
  have hcore : t.core c = ((s.tagFailed c n status).core c).halt := by
    refine (State.core_stopStep ..).trans (if_pos ⟨hrun.2, rfl⟩)
  refine ⟨fun y z => ?_, ?_, ?_, stopped_congr hpart (stopped_stopStep hrun status cause), fun hroom => ?_⟩
  · exact (State.peek_stopStep ..).trans (peek_tagFailed ..)
  · rw [hcore, core_tagFailed]
    exact tagOf_halt_dropTag _ _ _
  · rw [hcore, core_tagFailed, Core.queue_halt]
    simp [Core.queue]
  · change _ ∈ ((s.tagFailed c n status).stopStep (partOf c) status cause).evlog.queue
    rw [State.stopStep_evlog]
    exact logged_log _ _ _ _ _ _ _ hroom

theorem sameWords_arrived (s : State) (q : Packet) : s.sameWords (arrived s q) := fun y z => by
  rw [arrived_eq]
  rfl

theorem xferFail_arrived (hp : partOf c = p) (hr : running s p) (n status cause : Nat) :
    let t := (arrived s q).xferFail c n status cause
    s.sameWords t ∧ (t.core c).tagOf n = none ∧ ((t.core c).queue qXfer).state = 4 ∧ stopped s t p status cause ∧
    logged s t 0x0008 (srcCore c) n status 0 0 := by
  subst hp
  obtain ⟨hwords, htag, hqueue, hstop, hlog⟩ :=
    xferFail_stops (running_congr (part_arrived s q (partOf c)) hr) n status cause
  refine ⟨fun y z => (hwords y z).trans (sameWords_arrived s q y z), htag, hqueue, stopped_congr (part_arrived s q _) hstop,
    fun hroom => hlog ?_⟩
  rw [evlog_arrived]
  exact hroom

/-! Registers of the safety partition (R370). -/

/-- A register that is written, or an event where it is not to be (R370). -/
def State.registerWritten (s : State) (q : Packet) : State :=
  let w := q.payload.headD 0
  let a := (wordLane w 0).toNat
  if protectedBits a = 0 then s.log 0x0019 (srcPart 0) a 0 0 0 else (s.writeReg a (wordLane w 1) (wordLane w 2)).2

theorem exec_sheepdogWrite (h : packetFor s q 0 0) (hs : s.safety = true) (hw : q.win = 0xFF) :
    exec (.sheepdogWrite q) s = .next (
      if q.srcChip ≠ s.chipId.toNat ∨ q.srcPart ≠ 0 ∨ q.length ≠ 1 then
        (s.discardLogged 0 q 1).ackWrite 0 (s.arrive q).1 q 1
      else ((arrived s q).registerWritten q).ackWrite 0 (s.arrive q).1 q 0) := by
  obtain ⟨hk, hb, hp, -⟩ := h
  have hguard : ¬ (q.kind ≠ 0 ∨ q.win ≠ 0xFF ∨ q.dstPart ≠ 0 ∨ s.safety = false) := by
    simp [hk, hw, hp, hs]
  have hchip : (arrived s q).chipId = s.chipId := by rw [arrived_eq]
  rw [← discardAt_write hk, ← hchip]
  change Host.Outcome.next _ = _
  rw [if_neg hguard, hb]
  rfl

/-- An answer changes what is in motion alone. -/
theorem ackWrite_transit (v : State) (p : PartId) (vc : Fin 8) (q : Packet) (st : Nat) :
    v.ackWrite p vc q st = { v with transit := (v.ackWrite p vc q st).transit } := by
  unfold State.ackWrite
  split
  · rw [State.reply_eq]
  · rfl

end

end Sys2Proof.Machine
end

section
/-! PROOF. Rows at their reduce region (R164, R166), and what answers and rows reach (R159, R344, R370). -/

namespace Sys2Proof.Machine

open Claims

section
variable {s t u v : State} {q : Packet} {p : PartId} {c : CoreId} {r : Region} {vc : Fin 8}

/-! What comes to an open region (R164). -/

theorem mem_rows_length {x : Nat × List (BitVec 32)} (h : x ∈ q.rows) : x.2.length = 128 * q.muleW := by
  obtain ⟨j, -, rfl⟩ := List.mem_map.1 h
  simp

/-- With nothing held at the ingress, a well-formed packet of rows comes to its region. -/
theorem exec_rxMuleRows (h : packetFor s q 4 p) (hs : s.special p q.win = false) (hh : (s.part p).heldPkts = [])
    (hr : s.regionAt p q.win = some (c, r)) :
    exec (.rxMuleRows q) s = .next ((arrived s q).landRows p (s.arrive q).1 c r q) := by
  obtain ⟨hk, hb, hp, hsleep⟩ := h
  have hpart : partOfNat q.dstPart = p := by rw [hp, partOfNat_val]
  have hland : (arrived s q).landPacket p (s.arrive q).1 q = (arrived s q).landRows p (s.arrive q).1 c r q := by
    have hspecial : (arrived s q).special p q.win = false := by rw [arrived_eq]; exact hs
    have hregion : (arrived s q).regionAt p q.win = some (c, r) := by rw [arrived_eq]; exact hr
    have hbehind : (s.part p).behind q = false := by simp [Part.behind, hh]
    simp only [State.landPacket, hspecial, Bool.false_eq_true, if_false, hk, if_true, hregion, hbehind, part_arrived, hsleep,
      ne_eq, not_true_eq_false]
  rw [← hland]
  change Host.Outcome.next (State.rx s 4 q) = _
  have hlen : ((arrived s q).part p).heldPkts.length = 0 := by rw [part_arrived, hh]; rfl
  simp only [State.rx, hk, ne_eq, not_true_eq_false, if_false, hb, Bool.false_eq_true, hpart]
  exact congrArg Host.Outcome.next (if_pos hlen)

/-! Rows that are added. -/

/-- A state that differs from `s` by the accumulators and the flags of core `c` alone. -/
structure State.rowed (s t : State) (c : CoreId) : Prop where
  state : t = { s with cores := t.cores }
  self : ∃ a f, t.core c = { s.core c with array := { (s.core c).array with acc := a }, flags := f }
  others : ∀ x : CoreId, x ≠ c → t.core x = s.core x

theorem State.rowed.refl (s : State) (c : CoreId) : s.rowed s c := ⟨rfl, ⟨_, _, rfl⟩, fun _ _ => rfl⟩

theorem State.rowed.trans (h : s.rowed t c) (h' : t.rowed u c) : s.rowed u c := by
  obtain ⟨a, f, hc⟩ := h.self
  obtain ⟨a', f', hc'⟩ := h'.self
  refine ⟨?_, ⟨a', f', by rw [hc', hc]⟩, fun x hx => (h'.others x hx).trans (h.others x hx)⟩
  rw [h'.state, h.state]

/-- The sums of a row's values with the accumulators, one rounding each. -/
def rowSums (acc : SMap 32) (row : Nat) (vs : List (BitVec 32)) : List (BitVec 32 × FmtFlags) :=
  vs.zipIdx.map (fun v => f32Add (smGet acc (128 * row + v.2)) v.1)

theorem State.core_addRow (s : State) (c : CoreId) (row : Nat) (vs : List (BitVec 32)) (x : CoreId) :
    (s.addRow c row vs).core x = if x = c then
      { s.core c with
        array := { (s.core c).array with
          acc := smSetMany (s.core c).array.acc (128 * row) ((rowSums (s.core c).array.acc row vs).map (·.1)) },
        flags := (s.core c).flags ||| orFlags (rowSums (s.core c).array.acc row vs) }
    else s.core x := by
  unfold State.addRow
  dsimp only
  rw [State.core_flag, State.core_modArray, State.core_modArray, if_pos rfl]
  split
  · rfl
  · rfl

theorem State.rowed_addRow (s : State) (c : CoreId) (row : Nat) (vs : List (BitVec 32)) : s.rowed (s.addRow c row vs) c :=
  ⟨rfl, ⟨_, _, (s.core_addRow c row vs c).trans (if_pos rfl)⟩, fun x hx => (s.core_addRow c row vs x).trans (if_neg hx)⟩

/-- An accumulator value once a row has been added. -/
theorem smGet_addRow (h : smWf (s.core c).array.acc = true) (row : Nat) (vs : List (BitVec 32)) (y : Nat) :
    smGet ((s.addRow c row vs).core c).array.acc y =
      if 128 * row ≤ y ∧ y < 128 * row + vs.length then
        (f32Add (smGet (s.core c).array.acc y) (vs.getD (y - 128 * row) 0)).1
      else smGet (s.core c).array.acc y := by
  rw [State.core_addRow, if_pos rfl]
  refine (smGet_smSetMany _ (128 * row) y h).trans ?_
  have hlen : ((rowSums (s.core c).array.acc row vs).map (·.1)).length = vs.length := by simp [rowSums]
  rw [hlen]
  split
  · next hy =>
    obtain ⟨j, rfl⟩ := Nat.exists_eq_add_of_le hy.1
    have hj : j < vs.length := by omega
    simp [rowSums, List.getD_eq_getElem?_getD, hj]
  · rfl

theorem accs_addRow (h : smWf (s.core c).array.acc = true) (row : Nat) (vs : List (BitVec 32)) :
    smWf ((s.addRow c row vs).core c).array.acc = true := by
  rw [State.core_addRow, if_pos rfl]
  exact smSetMany_wf _ h

theorem findIdx_source (h : q.source ∈ r.sources) : ∃ j, r.sources.findIdx? (· == q.source) = some j := by
  refine Option.ne_none_iff_exists'.1 fun hn => ?_
  simpa using List.findIdx?_eq_none_iff.1 hn q.source h

theorem findIdx_no_source (h : q.source ∉ r.sources) : r.sources.findIdx? (· == q.source) = none := by
  rw [List.findIdx?_eq_none_iff]
  intro x hx
  rw [beq_eq_false_iff_ne]
  exact fun e => h (e ▸ hx)

/-- The rows of a packet are all added, in the packet's order. -/
theorem takeRows_adds : ∀ (rows : List (Nat × List (BitVec 32))) (s : State) (r : Region), q.source ∈ r.sources →
    (s.core c).fixedOrder = false → smWf (s.core c).array.acc = true →
    (∀ x ∈ rows, (x.1 + 1) * q.muleW ≤ r.rows.toNat ∧ x.2.length = 128 * q.muleW) →
    s.rowed (s.takeRows c q r rows).1 c ∧
    (s.takeRows c q r rows).2 = { r with added := (rows.map (fun x => (q.source, x.1))).reverse ++ r.added } ∧
    ∀ y, smGet ((s.takeRows c q r rows).1.core c).array.acc y =
      rowsAdded r.accBase.toNat q.muleW y (smGet (s.core c).array.acc y) rows
  | [], s, r, _, _, _, _ => ⟨.refl s c, rfl, fun _ => rfl⟩
  | (i, vs) :: rows, s, r, hsrc, hfree, hacc, hrows => by
    obtain ⟨⟨hfit, hlen⟩, hrest⟩ := List.forall_mem_cons.1 hrows
    obtain ⟨j, hj⟩ := findIdx_source hsrc
    have htake : s.takeRows c q r ((i, vs) :: rows) = (s.addRow c (r.accBase.toNat + i * q.muleW) vs).takeRows c q
        { r with added := (q.source, i) :: r.added } rows := by
      simp only [State.takeRows, hj, Nat.not_lt.2 hfit, if_false, hfree, true_or, if_true]
    have hrow := s.rowed_addRow c (r.accBase.toNat + i * q.muleW) vs
    have hfree' : ((s.addRow c (r.accBase.toNat + i * q.muleW) vs).core c).fixedOrder = false := by
      obtain ⟨_, _, he⟩ := hrow.self
      rw [he]
      exact hfree
    obtain ⟨ht, hr, hy⟩ := takeRows_adds rows _ { r with added := (q.source, i) :: r.added } hsrc hfree'
      (accs_addRow hacc _ _) hrest
    rw [htake]
    refine ⟨hrow.trans ht, ?_, fun y => ?_⟩
    · rw [hr]
      simp
    · rw [hy, smGet_addRow hacc, hlen]
      rfl

/-! What follows the rows: the end of a source and of the region (R163, R164). -/

/-- A region that has seen the end of a packet's source, where the packet carries it. -/
def Region.withEnd (r : Region) (q : Packet) : Region :=
  if q.field 44 1 = 1 ∧ r.sources.contains q.source ∧ !r.ended.contains q.source then
    { r with ended := q.source :: r.ended } else r

theorem withEnd_of_source (h : q.source ∈ r.sources) : r.withEnd q = { r with
    ended := if q.kflags % 2 = 1 ∧ q.source ∉ r.ended then q.source :: r.ended else r.ended } := by
  have hiff : (q.field 44 1 = 1 ∧ r.sources.contains q.source ∧ !r.ended.contains q.source) ↔
      (q.kflags % 2 = 1 ∧ q.source ∉ r.ended) := by
    rw [field_kflags]
    simp [h]
  unfold Region.withEnd
  by_cases hx : q.kflags % 2 = 1 ∧ q.source ∉ r.ended
  · rw [if_pos (hiff.2 hx), if_pos hx]
  · rw [if_neg (mt hiff.1 hx), if_neg hx]

theorem withEnd_of_no_source (h : q.source ∉ r.sources) : r.withEnd q = r := if_neg fun hx => h (by simpa using hx.2.1)

theorem withEnd_of_no_end (h : q.kflags % 2 = 0) : r.withEnd q = r := if_neg fun hx => by
  rw [field_kflags] at hx
  omega

theorem releaseRows_none (h : r.nextHeld = none) : ∀ n : Nat, s.releaseRows c r n = (s, r)
  | 0 => rfl
  | n + 1 => by simp only [State.releaseRows, h]

theorem nextHeld_of_no_held (h : r.held = []) : r.nextHeld = none := by
  rw [Region.nextHeld, h]
  rfl

/-- Once the rows have been taken and none that is held is due, the region is closed or stays. -/
theorem landRows_eq {x : State × Region} (hx : s.takeRows c q r q.rows = x) (hf : q.field 46 2 ≠ 3)
    (hroom : s.noRoom c q r = false) (hn : (x.2.withEnd q).nextHeld = none) : s.landRows p vc c r q =
      if (x.2.withEnd q).complete then x.1.modCore c (fun k => k.closeRegion (x.2.withEnd q).win)
      else x.1.setRegion c (x.2.withEnd q) := by
  subst hx
  have hrel := releaseRows_none (s := (s.takeRows c q r q.rows).1) (c := c) hn ((s.takeRows c q r q.rows).2.withEnd q).held.length
  unfold Region.withEnd at hrel ⊢
  simp only [State.landRows, hf, if_false, hroom, Bool.false_eq_true, hrel]

/-- A region that holds no row is complete once every source has ended. -/
theorem complete_iff (h : r.held = []) : r.complete = true ↔ ∀ x ∈ r.sources, x ∈ r.ended := by
  simp [Region.complete, h]

/-- A core whose region of that number is `r`. -/
def Core.withRegion (k : Core) (r : Region) : Core :=
  { k with regions := k.regions.map (fun y => if y.win = r.win then r else y) }

theorem State.core_setRegion (s : State) (c : CoreId) (r : Region) (x : CoreId) : (s.setRegion c r).core x =
    if x = c then (s.core c).withRegion r else s.core x :=
  s.core_modCore c _ x

/-! Rows of a source that the region does not list (R166). -/

theorem satAdd_satAdd {w : Nat} (x : BitVec w) (a b : Nat) : satAdd (satAdd x a) b = satAdd x (a + b) := by
  have hpos : 0 < 2 ^ w := Nat.two_pow_pos w
  have hmin : min (x.toNat + a) (2 ^ w - 1) < 2 ^ w := by omega
  unfold satAdd
  rw [BitVec.toNat_ofNat, Nat.mod_eq_of_lt hmin]
  congr 1
  omega

theorem mem_log {e : Ev} (h : e ∈ s.evlog.queue) (code : Nat) (src : BitVec 16) (p0 p1 p2 p3 : Nat) :
    e ∈ (s.log code src p0 p1 p2 p3).evlog.queue := by
  unfold State.log
  split
  · exact List.mem_append_left _ h
  · exact h

/-- Core `c` has counted `n` discarded rows, and differs by its mark besides; what is logged only grows. -/
structure State.dropped (s t : State) (c : CoreId) (n : Nat) : Prop where
  outside : s.sameOutside t
  self : ∃ d, t.core c = { s.core c with muleDiscard := satAdd (s.core c).muleDiscard n, marks := d }
  others : ∀ x : CoreId, x ≠ c → t.core x = s.core x
  log : ∀ e ∈ s.evlog.queue, e ∈ t.evlog.queue

theorem State.dropped.trans {n n' : Nat} (h : s.dropped t c n) (h' : t.dropped u c n') : s.dropped u c (n + n') := by
  obtain ⟨d, hc⟩ := h.self
  obtain ⟨d', hc'⟩ := h'.self
  refine ⟨h.outside.trans h'.outside, ⟨d', ?_⟩, fun x hx => (h'.others x hx).trans (h.others x hx),
    fun e he => h'.log e (h.log e he)⟩
  rw [hc', hc, satAdd_satAdd]

theorem State.dropped.memory {n : Nat} (h : s.dropped t c n) (y : CoreId) : (t.core y).memory = (s.core y).memory := by
  by_cases hy : y = c
  · obtain ⟨d, hc⟩ := h.self
    rw [hy, hc]
  · rw [h.others y hy]

/-- The state in which a discarded row has been counted and marked, and is not yet logged. -/
def State.muleMarked (s : State) (c : CoreId) : State :=
  (s.modCore c (fun k => { k with muleDiscard := satAdd k.muleDiscard 1 })).modCore c
    (fun k => { k with marks := { k.marks with muleRow := true } })

theorem muleDrop_marked (h : (s.core c).marks.muleRow = true) (q : Packet) (row : Nat) :
    s.muleDrop c q row = s.modCore c (fun k => { k with muleDiscard := satAdd k.muleDiscard 1 }) := by
  unfold State.muleDrop
  dsimp only
  rw [if_pos (by rw [State.core_modCore_self]; exact h)]

theorem muleDrop_unmarked (h : (s.core c).marks.muleRow = false) (q : Packet) (row : Nat) :
    s.muleDrop c q row = (s.muleMarked c).log 0x000A (srcCore c) q.win q.source row 0 := by
  unfold State.muleDrop
  dsimp only
  rw [if_neg (by rw [State.core_modCore_self, h]; exact Bool.false_ne_true)]
  rfl

theorem State.dropped_muleMarked (s : State) (c : CoreId) : s.dropped (s.muleMarked c) c 1 := by
  refine ⟨rfl, ⟨{ (s.core c).marks with muleRow := true }, ?_⟩, fun x hx => ?_, fun _ he => he⟩
  · rw [State.muleMarked, State.core_modCore_self, State.core_modCore_self]
  · rw [State.muleMarked, State.core_modCore, if_neg hx, State.core_modCore, if_neg hx]

theorem State.dropped_log (s : State) (c : CoreId) (code : Nat) (src : BitVec 16) (p0 p1 p2 p3 : Nat) :
    s.dropped (s.log code src p0 p1 p2 p3) c 0 :=
  ⟨(State.issueKeeps_log ..).outside, ⟨(s.core c).marks, by rw [State.core_log, satAdd_zero]⟩, fun _ _ => State.core_log ..,
    fun _ he => mem_log he ..⟩

theorem State.dropped_muleDrop (s : State) (c : CoreId) (q : Packet) (row : Nat) : s.dropped (s.muleDrop c q row) c 1 := by
  cases h : (s.core c).marks.muleRow with
  | true =>
    rw [muleDrop_marked h]
    exact ⟨rfl, ⟨_, s.core_modCore_self c _⟩, fun x hx => (s.core_modCore c _ x).trans (if_neg hx), fun _ he => he⟩
  | false =>
    rw [muleDrop_unmarked h]
    exact (s.dropped_muleMarked c).trans (State.dropped_log ..)

/-- The first row that is discarded in a step is logged (R166). -/
theorem logged_muleDrop (h : (s.core c).marks.muleRow = false) (q : Packet) (row : Nat) :
    logged s (s.muleDrop c q row) 0x000A (srcCore c) q.win q.source row 0 := by
  rw [muleDrop_unmarked h]
  exact logged_log (s.muleMarked c) 0x000A (srcCore c) q.win q.source row 0

theorem takeRows_drops (h : q.source ∉ r.sources) : ∀ (rows : List (Nat × List (BitVec 32))) (s : State),
    (s.takeRows c q r rows).2 = r ∧ s.dropped (s.takeRows c q r rows).1 c rows.length ∧
    ((s.core c).marks.muleRow = false → ∀ x ∈ rows.head?,
      logged s (s.takeRows c q r rows).1 0x000A (srcCore c) q.win q.source x.1 0)
  | [], s => ⟨rfl, ⟨rfl, ⟨_, by rw [List.length_nil, satAdd_zero]; rfl⟩, fun _ _ => rfl, fun _ he => he⟩, nofun⟩
  | (i, vs) :: rows, s => by
    have htake : s.takeRows c q r ((i, vs) :: rows) = (s.muleDrop c q i).takeRows c q r rows := by
      simp only [State.takeRows, findIdx_no_source h]
    obtain ⟨hr, hd, -⟩ := takeRows_drops h rows (s.muleDrop c q i)
    rw [htake]
    refine ⟨hr, ?_, fun hmark x hx hroom => ?_⟩
    · rw [List.length_cons, Nat.add_comm]
      exact (s.dropped_muleDrop c q i).trans hd
    · cases hx
      exact hd.log _ (logged_muleDrop hmark q i hroom)

/-! A row that waits for the sources before its own (R164). -/

theorem noRoom_of_free (h : (s.core c).fixedOrder = false) : s.noRoom c q r = false := by
  rw [State.noRoom, h, Bool.false_and]

theorem noRoom_of_no_source (h : q.source ∉ r.sources) : s.noRoom c q r = false := by
  simp only [State.noRoom, findIdx_no_source h, Bool.and_false]

/-- Nothing that a source holds alone fills its share of the buffer. -/
theorem noRoom_of_no_held (h : r.held = []) (hlen : q.payload.length ≤ 128) : s.noRoom c q r = false := by
  unfold State.noRoom
  cases r.sources.findIdx? (· == q.source) with
  | none => rw [Bool.and_false]
  | some j =>
    have hbytes : ¬ 4096 < r.heldBytes j + q.payload.length * 32 := by
      simp only [Region.heldBytes, h, List.filter_nil, List.map_nil, List.foldl_nil]
      omega
    simp [hbytes]

/-- A row whose turn has not come is held. -/
theorem takeRows_holds {i j : Nat} {vs : List (BitVec 32)} (hrows : q.rows = [(i, vs)])
    (hj : r.sources.findIdx? (· == q.source) = some j) (hf : (s.core c).fixedOrder = true) (hm : r.mayAdd j i = false)
    (hfit : (i + 1) * q.muleW ≤ r.rows.toNat) : s.takeRows c q r q.rows = (s, { r with
      held := r.held ++ [{ src := j, row := i, w := q.muleW, size := q.payload.length * 32, vals := vs }] }) := by
  have hsize : q.payload.length * 32 / q.rows.length = q.payload.length * 32 := by rw [hrows, List.length_singleton, Nat.div_one]
  have hstep : s.takeRows c q r [(i, vs)] = (s, { r with
      held := r.held ++ [{ src := j, row := i, w := q.muleW, size := q.payload.length * 32 / q.rows.length, vals := vs }] }) := by
    simp [State.takeRows, hj, Nat.not_lt.2 hfit, hf, hm]
  rw [hsize] at hstep
  rw [← hstep, hrows]

theorem mayAdd_eq_false {i j : Nat} (h : ∃ x ∈ r.sources.take j, x ∉ r.ended ∧ (x, i) ∉ r.added) : r.mayAdd j i = false := by
  obtain ⟨x, hx, he, ha⟩ := h
  rw [Region.mayAdd, List.all_eq_false]
  exact ⟨x, hx, by simp [he, ha]⟩

/-! What rows leave, with the packet off the spines. -/

/-- A change of the core's regions and instructions, after rows. -/
theorem State.rowed.modCore (h : s.rowed v c) {g : Core → Core} (ha : ∀ k : Core, (g k).array = k.array)
    (hv : ∀ k : Core, (g k).vec = k.vec) (hm : ∀ k : Core, (g k).memory = k.memory) :
    let t := v.modCore c g
    s.sameOutside t ∧ t.evlog = s.evlog ∧ s.sameWords t ∧ (∀ x : CoreId, x ≠ c → t.core x = s.core x) ∧
    (t.core c).vec = (s.core c).vec ∧ (t.core c).memory = (s.core c).memory ∧
    (t.core c).array.acc = (v.core c).array.acc := by
  intro t
  obtain ⟨a, f, hc⟩ := h.self
  have hself : t.core c = g (v.core c) := v.core_modCore_self c g
  have hother : ∀ x : CoreId, x ≠ c → t.core x = s.core x := fun x hx =>
    ((v.core_modCore c g x).trans (if_neg hx)).trans (h.others x hx)
  have hmem : (t.core c).memory = (s.core c).memory := by rw [hself, hm, hc]
  have ht : t = { s with cores := t.cores } := by
    change { v with cores := _ } = _
    rw [h.state]
    rfl
  refine ⟨?_, ?_, fun x y => ?_, hother, by rw [hself, hv, hc], hmem, by rw [hself, ha]⟩
  · rw [ht]
    rfl
  · rw [ht]
  · unfold State.peek
    by_cases hx : x = c
    · rw [hx, hmem]
    · rw [hother x hx]

/-- A change of the core's regions and instructions, once the packet's rows have been added. -/
theorem State.rowed.modCore_arrived (h : (Claims.arrived s q).rowed v c) {g : Core → Core} (ha : ∀ k : Core, (g k).array = k.array)
    (hv : ∀ k : Core, (g k).vec = k.vec) (hm : ∀ k : Core, (g k).memory = k.memory) :
    let t := v.modCore c g
    (Claims.arrived s q).sameOutside t ∧ t.evlog = s.evlog ∧ s.sameWords t ∧ (∀ x : CoreId, x ≠ c → t.core x = s.core x) ∧
    (t.core c).vec = (s.core c).vec ∧ (t.core c).memory = (s.core c).memory ∧
    (t.core c).array.acc = (v.core c).array.acc := by
  obtain ⟨hout, hlog, hwords, hother, hvec, hmem, hacc⟩ := h.modCore ha hv hm
  rw [core_arrived] at hvec hmem
  exact ⟨hout, hlog.trans (evlog_arrived s q), fun y z => (hwords y z).trans (sameWords_arrived s q y z),
    fun x hx => (hother x hx).trans (core_arrived s q x), hvec, hmem, hacc⟩

/-- A region after a packet of a listed source, all of whose rows have been added. -/
def Region.afterRows (r : Region) (q : Packet) : Region := { r with
  ended := if q.kflags % 2 = 1 ∧ q.source ∉ r.ended then q.source :: r.ended else r.ended,
  added := (q.rows.map (fun y => (q.source, y.1))).reverse ++ r.added }

/-- The rows of a listed source are added, and the region stays or is closed. -/
theorem landRows_adds (hsrc : q.source ∈ r.sources) (hfree : (s.core c).fixedOrder = false)
    (hacc : smWf (s.core c).array.acc = true) (hfit : ∀ x ∈ q.rows, (x.1 + 1) * q.muleW ≤ r.rows.toNat)
    (hf : q.field 46 2 ≠ 3) (hheld : r.held = []) :
    ∃ v, s.rowed v c ∧ (∀ y, smGet (v.core c).array.acc y =
        rowsAdded r.accBase.toNat q.muleW y (smGet (s.core c).array.acc y) q.rows) ∧
      s.landRows p vc c r q = if (r.afterRows q).complete then v.modCore c (fun k => k.closeRegion r.win)
        else v.setRegion c (r.afterRows q) := by
  obtain ⟨hv, hr, hy⟩ := takeRows_adds q.rows s r hsrc hfree hacc fun x hx => ⟨hfit x hx, mem_rows_length hx⟩
  have hend : (s.takeRows c q r q.rows).2.withEnd q = r.afterRows q := by
    rw [hr]
    exact withEnd_of_source (r := { r with added := (q.rows.map (fun y => (q.source, y.1))).reverse ++ r.added }) hsrc
  have hland := landRows_eq (vc := vc) (p := p) (s := s) (c := c) (r := r) (x := s.takeRows c q r q.rows) rfl hf
    (noRoom_of_free hfree) (by rw [hend]; exact nextHeld_of_no_held hheld)
  rw [hend] at hland
  exact ⟨_, hv, hy, hland⟩

/-- A row whose turn has not come leaves the region with it. -/
theorem landRows_holds {i j : Nat} {vs : List (BitVec 32)} (hrows : q.rows = [(i, vs)])
    (hj : r.sources.findIdx? (· == q.source) = some j) (hfix : (s.core c).fixedOrder = true)
    (hwait : ∃ x ∈ r.sources.take j, x ∉ r.ended ∧ (x, i) ∉ r.added) (hfit : (i + 1) * q.muleW ≤ r.rows.toNat)
    (hlen : q.payload.length ≤ 128) (hend : q.kflags % 2 = 0) (hf : q.field 46 2 ≠ 3) (hheld : r.held = []) :
    s.landRows p vc c r q = s.setRegion c { r with
      held := [{ src := j, row := i, w := q.muleW, size := q.payload.length * 32, vals := vs }] } := by
  have hm := mayAdd_eq_false hwait
  have htake := takeRows_holds hrows hj hfix hm hfit
  rw [hheld, List.nil_append] at htake
  have hdue : Region.nextHeld { r with
      held := [{ src := j, row := i, w := q.muleW, size := q.payload.length * 32, vals := vs }] } = none := by
    have hm' : Region.mayAdd { r with
      held := [{ src := j, row := i, w := q.muleW, size := q.payload.length * 32, vals := vs }] } j i = false := hm
    simp [Region.nextHeld, hm']
  have hland := landRows_eq (vc := vc) (p := p) htake hf (noRoom_of_no_held hheld hlen) (by
    rw [withEnd_of_no_end hend]
    exact hdue)
  rw [withEnd_of_no_end hend, if_neg (by simp [Region.complete])] at hland
  exact hland

/-- Rows of a source that the region does not list leave an open region as it was. -/
theorem landRows_drops (hsrc : q.source ∉ r.sources) (hopen : ∃ x ∈ r.sources, x ∉ r.ended) (hf : q.field 46 2 ≠ 3)
    (hheld : r.held = []) : s.landRows p vc c r q = (s.takeRows c q r q.rows).1.setRegion c r := by
  obtain ⟨hr, -, -⟩ := takeRows_drops (c := c) hsrc q.rows s
  have hend : (s.takeRows c q r q.rows).2.withEnd q = r := by rw [hr, withEnd_of_no_source hsrc]
  have hland := landRows_eq (vc := vc) (p := p) (s := s) (c := c) (r := r) (x := s.takeRows c q r q.rows) rfl hf
    (noRoom_of_no_source hsrc) (by rw [hend]; exact nextHeld_of_no_held hheld)
  have hnot : ¬ r.complete = true := fun hx => by
    obtain ⟨x, hx', he⟩ := hopen
    exact he ((complete_iff hheld).1 hx x hx')
  rw [hend, if_neg hnot] at hland
  exact hland

end

/-- Settles O40: an answer changes the tags of its core once the words are written; one that is not OK stops the step; the
rows of a packet are added one after another, and then the region is closed or stays. -/
theorem answersAndRowsReachTheirCores : Obligations.AnswersAndRowsReachTheirCores := by
  refine ⟨⟨fun q p c s hwf hb hp hc => ?_, fun q s h hsafe hwin => ?_⟩, fun q p c r s h hs hh hr hf hheld haccs => ?_⟩
  · have hresp := respCore_eq hp hc
    intro k u
    have hk : u.core c = k := core_arrived s q c
    refine ⟨fun hkind ht => ?_, fun hkind ht => ?_, fun x ht => ⟨fun hkind hx ha h0 => ?_, fun m hkind hx h0 hm => ?_,
      fun hrun hst i hi hack hres => ?_⟩⟩
    · rw [← hk] at ht ⊢
      exact ⟨_, exec_rxWriteAck hkind hb, by rw [takeAck_late hresp ht]; exact onlyCore_modCore u c _⟩
    · rw [← hk] at ht ⊢
      exact ⟨_, exec_rxReadResp hkind hb, by rw [takeResp_late hresp ht]; exact onlyCore_modCore u c _⟩
    · rw [← hk] at ht ⊢
      exact ⟨_, exec_rxWriteAck hkind hb, by rw [takeAck_ok hresp ht hx ha h0]; exact onlyCore_answered u c x⟩
    · intro a hfree
      rw [← hk] at ht ⊢
      have hlen := payload_length hb
      have hwf' : u.memoriesWf := fun y => by rw [core_arrived]; exact hwf y
      obtain ⟨hout, hlog, hpeek, hother, hself, htags, hfl⟩ := pokeMany_answered (m := m) hwf' a q.payload c x
      rw [hlen] at hpeek
      refine ⟨_, exec_rxReadResp hkind hb, ?_⟩
      rw [takeResp_ok (m := m) hresp ht hx h0 (by rw [arrived_eq]; exact hm) (by rw [hlen, arrived_eq]; exact hfree)]
      refine ⟨hout, hlog.trans (evlog_arrived s q), fun j hj => ?_, fun y z hyz => ?_, fun y hy => ?_, hself, htags, hfl⟩
      · rw [hpeek, if_pos ⟨rfl, by omega, by omega⟩, Nat.add_sub_cancel_left]
      · rw [hpeek, if_neg fun e => hyz.elim (fun h => h e.1) (by omega)]
        exact sameWords_arrived s q y z
      · rw [hother y hy, core_arrived]
    · have htag := tagOf_tag ht
      have hne : q.status ≠ 0 := by omega
      have hstop := xferFail_arrived (q := q) (partOf_of_coreOfRank hc) hrun x.tag (respStatus q.status) (respCause q.status)
      have ht' : ((arrived s q).core c).tagOf q.tag = some x := by rw [core_arrived]; exact ht
      rw [← htag]
      rcases List.mem_cons.1 hi with rfl | hi
      · obtain ⟨hkind, hx, ha⟩ := hack rfl
        exact ⟨_, exec_rxWriteAck hkind hb, by rw [takeAck_fails hresp ht' hx ha hne]; exact hstop⟩
      · obtain rfl := List.mem_singleton.1 hi
        obtain ⟨hkind, hx⟩ := hres rfl
        exact ⟨_, exec_rxReadResp hkind hb, by rw [takeResp_fails hresp ht' hx hne]; exact hstop⟩
  · intro w a u
    have hx := exec_sheepdogWrite h hsafe hwin
    have hgood : q.srcChip = s.chipId.toNat → q.srcPart = 0 → q.length = 1 →
        ¬ (q.srcChip ≠ s.chipId.toNat ∨ q.srcPart ≠ 0 ∨ q.length ≠ 1) := fun h1 h2 h3 => by simp [h1, h2, h3]
    refine ⟨fun hchip hpart hlen => ⟨fun h0 => ?_, fun h0 => ?_⟩, fun hbad => ?_⟩
    · obtain ⟨htook, hout, hlog⟩ := took_log s q 0x0019 (srcPart 0) a 0 0 0
      obtain ⟨ht, hack, -⟩ := htook.ackWrite 0 0
      rw [if_neg (hgood hchip hpart hlen), State.registerWritten, if_pos h0] at hx
      refine ⟨_, hx, ?_, ?_, hack⟩
      · rw [ht]
        exact hout
      · rw [ht]
        exact hlog
    · rw [if_neg (hgood hchip hpart hlen), State.registerWritten, if_neg h0] at hx
      exact ⟨_, hx, ackWrite_transit ..⟩
    · obtain ⟨htook, hout, hlog⟩ := took_discardLogged s 0 q 1
      obtain ⟨ht, -, -⟩ := htook.ackWrite 0 1
      rw [if_pos hbad] at hx
      refine ⟨_, hx, ?_, ?_⟩
      · rw [ht]
        exact hout
      · rw [ht]
        exact hlog
  · have hx := exec_rxMuleRows h hs hh hr
    have hk := core_arrived s q c
    intro k w fin ended
    refine ⟨fun hsrc hfree hfit => ?_, fun i j vs hrows hj hfix hwait hfit hlen hend => ?_, fun hsrc hopen => ?_⟩
    · obtain ⟨v, hv, hy, hland⟩ := landRows_adds (s := arrived s q) (p := p) (vc := (s.arrive q).1) hsrc
        (by rw [hk]; exact hfree) (by rw [hk]; exact haccs c) hfit hf hheld
      obtain ⟨a, f, hc⟩ := hv.self
      rw [hland] at hx
      rw [hk] at hc hy
      refine ⟨_, hx, ?_⟩
      by_cases hall : ∀ x ∈ r.sources, x ∈ ended
      · have hcore := v.core_modCore_self c (fun k => k.closeRegion r.win)
        obtain ⟨hout, hlog, hwords, hother, hvec, hmem, hacc⟩ := hv.modCore_arrived (g := fun k => k.closeRegion r.win)
          (fun _ => rfl) (fun _ => rfl) (fun _ => rfl)
        rw [if_pos ((complete_iff (r := r.afterRows q) hheld).2 hall)]
        refine ⟨hout, hlog, hwords, hother, hvec, hmem, fun y => (congrArg (smGet · y) hacc).trans (hy y), fun hn => ?_,
          fun _ => ?_⟩
        · obtain ⟨x, hx, he⟩ := hn
          exact absurd (hall x hx) he
        · rw [hcore, hc]
          exact ⟨rfl, rfl⟩
      · have hcore := (v.core_setRegion c (r.afterRows q) c).trans (if_pos rfl)
        obtain ⟨hout, hlog, hwords, hother, hvec, hmem, hacc⟩ := hv.modCore_arrived (g := fun k => k.withRegion (r.afterRows q))
          (fun _ => rfl) (fun _ => rfl) (fun _ => rfl)
        rw [if_neg fun hx => hall ((complete_iff (r := r.afterRows q) hheld).1 hx)]
        refine ⟨hout, hlog, hwords, hother, hvec, hmem, fun y => (congrArg (smGet · y) hacc).trans (hy y), fun _ => ?_,
          fun hn => absurd hn hall⟩
        rw [hcore, hc]
        exact ⟨rfl, rfl⟩
    · have hland := landRows_holds (s := arrived s q) (p := p) (vc := (s.arrive q).1) hrows hj (by rw [hk]; exact hfix) hwait
        hfit (by rw [payload_length h.2.1]; exact hlen) hend hf hheld
      rw [hland, payload_length h.2.1] at hx
      refine ⟨_, hx, rfl, ?_, ?_⟩
      · rw [State.core_setRegion, if_pos rfl, hk]
        rfl
      · rw [State.core_setRegion, if_pos rfl, hk]
        rfl
    · obtain ⟨-, hd, hlog⟩ := takeRows_drops (c := c) hsrc q.rows (arrived s q)
      obtain ⟨d, hc⟩ := hd.self
      rw [landRows_drops hsrc hopen hf hheld] at hx
      rw [hk] at hc hlog
      refine ⟨_, hx, hd.outside, fun y z => ?_, ?_, ?_, fun hmark x hxr hroom => ?_⟩
      · unfold State.peek
        rw [State.setRegion, State.memory_modCore (by intro _; rfl), hd.memory, core_arrived]
      · rw [State.core_setRegion, if_pos rfl, hc]
        rfl
      · rw [State.core_setRegion, if_pos rfl, hc]
        rfl
      · exact hlog hmark x hxr (by rw [evlog_arrived]; exact hroom)

end Sys2Proof.Machine
end

section
/-! PROOF. A BATOM whose unused COND has a reserved value is rejected (R134, R214). -/

namespace Sys2Proof.Machine

open Claims

/-- A BATOM that swaps 9 into element 0 of word 100; COND, which BATOM does not use, has the reserved value 5. -/
def swapReservedCond : BankOp := { addr := 100, raddr := 200, aop := 1, opnd := 9, cond := 5 }

/-- Partition 0 runs a step. -/
def bankRuns : State :=
  { State.reset with
    parts := State.reset.parts.set 0 { state := 3, stepping := true }
    domains := Vector.replicate 148 0 }

theorem ready_bankRuns : bankRuns.Ready qBank { core := 0 } := by
  unfold State.Ready
  decide +kernel

theorem memoriesWf_bankRuns : bankRuns.memoriesWf := by
  unfold State.memoriesWf
  decide +kernel

theorem usable_bankRuns : usable bankRuns [(0, swapReservedCond.addr.toNat)]
    [(0, swapReservedCond.addr.toNat), (0, swapReservedCond.raddr.toNat)] := by
  unfold usable State.readable State.groupsOn
  decide +kernel

/-- The rejection writes nothing. -/
theorem exec_batom_swapReservedCond {t : State} (h : exec (.batom { core := 0 } swapReservedCond) bankRuns = .next t) :
    t.peek 0 swapReservedCond.addr.toNat = 0 := by
  have hbatom : exec (.batom { core := 0 } swapReservedCond) bankRuns = .next _ := rfl
  rw [hbatom] at h
  cases h
  decide +kernel

/-- Refutes O30: its clause on BATOM asks only that AOP be below 10, of BSEL and COND nothing. An instruction rejects the
reserved values of fields that it does not use (R134), so a BATOM with COND = 5 is rejected and writes no element. -/
theorem not_bankOperationsWriteTheirResults : ¬ Obligations.BankOperationsWriteTheirResults := by
  intro h
  obtain ⟨hbatom, -⟩ := h { core := 0 } swapReservedCond 0 bankRuns ready_bankRuns memoriesWf_bankRuns (.inl rfl) rfl
  obtain ⟨t, ht, -, -, helem, -⟩ := hbatom (by decide) (by decide) (.inr usable_bankRuns)
  have hword := helem 0 (by decide)
  rw [exec_batom_swapReservedCond ht] at hword
  exact absurd hword (by decide +kernel)

end Sys2Proof.Machine
end

section
/-! PROOF. The wake of a bank group whose memory is not in its canonical form (R213). -/

namespace Sys2Proof.Machine

open Claims

/-- Group 0 of core 0 wakes, a write of zero to word 3 is held at it, and the memory lists its words in no rising order,
so that its operations do not find word 3. -/
def disorderedWakes : State :=
  { State.reset with
    cores := State.reset.cores.set 0 { memory := {
      mem := [(5, 1), (3, 1)], held := [.write 3 0 (~~~0) 10 0], bgState := (Vector.replicate 8 0).set 0 3 } } }

theorem exec_bgWakeDone_disorderedWakes {t : State} (h : exec (.bgWakeDone 0 0) disorderedWakes = .next t) :
    t.peek 0 3 = 1 := by
  have hwake : exec (.bgWakeDone 0 0) disorderedWakes = .next _ := rfl
  rw [hwake] at h
  cases h
  decide +kernel

/-- Refutes O38: its last clause says of every memory, also of one that is not in the canonical form which every
operation keeps, that a write held at a waking group is made. -/
theorem not_bankGroupsSleepWakeAndHold : ¬ Obligations.BankGroupsSleepWakeAndHold := by
  rintro ⟨-, h⟩
  obtain ⟨-, -, hwake⟩ := h 0 0 disorderedWakes
  obtain ⟨-, hserve⟩ := hwake (by decide +kernel)
  obtain ⟨t, ht, -, -, -, -, -, -, hmade, -⟩ := hserve [] [(3, 0)] 10 (by decide +kernel) (by decide +kernel)
    (by simp) (by simp)
  have hword := hmade (3, 0) (by simp)
  rw [exec_bgWakeDone_disorderedWakes ht] at hword
  exact absurd hword (by decide)

end Sys2Proof.Machine
end

section
/-! PROOF. The records of corrected and uncorrectable words (R207 to R209, R221 to R223), scrubbing and write-back. -/

namespace Sys2Proof.Machine

open Claims

variable {s : State} {c : CoreId}

/-! The records. -/

/-- What a memory records of a corrected read (R207, R208, R221, R222). -/
def Memory.noted (m : Memory) (a : Nat) (syms : List (Nat × Nat)) (scrub : Bool) : Memory :=
  { m with
    eccCorr := satAdd m.eccCorr 1, logSyms := BitVec.ofNat 2 syms.length,
    logPos := BitVec.ofNat 6 ((syms.map (·.1)).foldl min 63), logScrub := scrub, logAddr := BitVec.ofNat 20 a,
    writeback := if m.writeback.any (·.1 == a) then m.writeback else m.writeback ++ [(a, m.peek a)] }

theorem State.memory_corrected (s : State) (c : CoreId) (a : Nat) (syms : List (Nat × Nat)) (b : Bool) :
    ((s.corrected c a syms b).core c).memory = (s.core c).memory.noted a syms b := by
  unfold State.corrected
  dsimp only
  split
  · simp [State.core_modMem, Memory.noted]
  · simp [State.core_modMem, Memory.noted]

theorem State.core_corrected_ne {x : CoreId} (hx : x ≠ c) (a : Nat) (syms : List (Nat × Nat)) (b : Bool) :
    (s.corrected c a syms b).core x = s.core x := by
  unfold State.corrected
  dsimp only
  split
  · rw [State.core_modMem, if_neg hx]
  · rw [State.core_log, State.core_modCore, if_neg hx, State.core_modMem, if_neg hx]

/-- An event that enters the queue as it was before stands in it. -/
theorem logged_log_of_evlog {u : State} (h : u.evlog = s.evlog) {code : Nat} {src : BitVec 16} {p0 p1 p2 p3 : Nat} :
    logged s (u.log code src p0 p1 p2 p3) code src p0 p1 p2 p3 := by
  unfold logged
  rw [← h]
  exact logged_log u code src p0 p1 p2 p3

/-- The first correction of a step is logged, unless the queue of events is full (R208). -/
theorem State.logged_corrected (h : (s.core c).marks.eccCorr = false) (a : Nat) (syms : List (Nat × Nat)) (b : Bool) :
    logged s (s.corrected c a syms b) 0x0001 (srcCore c) a syms.length 0 0 := by
  unfold State.corrected
  dsimp only
  rw [State.marks_modMem, if_neg (by simp [h])]
  exact logged_log_of_evlog (by rfl)

/-- The write-back of a corrected word is pending, with the word as it was corrected unless one was pending before. -/
theorem Memory.writeback_noted (m : Memory) (a : Nat) (syms : List (Nat × Nat)) (b : Bool) :
    (∃ x ∈ (m.noted a syms b).writeback, x.1 = a) ∧
    ((∀ x ∈ m.writeback, x.1 ≠ a) → (a, m.peek a) ∈ (m.noted a syms b).writeback) := by
  unfold Memory.noted
  by_cases h : m.writeback.any (·.1 == a) = true
  · rw [if_pos h]
    obtain ⟨x, hx, he⟩ := List.any_eq_true.1 h
    exact ⟨⟨x, hx, beq_iff_eq.1 he⟩, fun hn => absurd (beq_iff_eq.1 he) (hn x hx)⟩
  · rw [if_neg h]
    have hlast : (a, m.peek a) ∈ m.writeback ++ [(a, m.peek a)] := List.mem_append_right _ (List.mem_singleton_self _)
    exact ⟨⟨_, hlast, rfl⟩, fun _ => hlast⟩

/-- The first uncorrectable word of a core is recorded (R223). -/
theorem State.uncorr_recorded (s : State) (c : CoreId) (a src : Nat) (b : Bool) :
    ((s.recordUncorr c a src b).core c).memory.unValid = true ∧
    ((s.core c).memory.unValid = false → ((s.recordUncorr c a src b).core c).memory.unAddr = BitVec.ofNat 20 a ∧
      ((s.recordUncorr c a src b).core c).memory.unScrub = b) := by
  rw [State.recordUncorr, State.core_modMem, if_pos rfl]
  cases h : (s.core c).memory.unValid <;> simp [h]

theorem State.sameWords_recordUncorr (s : State) (c : CoreId) (a src : Nat) (b : Bool) :
    s.sameWords (s.recordUncorr c a src b) := by
  intro x y
  unfold State.peek
  rw [State.recordUncorr, State.core_modMem]
  split
  · next e => rw [e]; dsimp only; split <;> rfl
  · rfl

/-! SCRUB_READ (R208). -/

variable {bank : Fin 64}

/-- The row of a bank that is scrubbed next (R208). -/
def Memory.nextRow (m : Memory) (bank : Fin 64) : Nat := (smGet m.scrubRow bank.val).toNat

/-- The state once the scrubber of a bank has moved to its next row. -/
def State.scrubMoved (s : State) (c : CoreId) (bank : Fin 64) : State :=
  s.modMem c (fun m => { m with
    scrubRow := smSet m.scrubRow bank.val (BitVec.ofNat 14 ((s.core c).memory.nextRow bank + 1)) })

theorem State.memory_scrubMoved (s : State) (c : CoreId) (bank : Fin 64) : ((s.scrubMoved c bank).core c).memory =
    { (s.core c).memory with
      scrubRow := smSet (s.core c).memory.scrubRow bank.val (BitVec.ofNat 14 ((s.core c).memory.nextRow bank + 1)) } := by
  rw [State.scrubMoved, State.core_modMem, if_pos rfl]

theorem State.core_scrubMoved_ne {x : CoreId} (hx : x ≠ c) : (s.scrubMoved c bank).core x = s.core x :=
  (s.core_modMem c x _).trans (if_neg hx)

theorem State.sameWords_scrubMoved (s : State) (c : CoreId) (bank : Fin 64) : s.sameWords (s.scrubMoved c bank) := by
  intro x y
  unfold State.peek
  by_cases hx : x = c
  · subst hx
    rw [State.memory_scrubMoved]
    rfl
  · rw [State.core_scrubMoved_ne hx]

theorem exec_scrubRead_idle
    (h : (s.core c).memory.scrub = 0 ∨
      (s.core c).memory.groupOn ((s.core c).memory.wordOf bank ((s.core c).memory.nextRow bank)) = false) :
    exec (.scrubRead c bank) s = .next s :=
  congrArg Host.Outcome.next (if_pos (h.imp_right .inl))

theorem exec_scrubRead_reads {w : Nat} (hw : (s.core c).memory.wordOf bank ((s.core c).memory.nextRow bank) = w)
    (hs : (s.core c).memory.scrub ≠ 0) (hg : (s.core c).memory.groupOn w = true) (hd : s.domains[c.val]! = 0) :
    exec (.scrubRead c bank) s = .next ((s.scrubMoved c bank).scrubOne c w) := by
  subst hw
  exact congrArg Host.Outcome.next (if_neg (by
    rintro (h | h | h)
    · exact hs h
    · exact Bool.noConfusion (hg.symm.trans h)
    · exact h hd))

/-- A scrub read leaves every word and every other core as it was, and all beside the cores and the events. -/
theorem State.scrubOne_keeps (s : State) (c : CoreId) (w : Nat) : s.sameOutside (s.scrubOne c w) ∧
    s.sameWords (s.scrubOne c w) ∧ ∀ x : CoreId, x ≠ c → (s.scrubOne c w).core x = s.core x := by
  unfold State.scrubOne
  split
  · exact ⟨rfl, fun _ _ => rfl, fun _ _ => rfl⟩
  · next syms _ =>
    have hk := s.issueKeeps_corrected c w syms true
    exact ⟨hk.outside, hk.words, fun x hx => State.core_corrected_ne hx ..⟩
  · refine ⟨State.sameOutside.trans (t := s.recordUncorr c w 0 true) rfl (State.issueKeeps_log ..).outside,
      (s.sameWords_recordUncorr c w 0 true).trans (State.issueKeeps_log ..).words, fun x hx => ?_⟩
    rw [State.core_log, State.recordUncorr, State.core_modMem, if_neg hx]

theorem State.scrubOne_good {w : Nat} (h : (s.core c).memory.check w = .good) : s.scrubOne c w = s := by
  simp only [State.scrubOne, h]

theorem State.scrubOne_corrected {w : Nat} {syms : List (Nat × Nat)} (h : (s.core c).memory.check w = .corrected syms) :
    s.scrubOne c w = s.corrected c w syms true := by
  simp only [State.scrubOne, h]

theorem State.scrubOne_bad {w : Nat} (h : (s.core c).memory.check w = .bad) :
    s.scrubOne c w = (s.recordUncorr c w 0 true).log 0x0003 (srcCore c) w 0 0 0 := by
  simp only [State.scrubOne, h]

/-! CORRECTED_WRITEBACK (R207). -/

variable {a : BitVec 20}

theorem exec_correctedWriteback_idle
    (h : (∀ x ∈ (s.core c).memory.writeback, x.1 ≠ a.toNat) ∨ (s.core c).memory.groupOn a.toNat = false) :
    exec (.correctedWriteback c a) s = .next s := by
  refine congrArg Host.Outcome.next ?_
  split
  · next x hx =>
    refine if_neg fun hg => ?_
    rcases h with h | h
    · exact h x (List.mem_of_find?_eq_some hx) (by simpa using List.find?_some hx)
    · exact Bool.noConfusion (hg.symm.trans h)
  · rfl

theorem exec_correctedWriteback_writes {x : Nat × MWord}
    (h : (s.core c).memory.writeback.find? (·.1 == a.toNat) = some x) (hg : (s.core c).memory.groupOn a.toNat = true) :
    exec (.correctedWriteback c a) s = .next (s.poke c a.toNat x.2) := by
  refine congrArg Host.Outcome.next ?_
  rw [h]
  exact if_pos hg

/-- A whole-word write leaves fresh check bytes (R205). -/
theorem Memory.check_write {m : Memory} (h : m.wf = true) (n : Nat) (w : MWord) : (m.write n w).check n = .good := by
  unfold Memory.check Memory.write
  simp only [smGet_smSet ((Memory.wf_iff m).1 h).2, if_true]

/-- A word that is written as it reads leaves every word as it reads. -/
theorem State.sameWords_poke (h : s.memoriesWf) {n : Nat} {w : MWord} (hw : s.peek c n = w) :
    s.sameWords (s.poke c n w) := by
  intro x y
  by_cases hx : (x, y) = (c, n)
  · obtain ⟨rfl, rfl⟩ := Prod.mk.inj hx
    rw [s.peek_poke_same _ _ _ (h x), hw]
  · exact s.peek_poke_other c x n y w (h c) hx

/-- Settles O37: a scrub read moves the scrubber on and then finds one of three things, of which none changes a word; a
write-back that is pending writes its word whole. -/
theorem scrubbingFindsAndRepairs : Obligations.ScrubbingFindsAndRepairs := by
  intro c s hwf k m
  refine ⟨fun bank => ?_, fun a => ⟨exec_correctedWriteback_idle, fun v hv hg => ?_⟩⟩
  · intro row w
    refine ⟨exec_scrubRead_idle, fun hs hg hd => ⟨_, exec_scrubRead_reads (w := w) rfl hs hg hd, ?_⟩⟩
    obtain ⟨hout, hwords, hother⟩ := (s.scrubMoved c bank).scrubOne_keeps c w
    have hmem := s.memory_scrubMoved c bank
    have hcheck : ((s.scrubMoved c bank).core c).memory.check w = m.check w := by rw [hmem]; rfl
    refine ⟨State.sameOutside.trans (t := s.scrubMoved c bank) rfl hout, (s.sameWords_scrubMoved c bank).trans hwords,
      fun x hx => (hother x hx).trans (State.core_scrubMoved_ne hx), fun h => ?_, fun syms h => ?_, fun h => ?_⟩
    · rw [State.scrubOne_good (hcheck.trans h)]
      exact ⟨s.core_modCore_self c _, rfl⟩
    · have hback := ((s.scrubMoved c bank).core c).memory.writeback_noted w syms true
      rw [State.scrubOne_corrected (hcheck.trans h), State.memory_corrected]
      rw [hmem] at hback ⊢
      refine ⟨rfl, rfl, rfl, hback.1, hback.2, fun hmark => ?_⟩
      exact State.logged_corrected (s := s.scrubMoved c bank)
        ((congrArg Marks.eccCorr (s.marks_modMem c c _)).trans hmark) w syms true
    · obtain ⟨hvalid, hfirst⟩ := (s.scrubMoved c bank).uncorr_recorded c w 0 true
      rw [State.scrubOne_bad (hcheck.trans h), State.core_log]
      rw [hmem] at hfirst
      exact ⟨hvalid, hfirst, logged_log_of_evlog (by rfl)⟩
  · refine ⟨_, exec_correctedWriteback_writes hv hg, onlyCore_modCore s c _, rfl,
      s.peek_poke_same c _ v (hwf c), fun h => State.sameWords_poke hwf h, ?_⟩
    rw [State.core_poke, if_pos rfl]
    exact Memory.check_write (hwf c) _ v

end Sys2Proof.Machine
end

section
/-! PROOF. The first access to a sleeping bank group holds its instruction (R102, R213). -/

namespace Sys2Proof.Machine

open Claims

variable {s : State} {q : QueueId} {op : BitVec 8} {i : Issue} {x : CoreId × Nat}

/-! What holds an access. -/

/-- An access joins those that are held, an instruction once. -/
def Memory.keep (m : Memory) (y : Held) : Memory :=
  if y.isPacket = false ∧ m.held.contains y then m else { m with held := m.held ++ [y] }

theorem Memory.mem_held_keep (m : Memory) (y : Held) : y ∈ (m.keep y).held := by
  unfold Memory.keep
  split
  · next h => simpa using h.2
  · exact List.mem_append_right _ (List.mem_singleton_self y)

theorem Memory.bgState_keep (m : Memory) (y : Held) : (m.keep y).bgState = m.bgState := by
  unfold Memory.keep
  split <;> rfl

theorem Memory.peek_keep (m : Memory) (y : Held) : (m.keep y).peek = m.peek := by
  unfold Memory.keep
  split <;> rfl

theorem Memory.peek_wake (m : Memory) (g : Fin 8) : (m.wake g).peek = m.peek := by
  unfold Memory.wake
  split <;> rfl

/-- A group that is not ON wakes (R212). -/
theorem Memory.bgState_wake {m : Memory} {g : Fin 8} (h : m.bgState[g] ≠ 0) : (m.wake g).bgState[g] = 3 := by
  by_cases hs : m.bgState[g] = 1 ∨ m.bgState[g] = 2
  · rw [Memory.wake, if_pos hs]
    simp
  · rw [Memory.wake, if_neg hs]
    have hall : ∀ b : BitVec 2, b ≠ 0 → ¬ (b = 1 ∨ b = 2) → b = 3 := by decide
    exact hall _ h hs

theorem State.memory_holdAt (s : State) (h : Fin 8 → Held) (x : CoreId × Nat) (c : CoreId) :
    ((s.holdAt h x).core c).memory =
      if c = x.1 then
        ((s.core x.1).memory.wake ((s.core x.1).memory.group x.2)).keep (h ((s.core x.1).memory.group x.2))
      else (s.core c).memory := by
  have hold : s.holdAt h x = (s.wakeAt x).modMem x.1 (fun m => m.keep (h (m.group x.2))) := rfl
  rw [hold, State.core_modMem, State.memory_wakeAt, if_pos rfl, Memory.group_wake]
  split
  · rfl
  · next hc => rw [State.memory_wakeAt, if_neg hc]

theorem State.sameWords_holdAt (s : State) (h : Fin 8 → Held) (x : CoreId × Nat) : s.sameWords (s.holdAt h x) := by
  intro c a
  unfold State.peek
  rw [State.memory_holdAt]
  split
  · next e => rw [Memory.peek_keep, Memory.peek_wake, e]
  · rfl

/-! The first access to a sleeping group. -/

theorem State.bgState_of_asleep {ws : List (CoreId × Nat)} (h : s.asleep ws = some x) :
    (s.core x.1).memory.bgState[(s.core x.1).memory.group x.2] ≠ 0 := by
  simpa using List.find?_some h

/-- A plan that reads a word of a sleeping group first is held there. -/
theorem State.runPlanFrom_asleep : ∀ (t : Todo) (s : State) (seen soft : List (CoreId × Nat)),
    s.readable t.first → s.asleep t.first = some x →
    State.runPlanFrom q op i seen soft t s = (s.holdAt (fun g => .instr i.core q g.val) x).headWaits q op i 3
  | .need r t, s, seen, soft, hr, ha => by
    obtain ⟨hr1, hr2⟩ := readable_append.1 hr
    rw [State.runPlanFrom]
    cases h : s.asleep r with
    | some y =>
      have hy : s.asleep (r ++ t.first) = some y := by
        unfold State.asleep at h ⊢
        rw [List.find?_append, h]
        rfl
      rw [Option.some.inj (hy.symm.trans ha)]
    | none =>
      have ht : s.asleep t.first = some x := by
        unfold State.asleep at h ha ⊢
        rwa [Todo.first, List.find?_append, h] at ha
      simp only [State.readable_firstBad hr1]
      exact State.runPlanFrom_asleep t s _ _ hr2 ht
  | .stream _ t, s, seen, soft, hr, ha => State.runPlanFrom_asleep t s seen _ hr ha
  | .reject _, _, _, _, _, ha => nomatch ha
  | .wait _, _, _, _, _, ha => nomatch ha
  | .run _ _ _ _, _, _, _, _, ha => nomatch ha

/-- The state in which an instruction is held at a word's group. -/
def State.heldAt (s : State) (q : QueueId) (op : BitVec 8) (i : Issue) (x : CoreId × Nat) : State :=
  ((s.begun q i).holdAt (fun g => .instr i.core q g.val) x).headWaits q op i 3

theorem State.readable_begun {ws : List (CoreId × Nat)} : (s.begun q i).readable ws ↔ s.readable ws := by
  simp only [State.readable, State.memory_begun]

theorem State.present_first_asleep {plan : State → Todo} (h : s.Ready q i) (hr : s.readable (plan s).first)
    (ha : s.asleep (plan s).first = some x) : s.present q op i plan = s.heldAt q op i x := by
  rw [State.present_ready h, State.runPlan,
    State.runPlanFrom_asleep (plan s) (s.begun q i) [] [] (State.readable_begun.2 hr) ((s.asleep_begun _).trans ha)]
  rfl

theorem State.memory_heldAt (s : State) (q : QueueId) (op : BitVec 8) (i : Issue) (x : CoreId × Nat) :
    ((s.heldAt q op i x).core x.1).memory =
      ((s.core x.1).memory.wake ((s.core x.1).memory.group x.2)).keep
        (.instr i.core q ((s.core x.1).memory.group x.2).val) := by
  rw [State.heldAt, State.headWaits, State.memory_modQueue, State.memory_holdAt, if_pos rfl, State.memory_begun]

theorem State.queue_heldAt (s : State) (q : QueueId) (op : BitVec 8) (i : Issue) (x : CoreId × Nat) :
    (((s.heldAt q op i x).core i.core).queue q).waiting = some i ∧
    (q ≠ qArray → (((s.heldAt q op i x).core i.core).queue q).state = 3) := by
  rw [State.heldAt, State.headWaits, State.core_modQueue, if_pos rfl]
  simp +contextual [Core.queue]

theorem State.sameOutside_heldAt (s : State) (q : QueueId) (op : BitVec 8) (i : Issue) (x : CoreId × Nat) :
    s.sameOutside (s.heldAt q op i x) :=
  (s.issueKeeps_begun q i).outside.trans
    ((State.memoryKeeps_holdAt _ _ x).outside.trans (State.issueKeeps_headWaits ..).outside)

theorem State.memoryKeeps.results {t : State} (h : s.memoryKeeps t) (c : CoreId) : (t.core c).results = (s.core c).results := by
  obtain ⟨m, d, e⟩ := h.beside c
  rw [e]
  rfl

theorem nothingComputed_heldAt (s : State) (q : QueueId) (op : BitVec 8) (i : Issue) (x : CoreId × Nat) :
    nothingComputed s (s.heldAt q op i x) := by
  have hb := s.issueKeeps_begun q i
  have hh := (s.begun q i).memoryKeeps_holdAt (fun g => .instr i.core q g.val) x
  have hp := (s.begun q i).sameWords_holdAt (fun g => .instr i.core q g.val) x
  have hw := ((s.begun q i).holdAt (fun g => .instr i.core q g.val) x).issueKeeps_headWaits q op i 3
  refine nothingComputed_of_results (hb.words.trans (hp.trans hw.words)) fun c => ?_
  calc ((s.heldAt q op i x).core c).results
      = (((s.begun q i).holdAt (fun g => .instr i.core q g.val) x).core c).results :=
        Core.results_of_settled (hw.settled c)
    _ = ((s.begun q i).core c).results := hh.results c
    _ = (s.core c).results := Core.results_of_settled (hb.settled c)

/-- Settles O11: whether the sleeping group is met before the plan's end or at it, the instruction is held there. -/
theorem sleepingGroupHoldsTheInstruction : Obligations.SleepingGroupHoldsTheInstruction := by
  intro c q op i plan s x hplan hready hread hsleep
  have hheld : s.present q op i plan = s.heldAt q op i x ∧
      (s.core x.1).memory.bgState[(s.core x.1).memory.group x.2] ≠ 0 := by
    rcases hsleep with hfirst | ⟨hon, reads, writes, due, eff, hlast, hrun⟩
    · exact ⟨State.present_first_asleep hready hread hfirst, State.bgState_of_asleep hfirst⟩
    · exact ⟨State.present_asleep hready (State.groupsOn_asleep hon) (State.readable_firstBad hread) hlast hrun,
        State.bgState_of_asleep hrun⟩
  obtain ⟨heq, hstate⟩ := hheld
  refine ⟨s.heldAt q op i x, by rw [exec_of_planOf hplan, heq], nothingComputed_heldAt s q op i x,
    s.sameOutside_heldAt q op i x, ?_, ?_, s.queue_heldAt q op i x⟩
  · rw [State.memory_heldAt, Memory.bgState_keep]
    exact Memory.bgState_wake hstate
  · rw [State.memory_heldAt]
    exact Memory.mem_held_keep _ _

end Sys2Proof.Machine
end

section
/-! PROOF. Words of one partition, and the writes whose words stay in it (R14, R23, R66). -/

namespace Sys2Proof.Machine

open Claims

/-! Words of one partition. -/

/-- Words of the cores of a partition only. -/
def inPart (p : PartId) (ws : List (CoreId × Nat)) : Prop := ∀ x ∈ ws, partOf x.1 = p

section
variable {p : PartId} {c m : CoreId} {α : Type}

@[simp] theorem inPart_nil : inPart p [] := fun _ h => nomatch h

@[simp] theorem inPart_cons {x : CoreId × Nat} {ws : List (CoreId × Nat)} :
    inPart p (x :: ws) ↔ partOf x.1 = p ∧ inPart p ws := List.forall_mem_cons

@[simp] theorem inPart_append {l r : List (CoreId × Nat)} : inPart p (l ++ r) ↔ inPart p l ∧ inPart p r :=
  List.forall_mem_append

theorem inPart_ite {a : Prop} [Decidable a] {l r : List (CoreId × Nat)} (hl : inPart p l) (hr : inPart p r) :
    inPart p (if a then l else r) := by
  split <;> assumption

theorem inPart_map (h : partOf m = p) (l : List α) (f : α → Nat) : inPart p (l.map (fun x => (m, f x))) := by
  intro x hx
  obtain ⟨y, -, rfl⟩ := List.mem_map.1 hx
  exact h

theorem inPart_flatMap {l : List α} {f : α → List (CoreId × Nat)} (h : ∀ x, inPart p (f x)) :
    inPart p (l.flatMap f) := by
  intro x hx
  obtain ⟨y, -, hy⟩ := List.mem_flatMap.1 hx
  exact h y x hy

theorem inPart_wordsAt (h : partOf m = p) {a n : Nat} : inPart p (wordsAt m a n) := inPart_map h _ _

theorem inPart_subset {l r : List (CoreId × Nat)} (h : inPart p r) (hs : l ⊆ r) : inPart p l := fun x hx => h x (hs hx)

/-! Words that are written. -/

theorem inPart_wrPartial {ws : List Wr} (h : inPart p (wrWords ws)) : inPart p (wrPartial ws) :=
  inPart_subset h (List.map_subset _ (List.filter_subset_self _))

@[simp] theorem wrWords_append (l r : List Wr) : wrWords (l ++ r) = wrWords l ++ wrWords r := List.map_append

theorem inPart_wrWords_map {l : List α} {f : α → Wr} (h : ∀ x, partOf (f x).core = p) :
    inPart p (wrWords (l.map f)) := by
  intro x hx
  rw [wrWords, List.map_map] at hx
  obtain ⟨y, -, rfl⟩ := List.mem_map.1 hx
  exact h y

theorem inPart_wrWords_flatMap {l : List α} {f : α → List Wr} (h : ∀ x, inPart p (wrWords (f x))) :
    inPart p (wrWords (l.flatMap f)) := by
  rw [wrWords, List.map_flatMap]
  exact inPart_flatMap h

theorem inPart_foldl_wrInsert : ∀ (ws l : List Wr), inPart p (wrWords l) → inPart p (wrWords ws) →
    inPart p (wrWords (ws.foldl wrInsert l))
  | [], _, hl, _ => hl
  | x :: ws, l, hl, hws => by
    obtain ⟨hx, hws⟩ := inPart_cons.1 hws
    refine inPart_foldl_wrInsert ws _ ?_ hws
    rw [wrInsert_words]
    exact inPart_ite hl (inPart_append.2 ⟨hl, inPart_cons.2 ⟨hx, inPart_nil⟩⟩)

theorem inPart_wrJoin {ws : List Wr} (h : inPart p (wrWords ws)) : inPart p (wrWords (wrJoin ws)) :=
  inPart_foldl_wrInsert ws [] inPart_nil h

theorem inPart_wrField (h : partOf m = p) {a lo n v : Nat} : inPart p (wrWords (wrField m a lo n v)) := by
  unfold wrField
  dsimp only
  split <;> simp [wrWords, h]

theorem inPart_elemWrites (h : partOf m = p) {f : Fmt} {a i : Nat} {els : List Nat} :
    inPart p (wrWords (elemWrites m f a i els)) :=
  inPart_wrWords_flatMap fun _ => inPart_wrField h

theorem inPart_blockWrites (h : partOf m = p) {f : Fmt} {a sa b : Nat} {scale : Option Nat} {els : List Nat} :
    inPart p (wrWords (blockWrites m f a sa b scale els)) := by
  unfold blockWrites
  split
  all_goals
    rw [wrWords_append]
    refine inPart_append.2 ⟨inPart_wrWords_flatMap fun _ => inPart_wrField h, ?_⟩
    split
    · exact inPart_wrField h
    · exact inPart_nil

/-- Writes that are gathered step by step. -/
theorem inPart_foldl {β : Type} {g : List Wr × β → α → List Wr × β} (hg : ∀ x a, inPart p (wrWords x.1) →
    inPart p (wrWords (g x a).1)) (l : List α) {x : List Wr × β} (hx : inPart p (wrWords x.1)) :
    inPart p (wrWords (l.foldl g x).1) :=
  List.foldlRecOn (motive := fun y => inPart p (wrWords y.1)) l g hx fun y hy a _ => hg y a hy

theorem inPart_rowWrites (h : partOf m = p) {f : Fmt} {rnd : Nat} {sat : Bool} {a sa sb : Nat}
    {vs : List (Num × BitVec 32)} : inPart p (wrWords (rowWrites m f rnd sat a sa sb vs).1) := by
  unfold rowWrites
  split
  · refine inPart_foldl (fun x b hx => ?_) _ inPart_nil
    dsimp only
    rw [wrWords_append]
    refine inPart_append.2 ⟨hx, ?_⟩
    split
    · exact inPart_blockWrites h
    · rw [wrWords_append]
      exact inPart_append.2 ⟨inPart_blockWrites h, inPart_wrField h⟩
  · exact inPart_elemWrites h

variable {s : State}

theorem inPart_accoutWrites (h : partOf m = p) {o : AccoutOp} {f : Fmt} :
    inPart p (wrWords (s.accoutWrites c m o f).1) := by
  refine inPart_wrJoin (inPart_foldl (fun x r hx => ?_) _ inPart_nil)
  rw [wrWords_append]
  exact inPart_append.2 ⟨hx, inPart_rowWrites h⟩

theorem inPart_vstWrites (h : partOf m = p) {o : VMemOp} {t f : Fmt} : inPart p (wrWords (s.vstWrites c m o t f).1) := by
  unfold State.vstWrites
  dsimp only
  split
  · refine inPart_wrJoin (inPart_foldl (fun x b hx => ?_) _ inPart_nil)
    rw [wrWords_append]
    exact inPart_append.2 ⟨hx, inPart_blockWrites h⟩
  · exact inPart_wrJoin (inPart_wrWords_flatMap fun _ => inPart_wrField h)

theorem inPart_vcstWrites (h : partOf m = p) {o : VMemOp} {t : Fmt} : inPart p (wrWords (s.vcstWrites c m o t)) :=
  inPart_wrJoin (inPart_elemWrites h)

theorem inPart_nsmaxWrites (h : partOf m = p) {o : NormOp} {fi fo : Fmt} :
    inPart p (wrWords (s.nsmaxWrites c m o fi fo).1) := by
  unfold State.nsmaxWrites
  split
  · exact inPart_nil
  · refine inPart_wrJoin ?_
    rw [wrWords_append]
    exact inPart_append.2 ⟨inPart_wrWords_flatMap fun _ => inPart_elemWrites h, inPart_wrWords_map fun _ => h⟩

theorem inPart_nnormWrites (h : partOf m = p) {o : NormOp} {fi fo : Fmt} :
    inPart p (wrWords (s.nnormWrites c m o fi fo).1) := by
  unfold State.nnormWrites
  split
  · exact inPart_nil
  · exact inPart_wrJoin (inPart_wrWords_flatMap fun _ => inPart_elemWrites h)

theorem inPart_dslotWrites (h : partOf c = p) {o : DslotOp} {x : SlotPlan} : inPart p (wrWords (dslotWrites c o x)) := by
  refine inPart_wrJoin ?_
  rw [wrWords_append, wrWords_append]
  refine inPart_append.2 ⟨inPart_append.2 ⟨inPart_wrWords_flatMap fun _ => inPart_wrField h,
    inPart_wrWords_flatMap fun _ => by simp [wrWords, h]⟩, inPart_wrWords_flatMap fun _ => ?_⟩
  split
  · exact inPart_wrField h
  · exact inPart_nil

theorem inPart_kvRows (h : partOf c = p) {o : KvOp} {w : MWord} {a j n : Nat} :
    inPart p (wrWords (s.kvRows c m o w a j n)) := by
  refine inPart_wrWords_flatMap fun _ => ?_
  rw [wrWords_append]
  exact inPart_append.2 ⟨inPart_wrField h, inPart_wrWords_map fun _ => h⟩

theorem inPart_kappendWrites (h : partOf c = p) {o : KvOp} {n : Nat} : inPart p (wrWords (s.kappendWrites c m o n)) := by
  refine inPart_wrJoin ?_
  rw [wrWords_append, wrWords_append]
  refine inPart_append.2 ⟨inPart_append.2 ⟨inPart_kvRows h, by simp [wrWords, h]⟩, ?_⟩
  split
  · rw [wrWords_append]
    exact inPart_append.2 ⟨inPart_kvRows h, by simp [wrWords, h]⟩
  · exact inPart_nil

/-! Words that plans read at their end. -/

/-- A selector names a core of the partition (R14, R66). -/
theorem partOf_of_sel {x : BitVec 3} (h : s.sel c x = some m) : partOf m = partOf c := by
  unfold State.sel at h
  split at h
  · rw [← Option.some.inj h]
  · split at h
    · unfold State.neighbour at h
      dsimp only at h
      split at h
      · cases h
      · split at h
        · next hn => rw [← Option.some.inj h]; exact hn.1
        · cases h
    · cases h

end
end Sys2Proof.Machine
end

section
/-! PROOF. What an engine's plan reads as it runs or at its end stays in its partition (R14, R66, R210). -/

namespace Sys2Proof.Machine

open Claims

/-- What a plan reads as it runs or at its end are words of one partition. -/
@[simp] def Todo.runsIn (p : PartId) : Todo → Prop
  | .need _ t => t.runsIn p
  | .stream r t => inPart p r ∧ t.runsIn p
  | .run r _ _ _ => inPart p r
  | .reject _ => True
  | .wait _ => True

theorem Todo.inPart_of_runsIn {p : PartId} {reads writes : List (CoreId × Nat)} {due : State → Until}
    {eff : State → State} :
    ∀ {t : Todo}, t.runsIn p → t.last = .run reads writes due eff → inPart p (reads ++ t.soft)
  | .need _ t, h, hl => inPart_of_runsIn (t := t) h hl
  | .stream r t, ⟨hr, ht⟩, hl => by
    obtain ⟨h1, h2⟩ := inPart_append.1 (inPart_of_runsIn ht hl)
    exact inPart_append.2 ⟨h1, inPart_append.2 ⟨hr, h2⟩⟩
  | .run _ _ _ _, h, hl => by
    cases hl
    exact inPart_append.2 ⟨h, inPart_nil⟩

section
variable {p : PartId} {t u : Todo}

@[simp] theorem Todo.runsIn_nop : Todo.nop.runsIn p := inPart_nil
@[simp] theorem Todo.runsIn_waits : Todo.waits.runsIn p := trivial

theorem Todo.runsIn_unless {rej : Option Nat} (h : t.runsIn p) : (Todo.unless rej t).runsIn p := by
  cases rej
  · exact h
  · exact trivial

theorem Todo.runsIn_ite {a : Prop} [Decidable a] (ht : t.runsIn p) (hu : u.runsIn p) : (if a then t else u).runsIn p := by
  split <;> assumption

end

variable {s : State} {i : Issue}

theorem State.passPlan_runsIn (o : PassOp) (h : PassHolds) : (s.passPlan i o h).runsIn (partOf i.core) := by
  have hfeeds : inPart (partOf i.core) (s.passFeeds i.core o) := by
    unfold State.passFeeds
    split
    · next hsel => exact inPart_map (partOf_of_sel hsel) _ _
    · exact inPart_nil
  have hreads : inPart (partOf i.core) (s.passReads i.core o) := by
    unfold State.passReads
    split
    · next hsel =>
      refine inPart_append.2 ⟨inPart_ite (by simp [partOf_of_sel hsel]) inPart_nil, inPart_ite ?_ inPart_nil⟩
      split
      · exact inPart_map rfl _ _
      · exact inPart_nil
    · exact inPart_nil
  unfold State.passPlan
  dsimp only
  split
  · trivial
  · split
    · trivial
    · rw [Todo.runsIn, Todo.runsIn]
      split
      · trivial
      · exact ⟨hfeeds, hreads⟩

theorem State.accoutPlan_runsIn (o : AccoutOp) : (s.accoutPlan i o).runsIn (partOf i.core) := by
  unfold State.accoutPlan
  split
  · trivial
  · split
    · next hsel => exact inPart_wrPartial (inPart_accoutWrites (partOf_of_sel hsel))
    · trivial

theorem inPart_ewiseReads {p : PartId} {a b : CoreId} (ha : partOf a = p) (hb : partOf b = p) (o : EwiseOp) (fa fb : Fmt) :
    inPart p (State.ewiseReads a b o fa fb) := by
  unfold State.ewiseReads
  dsimp only
  simp only [inPart_append]
  exact ⟨⟨⟨inPart_map ha _ _, inPart_map hb _ _⟩, inPart_ite (inPart_map ha _ _) inPart_nil⟩,
    inPart_ite (inPart_map hb _ _) inPart_nil⟩

theorem State.ewisePlan_runsIn (o : EwiseOp) : (s.ewisePlan i o).runsIn (partOf i.core) := by
  unfold State.ewisePlan
  split
  · trivial
  · split
    · next ha hb => exact inPart_ewiseReads (partOf_of_sel ha) (partOf_of_sel hb) _ _ _
    · trivial

/-! The vector engine. -/

theorem vopTodo_runsIn {p : PartId} (o : VOp) (rej : List (Bool × Nat)) (eff : VectorUnit → VectorUnit × FmtFlags) :
    (vopTodo o i rej eff).runsIn p := by
  unfold vopTodo
  split
  · trivial
  · exact inPart_nil

theorem State.vldPlan_runsIn (o : VMemOp) : (s.vldPlan i o).runsIn (partOf i.core) := by
  unfold State.vldPlan
  split
  · trivial
  split
  · split
    · trivial
    split
    · trivial
    · next hsel => exact inPart_map (partOf_of_sel hsel) _ _
  · trivial

theorem State.vstPlan_runsIn (o : VMemOp) : (s.vstPlan i o).runsIn (partOf i.core) := by
  unfold State.vstPlan
  split
  · trivial
  split
  · dsimp only
    split
    · trivial
    split
    · trivial
    · next hsel =>
      have hm := partOf_of_sel hsel
      exact inPart_append.2 ⟨inPart_wrPartial (inPart_vstWrites hm), inPart_map hm _ _⟩
  · trivial

theorem State.vxldPlan_runsIn (o : VMemOp) : (s.vxldPlan i o).runsIn (partOf i.core) := by
  unfold State.vxldPlan
  split
  · trivial
  split
  · trivial
  dsimp only
  split
  · trivial
  split
  · trivial
  · next hsel => exact inPart_map (partOf_of_sel hsel) _ _

theorem State.vcstPlan_runsIn (o : VMemOp) : (s.vcstPlan i o).runsIn (partOf i.core) := by
  unfold State.vcstPlan
  split
  · trivial
  split
  · trivial
  dsimp only
  split
  · trivial
  split
  · trivial
  · next hsel => exact inPart_wrPartial (inPart_vcstWrites (partOf_of_sel hsel))

theorem State.mldPlan_runsIn (o : VMemOp) : (s.mldPlan i o).runsIn (partOf i.core) := by
  unfold State.mldPlan
  split
  · trivial
  · trivial
  · next hsel => exact inPart_cons.2 ⟨partOf_of_sel hsel, inPart_nil⟩

theorem State.mstPlan_runsIn (o : VMemOp) : (s.mstPlan i o).runsIn (partOf i.core) := by
  unfold State.mstPlan
  split
  · trivial
  · trivial
  · exact inPart_nil

/-! The engines around the core memory. -/

theorem inPart_normReads {p : PartId} {m : CoreId} (hm : partOf m = p) (o : NormOp) (fi : Fmt)
    {more : List (CoreId × Nat)} (h : inPart p more) : inPart p (normReads m o fi more) :=
  inPart_ite inPart_nil (inPart_append.2 ⟨inPart_wordsAt hm, h⟩)

theorem State.nsmaxPlan_runsIn (o : NormOp) : (s.nsmaxPlan i o).runsIn (partOf i.core) := by
  unfold State.nsmaxPlan
  split
  · trivial
  split
  · dsimp only
    split
    · trivial
    · next hi ho =>
      have hm := partOf_of_sel hi
      exact inPart_append.2 ⟨inPart_normReads hm _ _ (inPart_ite (inPart_wordsAt hm) inPart_nil),
        inPart_wrPartial (inPart_nsmaxWrites (partOf_of_sel ho))⟩
    · trivial
  · trivial

theorem State.nnormPlan_runsIn (o : NormOp) : (s.nnormPlan i o).runsIn (partOf i.core) := by
  unfold State.nnormPlan
  split
  · trivial
  split
  · dsimp only
    split
    · trivial
    · next hi ho =>
      have hm := partOf_of_sel hi
      exact inPart_append.2 ⟨inPart_normReads hm _ _ (inPart_append.2 ⟨inPart_wordsAt hm,
        inPart_ite (inPart_wordsAt hm) inPart_nil⟩), inPart_wrPartial (inPart_nnormWrites (partOf_of_sel ho))⟩
    · trivial
  · trivial

theorem inPart_dispLists {p : PartId} {c : CoreId} (hc : partOf c = p) (o : DispOp) : inPart p (s.dispLists c o) :=
  inPart_append.2 ⟨inPart_ite (inPart_cons.2 ⟨hc, inPart_nil⟩) inPart_nil, inPart_wordsAt hc⟩

theorem State.dispTodo_runsIn (o : DispOp) (gather : Bool) {go : CoreId → CoreId → Todo}
    (h : ∀ a b, partOf a = partOf i.core → (go a b).runsIn (partOf i.core)) :
    (s.dispTodo i o gather go).runsIn (partOf i.core) := by
  refine Todo.runsIn_unless (Todo.runsIn_ite Todo.runsIn_nop ?_)
  split
  · next a b ha hb => exact Todo.runsIn_unless (Todo.runsIn_unless (h a b (partOf_of_sel ha)))
  · trivial

theorem State.gatherPlan_runsIn (o : DispOp) : (s.gatherPlan i o).runsIn (partOf i.core) :=
  State.dispTodo_runsIn o true fun _ _ ha => inPart_append.2 ⟨inPart_dispLists rfl o,
    inPart_flatMap fun _ => inPart_ite inPart_nil (inPart_wordsAt ha)⟩

theorem State.scatterPlan_runsIn (o : DispOp) : (s.scatterPlan i o).runsIn (partOf i.core) :=
  State.dispTodo_runsIn o false fun _ _ ha => inPart_append.2 ⟨inPart_dispLists rfl o,
    inPart_flatMap fun _ => inPart_ite inPart_nil (inPart_wordsAt ha)⟩

theorem State.dslotTodo_runsIn (o : DslotOp) : (s.dslotTodo i o).runsIn (partOf i.core) :=
  Todo.runsIn_unless <| Todo.runsIn_ite Todo.runsIn_nop <| Todo.runsIn_unless (t := .run ..) <|
    inPart_append.2 ⟨inPart_wordsAt rfl, inPart_wrPartial (inPart_dslotWrites rfl)⟩

theorem inPart_tileReads {p : PartId} {c m : CoreId} (hm : partOf m = p) (o : TileOp) (f : Fmt) :
    inPart p (s.tileReads c m o f) := by
  refine inPart_append.2 ⟨inPart_ite (inPart_cons.2 ⟨hm, inPart_nil⟩) inPart_nil, inPart_ite inPart_nil
    (inPart_ite ?_ ?_)⟩
  · exact inPart_append.2 ⟨inPart_append.2 ⟨inPart_wordsAt hm, inPart_flatMap fun _ => inPart_wordsAt hm⟩,
      inPart_ite (inPart_flatMap fun _ => inPart_map hm _ _) inPart_nil⟩
  · exact inPart_append.2 ⟨inPart_append.2 ⟨inPart_wordsAt hm, inPart_ite (inPart_wordsAt hm) inPart_nil⟩,
      inPart_ite inPart_nil (inPart_wordsAt hm)⟩

theorem State.tilePlan_runsIn (o : TileOp) : (s.tilePlan i o).runsIn (partOf i.core) := by
  refine Todo.runsIn_unless (Todo.runsIn_ite Todo.runsIn_waits ?_)
  split
  · next hsel => exact Todo.runsIn_unless (t := .run ..) (inPart_tileReads (partOf_of_sel hsel) _ _)
  · trivial

theorem inPart_adDirReads {p : PartId} {c : CoreId} (hc : partOf c = p) (o : AdapterOp) : inPart p (s.adDirReads c o) :=
  inPart_append.2 ⟨inPart_wordsAt hc, inPart_subset (inPart_map hc _ _) (List.dedup_subset _)⟩

theorem State.adTodo_runsIn {p : PartId} (o : AdapterOp) (down : Bool) {go : Todo} (h : go.runsIn p) :
    (s.adTodo i.core o down go).runsIn p :=
  Todo.runsIn_unless (Todo.runsIn_unless h)

theorem State.adownPlan_runsIn (o : AdapterOp) : (s.adownPlan i o).runsIn (partOf i.core) := by
  refine Todo.runsIn_unless (Todo.runsIn_ite Todo.runsIn_nop ?_)
  split
  · next hsel =>
    have hm := partOf_of_sel hsel
    refine State.adTodo_runsIn (go := .run ..) o true (inPart_append.2 ⟨inPart_append.2 ⟨inPart_adDirReads rfl o, ?_⟩, ?_⟩)
    · exact inPart_subset (inPart_flatMap fun _ => inPart_append.2 ⟨inPart_wordsAt rfl,
        inPart_ite (inPart_wordsAt rfl) inPart_nil⟩) (List.dedup_subset _)
    · exact inPart_flatMap fun _ => inPart_append.2 ⟨inPart_wordsAt hm, inPart_ite (inPart_map hm _ _) inPart_nil⟩
  · trivial

theorem State.aupPlan_runsIn (o : AdapterOp) : (s.aupPlan i o).runsIn (partOf i.core) :=
  Todo.runsIn_unless <| Todo.runsIn_ite Todo.runsIn_nop <| State.adTodo_runsIn (go := .run ..) o false <|
    inPart_append.2 ⟨inPart_adDirReads rfl o,
      inPart_flatMap fun _ => inPart_append.2 ⟨inPart_wordsAt rfl, inPart_map rfl _ _⟩⟩

/-! The key-value block engine. -/

section
variable {p : PartId} {c : CoreId}

theorem inPart_kvCountRead (hc : partOf c = p) (o : KvOp) : inPart p (kvCountRead c o) :=
  inPart_ite (inPart_cons.2 ⟨hc, inPart_nil⟩) inPart_nil

theorem inPart_kvDescRead (hc : partOf c = p) (o : KvOp) : inPart p (kvDescRead c o) := inPart_cons.2 ⟨hc, inPart_nil⟩

theorem inPart_kvParentRead (hc : partOf c = p) (o : KvOp) : inPart p (kvParentRead c o) :=
  inPart_ite inPart_nil (inPart_cons.2 ⟨hc, inPart_nil⟩)

theorem inPart_kvDescReads (hc : partOf c = p) (o : KvOp) : inPart p (s.kvDescReads c o) := by
  refine inPart_append.2 ⟨inPart_kvDescRead hc o, ?_⟩
  unfold State.kvNextRead
  cases kvNext o (s.desc c o o.desc.toNat) <;> simp [hc]

end

theorem State.kappendPlan_runsIn (o : KvOp) : (s.kappendPlan i o).runsIn (partOf i.core) := by
  refine Todo.runsIn_unless (Todo.runsIn_ite Todo.runsIn_nop ?_)
  split
  · trivial
  · next hsel =>
    have hm := partOf_of_sel hsel
    have hcount := inPart_kvCountRead (c := i.core) rfl o
    exact Todo.runsIn_ite (t := .run ..) hcount <| Todo.runsIn_unless <| Todo.runsIn_unless (t := .run ..) <|
      inPart_append.2 ⟨inPart_append.2 ⟨inPart_append.2 ⟨inPart_append.2 ⟨hcount, inPart_kvDescReads rfl o⟩,
        inPart_wordsAt hm⟩, inPart_wordsAt hm⟩, inPart_wrPartial (inPart_kappendWrites rfl)⟩

theorem State.kcommitPlan_runsIn (o : KvOp) : (s.kcommitPlan i o).runsIn (partOf i.core) :=
  have hcount := inPart_kvCountRead (c := i.core) rfl o
  Todo.runsIn_unless <| Todo.runsIn_ite Todo.runsIn_nop <| Todo.runsIn_ite (t := .run ..) hcount <|
    Todo.runsIn_unless (t := .run ..) <| inPart_append.2 ⟨hcount, inPart_kvDescReads rfl o⟩

theorem State.kdiscardPlan_runsIn (o : KvOp) : (s.kdiscardPlan i o).runsIn (partOf i.core) :=
  Todo.runsIn_unless <| Todo.runsIn_unless (t := .run ..) <| inPart_kvDescReads rfl o

theorem State.khashPlan_runsIn (o : KvOp) : (s.khashPlan i o).runsIn (partOf i.core) :=
  have hdesc := inPart_kvDescRead (c := i.core) rfl o
  Todo.runsIn_unless <| Todo.runsIn_ite (t := .run ..) hdesc <| Todo.runsIn_unless <| Todo.runsIn_unless (t := .run ..) <|
    inPart_append.2 ⟨inPart_append.2 ⟨inPart_append.2 ⟨hdesc, inPart_kvParentRead rfl o⟩, inPart_wordsAt rfl⟩,
      inPart_map rfl _ _⟩

theorem State.kfindPlan_runsIn (o : KvOp) : (s.kfindPlan i o).runsIn (partOf i.core) := by
  refine Todo.runsIn_unless ?_
  split
  · trivial
  · next hsel =>
    have hargs : inPart (partOf i.core) ((i.core, o.cntaddr.toNat) :: (kvParentRead i.core o ++
        wordsAt _ o.srcaddr.toNat 8)) :=
      inPart_cons.2 ⟨rfl, inPart_append.2 ⟨inPart_kvParentRead rfl o, inPart_wordsAt (partOf_of_sel hsel)⟩⟩
    exact Todo.runsIn_unless <| Todo.runsIn_unless (t := .run ..) <| inPart_append.2 ⟨inPart_append.2 ⟨inPart_append.2
      ⟨hargs, inPart_map rfl _ _⟩, inPart_map rfl _ _⟩, inPart_flatMap fun _ => inPart_wordsAt rfl⟩

theorem State.krefPlan_runsIn (o : KvOp) : (s.krefPlan i o).runsIn (partOf i.core) :=
  Todo.runsIn_unless (t := .need _ (.run ..)) <| inPart_append.2 ⟨inPart_append.2 ⟨inPart_kvDescRead rfl o,
    inPart_cons.2 ⟨rfl, inPart_nil⟩⟩, inPart_ite (inPart_map rfl _ _) inPart_nil⟩

/-! Transfers, the Mule and the bank operation queue. -/

theorem inPart_xferReads {p : PartId} {m : CoreId} (hm : partOf m = p) (c : CoreId) (a n : Nat) :
    inPart p (s.xferReads c m a n) :=
  inPart_subset (inPart_wordsAt hm) (List.filter_subset_self _)

theorem State.tcopyPlan_runsIn (o : XferOp) : (s.tcopyPlan i o).runsIn (partOf i.core) := by
  refine Todo.runsIn_unless (Todo.runsIn_ite Todo.runsIn_nop ?_)
  split
  · next ha _ => exact Todo.runsIn_ite (u := .run ..) Todo.runsIn_waits (inPart_xferReads (partOf_of_sel ha) _ _ _)
  · trivial

theorem State.tsendPlan_runsIn (o : XferOp) : (s.tsendPlan i o).runsIn (partOf i.core) := by
  refine Todo.runsIn_unless (Todo.runsIn_ite Todo.runsIn_nop ?_)
  split
  · next ha => exact Todo.runsIn_ite (u := .run ..) Todo.runsIn_waits (inPart_xferReads (partOf_of_sel ha) _ _ _)
  · trivial

theorem State.tgetPlan_runsIn {p : PartId} (o : XferOp) : (s.tgetPlan i o).runsIn p := by
  refine Todo.runsIn_unless (Todo.runsIn_ite Todo.runsIn_nop ?_)
  split
  · exact Todo.runsIn_ite (u := .run ..) Todo.runsIn_waits inPart_nil
  · trivial

theorem State.twinPlan_runsIn {p : PartId} (o : XferOp) : (s.twinPlan i o).runsIn p := by
  unfold State.twinPlan
  split
  · trivial
  · exact inPart_nil

theorem State.tdrainPlan_runsIn {p : PartId} (o : XferOp) : (s.tdrainPlan i o).runsIn p := by
  refine Todo.runsIn_unless ?_
  split
  · trivial
  · exact Todo.runsIn_ite (u := .run ..) Todo.runsIn_waits inPart_nil

theorem State.mstreamPlan_runsIn {p : PartId} (o : StreamOp) : (s.mstreamPlan i o).runsIn p := by
  unfold State.mstreamPlan
  split
  · trivial
  · exact inPart_nil

theorem State.mreducePlan_runsIn (o : ReduceOp) : (s.mreducePlan i o).runsIn (partOf i.core) :=
  Todo.runsIn_unless <| Todo.runsIn_ite Todo.runsIn_nop <| Todo.runsIn_unless <|
    Todo.runsIn_ite (u := .run ..) Todo.runsIn_waits (inPart_wordsAt rfl)

theorem State.msendPlan_runsIn (o : MsendOp) : (s.msendPlan i o).runsIn (partOf i.core) := by
  refine Todo.runsIn_unless (Todo.runsIn_ite Todo.runsIn_nop ?_)
  split
  · trivial
  · have hm : partOf ((s.sel i.core o.msel).getD i.core) = partOf i.core := by
      cases h : s.sel i.core o.msel
      · rfl
      · exact partOf_of_sel h
    refine Todo.runsIn_unless (t := .run ..) (inPart_append.2 ⟨inPart_map rfl _ _, inPart_append.2 ⟨inPart_map rfl _ _, ?_⟩⟩)
    split
    · exact inPart_wordsAt hm
    · exact inPart_nil

theorem State.batomPlan_runsIn (o : BankOp) : (s.batomPlan i o).runsIn (partOf i.core) := by
  refine Todo.runsIn_unless ?_
  split
  · trivial
  · next hsel => exact inPart_cons.2 ⟨partOf_of_sel hsel, inPart_nil⟩

theorem State.bcountPlan_runsIn (o : BankOp) : (s.bcountPlan i o).runsIn (partOf i.core) := by
  refine Todo.runsIn_unless (Todo.runsIn_ite Todo.runsIn_nop ?_)
  split
  · trivial
  · next hsel => exact inPart_wordsAt (partOf_of_sel hsel)

theorem State.bcmpPlan_runsIn (o : BankOp) : (s.bcmpPlan i o).runsIn (partOf i.core) := by
  refine Todo.runsIn_unless (Todo.runsIn_ite Todo.runsIn_nop ?_)
  split
  · next ha hb => exact inPart_append.2 ⟨inPart_wordsAt (partOf_of_sel ha), inPart_wordsAt (partOf_of_sel hb)⟩
  · trivial

variable {c : Instr} {q : QueueId} {op : BitVec 8} {plan : State → Todo}

/-- What an engine's plan reads as it runs or at its end are words of the presenting core's partition. -/
theorem planOf_runsIn (h : planOf c = some (q, op, i, plan)) : (plan s).runsIn (partOf i.core) := by
  cases c <;> cases h
  case pass o hh => exact State.passPlan_runsIn o hh
  case accout o => exact State.accoutPlan_runsIn o
  case ewise o => exact State.ewisePlan_runsIn o
  case ffence => exact inPart_nil
  case vld o => exact State.vldPlan_runsIn o
  case vst o => exact State.vstPlan_runsIn o
  case vxld o => exact State.vxldPlan_runsIn o
  case vcst o => exact State.vcstPlan_runsIn o
  case mld o => exact State.mldPlan_runsIn o
  case mst o => exact State.mstPlan_runsIn o
  case nsmax o => exact State.nsmaxPlan_runsIn o
  case nnorm o => exact State.nnormPlan_runsIn o
  case dgather o => exact State.gatherPlan_runsIn o
  case dscatter o => exact State.scatterPlan_runsIn o
  case dslot o => exact State.dslotTodo_runsIn o
  case tile o => exact State.tilePlan_runsIn o
  case adown o => exact State.adownPlan_runsIn o
  case aup o => exact State.aupPlan_runsIn o
  case kappend o => exact State.kappendPlan_runsIn o
  case kcommit o => exact State.kcommitPlan_runsIn o
  case kdiscard o => exact State.kdiscardPlan_runsIn o
  case khash o => exact State.khashPlan_runsIn o
  case kfind o => exact State.kfindPlan_runsIn o
  case kref o => exact State.krefPlan_runsIn o
  case tcopy o => exact State.tcopyPlan_runsIn o
  case tsend o => exact State.tsendPlan_runsIn o
  case tget o => exact State.tgetPlan_runsIn o
  case twin o => exact State.twinPlan_runsIn o
  case tdrain o => exact State.tdrainPlan_runsIn o
  case mstream o => exact State.mstreamPlan_runsIn o
  case mreduce o => exact State.mreducePlan_runsIn o
  case msend o => exact State.msendPlan_runsIn o
  case batom o => exact State.batomPlan_runsIn o
  case bcount o => exact State.bcountPlan_runsIn o
  case bcmp o => exact State.bcmpPlan_runsIn o
  all_goals exact vopTodo_runsIn ..

end Sys2Proof.Machine
end

section
/-! PROOF. An uncorrectable word under an engine's instruction is contained (R209, R223). -/

namespace Sys2Proof.Machine

open Claims

variable {s t : State} {q : QueueId} {op : BitVec 8} {i : Issue} {x : CoreId × Nat} {p : PartId}

/-! The events that corrections log. -/

/-- How many cores of a partition have not yet reported a corrected word in this step (R208). -/
def State.unreportedIn (s : State) (p : PartId) : Nat := ∑ c with partOf c = p, s.unreported c

/-- A partition has eight cores (R19). -/
theorem card_partOf (p : PartId) : (Finset.univ.filter (fun c : CoreId => partOf c = p)).card ≤ 8 := by
  revert p
  decide +kernel

theorem State.unreportedIn_le (s : State) (p : PartId) : s.unreportedIn p ≤ 8 :=
  (Finset.sum_le_card_nsmul _ _ 1 fun c _ => s.unreported_le c).trans (by simpa using card_partOf p)

/-- A correction logs no more than one event, and its core then none. -/
theorem State.unreportedIn_corrected {c : CoreId} (hc : partOf c = p) (a : Nat) (syms : List (Nat × Nat)) (b : Bool) :
    (s.corrected c a syms b).evlog.queue.length + (s.corrected c a syms b).unreportedIn p ≤
      s.evlog.queue.length + s.unreportedIn p := by
  have hmem : c ∈ Finset.univ.filter (fun c : CoreId => partOf c = p) := by simpa using hc
  have hlen := s.corrected_length_le c a syms b
  have hrest : ∑ y ∈ (Finset.univ.filter (fun c : CoreId => partOf c = p)).erase c, (s.corrected c a syms b).unreported y =
      ∑ y ∈ (Finset.univ.filter (fun c : CoreId => partOf c = p)).erase c, s.unreported y :=
    Finset.sum_congr rfl fun y hy => (s.unreported_corrected c y a syms b).trans (if_neg (Finset.ne_of_mem_erase hy))
  have hself : (s.corrected c a syms b).unreported c = 0 := (s.unreported_corrected c c a syms b).trans (if_pos rfl)
  unfold State.unreportedIn
  rw [← Finset.add_sum_erase _ _ hmem, ← Finset.add_sum_erase _ _ hmem, hrest, hself]
  omega

theorem State.unreportedIn_corrections : ∀ (ws : List (CoreId × Nat)) (s : State), inPart p ws →
    (s.corrections ws).evlog.queue.length + (s.corrections ws).unreportedIn p ≤
      s.evlog.queue.length + s.unreportedIn p
  | [], _, _ => Nat.le_refl _
  | (c, a) :: ws, s, h => by
    obtain ⟨hc, hws⟩ := inPart_cons.1 h
    unfold State.corrections
    refine (State.unreportedIn_corrections ws _ hws).trans ?_
    split
    · exact State.unreportedIn_corrected hc _ _ _
    · exact Nat.le_refl _

theorem State.corrections_length_le_of_inPart {ws : List (CoreId × Nat)} (h : inPart p ws) :
    (s.corrections ws).evlog.queue.length ≤ s.evlog.queue.length + 8 := by
  have hb : (s.corrections ws).evlog.queue.length + (s.corrections ws).unreportedIn p ≤ _ :=
    State.unreportedIn_corrections ws s h
  have hu := s.unreportedIn_le p
  omega

theorem State.beforeBad_subset (s : State) (ws : List (CoreId × Nat)) : s.beforeBad ws ⊆ ws :=
  fun _ h => List.takeWhile_subset _ h

/-! The stop at an uncorrectable word. -/

/-- The queue's stop at an uncorrectable word, before the word's record, its event and the stop of the step. -/
def State.faulted (s : State) (q : QueueId) (i : Issue) : State :=
  if q = qArray then s.modArray i.core (fun a => { a with state := 7, boundsStop := false })
  else s.modQueue i.core q (fun k => { k with state := 4, qpos := i.qpos })

theorem State.faulted_memory (s : State) (q : QueueId) (i : Issue) (y : CoreId) :
    ((s.faulted q i).core y).memory = (s.core y).memory := by
  unfold State.faulted
  split
  · rw [State.core_modArray]
    split
    · next hy => rw [hy]
    · rfl
  · exact State.memory_modQueue ..

theorem State.faulted_results (s : State) (q : QueueId) (i : Issue) (y : CoreId) :
    ((s.faulted q i).core y).results = (s.core y).results := by
  unfold State.faulted
  split
  · rw [State.core_modArray]
    split
    · next hy => rw [hy]; rfl
    · rfl
  · rw [State.core_modQueue]
    split
    · next hy => rw [hy]; rfl
    · rfl

theorem State.faulted_outside (s : State) (q : QueueId) (i : Issue) :
    (s.faulted q i).evlog = s.evlog ∧ ∀ p, (s.faulted q i).part p = s.part p := by
  unfold State.faulted
  split
  · exact ⟨rfl, fun _ => rfl⟩
  · exact ⟨rfl, fun _ => rfl⟩

theorem State.faulted_array (s : State) (i : Issue) : ((s.faulted qArray i).core i.core).array.state = 7 ∧
    ((s.faulted qArray i).core i.core).array.boundsStop = false := by
  simp [State.faulted, State.core_modArray]

theorem State.faulted_queue (s : State) (i : Issue) (hq : q ≠ qArray) :
    (((s.faulted q i).core i.core).queue q).state = 4 := by
  simp [State.faulted, hq, State.core_modQueue, Core.queue]

/-- Where an uncorrectable word was met: the queue, or 10, a neighbour's port, for a word of another core (R223). -/
def faultSource (q : QueueId) (i : Issue) (x : CoreId × Nat) : Nat := if x.1 = i.core then q.val else 10

/-- The state with the word recorded and its event logged, in which the step stops. -/
def State.faultNoted (s : State) (q : QueueId) (i : Issue) (x : CoreId × Nat) : State :=
  ((s.faulted q i).recordUncorr x.1 x.2 (faultSource q i x) false).log
    0x0002 (srcCore x.1) x.2 (faultSource q i x) i.core.val 0

/-- A word of the presenting core's partition stops that partition's step alone. -/
theorem State.faultAt_eq (h : partOf x.1 = partOf i.core) :
    s.faultAt q i x = (s.faultNoted q i x).stopStep (partOf i.core) stFAULT 2 := by
  rw [← h]
  exact if_pos h

/-- Of a core, the record of an uncorrectable word changes the memory alone. -/
theorem State.core_recordUncorr_memory (s : State) (c y : CoreId) (a src : Nat) (b : Bool) :
    (s.recordUncorr c a src b).core y = { s.core y with memory := ((s.recordUncorr c a src b).core y).memory } := by
  rw [State.recordUncorr, State.core_modMem]
  split
  · next hy => rw [hy]
  · rfl

theorem State.core_faultNoted (s : State) (q : QueueId) (i : Issue) (x : CoreId × Nat) (y : CoreId) :
    ∃ m, (s.faultNoted q i x).core y = { (s.faulted q i).core y with memory := m } :=
  ⟨_, (State.core_log ..).trans (State.core_recordUncorr_memory ..)⟩

theorem State.results_faultNoted (s : State) (q : QueueId) (i : Issue) (x : CoreId × Nat) (y : CoreId) :
    ((s.faultNoted q i x).core y).results = (s.core y).results := by
  obtain ⟨m, hm⟩ := s.core_faultNoted q i x y
  rw [hm]
  exact s.faulted_results q i y

theorem State.part_faultNoted (s : State) (q : QueueId) (i : Issue) (x : CoreId × Nat) (p : PartId) :
    (s.faultNoted q i x).part p = s.part p :=
  (State.part_log ..).trans ((s.faulted_outside q i).2 p)

theorem State.sameWords_faultNoted (s : State) (q : QueueId) (i : Issue) (x : CoreId × Nat) :
    s.sameWords (s.faultNoted q i x) := by
  intro y a
  have hrec := (s.faulted q i).sameWords_recordUncorr x.1 x.2 (faultSource q i x) false y a
  unfold State.peek at hrec ⊢
  rw [State.faultNoted, State.core_log, hrec, State.faulted_memory]

/-- In the step that it stops, a fault computes nothing, names the word and stops its queue (R209, R223). -/
structure Contained (s t : State) (q : QueueId) (i : Issue) (x : CoreId × Nat) : Prop where
  words : s.sameWords t
  results : ∀ y, (t.core y).results = (s.core y).results
  stops : stopped s t (partOf i.core) stFAULT 2
  event : logged s t 0x0002 (srcCore x.1) x.2 (faultSource q i x) i.core.val 0
  valid : (t.core x.1).memory.unValid = true
  first : (s.core x.1).memory.unValid = false →
    (t.core x.1).memory.unAddr = BitVec.ofNat 20 x.2 ∧ (t.core x.1).memory.unScrub = false
  array : q = qArray → (t.core i.core).array.state = 7 ∧ (t.core i.core).array.boundsStop = false
  queue : q ≠ qArray → ((t.core i.core).queue q).state = 4

theorem State.contained_faultAt (hr : running s (partOf i.core)) (hx : partOf x.1 = partOf i.core) :
    Contained s (s.faultAt q i x) q i x := by
  have hpart := s.part_faultNoted q i x (partOf i.core)
  have hrun : running (s.faultNoted q i x) (partOf i.core) := running_congr hpart hr
  have hcore : ∀ y, ((s.faultAt q i x).core y) =
      if partOf y = partOf i.core then ((s.faultNoted q i x).core y).halt else (s.faultNoted q i x).core y := fun y => by
    rw [State.faultAt_eq hx, State.core_stopStep]
    simp only [hrun.2, true_and]
  have hmem : ((s.faultAt q i x).core x.1).memory =
      { ((s.faultNoted q i x).core x.1).memory with
        held := ((s.faultNoted q i x).core x.1).memory.held.filter Held.isPacket } := by
    rw [hcore, if_pos hx]
    rfl
  have hown : (s.faultAt q i x).core i.core = ((s.faultNoted q i x).core i.core).halt := (hcore _).trans (if_pos rfl)
  obtain ⟨m, hm⟩ := s.core_faultNoted q i x i.core
  obtain ⟨hvalid, hfirst⟩ :=
    (s.faulted q i).uncorr_recorded x.1 x.2 (faultSource q i x) false
  rw [State.faulted_memory] at hfirst
  refine ⟨fun y a => ?_, fun y => ?_, ?_, fun hroom => ?_, ?_, fun h => ?_, ?_, fun hq => ?_⟩
  · rw [State.faultAt_eq hx, State.peek_stopStep]
    exact s.sameWords_faultNoted q i x y a
  · rw [hcore]
    split
    · rw [Core.results_halt, State.results_faultNoted]
    · exact State.results_faultNoted ..
  · rw [State.faultAt_eq hx]
    exact stopped_congr hpart (stopped_stopStep hrun stFAULT 2)
  · rw [State.faultAt_eq hx, State.stopStep_evlog]
    exact logged_log_of_evlog (u := (s.faulted q i).recordUncorr x.1 x.2 (faultSource q i x) false)
      (s.faulted_outside q i).1 hroom
  · rw [hmem, State.faultNoted, State.core_log]
    exact hvalid
  · rw [hmem, State.faultNoted, State.core_log]
    exact hfirst h
  · rintro rfl
    rw [hown, hm]
    exact s.faulted_array i
  · rw [hown, hm, Core.queue_halt]
    exact s.faulted_queue i hq

/-! The plan that meets it. -/

theorem State.firstBad_append_cases {l r : List (CoreId × Nat)} (h : s.firstBad (l ++ r) = some x) :
    s.firstBad l = some x ∨ s.firstBad l = none ∧ s.firstBad r = some x := by
  unfold State.firstBad at *
  rw [List.find?_append] at h
  cases hl : l.find? (fun x => (s.core x.1).memory.check x.2 == .bad) with
  | some y => rw [hl] at h; exact .inl h
  | none => rw [hl] at h; exact .inr ⟨rfl, h⟩

/-- A plan that finds an uncorrectable word before its end is known stops there, with what it has read so far. -/
theorem State.runPlanFrom_bad : ∀ (t : Todo) (s : State) (seen soft : List (CoreId × Nat)),
    s.asleep t.first = none → s.firstBad t.first = some x →
    ∃ ws, ws ⊆ seen ++ t.first ∧ State.runPlanFrom q op i seen soft t s = s.readFault q i ws x
  | .need r t, s, seen, soft, ha, hb => by
    obtain ⟨ha1, ha2⟩ := State.asleep_append.1 ha
    rw [State.runPlanFrom, ha1]
    rcases State.firstBad_append_cases hb with h | ⟨h, hb2⟩
    · simp only [h]
      refine ⟨seen ++ r, ?_, rfl⟩
      rw [Todo.first, ← List.append_assoc]
      exact List.subset_append_left _ _
    · obtain ⟨ws, hws, he⟩ := State.runPlanFrom_bad t s (seen ++ r) soft ha2 hb2
      simp only [h]
      exact ⟨ws, by rwa [Todo.first, ← List.append_assoc], he⟩
  | .stream _ t, s, seen, soft, ha, hb => State.runPlanFrom_bad t s seen _ ha hb
  | .reject _, _, _, _, _, hb => nomatch hb
  | .wait _, _, _, _, _, hb => nomatch hb
  | .run _ _ _ _, _, _, _, _, hb => nomatch hb

theorem State.present_first_bad {plan : State → Todo} (h : s.Ready q i) (ha : s.asleep (plan s).first = none)
    (hb : s.firstBad (plan s).first = some x) :
    ∃ ws, ws ⊆ (plan s).first ∧ s.present q op i plan = (s.begun q i).readFault q i ws x := by
  rw [State.present_ready h]
  exact State.runPlanFrom_bad (plan s) (s.begun q i) [] [] ((s.asleep_begun _).trans ha) ((s.firstBad_begun _).trans hb)

/-- The corrections before it leave room for the fault's event. -/
theorem State.corrections_begun_length_le {ws : List (CoreId × Nat)}
    (h : inPart p ws ∨ ∃ c m, ofCores c m ws) :
    ((s.begun q i).corrections ws).evlog.queue.length ≤ s.evlog.queue.length + 9 := by
  have hbegun := s.begun_length_le q i
  have hcorr : ((s.begun q i).corrections ws).evlog.queue.length ≤ (s.begun q i).evlog.queue.length + 8 := by
    rcases h with h | ⟨c, m, h⟩
    · exact State.corrections_length_le_of_inPart h
    · exact (State.corrections_length_le h).trans (by omega)
  omega

/-- Settles O10: the word is found either before the plan's end is known or at it. The issue has then marked only what
every issue may, and its corrections log no more than one event per core of the partition, so that the fault's own
finds room. -/
theorem uncorrectableWordIsContained : Obligations.UncorrectableWordIsContained := by
  intro c q op i plan s x hplan hready hrun hon hbad hx
  have hasleep := State.groupsOn_asleep hon
  obtain ⟨ws, hws, hpres⟩ : ∃ ws, (inPart (partOf i.core) ws ∨ ∃ c m, ofCores c m ws) ∧
      s.present q op i plan = ((s.begun q i).corrections ws).faultAt q i x := by
    rcases hbad with hfirst | ⟨hread, reads, writes, due, eff, hlast, hrunOn, hrunBad⟩
    · obtain ⟨m, hm⟩ := planOf_readsOf (s := s) hplan
      obtain ⟨ws, hws, he⟩ := State.present_first_bad hready hasleep hfirst
      exact ⟨_, .inr ⟨i.core, m, fun y hy => hm y (hws (State.beforeBad_subset _ _ hy))⟩, he⟩
    · have hin := Todo.inPart_of_runsIn (planOf_runsIn (s := s) hplan) hlast
      exact ⟨_, .inl (inPart_subset hin (State.beforeBad_subset _ _)), State.present_bad hready hasleep
        (State.readable_firstBad hread) hlast (State.groupsOn_asleep hrunOn) hrunBad⟩
  have hkeep := s.issueKeeps_corrected_begun q i ws
  have hlen := State.corrections_begun_length_le (s := s) (q := q) (i := i) hws
  have hpart := hkeep.part (partOf i.core)
  have hrecord : (((s.begun q i).corrections ws).core x.1).memory.unValid = (s.core x.1).memory.unValid :=
    congrArg (·.memory.unValid) (hkeep.settled x.1)
  have hcon := State.contained_faultAt (q := q) (running_congr hpart hrun) hx
  exact ⟨((s.begun q i).corrections ws).faultAt q i x, by rw [exec_of_planOf hplan, hpres],
    nothingComputed_of_results (hkeep.words.trans hcon.words)
      (fun y => (hcon.results y).trans (Core.results_of_settled (hkeep.settled y))),
    stopped_congr hpart hcon.stops, fun hroom => hcon.event (by omega), hcon.valid,
    fun h => hcon.first (hrecord.trans h), hcon.array, hcon.queue⟩

end Sys2Proof.Machine
end

section
/-! PROOF. The canonical form of memories, accumulators, routing tables and the event log (R229): what must hold of each
part of the state, and what a change of one part must keep. -/

namespace Sys2Proof.Machine.Claims

variable {s t : State}

/-- What `canonical` asks of one core. -/
def coreOk (k : Core) : Prop := k.memory.wf = true ∧ smWf k.array.acc = true ∧ wcOk k

/-- What `canonical` asks of the router. -/
def tablesOk (r : Router) : Prop := ∀ b : Fin 2, smWf r.table[b] = true

theorem canonical_iff : canonical s ↔ (∀ c, coreOk (s.core c)) ∧ tablesOk s.rte ∧
    smWf s.evlog.entries = true := by
  unfold canonical State.memoriesWf accsWf coreOk
  exact ⟨fun ⟨a, b, c, d, e⟩ => ⟨fun x => ⟨a x, b x, c x⟩, d, e⟩,
    fun ⟨a, d, e⟩ => ⟨fun x => (a x).1, fun x => (a x).2.1, fun x => (a x).2.2, d, e⟩⟩

/-- A state with the same cores, routing tables and log entries. -/
theorem canonical.same (h : canonical s) (hc : t.cores = s.cores := by rfl)
    (ht : t.rte.table = s.rte.table := by rfl) (he : t.evlog.entries = s.evlog.entries := by rfl) : canonical t := by
  simpa only [canonical_iff, tablesOk, State.core, hc, ht, he] using h

theorem canonical.core (h : canonical s) (c : CoreId) : coreOk (s.core c) := (canonical_iff.1 h).1 c

theorem canonical.setCore (h : canonical s) {c : CoreId} {k : Core} (hk : coreOk k) : canonical (s.setCore c k) := by
  obtain ⟨hcore, hrest⟩ := canonical_iff.1 h
  refine canonical_iff.2 ⟨fun x => ?_, hrest⟩
  rw [s.core_setCore]
  split
  · exact hk
  · exact hcore x

theorem canonical.modCore (h : canonical s) {c : CoreId} {f : Core → Core}
    (hf : ∀ {k : Core}, coreOk k → coreOk (f k) := by exact fun ⟨hm, ha, hw⟩ => ⟨hm, ha, hw⟩) :
    canonical (s.modCore c f) := h.setCore (hf (h.core c))

theorem canonical.modMem (h : canonical s) {c : CoreId} {f : Memory → Memory}
    (hf : ∀ {m : Memory}, m.wf = true → (f m).wf = true := by exact id) : canonical (s.modMem c f) :=
  h.modCore fun ⟨hm, hrest⟩ => ⟨hf hm, hrest⟩

theorem canonical.modArray (h : canonical s) {c : CoreId} {f : ArrayUnit → ArrayUnit}
    (hf : ∀ {a : ArrayUnit}, smWf a.acc = true → smWf (f a).acc = true := by exact id) : canonical (s.modArray c f) :=
  h.modCore fun ⟨hm, ha, hw⟩ => ⟨hm, hf ha, hw⟩

theorem canonical.setWc (h : canonical s) {c : CoreId} {l : List WcEntry} (hlen : l.length ≤ 64)
    (hkeys : (wcKeys l).Nodup) : canonical (s.modCore c (fun k => { k with wc := l })) :=
  h.modCore fun ⟨hm, ha, _⟩ => ⟨hm, ha, hlen, hkeys⟩

theorem canonical.modRte (h : canonical s) {f : Router → Router}
    (hf : ∀ {r : Router}, tablesOk r → tablesOk (f r) := by exact id) : canonical (s.modRte f) := by
  obtain ⟨hcore, htable, hlog⟩ := canonical_iff.1 h
  exact canonical_iff.2 ⟨hcore, hf htable, hlog⟩

theorem canonical.setLog (h : canonical s) {l : EventLog} (hl : smWf l.entries = true) :
    canonical { s with evlog := l } := by
  obtain ⟨hcore, htable, -⟩ := canonical_iff.1 h
  exact canonical_iff.2 ⟨hcore, htable, hl⟩

theorem canonical.ite {c : Prop} [Decidable c] (hs : canonical s) (ht : canonical t) :
    canonical (if c then s else t) := by
  split
  · exact hs
  · exact ht

theorem canonical.foldl {α : Type} {f : State → α → State} (hf : ∀ {u x}, canonical u → canonical (f u x))
    {l : List α} (h : canonical s) : canonical (l.foldl f s) := by
  induction l generalizing s with
  | nil => exact h
  | cons x l ih => exact ih (hf h)

theorem canonical.of_snd_eq {α : Type} {r : α × State} {a : α} (h : canonical r.2) (e : r = (a, t)) :
    canonical t := by
  rw [e] at h
  exact h

/-- The state of an outcome is canonical. -/
def outOk : Out → Prop
  | .next t => canonical t
  | _ => True

theorem outOk.of_next {o : Out} (h : outOk o) (e : o = .next t) : canonical t := by
  rw [e] at h
  exact h

/-- What a plan does to a canonical state leaves it canonical: what it notes as it waits, and its effect. -/
def todoOk : Todo → Prop
  | .reject _ => True
  | .wait noted => ∀ {u : State}, canonical u → canonical (noted u)
  | .need _ td => todoOk td
  | .stream _ td => todoOk td
  | .run _ _ _ eff => ∀ {u : State}, canonical u → canonical (eff u)

end Sys2Proof.Machine.Claims
end

section
/-! PROOF. Packets, held accesses and the effects of the engines keep the canonical form (R229). -/

namespace Sys2Proof.Machine.Claims

-- The default proofs of the rules are evaluated, and a proof that evaluates waits in a thread for all before it.
set_option Elab.async false

variable {s t : State}

/-! Time, the log, the spine, answers to hosts and stops. -/

theorem canonical.setPort (h : canonical s) {port k} : canonical (s.setPort port k) := h.same

theorem canonical.resume (h : canonical s) {port} : canonical (s.resume port) := h.same

theorem canonical.tick (h : canonical s) : canonical s.tick := h.same.ite (h.same.ite (h.same.ite h.same))

theorem canonical.log (h : canonical s) {code src p0 p1 p2 p3} : canonical (s.log code src p0 p1 p2 p3) :=
  h.same.ite h.same

theorem canonical.spineWait (h : canonical s) {g} : canonical (s.spineWait g) := h.modRte.log.ite h

theorem canonical.commit (h : canonical s) {n path} : canonical (s.commit n path).2 := by
  induction path generalizing s with
  | nil => exact h
  | cons g path ih =>
    unfold State.commit
    dsimp only
    split
    · exact ih h.modRte
    · exact h.spineWait

theorem canonical.spineMoves (h : canonical s) {ms} : canonical (s.spineMoves ms).2 := by
  induction ms generalizing s with
  | nil => exact h
  | cons m ms ih => exact ih h.commit

theorem canonical.spineStep (h : canonical s) : canonical s.spineStep := by
  unfold State.spineStep
  extract_lets u
  have hu : canonical u := h.ite h.modRte
  exact hu.ite (hu.spineMoves (ms := u.transit)).same

theorem canonical.lateResp (h : canonical s) {c} : canonical (s.lateResp c) := h.modCore

theorem canonical.modQueue (h : canonical s) {c q f} : canonical (s.modQueue c q f) := h.modCore

theorem canonical.setPart (h : canonical s) {p k} : canonical (s.setPart p k) := h.same

theorem canonical.modPort (h : canonical s) {port f} : canonical (s.modPort port f) := h.setPort

theorem canonical.respond (h : canonical s) {port session r} : canonical (s.respond port session r) := h.modPort

theorem canonical.respondAll (h : canonical s) {op status body ws} :
    canonical (s.respondAll op status body ws) := by
  induction ws generalizing s with
  | nil => exact h
  | cons w ws ih => exact ih h.respond

theorem canonical.stopStep (h : canonical s) {p st cause} : canonical (s.stopStep p st cause) :=
  (h.foldl fun hs => hs.modCore).setPart.respondAll.ite h

theorem canonical.xferFail (h : canonical s) {c t status cause} : canonical (s.xferFail c t status cause) :=
  h.modCore.modQueue.log.stopStep

theorem canonical.answered (h : canonical s) {c x} : canonical (s.answered c x) := h.modCore.ite h.modCore

/-! Bank groups, answers, and the words and rows that packets land. -/

theorem canonical.lateWake (h : canonical s) {c g} : canonical (s.lateWake c g) := h.ite h.modCore.log

theorem wf_wake {m : Memory} {g} (hm : m.wf = true) : (m.wake g).wf = true := by
  unfold Memory.wake
  split <;> exact hm

theorem canonical.wakeAt (h : canonical s) {x} : canonical (s.wakeAt x) := .ite (h.lateWake.modMem wf_wake) h

theorem canonical.holdAt (h : canonical s) {held x} : canonical (s.holdAt held x) :=
  h.wakeAt.modMem fun hm => by
    dsimp only
    split <;> exact hm

theorem canonical.poke (h : canonical s) {c a w} : canonical (s.poke c a w) :=
  h.modMem fun hm => Memory.write_wf hm a w

theorem canonical.pokeMany (h : canonical s) {c a ws} : canonical (s.pokeMany c a ws) := by
  induction ws generalizing s a with
  | nil => exact h
  | cons w ws ih => exact ih h.poke

theorem canonical.takeResp (h : canonical s) {vc q} : canonical (s.takeResp vc q) := by
  unfold State.takeResp
  split
  · exact h
  · split
    · refine h.lateResp.ite ?_
      refine h.xferFail.ite ?_
      split
      · exact h.answered
      · dsimp only
        split
        · exact h.holdAt
        · exact h.pokeMany.answered
    · exact h.lateResp

theorem canonical.launch (h : canonical s) {vc p} (e : s.launch vc p = some t) : canonical t := by
  unfold State.launch at e
  split at e
  · cases e
    exact h.same
  · split at e <;> cases e
    exact h.same

theorem canonical.reply (h : canonical s) {vc pkt} : canonical (s.reply vc pkt) := by
  unfold State.reply
  cases e : s.launch vc pkt with
  | none => exact h
  | some t => exact h.launch e

theorem canonical.ackWrite (h : canonical s) {p vc q status} : canonical (s.ackWrite p vc q status) :=
  h.reply.ite h

theorem canonical.readResp (h : canonical s) {p rank vc q status off ws} :
    canonical (s.readResp p rank vc q status off ws) :=
  h.reply

theorem canonical.discardAt (h : canonical s) {p vc q st} : canonical (s.discardAt p vc q st) :=
  h.log.ackWrite.ite (h.log.readResp.ite h.log)

theorem canonical.modPart (h : canonical s) {p f} : canonical (s.modPart p f) := h.setPart

theorem canonical.holdPacket (h : canonical s) {p vc q} : canonical (s.holdPacket p vc q) := h.modPart

theorem canonical.wakePart (h : canonical s) {p} : canonical (s.wakePart p) := h.ite h.same

theorem canonical.lateWakePart (h : canonical s) {p} : canonical (s.lateWakePart p) :=
  h.wakePart.ite h.wakePart.modPart.log

theorem canonical.muleDrop (h : canonical s) {c q row} : canonical (s.muleDrop c q row) :=
  h.modCore.ite h.modCore.modCore.log

theorem canonical.flag (h : canonical s) {c f} : canonical (s.flag c f) := h.modCore

theorem canonical.addRow (h : canonical s) {c row vs} : canonical (s.addRow c row vs) :=
  (h.modArray fun ha => smSetMany_wf _ ha).flag

theorem canonical.takeRows (h : canonical s) {c q r rows} : canonical (s.takeRows c q r rows).1 := by
  induction rows generalizing s r with
  | nil => exact h
  | cons row rows ih =>
    unfold State.takeRows
    split
    · exact ih h.muleDrop
    · split
      · exact ih h.muleDrop
      · split
        · exact ih h.addRow
        · exact ih h

theorem canonical.releaseRows (h : canonical s) {c r n} : canonical (s.releaseRows c r n).1 := by
  induction n generalizing s r with
  | zero => exact h
  | succ n ih =>
    unfold State.releaseRows
    split
    · exact h
    · exact ih h.addRow

theorem canonical.setRegion (h : canonical s) {c r} : canonical (s.setRegion c r) := h.modCore

theorem canonical.landRows (h : canonical s) {p vc c r q} : canonical (s.landRows p vc c r q) := by
  unfold State.landRows
  refine h.discardAt.ite (h.holdPacket.ite ?_)
  dsimp only
  exact .ite h.takeRows.releaseRows.modCore h.takeRows.releaseRows.setRegion

theorem canonical.recordUncorr (h : canonical s) {c a src scrub} : canonical (s.recordUncorr c a src scrub) :=
  h.modMem fun hm => by split <;> exact hm

theorem canonical.contain (h : canonical s) {c a src by_} : canonical (s.contain c a src by_) :=
  h.recordUncorr.log.stopStep

theorem canonical.corrected (h : canonical s) {c a syms scrub} : canonical (s.corrected c a syms scrub) :=
  h.modMem.ite h.modMem.modCore.log

theorem canonical.corrections (h : canonical s) {ws} : canonical (s.corrections ws) := by
  induction ws generalizing s with
  | nil => exact h
  | cons x ws ih =>
    unfold State.corrections
    split
    · exact ih h.corrected
    · exact ih h

theorem canonical.draw (h : canonical s) : canonical s.draw.2 := h.same

theorem canonical.readOffset (h : canonical s) {q} : canonical (s.readOffset q).2 := by
  unfold State.readOffset
  dsimp only
  split
  · exact h
  · exact h.draw

theorem canonical.serveRead (h : canonical s) {p vc w q} : canonical (s.serveRead p vc w q) := by
  unfold State.serveRead
  dsimp only
  split
  · exact h.holdAt
  · split
    · exact h.corrections.contain
    · exact h.corrections.readOffset.readResp

theorem canonical.landWords (h : canonical s) {p vc w q} : canonical (s.landWords p vc w q) := by
  unfold State.landWords
  dsimp only
  split
  · exact h.holdAt
  · exact (h.pokeMany.modPart.ite h.pokeMany.modPart.modCore).ackWrite

theorem canonical.landPacket (h : canonical s) {p vc q} : canonical (s.landPacket p vc q) := by
  unfold State.landPacket
  refine h.discardAt.ite (.ite ?_ ?_)
  · split
    · exact h.holdPacket
    · exact h.holdPacket.ite (h.holdPacket.lateWakePart.ite h.landRows)
  · split
    · exact h.holdPacket
    · exact h.discardAt.ite (h.discardAt.ite (h.holdPacket.lateWakePart.ite (h.serveRead.ite h.landWords)))

theorem canonical.wr (h : canonical s) {x} : canonical (s.wr x) := h.poke.ite h.poke

theorem canonical.wrCtl (h : canonical s) {c a data mask src} : canonical (s.wrCtl c a data mask src) := by
  unfold State.wrCtl
  refine h.poke.ite ?_
  split
  · exact h.contain
  · exact h.corrected.wr
  · exact h.wr

theorem canonical.serveHeld (h : canonical s) {c l} : canonical (State.serveHeld c l s).1 := by
  induction l generalizing s with
  | nil => exact h
  | cons x l ih =>
    cases x with
    | packet vc q g => exact ih (h.takeResp.ite h.landPacket)
    | write a d m src g => exact ih h.wrCtl
    | instr c' q g => exact h

theorem canonical.serveGroup (h : canonical s) {c g} : canonical (s.serveGroup c g) :=
  .ite h.modMem.serveHeld h.modMem.serveHeld.modMem

theorem canonical.serveCore (h : canonical s) {c} : canonical (s.serveCore c) :=
  h.foldl fun hs => hs.serveGroup.ite hs

theorem canonical.serveCores (h : canonical s) : canonical s.serveCores := h.foldl fun hs => hs.ite hs.serveCore

/-! The issue of an instruction, and what its plan does. -/

theorem canonical.headWaits (h : canonical s) {q op i st} : canonical (s.headWaits q op i st) := h.modQueue

theorem canonical.modVec (h : canonical s) {c f} : canonical (s.modVec c f) := h.modCore

theorem canonical.addStall (h : canonical s) {q i n} : canonical (s.addStall q i n) := h.modVec.ite h

theorem canonical.rejectAt (h : canonical s) {q i reason} : canonical (s.rejectAt q i reason) :=
  (h.modArray.ite h.modQueue).log.stopStep

theorem canonical.faultAt (h : canonical s) {q i x} : canonical (s.faultAt q i x) :=
  (h.modArray.ite h.modQueue).contain.ite (h.modArray.ite h.modQueue).contain.stopStep

theorem canonical.readFault (h : canonical s) {q i reads x} : canonical (s.readFault q i reads x) :=
  h.corrections.faultAt

theorem canonical.unhold (h : canonical s) {q c} : canonical (s.unhold q c) :=
  h.foldl fun hs => hs.ite hs.modMem

theorem canonical.wakeAll (h : canonical s) {ws} : canonical (s.wakeAll ws) := by
  induction ws generalizing s with
  | nil => exact h
  | cons x ws ih => exact ih h.wakeAt

theorem canonical.issued (h : canonical s) {q op i due} : canonical (s.issued q op i due) :=
  (h.modVec.ite h).modQueue.modCore

/-- A plan ends the issue with a rejection, a wait, a fault or its effect; what it reads first changes nothing. -/
theorem canonical.runPlanFrom (h : canonical s) {q op i seen soft} {td : Todo} (htd : todoOk td) :
    canonical (State.runPlanFrom q op i seen soft td s) := by
  induction td generalizing s seen soft with
  | reject r => exact h.corrections.rejectAt
  | wait noted => exact (htd h).headWaits
  | need reads td ih =>
    unfold State.runPlanFrom
    split
    · exact h.holdAt.headWaits
    · split
      · exact h.readFault
      · exact ih h htd
  | stream reads td ih => exact ih h htd
  | run reads writes due eff =>
    unfold State.runPlanFrom
    split
    · exact h.holdAt.headWaits
    · split
      · exact h.readFault
      · exact htd h.corrections.wakeAll.unhold.issued

theorem canonical.runPlan (h : canonical s) {q op i td} (htd : todoOk td) : canonical (s.runPlan q op i td) :=
  h.runPlanFrom htd

theorem canonical.addSlip (h : canonical s) {c q qpos n limit mark set} :
    canonical (s.addSlip c q qpos n limit mark set) :=
  h.modCore.modCore.log.ite h.modCore

theorem canonical.addWaitSlip (h : canonical s) {q i} : canonical (s.addWaitSlip q i) := h.addSlip

theorem canonical.waitsMet (h : canonical s) {q i} : canonical (s.waitsMet q i) := h.ite h.addWaitSlip.modQueue

theorem canonical.begun (h : canonical s) {q i} : canonical (s.begun q i) := h.addStall.waitsMet

theorem canonical.present (h : canonical s) {q op i plan} (hplan : todoOk (plan s)) :
    canonical (s.present q op i plan) :=
  h.ite (h.addStall.headWaits.ite (h.begun.runPlan hplan))

/-! The effects of the engines. -/

theorem acc_getReady (a : ArrayUnit) (now gap) : (a.getReady now gap).acc = a.acc := by
  unfold ArrayUnit.getReady
  split <;> rfl

theorem canonical.passAwaits (h : canonical s) {i o} : canonical (s.passAwaits i o) := by
  unfold State.passAwaits
  extract_lets c src fresh u n w
  have hu : canonical u := h.corrections.ite h
  refine hu.modArray fun ha => ?_
  extract_lets a
  have hacc : smWf a.acc = true := by
    unfold a
    split <;> exact ha
  split
  · exact hacc
  · rw [acc_getReady]
    exact hacc

theorem canonical.slotCount (h : canonical s) {c q qpos n} : canonical (s.slotCount c q qpos n) :=
  h.ite h.modCore.log

theorem canonical.send (h : canonical s) {p rank unit vc pkt} (e : s.send p rank unit vc pkt = some t) :
    canonical t :=
  h.modPart.launch e

theorem canonical.sendAll (h : canonical s) {p rank unit vc pkts} :
    canonical (s.sendAll p rank unit vc pkts).1 := by
  induction pkts generalizing s with
  | nil => exact h
  | cons x pkts ih =>
    unfold State.sendAll
    split
    · exact h
    · next u e => exact ih (h.send e)

theorem canonical.muleSend (h : canonical s) {c n x bf16 w rows} : canonical (s.muleSend c n x bf16 w rows).1 :=
  h.flag.modCore.sendAll

theorem canonical.broken (h : canonical s) {c q} : canonical (s.broken c q) :=
  (h.modArray.ite h.modQueue).stopStep

theorem smWf_foldl {α : Type} {w : Nat} {f : SMap w → α → SMap w}
    (hf : ∀ {m x}, smWf m = true → smWf (f m x) = true) {l : List α} {m : SMap w} (h : smWf m = true) :
    smWf (l.foldl f m) = true := by
  induction l generalizing m with
  | nil => exact h
  | cons x l ih => exact ih (hf h)

theorem canonical.passEffect (h : canonical s) {c i o holds} : canonical (s.passEffect c i o holds) := by
  unfold State.passEffect
  split
  · dsimp -zeta only
    extract_lets a isInt words used reused kept res vals w mixed scs fl acc now passed drawn counted slipped
    have hacc : smWf acc = true := by
      unfold acc
      split
      · exact (h.core c).2.1
      · exact smWf_foldl (fun hm => smSetMany_wf _ hm) (h.core c).2.1
    have hdrawn : canonical drawn := .ite (h.modArray fun _ => hacc).flag.same (h.modArray fun _ => hacc).flag
    have hcounted : canonical counted := by
      unfold counted
      split
      · exact hdrawn.slotCount
      · exact hdrawn
    refine .ite ?_ hcounted.addSlip
    split
    · exact .ite hcounted.addSlip.muleSend.broken hcounted.addSlip.muleSend
    · exact hcounted.addSlip
  · exact h

theorem canonical.wrAll (h : canonical s) {xs} : canonical (s.wrAll xs) := h.foldl fun hs => hs.wr

theorem acc_dropHeld (a : ArrayUnit) (same ws) : (a.dropHeld same ws).acc = a.acc := by
  obtain ⟨held, e, -⟩ := a.dropHeld_eq same ws
  rw [e]

theorem canonical.accoutEffect (h : canonical s) {c d o f} : canonical (s.accoutEffect c d o f) := by
  refine h.wrAll.flag.modArray fun ha => ?_
  dsimp only
  rw [acc_dropHeld]
  split
  · exact smWf_foldl (fun hm => smSetMany_wf _ hm) ha
  · exact ha

theorem canonical.badT2 (h : canonical s) {c n addr} : canonical (s.badT2 c n addr) :=
  h.ite (h.modCore.ite h.modCore.modCore.log)

theorem canonical.ewiseEffect (h : canonical s) {i ca cb o fa fb} : canonical (s.ewiseEffect i ca cb o fa fb) :=
  (h.modArray fun ha => smSetMany_wf _ ha).flag.badT2

theorem canonical.vldEffect (h : canonical s) {i o m t f} : canonical (s.vldEffect i o m t f) :=
  h.modVec.flag.badT2

theorem canonical.vxldEffect (h : canonical s) {i o m t} : canonical (s.vxldEffect i o m t) := h.modVec

theorem canonical.zeroRow (h : canonical s) {b y n} : canonical (s.zeroRow b y n) := h.pokeMany

theorem canonical.copyRow (h : canonical s) {a x b y n} : canonical (s.copyRow a x b y n) := h.pokeMany

theorem canonical.gatherRows (h : canonical s) {a b o l} : canonical (s.gatherRows a b o l) := by
  induction l generalizing s with
  | nil => exact h
  | cons x l ih => exact ih ((h.zeroRow.ite h).ite h.copyRow)

theorem canonical.scatterRows (h : canonical s) {a b o l} : canonical (s.scatterRows a b o l) := by
  induction l generalizing s with
  | nil => exact h
  | cons x l ih => exact ih (h.ite h.copyRow)

theorem canonical.tileEffect (h : canonical s) {c m o f} : canonical (s.tileEffect c m o f) :=
  h.modArray.modCore.ite <|
    (h.modCore.modArray.modCore.ite h.modCore.modArray.flag.badT2).ite h.modArray.flag.badT2

theorem canonical.kvClamped (h : canonical s) {c o n} : canonical (s.kvClamped c o n) := h.log

theorem canonical.khashEffect (h : canonical s) {c o} : canonical (s.khashEffect c o) := by
  unfold State.khashEffect
  dsimp only
  split
  · exact h.poke.poke
  · exact h.poke.modCore.log

theorem canonical.kfindEffect (h : canonical s) {c m o} : canonical (s.kfindEffect c m o) := by
  unfold State.kfindEffect
  dsimp only
  split
  · exact h.modCore.poke.wr
  · exact h.modCore.wr

theorem canonical.putBits (h : canonical s) {c a data mask src} : canonical (s.putBits c a data mask src) := by
  unfold State.putBits
  split
  · exact h.holdAt
  · exact h.wrCtl

theorem canonical.flush (h : canonical s) {es} : canonical (s.flush es) := by
  induction es generalizing s with
  | nil => exact h
  | cons e es ih => exact ih h.putBits

/-- The buffer keeps at most the last 64 entries of the one in which the word has been put. -/
theorem canonical.wcWrite (h : canonical s) {c o a w} : canonical (s.wcWrite c o a w) := by
  obtain ⟨-, -, -, hkeys⟩ := h.core c
  refine (h.setWc ?_ ((wcKeys_wcPut_nodup hkeys o a w).sublist ((List.drop_sublist _ _).map _))).flush
  rw [List.length_drop]
  omega

theorem canonical.wcWrites (h : canonical s) {c o a ws} : canonical (s.wcWrites c o a ws) := by
  induction ws generalizing s a with
  | nil => exact h
  | cons w ws ih => exact ih h.wcWrite

theorem canonical.tcopyEffect (h : canonical s) {c a b o t} : canonical (s.tcopyEffect c a b o t) :=
  h.modCore.wcWrites

theorem canonical.startXfer (h : canonical s) {c o x pkts} : canonical (s.startXfer c o x pkts) :=
  h.modCore.sendAll.xferFail.ite h.modCore.sendAll

/-- What is left of the buffer is a part of it. -/
theorem canonical.wcFlush (h : canonical s) {c p} : canonical (s.wcFlush c p) := by
  obtain ⟨-, -, hlen, hkeys⟩ := h.core c
  exact (h.setWc ((List.length_filter_le _ _).trans hlen) (hkeys.sublist (List.filter_sublist.map _))).flush

theorem canonical.landList (h : canonical s) {p l} : canonical (s.landList p l) := by
  induction l generalizing s with
  | nil => exact h
  | cons x l ih => exact ih h.landPacket

theorem canonical.reland (h : canonical s) {p} : canonical (s.reland p) := h.modPart.landList

theorem canonical.twinEffect (h : canonical s) {c o} : canonical (s.twinEffect c o) :=
  h.modPart.ite (h.ite h.modPart.reland)

theorem accZero_wf {m : SMap 32} (hm : smWf m = true) {row n} : smWf (accZero m row n) = true :=
  smFilter_wf _ hm

theorem canonical.reduceEffect (h : canonical s) {c o} : canonical (s.reduceEffect c o) :=
  ((h.modArray fun ha => accZero_wf ha).ite h).modCore.reland

theorem canonical.batomEffect (h : canonical s) {c m o} : canonical (s.batomEffect c m o) := h.poke.poke

theorem canonical.kernelEnd (h : canonical s) {c q} : canonical (s.kernelEnd c q) :=
  h.wcFlush.ite (h.modArray.ite h)

end Sys2Proof.Machine.Claims
end

section
/-! PROOF. Completions, bank groups, the start of a step, arriving packets and register writes keep the
canonical form (R229). -/

namespace Sys2Proof.Machine.Claims

-- The default proofs of the rules are evaluated, and a proof that evaluates waits in a thread for all before it.
set_option Elab.async false

variable {s t : State}

/-! Completion, scrubbing and bank groups. -/

theorem coreOk.flying {k : Core} (hk : coreOk k) {l} : coreOk { k with inflight := l } := hk

theorem coreOk.finishDue {k : Core} (hk : coreOk k) {due} : coreOk (k.finishDue due) := by
  cases due <;> exact hk

theorem coreOk.increments {k : Core} (hk : coreOk k) {hdr} : coreOk (k.increments hdr) := by
  rw [Core.increments_eq]
  exact hk

theorem coreOk.idleQueue {k : Core} (hk : coreOk k) {q} : coreOk (k.idleQueue q) := by
  rw [Core.idleQueue_eq]
  exact hk

theorem canonical.complete (h : canonical s) {c before f after} : canonical (s.complete c before f after) :=
  (h.kernelEnd.ite h).modCore fun hk =>
    (coreOk.flying hk).finishDue.increments.idleQueue

theorem outOk_execInstrComplete (h : canonical s) {c q n} : outOk (execInstrComplete c q n s) := by
  unfold execInstrComplete
  show canonical _
  split
  · exact h.complete.ite h
  · exact h

theorem acc_rampDown (a : ArrayUnit) : a.rampDown.acc = a.acc := by
  unfold ArrayUnit.rampDown
  split
  · split <;> rfl
  · rfl

theorem outOk_execArrayRampDown (h : canonical s) {c} : outOk (execArrayRampDown c s) :=
  h.ite (h.modArray fun ha => by rwa [acc_rampDown])

theorem canonical.scrubOne (h : canonical s) {c a} : canonical (s.scrubOne c a) := by
  unfold State.scrubOne
  split
  · exact h
  · exact h.corrected
  · exact h.recordUncorr.log

theorem outOk_execScrubRead (h : canonical s) {c bank} : outOk (execScrubRead c bank s) :=
  h.ite h.modMem.scrubOne

theorem outOk_execCorrectedWriteback (h : canonical s) {c addr} : outOk (execCorrectedWriteback c addr s) := by
  unfold execCorrectedWriteback
  show canonical _
  split
  · exact h.poke.ite h
  · exact h

theorem wf_request {m : Memory} {g r} (hm : m.wf = true) : (m.request g r).wf = true := by
  unfold Memory.request
  split
  · exact hm
  · split
    · exact wf_wake hm
    · exact hm

theorem canonical.bgRequest (h : canonical s) {c g r} : canonical (s.bgRequest c g r) :=
  h.ite (h.modMem wf_request)

theorem outOk_execBgReqOn (h : canonical s) {c g} : outOk (execBgReqOn c g s) := h.bgRequest

theorem outOk_execBgReqRetention (h : canonical s) {c g} : outOk (execBgReqRetention c g s) := h.bgRequest

theorem outOk_execBgReqOff (h : canonical s) {c g} : outOk (execBgReqOff c g s) := h.bgRequest

theorem wf_clearGroup {m : Memory} {g} (hm : m.wf = true) : (m.clearGroup g).wf = true := by
  obtain ⟨hmem, hflips⟩ := m.wf_iff.1 hm
  exact (Memory.wf_iff _).2
    ⟨smFilter_wf (fun a => m.group a != g) hmem, smFilter_wf (fun a => m.group a != g) hflips⟩

theorem wf_enter {m : Memory} {g x} (hm : m.wf = true) : (m.enter g x).wf = true := by
  unfold Memory.enter
  dsimp only
  split
  · exact wf_clearGroup hm
  · exact hm

theorem outOk_execBgEnterState (h : canonical s) {c g} : outOk (execBgEnterState c g s) :=
  h.ite (h.modMem wf_enter)

/-! The start of a step. -/

theorem canonical.tableAsleep (h : canonical s) {p a n} (e : s.tableAsleep p a n = some t) : canonical t := by
  obtain ⟨x, -, rfl⟩ := Option.map_eq_some_iff.1 e
  exact h.wakeAt

theorem canonical.boundaryHeld (h : canonical s) {p region} (e : s.boundaryHeld p region = some t) :
    canonical t := by
  unfold State.boundaryHeld at e
  dsimp only at e
  split at e
  · cases e
    exact h.lateWakePart.modPart
  · exact h.tableAsleep e

theorem canonical.putWords (h : canonical s) {c a src ws} : canonical (s.putWords c a src ws) := by
  induction ws generalizing s a with
  | nil => exact h
  | cons w ws ih => exact ih h.putBits

theorem canonical.recWrite (h : canonical s) {p w ws} : canonical (s.recWrite p w ws) := by
  induction ws generalizing s w with
  | nil => exact h
  | cons x ws ih => exact ih h.putWords

theorem canonical.recAdd (h : canonical s) {port cls op sess seq body} :
    canonical (s.recAdd port cls op sess seq body) :=
  h.recWrite.same.ite h.same.log

theorem canonical.recBatch (h : canonical s) {p ws} : canonical (s.recBatch p ws) := h.recAdd.ite h

theorem canonical.ringPut (h : canonical s) {p ws} : canonical (s.ringPut p ws) := h.pokeMany.modCore.modPart

theorem canonical.writeTable (h : canonical s) {c a l} : canonical (s.writeTable c a l) := by
  induction l generalizing s with
  | nil => exact h
  | cons x l ih => exact ih h.pokeMany

theorem coreOk.stepStart {k : Core} (hk : coreOk k) : coreOk k.stepStart := by
  obtain ⟨hm, ha, hw⟩ := hk
  refine ⟨hm, ?_, hw⟩
  show smWf k.array.start.acc = true
  unfold ArrayUnit.start
  split <;> exact ha

theorem canonical.beginStep (h : canonical s) {p} : canonical (s.beginStep p) :=
  (h.foldl fun hs => hs.modCore coreOk.stepStart).modPart

theorem canonical.followBatch (h : canonical s) {p table} : canonical (s.followBatch p table) :=
  h.setPart.writeTable.recBatch.beginStep

theorem canonical.kickFollower (h : canonical s) {p} : canonical (s.kickFollower p) := by
  unfold State.kickFollower
  refine h.ite ?_
  split
  · next u e => exact h.boundaryHeld e
  · extract_lets u
    have hu : canonical u := by
      unfold u
      split
      · exact h
      · exact .ite h.modPart.ringPut.recBatch h.modPart.followBatch
    exact hu.beginStep.ite hu

theorem canonical.lsSend (h : canonical s) {p ws} : canonical (s.lsSend p ws) := h.reply

theorem canonical.lsSendAll (h : canonical s) {p l} : canonical (s.lsSendAll p l) := by
  induction l generalizing s with
  | nil => exact h
  | cons x l ih => exact ih h.lsSend

theorem canonical.lsBatch (h : canonical s) {p table} : canonical (s.lsBatch p table) := h.lsSendAll

theorem canonical.c0Started (h : canonical s) {p rx} : canonical (s.c0Started p rx) := by
  unfold State.c0Started
  refine h.draw.setPart.ite ?_
  dsimp only
  split
  · exact h.draw.setPart.ite h.draw.setPart.modPart.log
  · exact h.draw.setPart.modPart.log

theorem canonical.ringWrite (h : canonical s) {p n r} : canonical (s.ringWrite p n r) := by
  unfold State.ringWrite
  extract_lets ws k active put sent
  have hput : canonical put := h.setPart.ringPut.recBatch
  have hsent : canonical sent := hput.lsBatch.ite hput
  exact hsent.c0Started.ite hsent

theorem canonical.ringFill (h : canonical s) {p n} : canonical (s.ringFill p n) := by
  induction n generalizing s with
  | zero => exact h
  | succ n ih =>
    unfold State.ringFill
    refine h.ite ?_
    split
    · exact h
    · exact ih h.ringWrite

theorem canonical.kickRing (h : canonical s) {p} : canonical (s.kickRing p) := by
  unfold State.kickRing
  dsimp only
  split
  · next u e => exact (h.modPart.ite h).boundaryHeld e
  · exact .ite (h.modPart.ite h).ringFill.beginStep (h.modPart.ite h).ringFill

theorem canonical.startBatch (h : canonical s) {p b} : canonical (s.startBatch p b) :=
  (h.setPart.writeTable.recBatch.lsBatch.ite h.setPart.writeTable.recBatch).beginStep

theorem canonical.kickBatch (h : canonical s) {p} : canonical (s.kickBatch p) := by
  unfold State.kickBatch
  refine h.setPart.ite ?_
  split
  · next u e => exact h.setPart.boundaryHeld e
  · exact h.setPart.startBatch

theorem canonical.kick (h : canonical s) {p} : canonical (s.kick p) :=
  h.ite (h.kickFollower.ite (h.kickRing.ite (h.kickBatch.ite h)))

/-! A group that wakes, and packets that arrive. -/

theorem canonical.groupAwake (h : canonical s) {c g} : canonical (s.groupAwake c g) := h.ite h.modMem.serveGroup

theorem outOk_execBgWakeDone (h : canonical s) {c g} : outOk (execBgWakeDone c g s) := h.groupAwake.kick

theorem canonical.arrive (h : canonical s) {p} : canonical (s.arrive p).2 := by
  unfold State.arrive
  split
  · exact h.same
  · exact h

theorem canonical.badHeader (h : canonical s) : canonical s.badHeader := h.modRte

theorem canonical.rx (h : canonical s) {kind q} : canonical (s.rx kind q) :=
  h.ite (h.arrive.badHeader.ite (h.arrive.landPacket.ite (h.arrive.landPacket.reland.ite h.arrive.landPacket)))

theorem outOk_execRxWrite (h : canonical s) {q} : outOk (execRxWrite q s) := h.ite h.rx

theorem canonical.takeAck (h : canonical s) {q} : canonical (s.takeAck q) := by
  unfold State.takeAck
  split
  · exact h
  · split
    · exact .ite (h.answered.ite h.xferFail) h.lateResp
    · exact h.lateResp

theorem outOk_execRxWriteAck (h : canonical s) {q} : outOk (execRxWriteAck q s) :=
  h.ite (h.arrive.badHeader.ite h.arrive.takeAck)

theorem outOk_execRxReadReq (h : canonical s) {q} : outOk (execRxReadReq q s) := h.rx

theorem outOk_execRxReadResp (h : canonical s) {q} : outOk (execRxReadResp q s) :=
  h.ite (h.arrive.badHeader.ite h.arrive.takeResp)

theorem outOk_execRxMuleRows (h : canonical s) {q} : outOk (execRxMuleRows q s) := h.rx

/-! Register writes, and what they do to links. -/

theorem canonical.settle (h : canonical s) {p} : canonical (s.settle p) := h.setPart.ite h

theorem canonical.setPoint (h : canonical s) {p x} : canonical (s.setPoint p x) := h.modPart.settle

theorem canonical.writePartReg (h : canonical s) {p o v} : canonical (s.writePartReg p o v) :=
  h.setPoint.ite h.modPart

theorem coreOk.ite {c : Prop} [Decidable c] {k k' : Core} (hk : coreOk k) (hk' : coreOk k') :
    coreOk (if c then k else k') := by
  split
  · exact hk
  · exact hk'

theorem coreOk.clearReject {k : Core} (hk : coreOk k) {q one} : coreOk (k.clearReject q one) := .ite hk hk

theorem coreOk.writeReg {k : Core} {o v one} (hk : coreOk k) : coreOk (k.writeReg o v one) :=
  .ite hk (.ite hk.clearReject (.ite hk.clearReject (.ite hk (.ite hk (.ite hk (.ite hk (.ite hk hk)))))))

theorem canonical.writeCoreReg (h : canonical s) {c o old value mask} :
    canonical (s.writeCoreReg c o old value mask) :=
  (h.foldl fun hs => hs.ite hs.bgRequest).ite (h.modCore coreOk.writeReg)

theorem canonical.setLink (h : canonical s) {l k} : canonical (s.setLink l k) := h.same

theorem canonical.writeLnkCtrl (h : canonical s) {l v} : canonical (s.writeLnkCtrl l v) := h.setLink

theorem canonical.linkDomains (h : canonical s) {l} : canonical (s.linkDomains l) := h.same

theorem canonical.modLink (h : canonical s) {l f} : canonical (s.modLink l f) := h.setLink

theorem canonical.toDetect (h : canonical s) {l} : canonical (s.toDetect l) := h.modLink.ite h

theorem canonical.enableLink (h : canonical s) {l} : canonical (s.enableLink l) :=
  h.modLink.linkDomains.toDetect.ite h.modLink.linkDomains

theorem canonical.tagLinks (h : canonical s) {l m} : canonical (s.tagLinks l m) := by
  unfold State.tagLinks
  refine h.ite ?_
  split
  · exact h
  · exact h.modCore

theorem canonical.freeUpstream (h : canonical s) {inp vc n eop} : canonical (s.freeUpstream inp vc n eop) := by
  unfold State.freeUpstream
  split
  · exact h
  · exact h.modLink

theorem canonical.dropOnto (h : canonical s) {l} : canonical (s.dropOnto l) :=
  (h.foldl fun hs => hs.freeUpstream).same.same

theorem canonical.dropFrom (h : canonical s) {l} : canonical (s.dropFrom l) := h.same.same.modLink

theorem canonical.breakPort (h : canonical s) {port} : canonical (s.breakPort port) :=
  h.ite (h.foldl fun hs => hs.log.stopStep.ite hs)

theorem canonical.loseTags (h : canonical s) {l c} : canonical (s.loseTags l c) := h.foldl fun hs => hs.xferFail

theorem canonical.leaveDone (h : canonical s) : canonical s.leaveDone := h.same.foldl fun hs => hs.respond

theorem canonical.resetDone (h : canonical s) {l} : canonical (s.resetDone l) :=
  h.same.foldl fun hs => hs.respond

theorem canonical.sendMarkers (h : canonical s) {round l} : canonical (s.sendMarkers round l) := h.same

theorem canonical.sendRound (h : canonical s) {round} : canonical (s.sendRound round) :=
  h.foldl fun hs => hs.sendMarkers

theorem canonical.advance (h : canonical s) {n} : canonical (s.advance n) := by
  induction n generalizing s with
  | zero => exact h
  | succ n ih => exact h.ite (h.modRte.ite (ih h.modRte.sendRound))

theorem canonical.drainStep (h : canonical s) : canonical s.drainStep := h.advance

theorem canonical.linkDown (h : canonical s) {l reason dst} : canonical (s.linkDown l reason dst) := by
  unfold State.linkDown
  extract_lets k port tagged dropped quiet down forgot logged broken lost
  have htagged : canonical tagged := h.foldl fun hs => hs.tagLinks
  have hbroken : canonical broken := htagged.dropFrom.dropOnto.modLink.modRte.log.breakPort
  have hlost : canonical lost := hbroken.foldl fun hs => hs.loseTags
  exact h.ite hlost.drainStep.resetDone.leaveDone

theorem canonical.relock (h : canonical s) {g} : canonical (s.relock g) := h.same.ite h

theorem canonical.disableLink (h : canonical s) {l} : canonical (s.disableLink l) :=
  h.linkDown.modLink.linkDomains.resetDone.leaveDone.relock

theorem canonical.writeLinkReg (h : canonical s) {l o v mask} : canonical (s.writeLinkReg l o v mask) :=
  ((h.writeLnkCtrl.enableLink.ite h.writeLnkCtrl.disableLink).ite h.writeLnkCtrl).ite h.modLink

theorem canonical.recordOutcome (h : canonical s) {l m o} : canonical (s.recordOutcome l m o) :=
  h.modRte.ite h.modRte.log

theorem canonical.joinDrain (h : canonical s) {l} : canonical (s.joinDrain l) :=
  (h.foldl fun hs => hs.sendMarkers).ite h

theorem canonical.linkUp (h : canonical s) {l st m} : canonical (s.linkUp l st m) :=
  h.setLink.modRte.log.joinDrain.ite h.setLink.modRte.log

theorem canonical.linkHeld (h : canonical s) {l reason} : canonical (s.linkHeld l reason) := h.modLink

theorem canonical.recheck (h : canonical s) {l} : canonical (s.recheck l) := by
  unfold State.recheck
  dsimp only
  split
  · exact h
  · next m _ =>
    have hu := h.recordOutcome (l := l) (m := m) (o := s.paramOutcome l m)
    have hdropped := (hu.dropFrom (l := l)).dropOnto (l := l)
    exact .ite (hdropped.linkUp.ite (hu.ite hdropped.linkHeld)) (.ite (hu.modLink.toDetect.ite hu.linkHeld) h)

theorem tablesOk.setEntry {r : Router} (hr : tablesOk r) {b chip e} : tablesOk (r.setEntry b chip e) := by
  intro x
  show smWf (r.table.set (Fin.ofNat 2 b) _)[x.val] = true
  rw [Vector.getElem_set]
  split
  · exact smSet_wf (hr _) _ _
  · exact hr x

theorem tablesOk.setPair {r : Router} (hr : tablesOk r) {b d v} : tablesOk (r.setPair b d v) :=
  hr.setEntry.setEntry

theorem tablesOk.setShares {r : Router} (hr : tablesOk r) {set k v} : tablesOk (r.setShares set k v) := by
  unfold tablesOk Router.setShares
  exact hr

theorem tablesOk.ite {c : Prop} [Decidable c] {r r' : Router} (hr : tablesOk r) (hr' : tablesOk r') :
    tablesOk (if c then r else r') := by
  split
  · exact hr
  · exact hr'

theorem tablesOk.writeReg {r : Router} {o v} (hr : tablesOk r) : tablesOk (r.writeReg o v) :=
  .ite (fun b => hr b) (.ite (fun b => hr b) (.ite (fun b => hr b) (.ite hr.setShares
    (.ite (fun b => hr b) (.ite hr.setPair hr)))))

theorem canonical.writeRteReg (h : canonical s) {o v} : canonical (s.writeRteReg o v) :=
  .ite (h.modRte tablesOk.writeReg).recheck (h.modRte tablesOk.writeReg)

theorem canonical.setMode (h : canonical s) {port m} : canonical (s.setMode port m) := h.ite h.modPort

theorem canonical.setPtpEn (h : canonical s) {port en} : canonical (s.setPtpEn port en) :=
  h.modPort.modPort.ite h.modPort

theorem canonical.setEnable (h : canonical s) {port en} : canonical (s.setEnable port en) := h.same

theorem canonical.writeHostReg (h : canonical s) {port o v mask} : canonical (s.writeHostReg port o v mask) := by
  unfold State.writeHostReg
  extract_lets encap mode ptp
  have hmode : canonical mode := h.modPort.setMode
  have hptp : canonical ptp := hmode.setPtpEn.ite hmode
  exact .ite (hptp.setEnable.ite hptp) (h.modPort.ite h)

theorem canonical.writeAt (h : canonical s) {a old value mask} : canonical (s.writeAt a old value mask) := by
  unfold State.writeAt
  dsimp only
  split
  · exact h.same.ite h
  · exact h.writePartReg
  · exact h.writeCoreReg
  · exact h.writeLinkReg
  · exact h.writeRteReg
  · exact h.writeHostReg
  · exact h.same
  · exact h.same.ite h
  · exact h

theorem canonical.writeReg (h : canonical s) {a value mask} : canonical (s.writeReg a value mask).2 := by
  unfold State.writeReg
  split
  · exact h
  · split
    · exact h
    · exact h.writeAt

theorem outOk_execSheepdogWrite (h : canonical s) {q} : outOk (execSheepdogWrite q s) :=
  h.ite (h.arrive.badHeader.ite (h.arrive.discardAt.ite (h.arrive.log.ite h.arrive.writeReg).ackWrite))

theorem outOk_execRxDrain (h : canonical s) {l vc q} : outOk (execRxDrain l vc q s) :=
  h.ite (h.arrive.badHeader.ite h.arrive.modRte.drainStep)

theorem outOk_execRxNotice (h : canonical s) {q} : outOk (execRxNotice q s) :=
  h.ite (h.arrive.badHeader.ite (h.arrive.log.stopStep.ite h.arrive))

theorem outOk_execRemoteTimeout (h : canonical s) {c t} : outOk (execRemoteTimeout c t s) := by
  unfold execRemoteTimeout
  show canonical _
  split
  · exact h.xferFail.ite h
  · exact h

theorem outOk_execWindowHoldTimeout (h : canonical s) {p n} : outOk (execWindowHoldTimeout p n s) := by
  unfold execWindowHoldTimeout
  show canonical _
  split
  · exact h
  · exact h.ite h.modPart.discardAt

theorem outOk_execMreduceTimeout (h : canonical s) {c win} : outOk (execMreduceTimeout c win s) :=
  h.modCore.modQueue.stopStep.ite h

theorem outOk_execBarrierTimeout (h : canonical s) {c q} : outOk (execBarrierTimeout c q s) := by
  unfold execBarrierTimeout
  show canonical _
  split
  · exact h
  · exact h.ite h.waitsMet.modPart.log.stopStep

theorem outOk_execWatchdogExpiry (h : canonical s) {c q} : outOk (execWatchdogExpiry c q s) := by
  unfold execWatchdogExpiry
  show canonical _
  split
  · exact h
  · extract_lets met expired marked stall
    have hexpired : canonical expired := h.addStall.waitsMet.modPart
    have hmarked : canonical marked := hexpired.modArray.ite hexpired.modQueue
    split
    · exact hmarked.log.stopStep
    · exact hmarked.log.stopStep.ite h

end Sys2Proof.Machine.Claims
end

section
/-! PROOF. The end of a step, partitions, power and flits keep the canonical form (R229). -/

namespace Sys2Proof.Machine.Claims

-- The default proofs of the rules are evaluated, and a proof that evaluates waits in a thread for all before it.
set_option Elab.async false

variable {s t : State}

/-! The end of a step: the result table, kernels, lock-step. -/

theorem canonical.srvEvent (h : canonical s) {p idx code} : canonical (s.srvEvent p idx code) := h.log

theorem canonical.read {x : Check} (hx : canonical x.s) {p idx a n} : canonical (x.read p idx a n).1.s := by
  unfold Check.read
  dsimp only
  split
  · exact hx
  · split
    · dsimp only
      exact hx.corrections.contain.srvEvent
    · exact hx.corrections

theorem canonical.note {x : Check} (hx : canonical x.s) {p idx code cond fault} :
    canonical (x.note p idx code cond fault).s := by
  unfold Check.note
  split
  · exact hx.srvEvent
  · exact hx

theorem canonical.entry {x : Check} (hx : canonical x.s) {base p ei} :
    canonical (Check.entry base p x ei).s := by
  unfold Check.entry
  dsimp only
  split
  · exact hx
  · split
    · exact hx
    · split
      · exact hx.read
      · have hn := hx.read (p := p) (idx := ei.2) (a := base + 1 + ei.2) (n := 1)
        split
        · exact hn.note.note.note.note.note
        · split <;> exact hn.note.note.note.note.read

theorem canonical.entries {x : Check} (hx : canonical x.s) {l : List (Entry × Nat)} {base p} :
    canonical (l.foldl (Check.entry base p) x).s :=
  List.foldlRecOn (motive := fun x : Check => canonical x.s) _ _ hx fun _ hx _ _ => hx.entry

theorem canonical.release {p used nd is} {x : Check} {j seen} (hx : canonical x.s) :
    canonical (Check.release p used nd x j seen is).s := by
  induction is generalizing x j seen with
  | nil => exact hx
  | cons i is ih => exact ih hx.note

theorem canonical.checkTable (h : canonical s) {p ents} : canonical (s.checkTable p ents).1.s := by
  unfold State.checkTable
  extract_lets k base
  have hx := canonical.read (x := { s := s }) h (p := p) (idx := 0) (a := base) (n := 1)
  dsimp only
  split
  · exact hx
  · split
    · exact hx.note.note.entries
    · split
      · exact hx.note.note.entries.read
      · exact hx.note.note.entries.read.release

theorem canonical.endKernels (h : canonical s) {p} : canonical (s.endKernels p) := by
  refine h.foldl fun hs => canonical.foldl (fun hu => hu.poke) (hs.modCore ?_)
  exact fun ⟨hm, ha, _⟩ => ⟨hm, ha, Nat.zero_le _, List.nodup_nil⟩

theorem canonical.strideCheck (h : canonical s) {p} : canonical (s.strideCheck p).1 := by
  refine List.foldlRecOn (motive := fun acc : State × Bool => canonical acc.1) _ _ h fun acc hacc c _ => ?_
  refine List.foldlRecOn (motive := fun acc : State × Bool => canonical acc.1) _ _ hacc fun acc hacc n _ => ?_
  dsimp only
  split
  · exact hacc.log
  · exact hacc

theorem canonical.endStep (h : canonical s) {p} : canonical (s.endStep p) :=
  h.endKernels.modPart.strideCheck.modPart.ite h.endKernels.modPart.strideCheck

theorem canonical.answerStops (h : canonical s) {p} : canonical (s.answerStops p) := h.modPart.respondAll

theorem canonical.afterStep (h : canonical s) {p} : canonical (s.afterStep p) :=
  h.setPart.answerStops.ite h.kick

theorem canonical.lsContinue (h : canonical s) {p} : canonical (s.lsContinue p) := h.setPart.afterStep.ite h

theorem canonical.lsHalt (h : canonical s) {p stream seq} : canonical (s.lsHalt p stream seq) := h.lsSend

theorem canonical.lsStop (h : canonical s) {p reason stream seq} : canonical (s.lsStop p reason stream seq) :=
  h.draw.modPart.log.stopStep

theorem canonical.lsCompare (h : canonical s) {p} : canonical (s.lsCompare p) := by
  unfold State.lsCompare
  dsimp only
  split
  · exact h.modPart
  · exact h.lsStop.lsHalt

theorem canonical.lsFlush (h : canonical s) {p} : canonical (s.lsFlush p) := h.modPart.lsSendAll

theorem canonical.lsResult (h : canonical s) {p bytes} : canonical (s.lsResult p bytes) := by
  unfold State.lsResult
  exact h.modPart.lsFlush.lsCompare

theorem canonical.stepResults {x : Check} (hx : canonical x.s) {p rel} :
    canonical (State.stepResults p x rel) :=
  hx.stopStep.ite (hx.setPart.lsResult.lsContinue.ite hx.setPart.afterStep)

theorem canonical.readResults (h : canonical s) {p} : canonical (s.readResults p).1.s := by
  unfold State.readResults
  dsimp only
  split
  · exact h
  · exact h.checkTable

theorem outOk_execStepEnd (h : canonical s) {p} : outOk (execStepEnd p s) := by
  have hx := (h.endStep (p := p)).readResults (p := p)
  unfold execStepEnd
  revert hx
  generalize (s.endStep p).readResults p = res
  intro hx
  obtain ⟨x, rel⟩ := res
  refine h.ite ?_
  dsimp only
  split
  · exact h.wakeAt
  · exact hx.stepResults

/-! Partitions begin to run, sleep and wake; the loader. -/

theorem canonical.voidHeaders (h : canonical s) {p is} : canonical (s.voidHeaders p is) := by
  induction is generalizing s with
  | nil => exact h
  | cons i is ih =>
    unfold State.voidHeaders
    refine ih ?_
    split
    · exact h.putBits.ite h
    · exact h

theorem canonical.enterRunning (h : canonical s) {p} : canonical (s.enterRunning p) := by
  unfold State.enterRunning
  exact .kick (.respondAll (.modPart (h.voidHeaders.ite h)))

theorem canonical.tryRun (h : canonical s) {p} : canonical (s.tryRun p) := by
  unfold State.tryRun
  refine h.ite ?_
  dsimp only
  split
  · next u e =>
    split at e
    · exact h.tableAsleep e
    · cases e
  · exact h.enterRunning

theorem outOk_execWaitingToRunning (h : canonical s) {p} : outOk (execWaitingToRunning p s) := h.tryRun

theorem canonical.setPll (h : canonical s) {p on} : canonical (s.setPll p on) := h.same

theorem canonical.setDomains (h : canonical s) {p x} : canonical (s.setDomains p x) := h.same

theorem outOk_execPartitionIdleSleep (h : canonical s) {p} : outOk (execPartitionIdleSleep p s) :=
  h.ite h.modPart.setDomains.setPll

theorem coreOk.fromOff {k : Core} : coreOk k.fromOff := ⟨rfl, rfl, Nat.zero_le _, List.nodup_nil⟩

theorem canonical.wakeDone (h : canonical s) {p ns} : canonical (s.wakeDone p ns) :=
  ((h.foldl fun hs => hs.modCore fun _ => coreOk.fromOff).ite h).setPart.setDomains.setPll.reland

theorem canonical.loadWake (h : canonical s) {c} : canonical (s.loadWake c) := by
  unfold State.loadWake
  dsimp only
  split
  · exact h.lateWake
  · exact h

theorem coreOk.loaded {k : Core} {xs r fixed ilv ds} : coreOk (k.loaded xs r fixed ilv ds) :=
  ⟨(Memory.wf_iff _).2 ⟨smWf_foldl (fun hm => smSetMany_wf _ hm) smWf_nil, rfl⟩, rfl, Nat.zero_le _,
    List.nodup_nil⟩

theorem canonical.loadRanks (h : canonical s) {xs fixed ilv l rs} (e : s.loadRanks xs fixed ilv l rs = .ok t) :
    canonical t := by
  induction rs generalizing s with
  | nil =>
    cases e
    exact h
  | cons x rs ih =>
    unfold State.loadRanks at e
    simp only [bind, Except.bind] at e
    split at e
    · cases e
    · split at e
      · cases e
      · split at e
        · cases e
        · refine ih ?_ e
          exact h.loadWake.modCore fun _ => coreOk.loaded

theorem canonical.loadImage (h : canonical s) {p bs total} (e : s.loadImage p bs total = .ok t) :
    canonical t := by
  unfold State.loadImage at e
  simp only [bind, Except.bind] at e
  iterate 5
    split at e
    · cases e
  split at e
  · cases e
  · next u hu =>
    cases e
    exact (h.loadRanks hu).modPart

theorem canonical.dropAdapters (h : canonical s) {p} : canonical (s.dropAdapters p) := h.same

theorem canonical.loadFailed (h : canonical s) {p} : canonical (s.loadFailed p) :=
  (h.foldl fun hs => hs.modCore).modPart

theorem canonical.loadNow (h : canonical s) {p bs total} : canonical (s.loadNow p bs total).2.2 := by
  unfold State.loadNow
  split
  · next u e => exact (h.loadImage e).dropAdapters
  · exact h.loadFailed

theorem canonical.runLoads (h : canonical s) {p l} : canonical (s.runLoads p l) := by
  induction l generalizing s with
  | nil => exact h
  | cons x l ih => exact ih h.loadNow.respond

theorem canonical.lsHello (h : canonical s) {p} : canonical (s.lsHello p) := by
  unfold State.lsHello
  split
  · exact h
  · exact h.lsSend.modPart

theorem canonical.startPart (h : canonical s) {p} : canonical (s.startPart p).2 := by
  unfold State.startPart
  dsimp only
  split
  · exact h
  · split
    · exact h
    · split
      · exact h
      · split
        · exact h
        · exact h.setPart.wakePart.lsHello.ite h.setPart.wakePart

theorem canonical.runStarts (h : canonical s) {p l} : canonical (s.runStarts p l) := by
  induction l generalizing s with
  | nil => exact h
  | cons x l ih =>
    unfold State.runStarts
    split
    · next st u e => exact ih (h.startPart.of_snd_eq e).respond
    · next u e => exact ih (h.startPart.of_snd_eq e).modPart

theorem outOk_execPartitionWakeDone (h : canonical s) {p ns} : outOk (execPartitionWakeDone p ns s) :=
  h.ite (h.wakeDone.kick.ite h.wakeDone.setPart.runLoads.runStarts)

/-! Power and temperature; the last flits of links that fall. -/

theorem outOk_execDvfsPointWrite (h : canonical s) {p x} : outOk (execDvfsPointWrite p x s) := h.setPoint

theorem canonical.settleAll (h : canonical s) : canonical s.settleAll := h.foldl fun hs => hs.settle

theorem outOk_execRailRampDone (h : canonical s) {f} : outOk (execRailRampDone f s) := by
  unfold execRailRampDone
  show canonical _
  split
  · exact h
  · exact h.same.settleAll

theorem canonical.logLevel (h : canonical s) {old} : canonical (s.logLevel old) := h.ite (h.log.ite h.log)

theorem canonical.endWaiting (h : canonical s) {p st cause} : canonical (s.endWaiting p st cause) :=
  h.modPart.respondAll

theorem canonical.tripPart (h : canonical s) {p} : canonical (s.tripPart p) :=
  (h.endWaiting.ite h.stopStep).modPart

theorem canonical.emit (h : canonical s) {l o} : canonical (s.emit l o) := h.modLink

theorem canonical.sendData (h : canonical s) {l m} : canonical (s.sendData l m) :=
  (h.modLink.ite h.modLink.modLink).emit

theorem canonical.abortOpen (h : canonical s) {l ms} : canonical (s.abortOpen l ms).1 := by
  induction ms generalizing s with
  | nil => exact h
  | cons m ms ih =>
    unfold State.abortOpen
    split
    · exact ih h.sendData
    · exact ih h

theorem canonical.sendControl (h : canonical s) {l c} : canonical (s.sendControl l c) := h.modLink.emit

theorem canonical.lastFlits (h : canonical s) {l} : canonical (s.lastFlits l).1 := by
  have hu := h.abortOpen (l := l) (ms := (s.link l).staging)
  unfold State.lastFlits
  generalize s.abortOpen l (s.link l).staging = v at hu ⊢
  dsimp only
  exact hu.sendControl

theorem canonical.allLast (h : canonical s) {ls} : canonical (s.allLast ls).1 := by
  induction ls generalizing s with
  | nil => exact h
  | cons l ls ih => exact ih h.lastFlits

theorem canonical.linksFall (h : canonical s) : canonical s.linksFall.1 := by
  unfold State.linksFall
  dsimp only
  exact h.allLast.foldl (f := State.disableLink) fun hs => hs.disableLink

theorem canonical.putLast (h : canonical s) {flits} : canonical (s.putLast flits) :=
  h.foldl fun hs => hs.modLink

theorem canonical.tripped (h : canonical s) : canonical s.tripped := by
  have hu : canonical ((List.finRange 12).foldl State.tripPart s) := h.foldl fun hs => hs.tripPart
  unfold State.tripped
  extract_lets u
  have hv := canonical.linksFall (s := u) hu
  generalize u.linksFall = v at hv
  exact (hv.putLast (flits := v.2)).same

theorem outOk_execThermalLevelChange (h : canonical s) {sensors power powerMs} :
    outOk (execThermalLevelChange sensors power powerMs s) :=
  h.same.logLevel.tripped.ite h.same.logLevel.settleAll

theorem outOk_execThrottleCapStep (h : canonical s) : outOk (execThrottleCapStep s) :=
  h.ite h.same.same.settleAll

theorem outOk_execEmergencyExit (h : canonical s) : outOk (execEmergencyExit s) :=
  h.ite h.same.logLevel.settleAll

/-! Flits that are sent. -/

theorem canonical.c0Wait (h : canonical s) {l} : canonical (s.c0Wait l) := h.modLink.log.ite h

theorem canonical.c0Refill (h : canonical s) {l} : canonical (s.c0Refill l) := h.modLink

theorem canonical.sendIdle (h : canonical s) {l} : canonical (s.sendIdle l) := h.emit

theorem canonical.sendAgain (h : canonical s) {l seq rest} : canonical (s.sendAgain l seq rest) := by
  unfold State.sendAgain
  dsimp only
  split
  · exact h.modLink.sendIdle
  · exact h.modLink.emit

theorem canonical.arbitrate (h : canonical s) {l m} (e : s.arbitrate l = some (m, t)) : canonical t := by
  unfold State.arbitrate at e
  dsimp only at e
  split at e
  · cases e
    exact h
  · split at e
    · cases e
    · split at e <;> cases e
      exact h.modLink

theorem canonical.trafficSlot (h : canonical s) {l} : canonical (s.trafficSlot l) := by
  have hu := (h.c0Refill (l := l)).c0Wait (l := l)
  unfold State.trafficSlot
  dsimp only
  split
  · exact hu.sendControl
  · refine hu.sendIdle.ite ?_
    split
    · exact hu.sendAgain
    · refine hu.sendIdle.ite ?_
      split
      · next m v e => exact (hu.arbitrate e).sendData
      · exact hu.sendIdle

theorem canonical.planned (h : canonical s) {l m} : canonical (s.planned l m) :=
  h.recordOutcome.linkUp.ite (h.recordOutcome.linkUp.ite h.recordOutcome.linkHeld)

theorem canonical.endParam (h : canonical s) {l} : canonical (s.endParam l) := by
  unfold State.endParam
  dsimp only
  split
  · exact h
  · exact h.ite h.modLink.planned

theorem canonical.paramSlot (h : canonical s) {l} : canonical (s.paramSlot l) :=
  h.sendIdle.ite h.modLink.sendControl.endParam

theorem canonical.heldSlot (h : canonical s) {l} : canonical (s.heldSlot l) :=
  h.sendIdle.ite h.modLink.sendControl

theorem canonical.downSlot (h : canonical s) {l} : canonical (s.downSlot l) := by
  unfold State.downSlot
  split
  · exact h.sendControl
  · exact h.modLink

theorem outOk_execTxFlitSlot (h : canonical s) {l} : outOk (execTxFlitSlot l s) :=
  h.trafficSlot.ite (h.sendIdle.ite (h.paramSlot.ite (h.heldSlot.ite h.downSlot)))

theorem canonical.follow (h : canonical s) {l m} : canonical (s.follow l m) := by
  unfold State.follow
  split
  · exact h
  · exact h.ite h.modLink

theorem outOk_execStagingBufferEnter (h : canonical s) {l vc} : outOk (execStagingBufferEnter l vc s) := by
  unfold execStagingBufferEnter
  show canonical _
  refine h.ite ?_
  split
  · exact h
  · exact h.ite h.tagLinks.same.follow.modLink.freeUpstream

/-! Flits that are received. -/

theorem outOk_execFlit (h : canonical s) {ok} : outOk (execFlit ok s) := by
  unfold execFlit
  split
  · exact h
  · trivial

theorem canonical.countRx (h : canonical s) {l r good} : canonical (s.countRx l r good) := h.modLink

theorem canonical.takeCredit (h : canonical s) {l pool v} : canonical (s.takeCredit l pool v) :=
  h.ite (h.linkDown.ite h.modLink)

theorem canonical.takeAckSeq (h : canonical s) {l a} : canonical (s.takeAckSeq l a) :=
  h.modLink.ite (h.linkDown.ite h)

theorem canonical.receive (h : canonical s) {l r good hdr next} {f : State → State}
    (hf : ∀ {u}, canonical u → canonical (f u)) : canonical (s.receive l r good hdr next f) := by
  have hu := ((h.countRx (l := l) (r := r) (good := good)).takeAckSeq (l := l) (a := hdr.ackSeq)).takeCredit
    (l := l) (pool := hdr.csel) (v := hdr.credit)
  unfold State.receive
  exact h.countRx.ite (hu.ite ((hf hu).ite (hf hu).modLink))

theorem canonical.epochDrop (h : canonical s) {l q} : canonical (s.epochDrop l q) := by
  unfold State.epochDrop
  dsimp only
  split
  · exact h.modRte.ite h.modRte.modRte.log
  · exact h.modRte.modRte.log

theorem canonical.sendNotice (h : canonical s) {q} : canonical (s.sendNotice q) := by
  unfold State.sendNotice
  refine h.ite ?_
  dsimp only
  split
  · exact h
  · next u e => exact (h.launch e).modRte

theorem canonical.forward (h : canonical s) {l vc q} : canonical (s.forward l vc q).2 := by
  unfold State.forward
  split
  · exact h.epochDrop
  · split
    · exact h
    · exact h.modRte.sendNotice

theorem canonical.openPacket (h : canonical s) {l vc body} : canonical (s.openPacket l vc body) := by
  unfold State.openPacket
  extract_lets q x
  refine h.modLink.ite ?_
  split
  · next u e => exact (h.forward.of_snd_eq e).modLink
  · next o u e => exact (h.forward.of_snd_eq e).same.modLink

theorem canonical.freeHere (h : canonical s) {l vc n eop} : canonical (s.freeHere l vc n eop) := h.freeUpstream

theorem canonical.passAbort (h : canonical s) {l o vc} : canonical (s.passAbort l o vc) := h.same.modLink

theorem canonical.passOn (h : canonical s) {l o vc body eop} : canonical (s.passOn l o vc body eop) :=
  h.modLink.freeHere.ite h.same

theorem canonical.arrived (h : canonical s) {l x} : canonical (s.arrived l x) := h.badHeader.ite h.same

theorem canonical.nextFlit (h : canonical s) {l x f} : canonical (s.nextFlit l x f) := by
  unfold State.nextFlit
  dsimp only
  split
  · refine canonical.freeHere ?_
    split
    · exact h.modLink.passAbort
    · exact h.modLink
  · split
    · exact h.modLink.passOn
    · exact h.modLink.arrived.freeHere.ite h.modLink
    · exact h.modLink.freeHere

theorem canonical.deliver (h : canonical s) {l f} : canonical (s.deliver l f) := by
  unfold State.deliver
  dsimp only
  split
  · exact (h.openPacket.ite h).freeHere
  · exact (h.openPacket.ite h).nextFlit

theorem canonical.drainReorder (h : canonical s) {l n} : canonical (s.drainReorder l n) := by
  induction n generalizing s with
  | zero => exact h
  | succ n ih =>
    unfold State.drainReorder
    dsimp only
    split
    · exact h
    · exact ih h.modLink.deliver

theorem canonical.takeData (h : canonical s) {l f} : canonical (s.takeData l f) :=
  h.modLink.deliver.drainReorder.ite <|
    .ite (h.ite (h.modLink.ite (.ite (h.ite h.modLink) h.modLink))) (h.modLink.ite h.linkDown)

theorem outOk_execRxDataFlit (h : canonical s) {l r hdr body} : outOk (execRxDataFlit l r hdr body s) :=
  outOk_execFlit (h.receive fun hu => hu.takeData)

theorem outOk_execRxIdleFlit (h : canonical s) {l r hdr} : outOk (execRxIdleFlit l r hdr s) :=
  outOk_execFlit (h.receive fun hu => hu)

theorem canonical.receiveControl (h : canonical s) {l r hdr c} {f : State → State}
    (hf : ∀ {u}, canonical u → canonical (f u)) : canonical (s.receiveControl l r hdr c f) :=
  h.receive hf

theorem canonical.askAgain (h : canonical s) {l q} : canonical (s.askAgain l q) := by
  unfold State.askAgain
  dsimp only
  split
  · exact h
  · exact h.ite (h.linkDown.ite h.modLink)

theorem outOk_execRxNak (h : canonical s) {l r hdr seqs} : outOk (execRxNak l r hdr seqs s) :=
  outOk_execFlit (h.receiveControl fun hu => hu.foldl fun hv => hv.askAgain)

theorem outOk_execRxGoback (h : canonical s) {l r hdr seq} : outOk (execRxGoback l r hdr seq s) :=
  h.receiveControl fun hu => hu.foldl fun hv => hv.askAgain

theorem outOk_execRxParam (h : canonical s) {l r hdr m rxTime} : outOk (execRxParam l r hdr m rxTime s) :=
  h.countRx.ite h.countRx.modLink.endParam

theorem outOk_execRxResetFlit (h : canonical s) {l r hdr width reason} :
    outOk (execRxResetFlit l r hdr width reason s) :=
  h.receiveControl fun hu => hu.modLink.linkDown

theorem outOk_execRxLeave (h : canonical s) {l r hdr} : outOk (execRxLeave l r hdr s) :=
  h.receiveControl fun hu => hu.linkDown

theorem outOk_execRxDown (h : canonical s) {l r hdr reason} : outOk (execRxDown l r hdr reason s) :=
  h.receiveControl fun hu => hu.linkDown

theorem outOk_execRxHold (h : canonical s) {l r hdr reason} : outOk (execRxHold l r hdr reason s) :=
  h.countRx.ite h.countRx.linkDown

/-! Timers and the states of links. -/

theorem outOk_execReplayTimeout (h : canonical s) {l} : outOk (execReplayTimeout l s) := by
  unfold execReplayTimeout
  show canonical _
  refine h.ite ?_
  split
  · exact h
  · exact h.askAgain

theorem outOk_execNakRepeatTimer (h : canonical s) {l} : outOk (execNakRepeatTimer l s) := h.ite h.modLink

theorem outOk_execLockLost (h : canonical s) {l} : outOk (execLockLost l s) := h.modLink.ite h

theorem outOk_execLockRegained (h : canonical s) {l} : outOk (execLockRegained l s) := h.modLink.ite h

theorem outOk_execLockDownTimeout (h : canonical s) {l} : outOk (execLockDownTimeout l s) := h.ite h.linkDown

theorem outOk_execLinkDetectPeer (h : canonical s) {l} : outOk (execLinkDetectPeer l s) := h.modLink.ite h

theorem outOk_execLinkTrainDone (h : canonical s) {l passing peerWidth} :
    outOk (execLinkTrainDone l passing peerWidth s) := by
  unfold execLinkTrainDone
  show canonical _
  refine h.ite ?_
  split
  · exact h
  · exact h.setLink

theorem outOk_execLinkAlignDone (h : canonical s) {l} : outOk (execLinkAlignDone l s) := h.modLink.ite h

theorem outOk_execLinkStateTimeout (h : canonical s) {l} : outOk (execLinkStateTimeout l s) :=
  h.ite (h.setLink.log.ite h.setLink)

end Sys2Proof.Machine.Claims
end

section
/-! PROOF. Links, host commands, timers, power and reset keep the canonical form (R229). -/

namespace Sys2Proof.Machine.Claims

-- The default proofs of the rules are evaluated, and a proof that evaluates waits in a thread for all before it.
set_option Elab.async false

variable {s t : State}

/-! Timers and commands of links; writes of ports. -/

theorem outOk_execDownRetrainTimer (h : canonical s) {l} : outOk (execDownRetrainTimer l s) := h.toDetect.ite h

theorem outOk_execPlanMissingTimeout (h : canonical s) {l} : outOk (execPlanMissingTimeout l s) :=
  h.ite h.modRte.log

theorem canonical.leaveNow (h : canonical s) {l} : canonical (s.leaveNow l) :=
  h.ite (h.modLink.linkDown.ite h.setLink)

theorem canonical.resetNow (h : canonical s) {l width why} : canonical (s.resetNow l width why) :=
  (h.modLink.linkDown.ite (h.resetDone.ite (h.setLink.toDetect.ite h.setLink).resetDone.leaveDone)).relock

theorem outOk_execGracefulDrainDone (h : canonical s) {l} : outOk (execGracefulDrainDone l s) :=
  h.ite (h.leaveNow.ite h.resetNow)

theorem outOk_execGroupPllLocked (h : canonical s) {g} : outOk (execGroupPllLocked g s) :=
  h.ite (h.same.foldl fun hs => hs.modLink.toDetect.ite hs.modLink)

theorem outOk_execLinkEnable (h : canonical s) {l} : outOk (execLinkEnable l s) := h.enableLink

theorem outOk_execLinkDisable (h : canonical s) {l} : outOk (execLinkDisable l s) := h.disableLink

theorem outOk_execRtePlanWrite (h : canonical s) {l value mask} : outOk (execRtePlanWrite l value mask s) :=
  h.writeRteReg

theorem outOk_execRteTableWrite (h : canonical s) {b d value mask} :
    outOk (execRteTableWrite b d value mask s) :=
  h.ite h.writeRteReg

theorem outOk_execHostModeWrite (h : canonical s) {port m} : outOk (execHostModeWrite port m s) := h.setMode

theorem outOk_execHostPtpEnWrite (h : canonical s) {port} : outOk (execHostPtpEnWrite port s) := h.setPtpEn

theorem outOk_execHostEnableWrite (h : canonical s) {port en} : outOk (execHostEnableWrite port en s) :=
  h.setEnable

/-! Session setup. -/

theorem canonical.setupReply (h : canonical s) {f op status body} : canonical (s.setupReply f op status body) :=
  h.modPort

theorem outOk_setup (h : canonical s) {f op n go} (hgo : canonical (go s).2.2) : outOk (s.setup f op n go) :=
  h.ite (h.modPort.ite (h.setupReply.ite (h.modPort.ite hgo.setupReply)))

theorem canonical.giveNonce (h : canonical s) {p} : canonical (s.giveNonce p).2 := h.same.modPort

theorem canonical.identity (h : canonical s) {p} : canonical (s.identity p).2.2 := by
  have hu := h.giveNonce (p := p)
  unfold State.identity
  generalize s.giveNonce p = v at hu ⊢
  exact hu

theorem outOk_execIdentify (h : canonical s) {f} : outOk (execIdentify f s) := outOk_setup h h.identity

theorem canonical.attest (h : canonical s) {nonce mask} : canonical (s.attest nonce mask).2.2 := by
  unfold State.attest
  split <;> exact h

theorem outOk_execAttest (h : canonical s) {f nonce mask} : outOk (execAttest f nonce mask s) :=
  outOk_setup h h.attest

theorem canonical.opened (h : canonical s) {nh id rack} : canonical (s.opened nh id rack).2.2 := h

theorem canonical.openFor (h : canonical s) {port key resume nm nh cmd} :
    canonical (s.openFor port key resume nm nh cmd).2.2 := by
  unfold State.openFor
  split
  · split
    · exact h
    · exact h.draw.modPort.opened
  · split
    · exact h
    · split
      · exact h
      · exact h.modPort.opened

theorem canonical.sessionOpen (h : canonical s) {f key resume nm nh} :
    canonical (s.sessionOpen f key resume nm nh).2.2 := by
  unfold State.sessionOpen
  dsimp only
  split
  · exact h.modPort
  · split
    · exact h.modPort
    · split
      · exact h.modPort
      · exact h.modPort.openFor

theorem outOk_execSessionOpen (h : canonical s) {f key resume nm nh} :
    outOk (execSessionOpen f key resume nm nh s) :=
  outOk_setup h h.sessionOpen

/-! Commands of a session: what receives one, and what its run may change. -/

theorem canonical.receiveFrame (h : canonical s) {f op body c} : canonical (s.receiveFrame f op body c).2 := by
  unfold State.receiveFrame
  split
  · exact h
  · split
    · exact h.modPort
    · split
      · exact h.modPort
      · split
        · exact h.modPort
        · exact h.setPort

theorem canonical.answer (h : canonical s) {f op status body} : canonical (s.answer f op status body) :=
  h.respond

theorem canonical.token (h : canonical s) {f r} (e : s.token f r = some t) : canonical t := by
  unfold State.token at e
  split at e
  · split at e
    · cases e
      exact h
    · split at e <;> cases e
      exact h.modPart
  · cases e
    exact h

theorem canonical.run (h : canonical s) {f r} {go : Run} (hgo : ∀ {u}, canonical u → canonical (go u).2) :
    canonical (s.run f r go) := by
  unfold State.run
  split
  · next e => exact ((hgo h).of_snd_eq e).answer
  · next e => exact (hgo h).of_snd_eq e

theorem canonical.serve (h : canonical s) {f r body c} {go : Run}
    (hgo : ∀ {u}, canonical u → canonical (go u).2) : canonical (s.serve f r body c go) := by
  unfold State.serve
  split
  · exact h.answer
  · split
    · next u e => exact (h.token e).run hgo
    · exact h.modPort.log

theorem canonical.recCommand (h : canonical s) {p port cls op sess seq body} :
    canonical (s.recCommand p port cls op sess seq body) :=
  h.recAdd.ite h

theorem canonical.recorded (h : canonical s) {f r keep} : canonical (s.recorded f r keep) := by
  unfold State.recorded
  split
  · exact h.ite h.recCommand
  · exact h

theorem outOk_command (h : canonical s) {f r body keep c} {go : Run}
    (hgo : ∀ {u}, canonical u → canonical (go u).2) : outOk (s.command f r body keep c go) := by
  unfold State.command
  show canonical _
  split
  · next u e => exact h.receiveFrame.of_snd_eq e
  · next u e => exact (h.receiveFrame.of_snd_eq e).recorded.serve hgo

/-! Registers and the configuration store. -/

theorem canonical.measure (h : canonical s) {a} : canonical (s.measure a) := h.draw.same.ite h

theorem coreOk.readClear {k : Core} (hk : coreOk k) {o} : coreOk (k.readClear o) := by
  unfold Core.readClear
  iterate 19 refine .ite hk ?_
  exact hk

theorem tablesOk.readClear {r : Router} {o} (hr : tablesOk r) : tablesOk (r.readClear o) := by
  unfold Router.readClear
  split <;> exact hr

theorem canonical.readClear (h : canonical s) {a} : canonical (s.readClear a) := by
  unfold State.readClear
  split
  · exact h.modPart
  · exact h.modCore fun hk => hk.readClear
  · exact h.modLink
  · exact h.modRte tablesOk.readClear
  · exact h.modPort
  · exact .ite h.same h
  · exact h

theorem canonical.readReg (h : canonical s) {a} : canonical (s.readReg a).2 := by
  unfold State.readReg
  dsimp only
  split
  · exact h.measure.readClear
  · exact h.measure

theorem canonical.readAll (h : canonical s) {l} : canonical (s.readAll l).2 := by
  induction l generalizing s with
  | nil => exact h
  | cons a l ih => exact ih h.readReg

theorem canonical.regRead (h : canonical s) {addr count} : canonical (s.regRead addr count).2 := by
  unfold State.regRead
  dsimp only
  split
  · exact h
  · exact h.readAll

theorem outOk_execRegRead (h : canonical s) {f addr count} : outOk (execRegRead f addr count s) := by
  unfold execRegRead
  exact outOk_command h fun hu => hu.regRead

theorem canonical.regWrite (h : canonical s) {addr value mask} : canonical (s.regWrite addr value mask).2 :=
  h.writeReg

theorem outOk_execRegWrite (h : canonical s) {f addr value mask} :
    outOk (execRegWrite f addr value mask s) := by
  unfold execRegWrite
  exact outOk_command h fun hu => hu.regWrite

theorem canonical.modStore (h : canonical s) {f} : canonical (s.modStore f) := h.same

theorem canonical.stageImage (h : canonical s) {f off bs} : canonical (s.stageImage f off bs).2 := h.modStore

theorem canonical.stageEdit (h : canonical s) {f r} : canonical (s.stageEdit f r).2 := by
  unfold State.stageEdit
  dsimp only
  split
  · exact h
  · exact h.modStore

theorem canonical.cfgStage (h : canonical s) {f r} : canonical (s.cfgStage f r).2 := by
  unfold State.cfgStage
  split
  · exact h
  · split
    · exact h
    · split
      · exact h.stageImage
      · exact h.stageEdit

theorem outOk_execCfgStage (h : canonical s) {f r} : outOk (execCfgStage f r s) := by
  unfold execCfgStage
  exact outOk_command h fun hu => hu.cfgStage

theorem canonical.setSafety (h : canonical s) {on} : canonical (s.setSafety on) :=
  h.same.settle.wakeDone.ite h.same.settle

theorem canonical.writeRegs (h : canonical s) {l} : canonical (s.writeRegs l) := by
  induction l generalizing s with
  | nil => exact h
  | cons x l ih => exact ih h.writeReg

theorem canonical.live (h : canonical s) {r} : canonical (s.live r) := by
  unfold State.live
  dsimp only
  split
  · exact h.same.same.setSafety
  · exact h.same.same
  · exact h.same.modPart
  · exact h.same.setSafety
  · exact h.same.writeRegs
  · exact h.same

theorem canonical.endSession (h : canonical s) {port id} : canonical (s.endSession port id) := h.same

theorem canonical.endKeys (h : canonical s) {all keys} : canonical (s.endKeys all keys) :=
  h.foldl fun hs => hs.foldl fun hs => hs.endSession

theorem canonical.commitRecs (h : canonical s) {f fn g b} : canonical (s.commitRecs f fn g b).2 := by
  unfold State.commitRecs
  extract_lets seq stored applied sealed answered
  have hstored : canonical stored := h.modStore
  have happlied : canonical applied := hstored.foldl fun hs => hs.live
  have hsealed : canonical sealed := happlied.modStore
  dsimp only
  exact hsealed.answer.endKeys

theorem canonical.commitImage (h : canonical s) {f g} : canonical (s.commitImage f g).2 := by
  unfold State.commitImage
  dsimp only
  split
  · exact h
  · exact h.modStore.commitRecs

theorem canonical.cfgCommit (h : canonical s) {f fn discard} : canonical (s.cfgCommit f fn discard).2 := by
  unfold State.cfgCommit
  dsimp only
  split
  · exact h
  · split
    · exact h
    · split
      · exact h.modStore
      · split
        · exact h
        · split
          · exact h
          · split
            · exact h
            · split
              · exact h.commitImage
              · exact h.commitRecs

theorem outOk_execCfgCommit (h : canonical s) {f fn discard} : outOk (execCfgCommit f fn discard s) := by
  unfold execCfgCommit
  exact outOk_command h fun hu => hu.cfgCommit

/-! Partitions and programs. -/

theorem canonical.stopPart (h : canonical s) {p now} : canonical (s.stopPart p now).2 := by
  unfold State.stopPart
  dsimp only
  split
  · exact h
  · split
    · exact h.endWaiting
    · split
      · exact h.stopStep
      · exact h.modPart

theorem canonical.partStop (h : canonical s) {f p mode} : canonical (State.partStop f p mode s).2 := by
  unfold State.partStop
  split
  · exact h
  · split
    · next u e => exact h.stopPart.of_snd_eq e
    · next u e => exact (h.stopPart.of_snd_eq e).modPart

theorem outOk_execPartStop (h : canonical s) {f part mode} : outOk (execPartStop f part mode s) := by
  unfold execPartStop
  exact outOk_command h fun hu => hu.partStop

theorem canonical.partStart (h : canonical s) {f p} : canonical (State.partStart f p s).2 := by
  unfold State.partStart
  dsimp only
  split
  · exact h.modPart
  · split
    · next st u e => exact h.startPart.of_snd_eq e
    · next u e => exact (h.startPart.of_snd_eq e).modPart

theorem outOk_execPartStart (h : canonical s) {f part} : outOk (execPartStart f part s) := by
  unfold execPartStart
  exact outOk_command h fun hu => hu.partStart

theorem canonical.loadPart (h : canonical s) {o hdr bytes} : canonical (s.loadPart o hdr bytes).2 := by
  unfold State.loadPart
  dsimp only
  split <;> exact h.same

theorem canonical.progExec (h : canonical s) {f p bs} : canonical (s.progExec f p bs).2 := by
  unfold State.progExec
  dsimp only
  split
  · exact h
  · split
    · exact h.loadNow
    · split
      · split
        · exact h.loadFailed
        · exact h.modPart
      · next u e => exact h.wakePart.modPart

theorem canonical.progLoad (h : canonical s) {f p hdr bytes} :
    canonical (State.progLoad f p hdr bytes s).2 := by
  unfold State.progLoad
  split
  · exact h
  · split
    · exact h
    · split
      · next u e => exact h.loadPart.of_snd_eq e
      · next o u e => exact (h.loadPart.of_snd_eq e).progExec

theorem outOk_execProgLoad (h : canonical s) {f hdr bytes} : outOk (execProgLoad f hdr bytes s) := by
  unfold execProgLoad
  exact outOk_command h fun hu => hu.progLoad

theorem canonical.patchOne (h : canonical s) {p map x} : canonical (s.patchOne p map x) := by
  unfold State.patchOne
  dsimp only
  split
  · exact h.modQueue
  · exact h.putBits

theorem canonical.patchPart (h : canonical s) {p pairs} : canonical (s.patchPart p pairs).2.2 := by
  unfold State.patchPart
  dsimp only
  split
  · exact h
  · split
    · exact h
    · split
      · exact h
      · split
        · exact h
        · split
          · exact h
          · exact (h.foldl fun hs => hs.patchOne).modPart

theorem canonical.progPatch (h : canonical s) {signed p pairs} :
    canonical (State.progPatch signed p pairs s).2 := by
  unfold State.progPatch
  dsimp only
  generalize (if signed = true then 863 else 1023) = most
  split
  · exact h
  · exact h.patchPart

theorem outOk_execProgPatch (h : canonical s) {f part pairs} : outOk (execProgPatch f part pairs s) := by
  unfold execProgPatch
  exact outOk_command h fun hu => hu.progPatch

/-! Requests and budgets. -/

theorem canonical.acceptReq (h : canonical s) {rx f p hdr slot tokens} :
    canonical (s.acceptReq rx f p hdr slot tokens).2 := by
  unfold State.acceptReq
  dsimp only
  split
  · exact h
  · exact h.setPart.kick

theorem canonical.submitFirst (h : canonical s) {rx f p hdr slot tokens} :
    canonical (s.submitFirst rx f p hdr slot tokens).2 := by
  unfold State.submitFirst
  split
  · exact h
  · split
    · exact h
    · split
      · exact h.acceptReq
      · split
        · exact h
        · exact h.same

theorem canonical.submitLater (h : canonical s) {rx f p hdr slot tokens} :
    canonical (s.submitLater rx f p hdr slot tokens).2 := by
  unfold State.submitLater
  split
  · exact h
  · dsimp only
    split
    · exact h
    · split
      · exact h.same.acceptReq
      · exact h.same

theorem canonical.submit (h : canonical s) {rx f p hdr tokens} : canonical (s.submit rx f p hdr tokens).2 := by
  unfold State.submit
  split
  · exact h
  · split
    · exact h.submitFirst
    · exact h.submitLater

theorem outOk_execSubmit (h : canonical s) {f hdr tokens} : outOk (execSubmit f hdr tokens s) := by
  unfold execSubmit
  exact outOk_command h fun hu => hu.submit

theorem canonical.cancel (h : canonical s) {req} : canonical (s.cancel req).2 := by
  unfold State.cancel
  dsimp only
  split
  · exact h
  · split
    · exact h.modPart
    · exact h.ite h.modPart
    · exact h

theorem outOk_execCancel (h : canonical s) {f req} : outOk (execCancel f req s) := by
  unfold execCancel
  exact outOk_command h fun hu => hu.cancel

theorem canonical.query (h : canonical s) {req kind tenant part} :
    canonical (s.query req kind tenant part).2 := by
  unfold State.query
  split <;> split <;> exact h

theorem outOk_execQuery (h : canonical s) {f req kind tenant part} :
    outOk (execQuery f req kind tenant part s) := by
  unfold execQuery
  exact outOk_command h fun hu => hu.query

theorem canonical.results (h : canonical s) {req voff maxv release} :
    canonical (s.results req voff maxv release).2 := by
  unfold State.results
  dsimp only
  split
  · exact h
  · split
    · exact h
    · exact h.modPart

theorem outOk_execResults (h : canonical s) {f req voff maxv release} :
    outOk (execResults f req voff maxv release s) := by
  unfold execResults
  exact outOk_command h fun hu => hu.results

theorem canonical.budgetSet (h : canonical s) {p sel tenant balance rate cap nshare} :
    canonical (s.budgetSet p sel tenant balance rate cap nshare).2 := by
  unfold State.budgetSet
  split
  · exact h
  · exact h.modPart.kick

theorem outOk_execBudgetSet (h : canonical s) {f part sel tenant balance rate cap nshare} :
    outOk (execBudgetSet f part sel tenant balance rate cap nshare s) := by
  unfold execBudgetSet
  exact outOk_command h fun hu => hu.budgetSet

/-! Adapters and routes. -/

theorem canonical.setAdapters (h : canonical s) {l} : canonical (s.setAdapters l) := h.same

theorem canonical.dropEntries (h : canonical s) {p l} : canonical (s.dropEntries p l) := by
  induction l generalizing s with
  | nil => exact h
  | cons y l ih => exact ih h.putBits

theorem canonical.adapterRemove (h : canonical s) {p slot} : canonical (s.adapterRemove p slot).2 := by
  unfold State.adapterRemove
  split
  · exact h
  · exact h
  · exact h.dropEntries.setAdapters

theorem canonical.putItems (h : canonical s) {p id l} : canonical (s.putItems p id l) := by
  induction l generalizing s with
  | nil => exact h
  | cons y l ih => exact ih h.putWords.putWords

theorem canonical.adapterExec (h : canonical s) {p hdr bs} : canonical (s.adapterExec p hdr bs).2 := by
  unfold State.adapterExec
  split
  · exact h
  · exact h
  · split
    · exact h
    · exact h
    · dsimp only
      split
      · exact h
      · exact h.dropEntries.putItems.setAdapters

theorem canonical.adapterLoad (h : canonical s) {f p hdr bytes} :
    canonical (State.adapterLoad f p hdr bytes s).2 := by
  unfold State.adapterLoad
  split
  · exact h
  · split
    · split
      · exact h.adapterRemove
      · exact h
    · split
      · exact h
      · split
        · exact h
        · split
          · next u e => exact h.loadPart.of_snd_eq e
          · next o u e => exact (h.loadPart.of_snd_eq e).adapterExec

theorem outOk_execAdapterLoad (h : canonical s) {f hdr bytes} : outOk (execAdapterLoad f hdr bytes s) := by
  unfold execAdapterLoad
  exact outOk_command h fun hu => hu.adapterLoad

theorem tablesOk.stage {r : Router} {b n l} (hr : tablesOk r) : tablesOk (r.stage b n l) := by
  induction l generalizing r n with
  | nil => exact hr
  | cons e l ih => exact ih hr.setEntry

theorem canonical.routeStage (h : canonical s) {first last entries} :
    canonical (State.routeStage first last entries s).2 := by
  unfold State.routeStage
  dsimp only
  split
  · exact h
  · split
    · exact h
    · exact (h.modRte tablesOk.stage).modRte.ite (h.modRte tablesOk.stage)

theorem outOk_execRouteStage (h : canonical s) {f first last entries} :
    outOk (execRouteStage f first last entries s) := by
  unfold execRouteStage
  exact outOk_command h fun hu => hu.routeStage

theorem canonical.switchBanks (h : canonical s) : canonical s.switchBanks := h.modRte.sendRound.drainStep

theorem canonical.routeSwitch (h : canonical s) : canonical s.routeSwitch.2 := by
  unfold State.routeSwitch
  split
  · exact h
  · dsimp only
    exact h.switchBanks

theorem outOk_execRouteSwitch (h : canonical s) {f} : outOk (execRouteSwitch f s) := by
  unfold execRouteSwitch
  exact outOk_command h fun hu => hu.routeSwitch

/-! Links, hot plug, lock-step and recording. -/

theorem canonical.startReset (h : canonical s) {l width why graceful} :
    canonical (s.startReset l width why graceful) :=
  h.modLink.ite h.resetNow

theorem canonical.linkReset (h : canonical s) {l width rate graceful} :
    canonical (s.linkReset l width rate graceful) := by
  unfold State.linkReset
  extract_lets u asked g head v w
  have hu : canonical u := h.ite h.modLink
  have hv : canonical v := hu.modLink
  exact hu.startReset.ite (hv.startReset.ite (hv.modLink.foldl fun hs => hs.startReset))

theorem canonical.linkResetRun (h : canonical s) {f link width rate graceful} :
    canonical (s.linkResetRun f link width rate graceful).2 := by
  unfold State.linkResetRun
  split
  · exact h
  · dsimp only
    split
    · exact h
    · exact h.same.linkReset

theorem outOk_execLinkReset (h : canonical s) {f link width rate graceful} :
    outOk (execLinkReset f link width rate graceful s) := by
  unfold execLinkReset
  exact outOk_command h fun hu => hu.linkResetRun

theorem canonical.startLeave (h : canonical s) {l} : canonical (s.startLeave l) := h.modLink.ite h.leaveNow

theorem canonical.linkLeaveRun (h : canonical s) {f mask} : canonical (s.linkLeaveRun f mask).2 := by
  unfold State.linkLeaveRun
  dsimp only
  split
  · exact h
  · split
    · exact h
    · exact (h.same.foldl fun hs => hs.startLeave).leaveDone

theorem outOk_execLinkLeave (h : canonical s) {f mask} : outOk (execLinkLeave f mask s) := by
  unfold execLinkLeave
  exact outOk_command h fun hu => hu.linkLeaveRun

theorem canonical.endLoads (h : canonical s) {p} : canonical (s.endLoads p) :=
  h.ite h.setPart.respondAll.respondAll

theorem canonical.leaveAll (h : canonical s) : canonical s.leaveAll :=
  (h.foldl fun hs => hs.startLeave.ite hs).ite h

theorem canonical.stopAll (h : canonical s) {now} : canonical (s.stopAll now) := h.foldl fun hs => hs.stopPart

theorem canonical.prepare (h : canonical s) {why mode} : canonical (s.prepare why mode) :=
  (h.same.log.foldl fun hs => hs.endLoads).stopAll.leaveAll

theorem canonical.hotplugPrepare (h : canonical s) {f mode} : canonical (State.hotplugPrepare f mode s).2 := by
  unfold State.hotplugPrepare
  split
  · exact h
  · dsimp only
    exact h.same.prepare

theorem outOk_execHotplugPrepare (h : canonical s) {f mode} : outOk (execHotplugPrepare f mode s) := by
  unfold execHotplugPrepare
  exact outOk_command h fun hu => hu.hotplugPrepare

theorem canonical.lockstepPair (h : canonical s) {mask twin role enable hold} :
    canonical (s.lockstepPair mask twin role enable hold).2 := by
  unfold State.lockstepPair
  dsimp only
  split
  · exact h
  · split
    · exact h
    · exact h.foldl fun hs => hs.modPart

theorem outOk_execLockstepPair (h : canonical s) {f mask twin role enable hold} :
    outOk (execLockstepPair f mask twin role enable hold s) := by
  unfold execLockstepPair
  exact outOk_command h fun hu => hu.lockstepPair

theorem canonical.recordStart (h : canonical s) {mask buffer wrap batch} :
    canonical (State.recordStart mask buffer wrap batch s).2 := by
  unfold State.recordStart
  cases s.recBuffer buffer <;> dsimp only <;> split
  · exact h
  · split <;> exact h
  · exact h
  · split
    · exact h
    · split
      · exact h
      · exact (h.ite h.wakeDone).same

theorem outOk_execRecordStart (h : canonical s) {f mask buffer wrap batch} :
    outOk (execRecordStart f mask buffer wrap batch s) := by
  unfold execRecordStart
  exact outOk_command h fun hu => hu.recordStart

theorem canonical.recordStop (h : canonical s) {stop release offset max} :
    canonical (s.recordStop stop release offset max).2 := by
  unfold State.recordStop
  split
  · exact h
  · extract_lets r reads body run kept _ u
    have hu : canonical u := h.same
    split <;> dsimp only
    · exact hu.corrections.contain
    · exact hu.corrections.wakeAll

theorem outOk_execRecordStop (h : canonical s) {f stop release offset max} :
    outOk (execRecordStop f stop release offset max s) := by
  unfold execRecordStop
  exact outOk_command h fun hu => hu.recordStop

/-! Other frames, the clock and the timers of hosts and partitions. -/

theorem outOk_execSctAckFrame (h : canonical s) {f} : outOk (execSctAckFrame f s) := by
  unfold execSctAckFrame
  show canonical _
  refine h.ite ?_
  refine h.modPort.ite ?_
  split
  · exact h.modPort
  · exact h.modPort.ite h.modPort

theorem outOk_execArpRequest (h : canonical s) {port ip} : outOk (execArpRequest port ip s) :=
  h.ite (h.modPort.ite h.modPort)

theorem outOk_execNeighbourSolicit (h : canonical s) {port ip} : outOk (execNeighbourSolicit port ip s) :=
  h.ite (h.modPort.ite h.modPort)

theorem outOk_execPtpSync (h : canonical s) {port domain twoStep seq t1 t2} :
    outOk (execPtpSync port domain twoStep seq t1 t2 s) :=
  h.ite h.modPort

theorem outOk_execPtpFollowUp (h : canonical s) {port domain seq t1} :
    outOk (execPtpFollowUp port domain seq t1 s) := by
  unfold execPtpFollowUp
  show canonical _
  refine h.ite ?_
  split
  · exact h.modPort.ite h
  · exact h

theorem canonical.discipline (h : canonical s) {off} : canonical (s.discipline off) := h.same.ite h.same

theorem outOk_execPtpDelayResp (h : canonical s) {port domain t3 t4} :
    outOk (execPtpDelayResp port domain t3 t4 s) := by
  unfold execPtpDelayResp
  show canonical _
  refine h.ite ?_
  split
  · exact h
  · exact h.same.discipline

theorem outOk_execPtpSyncTimeout (h : canonical s) : outOk (execPtpSyncTimeout s) := h.same

theorem outOk_execSessionIdleTimeout (h : canonical s) {port session} :
    outOk (execSessionIdleTimeout port session s) :=
  h.endSession

theorem outOk_execLoadObjectTimeout (h : canonical s) : outOk (execLoadObjectTimeout s) := h.same

theorem outOk_execPromptPartTimeout (h : canonical s) {session seq} :
    outOk (execPromptPartTimeout session seq s) :=
  h.same

theorem outOk_execDoneHoldExpiry (h : canonical s) {p n} : outOk (execDoneHoldExpiry p n s) := by
  unfold execDoneHoldExpiry
  show canonical _
  split
  · exact h.modPart.ite h
  · exact h

theorem outOk_execDropLateDeadline (h : canonical s) {p n} : outOk (execDropLateDeadline p n s) := by
  unfold execDropLateDeadline
  show canonical _
  split
  · exact h.ite (h.modPart.kick.ite (h.kick.ite h))
  · exact h

theorem canonical.refillPart (h : canonical s) {p} : canonical (s.refillPart p) := h.setPart.kick.ite h.setPart

theorem outOk_execBudgetRefill (h : canonical s) : outOk (execBudgetRefill s) :=
  h.foldl (f := State.refillPart) fun hs => hs.refillPart

theorem canonical.runWaiting (h : canonical s) {c rx} : canonical (s.runWaiting c rx) := by
  unfold State.runWaiting
  split
  · exact h.run fun hu => hu.submit
  · exact h.run fun hu => hu.cancel
  · exact h.run fun hu => hu.query
  · exact h.run fun hu => hu.results
  · exact h

theorem canonical.releaseC0 (h : canonical s) {p l} : canonical (s.releaseC0 p l) := by
  induction l generalizing s with
  | nil => exact h
  | cons x l ih =>
    unfold State.releaseC0
    split
    · exact ih h
    · exact h.modPort.modPart.runWaiting

theorem outOk_execHostC0TokenRefill (h : canonical s) {p} : outOk (execHostC0TokenRefill p s) :=
  h.modPart.ite h.modPart.releaseC0

theorem outOk_execHelloResend (h : canonical s) {p} : outOk (execHelloResend p s) := h.lsHello.ite h

theorem outOk_execHelloTimeout (h : canonical s) {p} : outOk (execHelloTimeout p s) :=
  h.modPart.log.endWaiting.ite h

/-! Messages of lock-step. -/

theorem canonical.dropTwin (h : canonical s) {p} : canonical (s.dropTwin p) := by
  unfold State.dropTwin
  split
  · exact h.same
  · exact h

theorem outOk_execRxLsRecords (h : canonical s) {p recs} : outOk (execRxLsRecords p recs s) :=
  h.ite (h.dropTwin.modPart.lsCompare.lsContinue.ite h.dropTwin)

theorem outOk_execRxLsHello (h : canonical s) {p digest ncores flock} :
    outOk (execRxLsHello p digest ncores flock s) := by
  unfold execRxLsHello
  show canonical _
  refine h.ite ?_
  dsimp only
  split
  · exact h.dropTwin
  · exact h.dropTwin.ite (h.dropTwin.modPart.ite (h.dropTwin.modPart.log.ite h.dropTwin))

theorem outOk_execRxLsHalt (h : canonical s) {p stream seq} : outOk (execRxLsHalt p stream seq s) :=
  h.ite (h.dropTwin.lsStop.ite h.dropTwin)

theorem outOk_execRxLsBatch (h : canonical s) {p table} : outOk (execRxLsBatch p table s) :=
  h.ite h.dropTwin.modPart.kick

theorem outOk_execLsRecordFlush (h : canonical s) {p} : outOk (execLsRecordFlush p s) := h.lsFlush.ite h

theorem outOk_execLsTimeout (h : canonical s) {p stream seq} : outOk (execLsTimeout p stream seq s) :=
  h.lsStop.lsHalt.ite h

/-! The journal and the event log. -/

theorem outOk_execJournalCompaction (h : canonical s) : outOk (execJournalCompaction s) := h.modStore.ite h

theorem entriesWf_enter {l : EventLog} {now} (hl : smWf l.entries = true) :
    smWf (l.enter now).entries = true := by
  unfold EventLog.enter
  split
  · exact hl
  · exact smSet_wf hl _ _

theorem outOk_execEventLogEntry (h : canonical s) : outOk (execEventLogEntry s) :=
  h.setLog (entriesWf_enter (canonical_iff.1 h).2.2)

/-! Power, reset and start. -/

theorem canonical.powerUp (h : canonical s) : canonical s.powerUp := h.ite h.same

theorem outOk_execPowerApplied (h : canonical s) : outOk (execPowerApplied s) := h.powerUp

theorem tablesOk_empty : tablesOk {} := by
  intro b
  show smWf (Vector.replicate 2 [])[b.val] = true
  rw [Vector.getElem_replicate]
  rfl

theorem coreOk_empty : coreOk {} := ⟨rfl, rfl, Nat.zero_le _, List.nodup_nil⟩

theorem canonical_reset : canonical State.reset := by
  refine canonical_iff.2 ⟨fun c => ?_, tablesOk_empty, rfl⟩
  show coreOk (Vector.replicate 96 ({} : Core))[c.val]
  rw [Vector.getElem_replicate]
  exact coreOk_empty

theorem canonical_blank : canonical s.blank := canonical_reset.same

theorem canonical.fatal (h : canonical s) {n step} : canonical (s.fatal n step) := h.same

theorem canonical.vendorCheck (h : canonical s) : canonical s.vendorCheck.2 := by
  unfold State.vendorCheck
  dsimp only
  split
  · exact h.same
  · split
    · exact h.same.log
    · exact h

theorem canonical.disableCores (h : canonical s) : canonical s.disableCores := by
  unfold State.disableCores
  exact h.same

theorem tablesOk.setEntries {r : Router} (hr : tablesOk r) {m : SMap 16} :
    tablesOk (m.foldl (fun r c => r.setEntry 0 c.1 (c.2.setWidth 8)) r) :=
  List.foldlRecOn (motive := tablesOk) _ _ hr fun _ hr _ _ => hr.setEntry

theorem canonical.setRoutes (h : canonical s) {m} : canonical (s.setRoutes m) :=
  h.modRte fun hr => hr.setEntries

theorem canonical.configure (h : canonical s) : canonical s.configure :=
  (h.same.foldl fun hs => hs.modPart).setRoutes.writeRegs

theorem canonical.logVoids (h : canonical s) {l} : canonical (s.logVoids l) := by
  induction l generalizing s with
  | nil => exact h
  | cons v l ih => exact ih h.log

theorem canonical.partUp (h : canonical s) {p} : canonical (s.partUp p) := h.modPart.setDomains.setPll

theorem canonical.autoFailed (h : canonical s) {p step status} : canonical (s.autoFailed p step status) :=
  h.same.log

theorem canonical.autoload (h : canonical s) {p} : canonical (s.autoload p) := by
  unfold State.autoload
  split
  · exact h
  · refine h.autoFailed.ite ?_
    dsimp only
    split
    · next u e => exact .ite (h.loadImage e).startPart (h.loadImage e)
    · exact h.autoFailed

theorem canonical.bringUp (h : canonical s) : canonical s.bringUp :=
  (h.same.logVoids.configure.foldl fun hs => hs.partUp).foldl fun hs => hs.autoload

theorem outOk_execPowerLoss : outOk (execPowerLoss s) := canonical_reset.same

theorem canonical.restart (h : canonical s) {ok : Prop} [Decidable ok] {n : Nat} :
    canonical (if ok then s.fatal n 5 else s.disableCores.bringUp) :=
  h.fatal.ite h.disableCores.bringUp

theorem canonical_warmStart : canonical s.warmStart := by
  unfold State.warmStart
  extract_lets t _ _ _ u
  have hu : canonical u := (canonical_blank (s := s)).same
  exact hu.vendorCheck.restart

theorem outOk_execResetNAssert (h : canonical s) : outOk (execResetNAssert s) := by
  unfold execResetNAssert
  extract_lets _ u
  have hu : canonical u := h.same
  refine hu.ite (canonical_blank.ite ?_)
  generalize u.linksFall = v
  exact canonical_warmStart.putLast

theorem outOk_execResetNRelease (h : canonical s) : outOk (execResetNRelease s) := h.same

theorem outOk_execAttnNLow (h : canonical s) : outOk (execAttnNLow s) := h.same.prepare.ite h.same

theorem outOk_execHotplugStopTimeout (h : canonical s) : outOk (execHotplugStopTimeout s) :=
  h.stopAll.leaveAll.ite h

theorem canonical.removalReady (h : canonical s) : canonical s.removalReady := h.same.respondAll

theorem outOk_execHotplugReady (h : canonical s) : outOk (execHotplugReady s) :=
  h.ite (h.leaveAll.ite h.removalReady)

/-! I2C, JTAG and the rest. -/

theorem canonical.busRead (h : canonical s) {a} : canonical (s.busRead a).2 := by
  unfold State.busRead
  split
  · split
    · next w u e => exact h.readReg.of_snd_eq e
    · next u e => exact h.readReg.of_snd_eq e
  · exact h

theorem outOk_execI2cRead (h : canonical s) {a} : outOk (execI2cRead a s) := h.ite h.busRead.same

theorem canonical.jtag (h : canonical s) {b} : canonical (s.jtag b) := h.same

theorem outOk_execBypass (h : canonical s) {tdi} : outOk (execBypass tdi s) := h.ite h.same

theorem outOk_execIdcode (h : canonical s) : outOk (execIdcode s) := h.ite h.jtag

theorem outOk_execSamplePreload (h : canonical s) {data} : outOk (execSamplePreload data s) := h.ite h.same

theorem outOk_execExtest (h : canonical s) : outOk (execExtest s) := h.ite h.jtag

theorem outOk_execChiprd (h : canonical s) {a} : outOk (execChiprd a s) := h.ite h.busRead.jtag

theorem canonical.unlisted (h : canonical s) {port opcode session seq c} :
    canonical (s.unlisted port opcode session seq c) := by
  unfold State.unlisted
  split
  · exact h.modPort
  · exact h.ite (h.setPort.answer.ite h.setPort)

theorem outOk_execOtherFrame (h : canonical s) {port kind opcode session seq} :
    outOk (execOtherFrame port kind opcode session seq s) :=
  h.ite (h.modPort.ite (h.modPort.ite (h.modPort.ite (h.unlisted.ite h.setupReply))))

theorem outOk_execPcsAligned (h : canonical s) {port} : outOk (execPcsAligned port s) := h.modPort.ite h

theorem outOk_execPcsAlignmentLost (h : canonical s) {port} : outOk (execPcsAlignmentLost port s) := h.modPort

theorem outOk_execJournalEraseDone (h : canonical s) : outOk (execJournalEraseDone s) := h.modStore.ite h

theorem outOk_execInputReturnsInRange (h : canonical s) : outOk (execInputReturnsInRange s) := h.powerUp

theorem outOk_execColdStart (h : canonical s) {okRom okPuf fc fg} :
    outOk (execColdStart okRom okPuf fc fg s) := by
  unfold execColdStart
  refine h.ite ?_
  extract_lets b _ u
  have hu : canonical u := (canonical_blank (s := s)).same
  refine hu.fatal.ite (hu.fatal.ite ?_)
  have hv := hu.vendorCheck
  generalize u.vendorCheck = v at hv ⊢
  refine hv.fatal.ite ?_
  have hw := hv.disableCores
  dsimp only
  generalize v.2.disableCores = w at hw ⊢
  exact hw.same.bringUp

end Sys2Proof.Machine.Claims
end

section
/-! PROOF. The plans of the engines keep the canonical form (R229), whatever state they take effect in. -/

namespace Sys2Proof.Machine.Claims

-- The default proofs of the rules are evaluated, and a proof that evaluates waits in a thread for all before it.
set_option Elab.async false

variable {s t : State}

theorem canonical.krefEffect (h : canonical s) {c o} : canonical (s.krefEffect c o) := by
  unfold State.krefEffect
  extract_lets d x r u
  have hu : canonical u := h.kvClamped.ite h
  clear_value u r d
  split
  · next e v w _ =>
    have hv : canonical v := hu.poke
    have hw : canonical w := by
      unfold w
      clear_value e v
      cases e with
      | none => exact hv
      | some a => exact hv.poke
    exact hw.wr
  · exact hu.poke.wr

variable {i : Issue} {td : Todo}

theorem todoOk.unless {r : Option Nat} (h : todoOk td) : todoOk (.unless r td) := by
  cases r
  · exact h
  · trivial

theorem todoOk.ite {c : Prop} [Decidable c] {td' : Todo} (h : todoOk td) (port : todoOk td') :
    todoOk (if c then td else td') := by
  split <;> assumption

theorem todoOk.need {r} (h : todoOk td) : todoOk (.need r td) := h

theorem todoOk_nop : todoOk .nop := fun hu => hu

theorem todoOk_waits : todoOk .waits := fun hu => hu

/-! The array. -/

theorem todoOk_passPlan {o h} : todoOk (s.passPlan i o h) := by
  unfold State.passPlan
  dsimp only
  split
  · trivial
  · split
    · exact fun hu => hu.passAwaits
    · refine todoOk.need (todoOk.need ?_)
      split
      · trivial
      · exact fun hu => hu.passEffect

theorem todoOk_accoutPlan {o} : todoOk (s.accoutPlan i o) := by
  unfold State.accoutPlan
  split
  · trivial
  · split
    · exact fun hu => hu.accoutEffect
    · trivial

theorem todoOk_ewisePlan {o} : todoOk (s.ewisePlan i o) := by
  unfold State.ewisePlan
  split
  · trivial
  · split
    · exact fun hu => hu.ewiseEffect
    · trivial

theorem todoOk_ffencePlan : todoOk (s.ffencePlan i) := fun hu => hu.modArray

/-! Adapters. -/

theorem todoOk.adTodo {c o down} (h : todoOk td) : todoOk (s.adTodo c o down td) := todoOk.unless h.unless

theorem todoOk_adownPlan {o} : todoOk (s.adownPlan i o) := by
  refine .unless (.ite todoOk_nop ?_)
  split
  · exact todoOk.adTodo (td := .run ..) fun hu => hu.wrAll.flag
  · trivial

theorem smWf_adUpRow {c o x} {acc : SMap 32 × FmtFlags} (hacc : smWf acc.1 = true) :
    smWf (s.adUpRow c o acc x).1 = true :=
  List.foldlRecOn (motive := fun acc : SMap 32 × FmtFlags => smWf acc.1 = true) _ _ hacc
    fun _ hacc _ _ => smSet_wf hacc _ _

theorem smWf_adUpRows {c o} {l : List (Nat × Nat)} {acc : SMap 32 × FmtFlags} (hacc : smWf acc.1 = true) :
    smWf (l.foldl (s.adUpRow c o) acc).1 = true :=
  List.foldlRecOn (motive := fun acc : SMap 32 × FmtFlags => smWf acc.1 = true) _ _ hacc
    fun _ hacc _ _ => smWf_adUpRow hacc

theorem todoOk_aupPlan {o} : todoOk (s.aupPlan i o) :=
  .unless <| .ite todoOk_nop <| .adTodo (td := .run ..) fun hu =>
    .flag (hu.modArray fun _ => smWf_adUpRows (hu.core i.core).2.1)

/-! The bank operation queue. -/

theorem todoOk_batomPlan {o} : todoOk (s.batomPlan i o) := by
  refine .unless ?_
  split
  · trivial
  · exact fun hu => hu.batomEffect

theorem todoOk_bcountPlan {o} : todoOk (s.bcountPlan i o) := by
  refine .unless (.ite todoOk_nop ?_)
  split
  · trivial
  · exact fun hu => hu.poke

theorem todoOk_bcmpPlan {o} : todoOk (s.bcmpPlan i o) := by
  refine .unless (.ite todoOk_nop ?_)
  split
  · exact fun hu => hu.poke
  · trivial

/-! Transfers and the Mule. -/

theorem todoOk_tcopyPlan {o} : todoOk (s.tcopyPlan i o) := by
  refine .unless (.ite todoOk_nop ?_)
  split
  · exact todoOk.ite (td' := .run ..) todoOk_waits fun hu => hu.tcopyEffect
  · trivial

theorem todoOk_tsendPlan {o} : todoOk (s.tsendPlan i o) := by
  refine .unless (.ite todoOk_nop ?_)
  split
  · exact todoOk.ite (td' := .run ..) todoOk_waits fun hu => hu.startXfer
  · trivial

theorem todoOk_tgetPlan {o} : todoOk (s.tgetPlan i o) := by
  refine .unless (.ite todoOk_nop ?_)
  split
  · exact todoOk.ite (td' := .run ..) todoOk_waits fun hu => hu.wcFlush.startXfer
  · trivial

theorem todoOk_twinPlan {o} : todoOk (s.twinPlan i o) := by
  unfold State.twinPlan
  split
  · trivial
  · exact fun hu => hu.twinEffect

theorem todoOk_tdrainPlan {o} : todoOk (s.tdrainPlan i o) := by
  refine .unless ?_
  split
  · trivial
  · exact todoOk.ite (td' := .run ..) todoOk_waits fun hu => hu.wcFlush

theorem todoOk_mstreamPlan {o} : todoOk (s.mstreamPlan i o) := by
  unfold State.mstreamPlan
  split
  · trivial
  · exact fun hu => hu.modCore

theorem todoOk_mreducePlan {o} : todoOk (s.mreducePlan i o) :=
  .unless <| .ite todoOk_nop <| .unless <| .ite (td' := .run ..) todoOk_waits fun hu => hu.reduceEffect

theorem todoOk_msendPlan {o} : todoOk (s.msendPlan i o) := by
  refine .unless (.ite todoOk_nop ?_)
  split
  · trivial
  · exact todoOk.unless (td := .run ..) fun hu => hu.muleSend.broken.ite hu.muleSend

/-! Dispatch and inflation. -/

theorem todoOk_dispTodo {o gather} {go : CoreId → CoreId → Todo} (h : ∀ a b, todoOk (go a b)) :
    todoOk (s.dispTodo i o gather go) := by
  refine .unless (.ite todoOk_nop ?_)
  split
  · exact .unless (.unless (h _ _))
  · trivial

theorem todoOk_gatherPlan {o} : todoOk (s.gatherPlan i o) := todoOk_dispTodo fun _ _ _ hu => hu.gatherRows

theorem todoOk_scatterPlan {o} : todoOk (s.scatterPlan i o) := todoOk_dispTodo fun _ _ _ hu => hu.scatterRows

theorem todoOk_dslotTodo {o} : todoOk (s.dslotTodo i o) :=
  .unless <| .ite todoOk_nop <| .unless (td := .run ..) fun hu => hu.wrAll.modCore

theorem todoOk_tilePlan {o} : todoOk (s.tilePlan i o) := by
  refine .unless (.ite todoOk_waits ?_)
  split
  · exact todoOk.unless (td := .run ..) fun hu => hu.tileEffect
  · trivial

/-! The key-value block engine. -/

theorem todoOk_kappendPlan {o} : todoOk (s.kappendPlan i o) := by
  refine .unless (.ite todoOk_nop ?_)
  split
  · trivial
  · exact todoOk.ite (td := .run ..) (fun hu => hu) (.unless <| .unless (td := .run ..) fun hu => hu.wrAll)

theorem todoOk_kcommitPlan {o} : todoOk (s.kcommitPlan i o) :=
  .unless <| .ite todoOk_nop <| .ite (td := .run ..) (fun hu => hu) <|
    .unless (td := .run ..) fun hu => hu.wrAll.kvClamped.ite hu.wrAll

theorem todoOk_kdiscardPlan {o} : todoOk (s.kdiscardPlan i o) :=
  .unless <| .unless (td := .run ..) fun hu => hu.wrAll

theorem todoOk_khashPlan {o} : todoOk (s.khashPlan i o) :=
  .unless <| .ite (td := .run ..) (fun hu => hu) <| .unless <| .unless (td := .run ..) fun hu => hu.khashEffect

theorem todoOk_kfindPlan {o} : todoOk (s.kfindPlan i o) := by
  refine .unless ?_
  split
  · trivial
  · exact .unless (.unless (td := .run ..) fun hu => hu.kfindEffect)

theorem todoOk_krefPlan {o} : todoOk (s.krefPlan i o) :=
  .unless (td := .need _ (.run ..)) fun hu => hu.krefEffect

/-! The vector unit. -/

theorem todoOk_nsmaxPlan {o} : todoOk (s.nsmaxPlan i o) := by
  unfold State.nsmaxPlan
  split
  · trivial
  · split
    · dsimp only
      split
      · trivial
      · exact fun hu => hu.wrAll.flag
      · trivial
    · trivial

theorem todoOk_nnormPlan {o} : todoOk (s.nnormPlan i o) := by
  unfold State.nnormPlan
  split
  · trivial
  · split
    · dsimp only
      split
      · trivial
      · exact fun hu => hu.wrAll.flag
      · trivial
    · trivial

theorem todoOk_vopTodo {o rej eff} : todoOk (vopTodo o i rej eff) := by
  unfold vopTodo
  split
  · trivial
  · exact fun hu => hu.modVec.flag

theorem todoOk_vldPlan {o} : todoOk (s.vldPlan i o) := by
  unfold State.vldPlan
  split
  · trivial
  · split
    · split
      · trivial
      · split
        · trivial
        · exact fun hu => hu.vldEffect
    · trivial

theorem todoOk_vstPlan {o} : todoOk (s.vstPlan i o) := by
  unfold State.vstPlan
  split
  · trivial
  · split
    · dsimp only
      split
      · trivial
      · split
        · trivial
        · exact fun hu => hu.wrAll.flag
    · trivial

theorem todoOk_vxldPlan {o} : todoOk (s.vxldPlan i o) := by
  unfold State.vxldPlan
  split
  · trivial
  · split
    · trivial
    · dsimp only
      split
      · trivial
      · split
        · trivial
        · exact fun hu => hu.vxldEffect

theorem todoOk_vcstPlan {o} : todoOk (s.vcstPlan i o) := by
  unfold State.vcstPlan
  split
  · trivial
  · split
    · trivial
    · dsimp only
      split
      · trivial
      · split
        · trivial
        · exact fun hu => hu.wrAll.modVec

theorem todoOk_mldPlan {o} : todoOk (s.mldPlan i o) := by
  unfold State.mldPlan
  split
  · trivial
  · trivial
  · exact fun hu => hu.modVec

theorem todoOk_mstPlan {o} : todoOk (s.mstPlan i o) := by
  unfold State.mstPlan
  split
  · trivial
  · trivial
  · exact fun hu => hu.poke

variable {c : Instr} {q : QueueId} {op : BitVec 8} {plan : State → Todo}

/-- Every engine's plan keeps a canonical state canonical, whatever state it takes effect in. -/
theorem todoOk_of_planOf (h : planOf c = some (q, op, i, plan)) : todoOk (plan s) := by
  cases c <;> cases h
  case pass => exact todoOk_passPlan
  case accout => exact todoOk_accoutPlan
  case ewise => exact todoOk_ewisePlan
  case ffence => exact todoOk_ffencePlan (s := s)
  case vld => exact todoOk_vldPlan
  case vst => exact todoOk_vstPlan
  case vxld => exact todoOk_vxldPlan
  case vcst => exact todoOk_vcstPlan
  case mld => exact todoOk_mldPlan
  case mst => exact todoOk_mstPlan
  case nsmax => exact todoOk_nsmaxPlan
  case nnorm => exact todoOk_nnormPlan
  case dgather => exact todoOk_gatherPlan
  case dscatter => exact todoOk_scatterPlan
  case dslot => exact todoOk_dslotTodo
  case tile => exact todoOk_tilePlan
  case adown => exact todoOk_adownPlan
  case aup => exact todoOk_aupPlan
  case kappend => exact todoOk_kappendPlan
  case kcommit => exact todoOk_kcommitPlan
  case kdiscard => exact todoOk_kdiscardPlan
  case khash => exact todoOk_khashPlan
  case kfind => exact todoOk_kfindPlan
  case kref => exact todoOk_krefPlan
  case tcopy => exact todoOk_tcopyPlan
  case tsend => exact todoOk_tsendPlan
  case tget => exact todoOk_tgetPlan
  case twin => exact todoOk_twinPlan
  case tdrain => exact todoOk_tdrainPlan
  case mstream => exact todoOk_mstreamPlan (s := s)
  case mreduce => exact todoOk_mreducePlan
  case msend => exact todoOk_msendPlan
  case batom => exact todoOk_batomPlan
  case bcount => exact todoOk_bcountPlan
  case bcmp => exact todoOk_bcmpPlan
  all_goals exact todoOk_vopTodo

theorem outOk_of_planOf (h : canonical s) (hplan : planOf c = some (q, op, i, plan)) : outOk (exec c s) := by
  rw [exec_of_planOf hplan]
  exact h.present (todoOk_of_planOf hplan)

end Sys2Proof.Machine.Claims
end

section
/-! PROOF. Every step keeps the canonical form (R229). -/

namespace Sys2Proof.Machine.Claims

-- The default proofs of the rules are evaluated, and a proof that evaluates waits in a thread for all before it.
set_option Elab.async false

variable {s t : State}

/-- Whatever a command does to a canonical state leaves it canonical. -/
theorem outOk_exec (h : canonical s) (i : Instr) : outOk (exec i s) := by
  cases i
  case instrComplete => exact outOk_execInstrComplete h
  case arrayRampDown => exact outOk_execArrayRampDown h
  case scrubRead => exact outOk_execScrubRead h
  case correctedWriteback => exact outOk_execCorrectedWriteback h
  case bgReqOn => exact outOk_execBgReqOn h
  case bgReqRetention => exact outOk_execBgReqRetention h
  case bgReqOff => exact outOk_execBgReqOff h
  case bgEnterState => exact outOk_execBgEnterState h
  case bgWakeDone => exact outOk_execBgWakeDone h
  case rxWrite => exact outOk_execRxWrite h
  case rxWriteAck => exact outOk_execRxWriteAck h
  case rxReadReq => exact outOk_execRxReadReq h
  case rxReadResp => exact outOk_execRxReadResp h
  case rxMuleRows => exact outOk_execRxMuleRows h
  case sheepdogWrite => exact outOk_execSheepdogWrite h
  case rxDrain => exact outOk_execRxDrain h
  case rxNotice => exact outOk_execRxNotice h
  case remoteTimeout => exact outOk_execRemoteTimeout h
  case windowHoldTimeout => exact outOk_execWindowHoldTimeout h
  case mreduceTimeout => exact outOk_execMreduceTimeout h
  case barrierTimeout => exact outOk_execBarrierTimeout h
  case watchdogExpiry => exact outOk_execWatchdogExpiry h
  case stepEnd => exact outOk_execStepEnd h
  case waitingToRunning => exact outOk_execWaitingToRunning h
  case partitionIdleSleep => exact outOk_execPartitionIdleSleep h
  case partitionWakeDone => exact outOk_execPartitionWakeDone h
  case dvfsPointWrite => exact outOk_execDvfsPointWrite h
  case railRampDone => exact outOk_execRailRampDone h
  case thermalLevelChange => exact outOk_execThermalLevelChange h
  case throttleCapStep => exact outOk_execThrottleCapStep h
  case emergencyExit => exact outOk_execEmergencyExit h
  case txFlitSlot => exact outOk_execTxFlitSlot h
  case stagingBufferEnter => exact outOk_execStagingBufferEnter h
  case rxDataFlit => exact outOk_execRxDataFlit h
  case rxIdleFlit => exact outOk_execRxIdleFlit h
  case rxNak => exact outOk_execRxNak h
  case rxGoback => exact outOk_execRxGoback h
  case rxParam => exact outOk_execRxParam h
  case rxResetFlit => exact outOk_execRxResetFlit h
  case rxLeave => exact outOk_execRxLeave h
  case rxDown => exact outOk_execRxDown h
  case rxHold => exact outOk_execRxHold h
  case replayTimeout => exact outOk_execReplayTimeout h
  case nakRepeatTimer => exact outOk_execNakRepeatTimer h
  case lockLost => exact outOk_execLockLost h
  case lockRegained => exact outOk_execLockRegained h
  case lockDownTimeout => exact outOk_execLockDownTimeout h
  case linkDetectPeer => exact outOk_execLinkDetectPeer h
  case linkTrainDone => exact outOk_execLinkTrainDone h
  case linkAlignDone => exact outOk_execLinkAlignDone h
  case linkStateTimeout => exact outOk_execLinkStateTimeout h
  case downRetrainTimer => exact outOk_execDownRetrainTimer h
  case planMissingTimeout => exact outOk_execPlanMissingTimeout h
  case gracefulDrainDone => exact outOk_execGracefulDrainDone h
  case groupPllLocked => exact outOk_execGroupPllLocked h
  case linkEnable => exact outOk_execLinkEnable h
  case linkDisable => exact outOk_execLinkDisable h
  case rtePlanWrite => exact outOk_execRtePlanWrite h
  case rteTableWrite => exact outOk_execRteTableWrite h
  case hostModeWrite => exact outOk_execHostModeWrite h
  case hostPtpEnWrite => exact outOk_execHostPtpEnWrite h
  case hostEnableWrite => exact outOk_execHostEnableWrite h
  case identify => exact outOk_execIdentify h
  case attest => exact outOk_execAttest h
  case sessionOpen => exact outOk_execSessionOpen h
  case regRead => exact outOk_execRegRead h
  case regWrite => exact outOk_execRegWrite h
  case cfgStage => exact outOk_execCfgStage h
  case cfgCommit => exact outOk_execCfgCommit h
  case partStop => exact outOk_execPartStop h
  case partStart => exact outOk_execPartStart h
  case progLoad => exact outOk_execProgLoad h
  case progPatch => exact outOk_execProgPatch h
  case submit => exact outOk_execSubmit h
  case cancel => exact outOk_execCancel h
  case query => exact outOk_execQuery h
  case results => exact outOk_execResults h
  case budgetSet => exact outOk_execBudgetSet h
  case adapterLoad => exact outOk_execAdapterLoad h
  case routeStage => exact outOk_execRouteStage h
  case routeSwitch => exact outOk_execRouteSwitch h
  case linkReset => exact outOk_execLinkReset h
  case linkLeave => exact outOk_execLinkLeave h
  case hotplugPrepare => exact outOk_execHotplugPrepare h
  case lockstepPair => exact outOk_execLockstepPair h
  case recordStart => exact outOk_execRecordStart h
  case recordStop => exact outOk_execRecordStop h
  case sctAckFrame => exact outOk_execSctAckFrame h
  case arpRequest => exact outOk_execArpRequest h
  case neighbourSolicit => exact outOk_execNeighbourSolicit h
  case ptpSync => exact outOk_execPtpSync h
  case ptpFollowUp => exact outOk_execPtpFollowUp h
  case ptpDelayResp => exact outOk_execPtpDelayResp h
  case ptpSyncTimeout => exact outOk_execPtpSyncTimeout h
  case sessionIdleTimeout => exact outOk_execSessionIdleTimeout h
  case loadObjectTimeout => exact outOk_execLoadObjectTimeout h
  case promptPartTimeout => exact outOk_execPromptPartTimeout h
  case doneHoldExpiry => exact outOk_execDoneHoldExpiry h
  case dropLateDeadline => exact outOk_execDropLateDeadline h
  case budgetRefill => exact outOk_execBudgetRefill h
  case hostC0TokenRefill => exact outOk_execHostC0TokenRefill h
  case helloResend => exact outOk_execHelloResend h
  case helloTimeout => exact outOk_execHelloTimeout h
  case rxLsRecords => exact outOk_execRxLsRecords h
  case rxLsHello => exact outOk_execRxLsHello h
  case rxLsHalt => exact outOk_execRxLsHalt h
  case rxLsBatch => exact outOk_execRxLsBatch h
  case lsRecordFlush => exact outOk_execLsRecordFlush h
  case lsTimeout => exact outOk_execLsTimeout h
  case journalCompaction => exact outOk_execJournalCompaction h
  case eventLogEntry => exact outOk_execEventLogEntry h
  case powerApplied => exact outOk_execPowerApplied h
  case coldStart => exact outOk_execColdStart h
  case powerLoss => exact outOk_execPowerLoss
  case resetNAssert => exact outOk_execResetNAssert h
  case resetNRelease => exact outOk_execResetNRelease h
  case attnNLow => exact outOk_execAttnNLow h
  case hotplugStopTimeout => exact outOk_execHotplugStopTimeout h
  case hotplugReady => exact outOk_execHotplugReady h
  case i2cRead => exact outOk_execI2cRead h
  case bypass => exact outOk_execBypass h
  case idcode => exact outOk_execIdcode h
  case samplePreload => exact outOk_execSamplePreload h
  case extest => exact outOk_execExtest h
  case chiprd => exact outOk_execChiprd h
  case otherFrame => exact outOk_execOtherFrame h
  case pcsAligned => exact outOk_execPcsAligned h
  case pcsAlignmentLost => exact outOk_execPcsAlignmentLost h
  case journalEraseDone => exact outOk_execJournalEraseDone h
  case inputReturnsInRange => exact outOk_execInputReturnsInRange h
  all_goals exact outOk_of_planOf h rfl

theorem canonical.presentWord (h : canonical s) {c q w} : canonical (s.presentWord c q w) := by
  have hdraw : canonical { s with draws := s.draws + 1 } := h.same
  unfold State.presentWord
  dsimp only
  split
  · next x _ =>
    split
    · next u e => exact (outOk_exec hdraw x).of_next e
    · exact h
  · exact hdraw.present trivial

theorem canonical.stepQueue (h : canonical s) {c q} : canonical (s.stepQueue c q) := by
  unfold State.stepQueue
  dsimp only
  split
  · exact h.modQueue
  · exact h
  · exact h.presentWord.ite h

theorem canonical.stepQueues (h : canonical s) {p} : canonical (s.stepQueues p) :=
  (h.foldl fun hs => hs.foldl fun hs => hs.stepQueue).ite h

theorem canonical.idle (h : canonical s) : canonical s.idle :=
  h.resume.ite (h.resume.ite (h.foldl fun hs => hs.stepQueues).serveCores.spineStep.tick)

end Sys2Proof.Machine.Claims

namespace Sys2Proof.Machine

open Claims

/-- Settles O4: a step takes the next pending command, or resumes a port or runs on where there is none, and every
function that it then applies keeps the stores canonical. -/
theorem memoriesStayCanonical : Obligations.MemoriesStayCanonical := by
  intro s t h e
  unfold step at e
  split at e
  · cases e
    exact h.idle
  · next c rest _ => exact (outOk_exec h.same c).of_next e

end Sys2Proof.Machine
end
